-- ==== Sys2Proof/Word.lean ====
section
/-!
DEFINITION. The word types and their plainest arithmetic (00 R2, R3): 8-bit bytes, 32-bit slot words, 64-bit
scalars, and the wide register values; sign and zero extension of R5; little-endian bytes (R3).
-/

namespace Sys2Proof

/-- A byte of memory. -/
abbrev Byte := BitVec 8
/-- One 32-bit slot or header word (R41). -/
abbrev Word32 := BitVec 32
/-- A scalar token or g register (R50, R152). -/
abbrev Word := BitVec 64
/-- A lane mask, the width of an m register (R50). -/
abbrev MaskVal := BitVec 128
/-- A tensor handle, the width of an h register (R120). -/
abbrev HandleVal := BitVec 512
/-- A vector register value (R229). -/
abbrev VecVal := BitVec 1024

/-- A sparse map from natural keys, kept in strictly rising key order. -/
abbrev KMap (α : Type) := List (Nat × α)

end Sys2Proof
end

