-- ==== Sys2Proof/Config.lean ====
section
/-!
DEFINITION. What one machine fixes: the device's counts and address constants (01 R7, 06 R112, 18 R373), and the
FREE VALUES, opaque constants for what the spec leaves open. Nothing can be proved about a free value.
-/

namespace Sys2Proof.Config

/-- Dies of the package (R7). -/
def dies : Nat := 16
/-- Bricks of a die (R7). -/
def bricksPerDie : Nat := 80
/-- Bricks of the package (R7). -/
def bricks : Nat := 1280
/-- Contexts of a brick (R7). -/
def ctxsPerBrick : Nat := 4
/-- Contexts of the package (R7). -/
def ctxs : Nat := 5120
/-- Courses of the package (R7). -/
def courses : Nat := 160
/-- Piers of the package (R7). -/
def piers : Nat := 8
/-- Partitions (R415). -/
def parts : Nat := 8
/-- Most blocks in flight on one brick (R29's section, Blocks in flight). -/
def blocksPerBrick : Nat := 8

/-- Bytes of DRAM of one pier, 96 GiB (R11, R373). -/
def pierBytes : Nat := 96 * 2 ^ 30
/-- The span of device addresses of one pier (R373). -/
def pierSpan : Nat := 2 ^ 37
/-- Bytes of the residency array at the top of each pier, 24 MiB (R373). -/
def residencyBytes : Nat := 24 * 2 ^ 20

/-- First flat address of the local scratchpad window (R112). -/
def localWin : Nat := 0x01FFFFFFFC000000
/-- First flat address of the unmapped range (R112). -/
def unmappedWin : Nat := 0x01FFFFFFFC400000
/-- First flat address of the course scratchpad window (R112). -/
def courseWin : Nat := 0x01FFFFFFFE000000
/-- Bytes of one brick's SRAM pool, the stride of the course window (R112). -/
def poolBytes : Nat := 4 * 2 ^ 20

/-- A free choice of one bit, the argument a counter of State (log entry 7). -/
opaque freeBool : Nat → Bool
/-- A free choice of a natural number, the argument a counter of State (log entry 7). -/
opaque freeNat : Nat → Nat
/-- A free 64-bit value, the argument a counter of State (log entry 7). -/
opaque freeWord : Nat → BitVec 64

/-- Whether a unit that holds a translation the tables no longer give uses it (R377): device time, the state's counter of
free values, the unit, the page (log entry 15). -/
opaque useOld : Nat → Nat → Nat → Nat → Bool

/-- The pick of an approximate function (R103, R343): function code, operand bits; used only when it lies inside
the function's bound (log entry 8). One value per operand, so the same on every brick and every run. -/
opaque approxPick : Nat → BitVec 64 → BitVec 64

/-- Whether a firmware image verifies under the fused key (R430; log entry 20). -/
opaque signatureOk : List (BitVec 8) → Bool
/-- The bytes of an attestation report's signature, by place (R431; log entry 20). -/
opaque signByte : List (BitVec 8) → Nat → BitVec 8
/-- The security version number an image's header carries (R430; the header's layout is not given). -/
opaque imageVersion : List (BitVec 8) → Nat
/-- The status code MBSTAT [15:8] holds (R433 gives no values): 0 done, 1 BUSY (R425), 2 live graphs, 3 not halted, 4 the
image does not verify, 5 no such command. -/
opaque mbStatus : Nat → BitVec 8
/-- The SHA-256 of the boot ROM (R431). -/
opaque romHash : BitVec 256
/-- The SHA-256 of the fused security policy (R431). -/
opaque policyHash : BitVec 256

end Sys2Proof.Config
end

