-- ==== Sys2Proof/Machine/Bits.lean ====
section
/-!
DEFINITION. Bit-field, extension and byte-order helpers (00 R2, R3, R5), and the sparse maps of State.
-/

namespace Sys2Proof.Machine

/-- Sext(x, n) of R5. -/
def sext {n : Nat} (x : BitVec n) : Word := x.signExtend 64
/-- Zext(x, n) of R5. -/
def zext {n : Nat} (x : BitVec n) : Word := x.setWidth 64

/-- Bits [lo + n - 1 : lo] of a natural number. -/
def nbits (x lo n : Nat) : Nat := x / 2 ^ lo % 2 ^ n

/-- Bits [lo + n - 1 : lo] of a scalar, as a number. -/
def wbits (x : Word) (lo n : Nat) : Nat := nbits x.toNat lo n

/-- A little-endian byte string as a number (R3). -/
def leNat : List Byte → Nat
  | [] => 0
  | b :: bs => b.toNat + 256 * leNat bs

/-- The low n bytes of a number, lowest first (R3). -/
def leBytes : Nat → Nat → List Byte
  | 0, _ => []
  | n + 1, x => BitVec.ofNat 8 x :: leBytes n (x / 256)

/-- A byte string as a 64-bit scalar. -/
def leWord (bs : List Byte) : Word := BitVec.ofNat 64 (leNat bs)

/-- n bytes of a byte string from an offset, as a number; bytes past the end are 0. -/
def field (bs : List Byte) (off n : Nat) : Nat := leNat ((bs.drop off).take n)

/-- The entry of a sparse map. -/
def kget? {α : Type} (k : Nat) : KMap α → Option α
  | [] => none
  | (j, a) :: r => if j = k then some a else kget? k r

/-- The entry of a sparse map, or a default. -/
def kget {α : Type} (k : Nat) (d : α) (m : KMap α) : α := (kget? k m).getD d

/-- Set an entry, keeping the keys rising. -/
def kset {α : Type} (k : Nat) (a : α) : KMap α → KMap α
  | [] => [(k, a)]
  | (j, b) :: r => if j < k then (j, b) :: kset k a r else if j = k then (k, a) :: r else (k, a) :: (j, b) :: r

/-- Remove every entry of a key. -/
def kdel {α : Type} (k : Nat) : KMap α → KMap α
  | [] => []
  | (j, b) :: r => if j = k then kdel k r else (j, b) :: kdel k r

/-- Set or remove. -/
def kput {α : Type} (k : Nat) (a : Option α) (m : KMap α) : KMap α :=
  match a with
  | some x => kset k x m
  | none => kdel k m

/-- Set the i-th element of a list. -/
def lset {α : Type} (l : List α) (i : Nat) (a : α) : List α := l.set i a

/-- The i-th element, or a default. -/
def lget {α : Type} (l : List α) (i : Nat) (d : α) : α := l.getD i d

/-- Ceiling division. -/
def cdiv (a b : Nat) : Nat := (a + b - 1) / b

/-- The least multiple of b at or above a. -/
def alignUp (a b : Nat) : Nat := cdiv a b * b

/-- Two byte ranges overlap. -/
def overlaps (a n b m : Nat) : Bool := a < b + m && b < a + n

/-- Lowest set bit test on a wide value as a number. -/
def tbit (x i : Nat) : Bool := x.testBit i

/-- Lane i of a value cut into e-byte lanes (R229). -/
def laneOf {n : Nat} (x : BitVec n) (e i : Nat) : Nat := x.toNat / 2 ^ (8 * e * i) % 2 ^ (8 * e)

/-- A vector value from its lanes, lane 0 lowest (R229). -/
def ofLanes (e : Nat) (ls : List Nat) : VecVal :=
  BitVec.ofNat 1024 (ls.foldr (fun x acc => x % 2 ^ (8 * e) + 2 ^ (8 * e) * acc) 0)

/-- The signed reading of an n-bit pattern. -/
def asInt (n x : Nat) : Int := if x % 2 ^ n < 2 ^ (n - 1) then (x % 2 ^ n : Nat) else (x % 2 ^ n : Nat) - (2 ^ n : Nat)

/-- The n-bit two's-complement pattern of an integer. -/
def ofInt (n : Nat) (x : Int) : Nat := (x % (2 ^ n : Nat)).toNat

/-- The number of bits needed to hold a natural number; 0 for 0 (R127). -/
def bitlen (x : Nat) : Nat := if x = 0 then 0 else Nat.log2 x + 1

/-- The set bits of a mask below n, ascending. -/
def bitsOf (n mask : Nat) : List Nat := (List.range n).filter fun i => mask.testBit i

/-- The first element that meets a test, with its index. -/
def findIdx1 {α : Type} (p : α → Bool) (l : List α) : Option (Nat × α) :=
  (List.zip (List.range l.length) l).find? fun x => p x.2

end Sys2Proof.Machine
end

