-- ==== Sys2Proof/Syntax.lean ====
section
/-!
DEFINITION. The instruction set as data: the field types of 04 R70 and 07 R140 to R150, and ONE inductive Instr with a
constructor per row of spec/opcode_table.json. The rows with an encoding stand first; the rows after them are the
machine's own steps and the outside world's actions, which have no encoding and reach the machine as moves.
-/

namespace Sys2Proof

/-- A target field (R48): kind in [8:7], slot in [6:0]; 0 is no target. -/
abbrev Target := BitVec 9

/-- Predicate mode (R49): code 01 is reserved. -/
inductive Pr | always | onFalse | onTrue
  deriving DecidableEq, Repr
/-- Scopes (R70, R283), narrowest first. -/
inductive Scope | brick | course | die | pier | dev | sys
  deriving DecidableEq, Repr
/-- Vector element types (R70). -/
inductive ElemTy | f32 | f64 | bf16 | s32 | n32 | s64 | s16 | s8
  deriving DecidableEq, Repr
/-- Register kinds of XREAD and XWRITE (R46). -/
inductive XKind | v | h | m
  deriving DecidableEq, Repr
/-- Integer compare conditions (R70). -/
inductive Cond | eq | ne | lt | le | ltn | len | gt | ge | gtn | gen
  deriving DecidableEq, Repr
/-- Scalar floating compare conditions (R163). -/
inductive FCond | eq | lt | le | un | ne
  deriving DecidableEq, Repr
/-- Rounding codes (R98); dyn takes FPMODE. -/
inductive Rm | rne | rtz | rdn | rup | rmm | dyn
  deriving DecidableEq, Repr
/-- BITS kinds (R141). -/
inductive BitsKind | clz | ctz | popc | brev | bswap
  deriving DecidableEq, Repr
/-- EXT source widths (R141). -/
inductive ExtW | b8 | b16 | b32
  deriving DecidableEq, Repr
/-- FSGN kinds (R168). -/
inductive SgnKind | copysign | negsign | xorsign | abs | neg
  deriving DecidableEq, Repr
/-- AMO operations (R194). -/
inductive AmoOp | add | and | or | xor | smin | smax | nmin | nmax | swap
  deriving DecidableEq, Repr
/-- FAMO operations (R198). -/
inductive FamoOp | fadd32 | fmin32 | fmax32 | fadd64 | fmin64 | fmax64 | faddbf
  deriving DecidableEq, Repr
/-- Atomic orders (R197). -/
inductive Order | rlx | acq | rel | ar
  deriving DecidableEq, Repr
/-- Fence kinds (R200). -/
inductive FenceKind | rel | acq | ar
  deriving DecidableEq, Repr
/-- MWAIT conditions (R208). -/
inductive MCond | ne | ge
  deriving DecidableEq, Repr
/-- TSELF selections (R215). -/
inductive SelfSel | frame | cls | graph
  deriving DecidableEq, Repr
/-- VCMP conditions (R238). -/
inductive VCond | eq | ne | lt | le | gt | ge | un
  deriving DecidableEq, Repr
/-- VRED and VSCAN operations (R241). -/
inductive RedOp | add | min | max
  deriving DecidableEq, Repr
/-- MSET kinds (R248). -/
inductive MsetKind | and | or | not | popc
  deriving DecidableEq, Repr
/-- Accumulator modes (R91, R147). -/
inductive AccMode | fp32 | int32 | int64
  deriving DecidableEq, Repr
/-- HSET fields (R255). -/
inductive HField | row0 | col0 | rows | cols | window | trim | shape
  deriving DecidableEq, Repr
/-- HGET fields (R256). -/
inductive HGetF | row0 | col0 | shape | window | status | d0 | d1 | d2 | d3
  deriving DecidableEq, Repr
/-- PXPOSE element sizes (R252). -/
inductive PxSize | e1 | e2 | e4
  deriving DecidableEq, Repr
/-- TTINV kinds (R175). -/
inductive InvKind | page | table | all
  deriving DecidableEq, Repr
/-- HINT kinds (R175). -/
inductive HintKind | none | code | heavy | light
  deriving DecidableEq, Repr

/-- A request of a host requester on a function (R415 to R418, R424, R433): function 1 + q for partition q, function 0 for 8. -/
inductive HostReq
  /-- BAR2 write of bytes at a device address (R418). -/
  | memWrite (q addr : Nat) (data : List Byte)
  /-- BAR2 read (R418). -/
  | memRead (q addr len : Nat)
  /-- BAR0 read of a 64-bit register of the partition window (R416). -/
  | regRead (q off : Nat)
  /-- BAR0 write of a 64-bit register of the partition window, or of the mailbox (R416, R433). -/
  | regWrite (q off : Nat) (val : Word)
  /-- BAR0 write of bytes to the launch window (R417). -/
  | launchWrite (q off : Nat) (data : List Byte)
  /-- Configuration read of a register of 32 bits (R415, R425). -/
  | cfgRead (q off : Nat)
  /-- Configuration write. -/
  | cfgWrite (q off : Nat) (val : Word32)
  /-- An SPDM secured session of function 0 supplies the job key that NETCFG installs (R433). -/
  | jobKey (key : BitVec 256)
  /-- A request on a function's IDE stream, with whether it passes integrity checking (R424). -/
  | stream (intact : Bool) (r : HostReq)
  /-- The host writes its own memory, or a host program's device access completes there (R300). -/
  | hostWrite (addr : Nat) (data : List Byte)
  deriving DecidableEq, Repr

/-- One operation that arrives from a remote device (R429). -/
structure NetOp where
  /-- source device id -/
  src : Nat
  /-- job tag -/
  job : Nat
  /-- 0 put, 1 get, 2 atomic -/
  kind : Nat
  /-- remote flat address, here at the target -/
  addr : Nat
  /-- payload of a put -/
  data : List Byte
  /-- length of the whole range of a put or get -/
  len : Nat
  /-- arrival-counter address, 0 for none -/
  counter : Nat
  /-- NAMO op byte and size byte (R280) -/
  amoOp : Nat
  amoSize : Nat
  operand : Word
  /-- for an ordered operation, the CTXID of the context whose order it keeps (R281, R426) -/
  stream : Option Nat
  /-- the job key under which its packets are sealed: none for no key (R426) -/
  key : Option (BitVec 256)
  deriving DecidableEq, Repr

/-- What the sensors and the management controller give an interval boundary (R401, R411, R412, R414). -/
structure Sensors where
  /-- hottest sensor of each course, by course number, in 1/16 degree; courses not listed keep THERM -/
  therm : KMap (BitVec 16)
  /-- mean current of each course in the last interval in units of 0.25 A; not listed is 0 -/
  current : KMap Nat
  /-- package core current in amperes, and mean package power in watts -/
  packAmps : Nat
  packWatts : Nat
  /-- mean power of each pier in watts, for PARTPWR -/
  pierWatts : KMap Nat
  /-- the SRAM rail in mV -/
  sramMV : Nat
  deriving DecidableEq, Repr

/-- The rows of spec/opcode_table.json. -/
inductive Instr
  -- plumbing and constants (R153 to R157)
  | gread (r : BitVec 6) (t1 t0 : Target)
  | xread (k : XKind) (r : BitVec 5) (t1 t0 : Target)
  | gwrite (pr : Pr) (r : BitVec 6)
  | xwrite (pr : Pr) (k : XKind) (r : BitVec 5)
  | mov (pr : Pr) (t1 t0 : Target)
  | movl (pr : Pr) (t3 t2 t1 t0 : Target)
  | null (pr : Pr) (t1 t0 : Target)
  | genc (c : BitVec 16) (t0 : Target)
  | gencn (c : BitVec 16) (t0 : Target)
  | appc (c : BitVec 16) (t0 : Target)
  | gencl (pr : Pr) (c : Word32) (t1 t0 : Target)
  -- integers (R158 to R161); w is the W form, n the unsigned form
  | add (pr : Pr) (w : Bool) (t1 t0 : Target)
  | sub (pr : Pr) (w : Bool) (t1 t0 : Target)
  | mul (pr : Pr) (w : Bool) (t1 t0 : Target)
  | mulh (pr : Pr) (n w : Bool) (t1 t0 : Target)
  | div (pr : Pr) (n w : Bool) (t1 t0 : Target)
  | rem (pr : Pr) (n w : Bool) (t1 t0 : Target)
  | and (pr : Pr) (w : Bool) (t1 t0 : Target)
  | or (pr : Pr) (w : Bool) (t1 t0 : Target)
  | xor (pr : Pr) (w : Bool) (t1 t0 : Target)
  | andn (pr : Pr) (w : Bool) (t1 t0 : Target)
  | shl (pr : Pr) (w : Bool) (t1 t0 : Target)
  | shr (pr : Pr) (w : Bool) (t1 t0 : Target)
  | sar (pr : Pr) (w : Bool) (t1 t0 : Target)
  | rot (pr : Pr) (w : Bool) (t1 t0 : Target)
  | min (pr : Pr) (n w : Bool) (t1 t0 : Target)
  | max (pr : Pr) (n w : Bool) (t1 t0 : Target)
  | bits (pr : Pr) (k : BitsKind) (w : Bool) (t1 t0 : Target)
  | ext (pr : Pr) (sw : ExtW) (n w : Bool) (t1 t0 : Target)
  | sel (pr : Pr) (w : Bool) (t1 t0 : Target)
  | madd (pr : Pr) (w : Bool) (t1 t0 : Target)
  | addi (pr : Pr) (w : Bool) (imm : BitVec 9) (t0 : Target)
  | muli (pr : Pr) (w : Bool) (imm : BitVec 9) (t0 : Target)
  | andi (pr : Pr) (w : Bool) (imm : BitVec 9) (t0 : Target)
  | ori (pr : Pr) (w : Bool) (imm : BitVec 9) (t0 : Target)
  | xori (pr : Pr) (w : Bool) (imm : BitVec 9) (t0 : Target)
  | shli (pr : Pr) (w : Bool) (imm : BitVec 9) (t0 : Target)
  | shri (pr : Pr) (w : Bool) (imm : BitVec 9) (t0 : Target)
  | sari (pr : Pr) (w : Bool) (imm : BitVec 9) (t0 : Target)
  | mini (pr : Pr) (n w : Bool) (imm : BitVec 9) (t0 : Target)
  | maxi (pr : Pr) (n w : Bool) (imm : BitVec 9) (t0 : Target)
  -- compares (R162 to R164)
  | tcmp (pr : Pr) (c : Cond) (w : Bool) (t1 t0 : Target)
  | tcmpi (pr : Pr) (c : Cond) (w : Bool) (imm : BitVec 9) (t0 : Target)
  | fcmp (pr : Pr) (c : FCond) (d : Bool) (t1 t0 : Target)
  | tbit (pr : Pr) (clr : Bool) (t1 t0 : Target)
  -- scalar floating point (R165 to R168); d selects FP64
  | fadd (pr : Pr) (d : Bool) (rm : Rm) (t1 t0 : Target)
  | fsub (pr : Pr) (d : Bool) (rm : Rm) (t1 t0 : Target)
  | fmul (pr : Pr) (d : Bool) (rm : Rm) (t1 t0 : Target)
  | fdiv (pr : Pr) (d : Bool) (rm : Rm) (t1 t0 : Target)
  | fsqrt (pr : Pr) (d : Bool) (rm : Rm) (t1 t0 : Target)
  | fma (pr : Pr) (d : Bool) (rm : Rm) (t1 t0 : Target)
  | fmin (pr : Pr) (d : Bool) (t1 t0 : Target)
  | fmax (pr : Pr) (d : Bool) (t1 t0 : Target)
  | fcvt (pr : Pr) (code : BitVec 5) (t1 t0 : Target)
  | fclass (pr : Pr) (d : Bool) (t1 t0 : Target)
  | fsgn (pr : Pr) (d : Bool) (k : SgnKind) (t1 t0 : Target)
  -- loads and stores (R190 to R193)
  | ldb (pr : Pr) (ls : BitVec 5) (imm : BitVec 9) (t0 : Target)
  | ldbn (pr : Pr) (ls : BitVec 5) (imm : BitVec 9) (t0 : Target)
  | ldh (pr : Pr) (ls : BitVec 5) (imm : BitVec 9) (t0 : Target)
  | ldhn (pr : Pr) (ls : BitVec 5) (imm : BitVec 9) (t0 : Target)
  | ldw (pr : Pr) (ls : BitVec 5) (imm : BitVec 9) (t0 : Target)
  | ldwn (pr : Pr) (ls : BitVec 5) (imm : BitVec 9) (t0 : Target)
  | ldd (pr : Pr) (ls : BitVec 5) (imm : BitVec 9) (t0 : Target)
  | lda (pr : Pr) (ls : BitVec 5) (sc : Scope) (d : Bool) (t0 : Target)
  | stb (pr : Pr) (ls : BitVec 5) (imm : BitVec 9)
  | sth (pr : Pr) (ls : BitVec 5) (imm : BitVec 9)
  | stw (pr : Pr) (ls : BitVec 5) (imm : BitVec 9)
  | std (pr : Pr) (ls : BitVec 5) (imm : BitVec 9)
  | stl (pr : Pr) (ls : BitVec 5) (sc : Scope) (d : Bool)
  -- atomics (R194 to R198)
  | amo (pr : Pr) (ls : BitVec 5) (op : AmoOp) (d : Bool) (sc : Scope) (o : Order) (t1 t0 : Target)
  | cas (pr : Pr) (ls : BitVec 5) (d : Bool) (sc : Scope) (o : Order) (t1 t0 : Target)
  | famo (pr : Pr) (ls : BitVec 5) (op : FamoOp) (sc : Scope) (o : Order) (t1 t0 : Target)
  -- fences, monitor waits, prefetch (R199 to R209)
  | fence (pr : Pr) (sc : Scope) (k : FenceKind) (t1 t0 : Target)
  | fencer (pr : Pr) (sc : Scope) (k : FenceKind) (hm : BitVec 16) (flat : Bool) (t1 t0 : Target)
  | fencerArm (pr : Pr) (hm : BitVec 16) (flat : Bool) (t1 t0 : Target)
  | fencerDisarm (pr : Pr) (hm : BitVec 16) (flat : Bool) (t1 t0 : Target)
  | fwait (pr : Pr) (t1 t0 : Target)
  | mwait (pr : Pr) (sc : Scope) (c : MCond) (t1 t0 : Target)
  | pref (pr : Pr) (ls : BitVec 5) (imm : BitVec 9)
  -- exits and TRAP (R169 to R174); e is the exit index
  | br (pr : Pr) (e : BitVec 3) (off : BitVec 20)
  | bri (pr : Pr) (e : BitVec 3)
  | callb (pr : Pr) (e : BitVec 3) (off : BitVec 20)
  | retb (pr : Pr) (e : BitVec 3)
  | tend (pr : Pr) (e : BitVec 3) (code : BitVec 8)
  | tendOp0 (pr : Pr) (e : BitVec 3)
  | yield (pr : Pr) (e : BitVec 3) (off : BitVec 20)
  | trap (pr : Pr) (n : BitVec 8)
  -- tasks and tokens (R210 to R216)
  | tspawn (pr : Pr) (cont : Bool) (t1 t0 : Target)
  | tsend (pr : Pr) (slot : BitVec 3) (dec : Bool)
  | tsendh (pr : Pr) (h : BitVec 4) (slot : BitVec 3)
  | tfork (pr : Pr) (n : BitVec 2) (t1 t0 : Target)
  | tself (pr : Pr) (k : SelfSel) (t1 t0 : Target)
  | tkill (pr : Pr)
  -- barriers and rings (R217 to R225)
  | bara (pr : Pr) (sc : Scope) (t1 t0 : Target)
  | barw (pr : Pr) (sc : Scope) (t1 t0 : Target)
  | qtkt (pr : Pr) (t1 t0 : Target)
  | qfill (pr : Pr)
  | qpop (pr : Pr) (t1 t0 : Target)
  | qpeek (pr : Pr) (t1 t0 : Target)
  | qocc (pr : Pr) (t1 t0 : Target)
  | qinit (pr : Pr) (lg : BitVec 5)
  -- vectors (R226 to R249); m is the mask register
  | vld (pr : Pr) (ty : ElemTy) (m : BitVec 3) (vd : BitVec 5)
  | vlds (pr : Pr) (ty : ElemTy) (m : BitVec 3) (vd : BitVec 5)
  | vldx (pr : Pr) (ty : ElemTy) (m : BitVec 3) (vd vb : BitVec 5)
  | vst (pr : Pr) (ty : ElemTy) (m : BitVec 3) (va : BitVec 5)
  | vsts (pr : Pr) (ty : ElemTy) (m : BitVec 3) (va : BitVec 5)
  | vstx (pr : Pr) (ty : ElemTy) (m : BitVec 3) (va vb : BitVec 5)
  | vbcst (pr : Pr) (ty : ElemTy) (m : BitVec 3) (vd : BitVec 5)
  | vmov (pr : Pr) (ty : ElemTy) (m : BitVec 3) (vd va : BitVec 5)
  | vadd (pr : Pr) (ty : ElemTy) (m : BitVec 3) (vd va vb : BitVec 5)
  | vsub (pr : Pr) (ty : ElemTy) (m : BitVec 3) (vd va vb : BitVec 5)
  | vmul (pr : Pr) (ty : ElemTy) (m : BitVec 3) (vd va vb : BitVec 5)
  | vfma (pr : Pr) (ty : ElemTy) (m : BitVec 3) (vd va vb : BitVec 5)
  | vdiv (pr : Pr) (ty : ElemTy) (m : BitVec 3) (vd va vb : BitVec 5)
  | vmin (pr : Pr) (ty : ElemTy) (m : BitVec 3) (vd va vb : BitVec 5)
  | vmax (pr : Pr) (ty : ElemTy) (m : BitVec 3) (vd va vb : BitVec 5)
  | vabs (pr : Pr) (ty : ElemTy) (m : BitVec 3) (vd va : BitVec 5)
  | vneg (pr : Pr) (ty : ElemTy) (m : BitVec 3) (vd va : BitVec 5)
  | vand (pr : Pr) (ty : ElemTy) (m : BitVec 3) (vd va vb : BitVec 5)
  | vor (pr : Pr) (ty : ElemTy) (m : BitVec 3) (vd va vb : BitVec 5)
  | vxor (pr : Pr) (ty : ElemTy) (m : BitVec 3) (vd va vb : BitVec 5)
  | vshl (pr : Pr) (ty : ElemTy) (m : BitVec 3) (vd va vb : BitVec 5) (amt : BitVec 6)
  | vshr (pr : Pr) (ty : ElemTy) (m : BitVec 3) (vd va vb : BitVec 5) (amt : BitVec 6)
  | vsar (pr : Pr) (ty : ElemTy) (m : BitVec 3) (vd va vb : BitVec 5) (amt : BitVec 6)
  | vcmp (pr : Pr) (ty : ElemTy) (m md : BitVec 3) (va vb : BitVec 5) (c : VCond)
  | vsel (pr : Pr) (ty : ElemTy) (m : BitVec 3) (vd va vb : BitVec 5)
  | vcvt (pr : Pr) (ty : ElemTy) (m : BitVec 3) (vd va : BitVec 5) (src : ElemTy) (part : BitVec 3)
  | vred (pr : Pr) (ty : ElemTy) (m : BitVec 3) (va : BitVec 5) (op : RedOp) (t1 t0 : Target)
  | vscan (pr : Pr) (ty : ElemTy) (m : BitVec 3) (vd va : BitVec 5) (op : RedOp)
  | vperm (pr : Pr) (ty : ElemTy) (m : BitVec 3) (vd va vb : BitVec 5)
  | vrcp (pr : Pr) (ty : ElemTy) (m : BitVec 3) (vd va : BitVec 5)
  | vrsq (pr : Pr) (ty : ElemTy) (m : BitVec 3) (vd va : BitVec 5)
  | vexp2 (pr : Pr) (ty : ElemTy) (m : BitVec 3) (vd va : BitVec 5)
  | vlog2 (pr : Pr) (ty : ElemTy) (m : BitVec 3) (vd va : BitVec 5)
  | vsplt (pr : Pr) (m : BitVec 3) (vd va : BitVec 5)
  | vgetl (pr : Pr) (ty : ElemTy) (va : BitVec 5) (t1 t0 : Target)
  | vsetl (pr : Pr) (ty : ElemTy) (vd : BitVec 5)
  | mset (pr : Pr) (k : MsetKind) (md ma mb : BitVec 3) (t1 t0 : Target)
  | vplane (pr : Pr) (ty : ElemTy) (m : BitVec 3) (vd va : BitVec 5) (unpack : Bool)
  | vacrd (pr : Pr) (ty : ElemTy) (m : BitVec 3) (vd : BitVec 5) (acc : BitVec 4) (q : BitVec 6)
  | vacwr (pr : Pr) (ty : ElemTy) (m : BitVec 3) (va : BitVec 5) (acc : BitVec 4) (q : BitVec 6)
  -- tiles and the matrix array (R252 to R268)
  | hdef (pr : Pr) (hd : BitVec 4)
  | hset (pr : Pr) (hd hs : BitVec 4) (f : HField)
  | hadv (pr : Pr) (hd hs : BitVec 4)
  | hget (pr : Pr) (hs : BitVec 4) (f : HGetF) (t1 t0 : Target)
  | mzero (pr : Pr) (mode : AccMode) (acc : BitVec 4) (t1 t0 : Target)
  | mma (pr : Pr) (mode : AccMode) (stream : Bool) (ha hb acc : BitVec 4) (sideB chan : Bool) (t1 t0 : Target)
  | mmac (pr : Pr) (mode : AccMode) (stream : Bool) (src hb acc : BitVec 4) (chan trim : Bool) (fmt : BitVec 5)
      (w : BitVec 4) (t1 t0 : Target)
  | mcvt (pr : Pr) (hd acc : BitVec 4) (t1 t0 : Target)
  | madda (pr : Pr) (src acc : BitVec 4) (t1 t0 : Target)
  | ptrim (pr : Pr) (h : BitVec 4) (t1 t0 : Target)
  | pxpose (pr : Pr) (h : BitVec 4) (e : PxSize) (unpack : Bool) (t1 t0 : Target)
  | mstat (pr : Pr) (acc : BitVec 4) (t1 t0 : Target)
  -- engine commands (R269 to R282); rel is the scope of .rel
  | xcopy (pr : Pr) (rel : Option Scope) (hd hs : BitVec 4) (chan stamp : Bool) (t1 t0 : Target)
  | xcopyf (pr : Pr) (rel : Option Scope) (chan stamp : Bool) (t1 t0 : Target)
  | xchain (pr : Pr) (rel : Option Scope) (chan : Bool) (t1 t0 : Target)
  | xwptr (pr : Pr) (chan : Bool) (t1 t0 : Target)
  | waitt (pr : Pr) (sc : Scope) (trapErr : Bool) (tl : BitVec 3) (t1 t0 : Target)
  | rdtl (pr : Pr) (tl : BitVec 3) (t1 t0 : Target)
  | xgath (pr : Pr) (rel : Option Scope) (lg : BitVec 3) (cnt : BitVec 16) (t1 t0 : Target)
  | xscat (pr : Pr) (rel : Option Scope) (lg : BitVec 3) (cnt : BitVec 16) (t1 t0 : Target)
  | xred (pr : Pr) (rel : Option Scope) (t1 t0 : Target)
  | xired (pr : Pr) (rel : Option Scope) (t1 t0 : Target)
  | xpkl (pr : Pr) (rel : Option Scope) (t1 t0 : Target)
  | nput (pr : Pr) (rel : Option Scope) (t1 t0 : Target)
  | nget (pr : Pr) (rel : Option Scope) (t1 t0 : Target)
  | namo (pr : Pr) (rel : Option Scope) (t1 t0 : Target)
  | xdisc (pr : Pr) (rel : Option Scope) (chan : Bool) (t1 t0 : Target)
  -- grout (R325); op is the operator id, c the configuration context
  | gcfg (pr : Pr) (c : BitVec 4)
  | garg (pr : Pr) (op : BitVec 8) (c reg : BitVec 4)
  | gsend (pr : Pr) (op : BitVec 8) (c : BitVec 4)
  | grecv (pr : Pr) (op : BitVec 8) (c : BitVec 4)
  | greconf (pr : Pr) (op : BitVec 8) (c : BitVec 4)
  | gstat (pr : Pr) (op : BitVec 8) (c : BitVec 4) (t1 t0 : Target)
  | gdrain (pr : Pr) (c : BitVec 4) (free : Bool)
  -- system (R175 to R186)
  | ctlrd (pr : Pr) (reg : BitVec 12) (t1 t0 : Target)
  | ctlwr (pr : Pr) (reg : BitVec 12)
  | ctlset (pr : Pr) (reg : BitVec 12)
  | ctlclr (pr : Pr) (reg : BitVec 12)
  | eret (pr : Pr)
  | ctxsv (pr : Pr) (t1 t0 : Target)
  | ctxld (pr : Pr)
  | ttinv (pr : Pr) (k : InvKind)
  | leaseAdd (pr : Pr)
  | leaseDrop (pr : Pr)
  | ptok (pr : Pr) (t1 t0 : Target)
  | hint (pr : Pr) (k : HintKind)
  | haltd (pr : Pr) (code : BitVec 8)
  | cycrd (pr : Pr) (t1 t0 : Target)
  | idle (pr : Pr)
  -- the distributor and the tasks (R15 to R39, R350 to R372)
  | launchWindowWrite (q off : Nat) (data : List Byte)
  | launchAccept (q : Nat)
  | tokenApply (die n : Nat)
  | tkillApply (die n : Nat)
  | spawnRetry (ctx : Nat)
  | leaseEstablish (uid : Nat)
  | taskBind (brick : Nat)
  | taskAging (brick : Nat)
  | blockMap (ctx addr : Nat)
  | blockCommit (ctx : Nat)
  | trapTaken (ctx : Nat)
  | contextSuspend (ctx : Nat)
  | taskWake (uid : Nat)
  | wakeTimeout (uid : Nat)
  | watchdogExpiry (ctx : Nat)
  | taskCompletion (uid : Nat)
  | accumulatorRelease (uid : Nat)
  | idleWake (ctx : Nat)
  | debugHalt (ctx : Nat)
  -- memory and homes (R137, R194 to R233, R284 to R300)
  | writePerform (wid : Nat)
  | atomicPerform (ctx slot : Nat)
  | monitorWrite (ctx slot : Nat)
  | monitorPoll (ctx slot : Nat)
  | fencePerform (uid n : Nat)
  | qfillHome (id : Nat)
  | qinitHome (id : Nat)
  | barrierArrival (id : Nat)
  -- engines (R130 to R135, R257 to R282, R328 to R347)
  | copyExecute (brick chan n : Nat)
  | chainRecord (brick chan : Nat)
  | gatherScatterExecute (id n : Nat)
  | xredExecute (id n : Nat)
  | xiredExecute (id n : Nat)
  | xpklExecute (id n : Nat)
  | pklQueryScore (id : Nat)
  | discardExecute (brick chan : Nat)
  | pageDeath (q page : Nat)
  | engineCommandFinish (id : Nat)
  | pmaStart (brick : Nat)
  | mmaStreamStep (brick : Nat)
  | pmaComplete (brick : Nat)
  -- the network (R426 to R429)
  | networkPacketSend (id : Nat)
  | networkAck (id rtt : Nat) (data : List Byte) (reason : Nat)
  | packetRetransmit (id : Nat)
  | destinationTimeout (dev : Nat)
  | networkArrival (op : NetOp)
  -- the grout fabric (R302 to R327)
  | gcfgApply (die c : Nat)
  | greconfApply (die c : Nat)
  | reconfToken (die c op : Nat)
  | gargApply (die c op : Nat)
  | gsendArrival (die c op : Nat)
  | grecvDeliver (die c op : Nat)
  | gdrainComplete (die c : Nat)
  | configFetch (die c op : Nat)
  | srcRound (die c op : Nat)
  | snkToken (die c op : Nat)
  | mapToken (die c op : Nat)
  | filtToken (die c op : Nat)
  | coalToken (die c op : Nat)
  | isectToken (die c op : Nat)
  | partToken (die c op : Nat)
  | gathToken (die c op : Nat)
  | scatToken (die c op : Nat)
  | sredToken (die c op : Nat)
  | exqToken (die c op : Nat)
  | exqTimer (die c op : Nat)
  | exqRetry (die c op : Nat)
  -- distributor controls (R350, R362 to R372)
  | dpreempt (die val : Nat)
  | preemptSave (ctx : Nat)
  | drepriop (die val : Nat)
  | dteardown (q gid : Nat)
  | teardownComplete (q gid : Nat)
  | dplace (die addr : Nat)
  | dsplitApply (brick : Nat)
  | timeSliceExpiry (ctx : Nat)
  | drainSlotFree (brick k : Nat)
  -- registers, translation and faults (R373 to R394, R416)
  | registerWrite (q off : Nat) (val : Word)
  | fqanswer (q : Nat) (val : Word)
  | fqheadWrite (q : Nat) (val : Word)
  | fqlostClear (q : Nat) (val : Word)
  | evreq (q : Nat) (val : Word)
  | evictionComplete (q : Nat)
  | patrolScrub (pier addr kind : Nat)
  -- power (R400 to R414, R437)
  | intervalBoundary (x : Sensors)
  | vfStep (course : Nat)
  /-- x is the course plus 160 times its rail's voltage in mV -/
  | droopEvent (x : Nat)
  /-- x as for droopEvent -/
  | droopRecovery (x : Nat)
  | stallSample (course stalled bound : Nat)
  | governorAction (course : Nat)
  | boostNotice (course : Nat)
  | boostExpiry (course : Nat)
  | thermalShutdown
  -- write-to-clear registers (R399, R419, R428)
  | droopcntClear (q : Nat) (val : Word)
  | throtcntClear (q : Nat) (val : Word)
  | netstatClear (q : Nat) (val : Word)
  | pintstatClear (q : Nat) (val : Word)
  -- host, security and management (R415 to R435)
  | hostMemoryAccess (r : HostReq)
  | ideKeySetup (q : Nat)
  | tdispStateChange (q st : Nat)
  | attestationReport (q : Nat) (nonce : BitVec 256)
  | partcfg (arg0 arg1 : Word)
  | netcfg (arg0 arg1 : Word) (key : BitVec 256)
  | dbgen (arg0 arg1 : Word)
  | dbgresume (arg0 arg1 : Word)
  | fwstage (arg0 arg1 : Word)
  | fwapply
  | mgmtreset
  | packageReset
  | partitionReset (q : Nat)
  | managementFlr
  | bootSequence
  | gdrainArrival (die c : Nat)
  deriving DecidableEq, Repr

end Sys2Proof
end

