-- ==== Sys2Proof/Machine/Flags.lean ====
section
/-!
DEFINITION. FPMODE and its flags (05 R98, R99), and every place where a flag is computed from a rounding.
-/

namespace Sys2Proof.Machine

/-- The flags of R99 as FPMODE [8:4]: NV, DZ, OF, UF, NX from bit 4 down. -/
abbrev FFlags := BitVec 5

def flagNV : FFlags := 0b10000
def flagDZ : FFlags := 0b01000
def flagOF : FFlags := 0b00100
def flagUF : FFlags := 0b00010
def flagNX : FFlags := 0b00001

/-- A flag when a condition holds. -/
def flagIf (f : FFlags) (c : Bool) : FFlags := if c then f else 0

/-- FPMODE with flags ORed in (R99). -/
def fpmodeOr (m : Word) (f : FFlags) : Word := m ||| (f.setWidth 64 <<< 4)

/-- What a write of a value to FPMODE leaves: reserved bits zero, modes 5 to 7 stored as 0 (R99). -/
def fpmodeWrite (x : Word) : Word :=
  (x &&& 0x1F0) ||| (if (x &&& 7).toNat < 5 then x &&& 7 else 0)

/-- The mode of FPMODE[2:0] (R98). -/
def fpmodeRm (m : Word) : Rm :=
  match (m &&& 7).toNat with
  | 1 => .rtz | 2 => .rdn | 3 => .rup | 4 => .rmm | _ => .rne

/-- The mode an instruction rounds in: its own code, or FPMODE for dyn (R98). -/
def effRm (r : Rm) (m : Word) : Rm :=
  match r with
  | .dyn => fpmodeRm m
  | _ => r

end Sys2Proof.Machine
end

