-- ==== Sys2Proof/Machine/Float.lean ====
section
/-!
DEFINITION. IEEE 754 arithmetic in FP32, FP64 and BF16 (05 R98 to R104): values are exact dyadic numbers, every
operation is computed exactly and rounded once. Tininess is detected after rounding.
-/

namespace Sys2Proof.Machine

/-- A binary format: exponent and fraction widths. -/
structure FFmt where
  ew : Nat
  fw : Nat
  deriving DecidableEq, Repr

def fp32 : FFmt := ⟨8, 23⟩
def fp64 : FFmt := ⟨11, 52⟩
def bf16 : FFmt := ⟨8, 7⟩

/-- The width of a format in bits. -/
def FFmt.width (f : FFmt) : Nat := 1 + f.ew + f.fw
/-- The exponent bias. -/
def FFmt.bias (f : FFmt) : Nat := 2 ^ (f.ew - 1) - 1
/-- The pattern of +infinity. -/
def FFmt.inf (f : FFmt) : Nat := (2 ^ f.ew - 1) * 2 ^ f.fw
/-- The canonical quiet NaN (R98). -/
def FFmt.qnan (f : FFmt) : Nat := f.inf + 2 ^ (f.fw - 1)
/-- The sign bit's weight. -/
def FFmt.signW (f : FFmt) : Nat := 2 ^ (f.ew + f.fw)
/-- The pattern of an infinity with a sign. -/
def FFmt.infS (f : FFmt) (neg : Bool) : Nat := f.inf + if neg then f.signW else 0
/-- The pattern of a zero with a sign. -/
def FFmt.zeroS (f : FFmt) (neg : Bool) : Nat := if neg then f.signW else 0
/-- The exponent of the least quantum. -/
def FFmt.qmin (f : FFmt) : Int := 1 - (f.bias : Int) - (f.fw : Int)

/-- A value: a NaN (signalling or quiet), an infinity, a zero, or the finite number m × 2^e with its sign. -/
inductive FV
  | nan (signalling : Bool)
  | inf (neg : Bool)
  | zero (neg : Bool)
  | fin (neg : Bool) (m : Nat) (e : Int)
  deriving DecidableEq, Repr

/-- The value of a pattern. -/
def FFmt.val (f : FFmt) (x : Nat) : FV :=
  let neg := x.testBit (f.ew + f.fw)
  let ex := nbits x f.fw f.ew
  let fr := x % 2 ^ f.fw
  if ex = 2 ^ f.ew - 1 then
    if fr = 0 then .inf neg else .nan (!fr.testBit (f.fw - 1))
  else if ex = 0 then
    if fr = 0 then .zero neg else .fin neg fr f.qmin
  else .fin neg (fr + 2 ^ f.fw) (f.qmin + ((ex : Int) - 1))

/-- Whether discarding rem of 2^sh (with a sticky bit below) rounds the magnitude up. -/
def roundsUp (rm : Rm) (neg : Bool) (kept rem sh : Nat) (sticky : Bool) : Bool :=
  let half := if sh = 0 then 0 else 2 ^ (sh - 1)
  let exactHalf := sh != 0 && rem == half && !sticky
  let above := sh != 0 && (rem > half || (rem == half && sticky))
  let inexact := rem != 0 || sticky
  match rm with
  | .rne | .dyn => above || (exactHalf && kept % 2 == 1)
  | .rtz => false
  | .rdn => neg && inexact
  | .rup => !neg && inexact
  | .rmm => above || exactHalf

/-- Round a magnitude m × 2^e (plus a sticky amount below its last bit) to a multiple of 2^q: the multiple, and
whether it is inexact. A sticky amount needs q above e. -/
def roundTo (rm : Rm) (neg : Bool) (m : Nat) (e q : Int) (sticky : Bool) : Nat × Bool :=
  if q ≤ e then (m * 2 ^ (e - q).toNat, sticky)
  else
    let sh := (q - e).toNat
    let kept := m / 2 ^ sh
    let rem := m % 2 ^ sh
    (if roundsUp rm neg kept rem sh sticky then kept + 1 else kept, rem != 0 || sticky)

/-- Round the nonzero number (-1)^neg × m × 2^e, with a sticky amount, once into a format (R98). -/
def FFmt.round (f : FFmt) (rm : Rm) (neg : Bool) (m : Nat) (e : Int) (sticky : Bool) : Nat × FFlags :=
  let top : Int := (Nat.log2 m : Int) + e
  let qn : Int := top - f.fw
  let q := max qn f.qmin
  let (k, inexact) := roundTo rm neg m e q sticky
  -- tininess after rounding: the result rounded with an unbounded exponent lies below the least normal
  let (ku, _) := roundTo rm neg m e qn sticky
  let tiny := ku != 0 && ((Nat.log2 ku : Int) + qn) < f.qmin + f.fw
  let sgn := if neg then f.signW else 0
  if k = 0 then (sgn, flagIf flagUF inexact ||| flagIf flagNX inexact)
  else
    let (k, q) := if k = 2 ^ (f.fw + 1) then (2 ^ f.fw, q + 1) else (k, q)
    let ex : Int := if k < 2 ^ f.fw then 0 else q - f.qmin + 1
    if ex ≥ 2 ^ f.ew - 1 then
      let toInf := match rm with
        | .rne | .rmm | .dyn => true
        | .rtz => false
        | .rdn => neg
        | .rup => !neg
      (sgn + (if toInf then f.inf else f.inf - 1), flagOF ||| flagNX)
    else
      let pat := if k < 2 ^ f.fw then k else ex.toNat * 2 ^ f.fw + (k - 2 ^ f.fw)
      (sgn + pat, flagIf flagUF (tiny && inexact) ||| flagIf flagNX inexact)

/-- The NaN result, NV when some operand is signalling or the operation is invalid (R98). -/
def FFmt.nanRes (f : FFmt) (nv : Bool) : Nat × FFlags := (f.qnan, flagIf flagNV nv)

/-- Whether a value is a signalling NaN. -/
def FV.snan : FV → Bool
  | .nan s => s
  | _ => false
/-- Whether a value is a NaN. -/
def FV.isNan : FV → Bool
  | .nan _ => true
  | _ => false
/-- The sign of a value that is no NaN. -/
def FV.neg : FV → Bool
  | .nan _ => false
  | .inf n | .zero n | .fin n _ _ => n
/-- The value negated. -/
def FV.negate : FV → FV
  | .nan s => .nan s
  | .inf n => .inf !n
  | .zero n => .zero !n
  | .fin n m e => .fin (!n) m e
/-- The magnitude of a finite value as m × 2^e. -/
def FV.mag : FV → Nat × Int
  | .fin _ m e => (m, e)
  | _ => (0, 0)

/-- The exact signed sum of two finite numbers, as a signed integer times a power of two. -/
def exactAdd (n1 : Bool) (m1 : Nat) (e1 : Int) (n2 : Bool) (m2 : Nat) (e2 : Int) : Int × Int :=
  let e := min e1 e2
  let a : Int := (m1 * 2 ^ (e1 - e).toNat : Nat)
  let b : Int := (m2 * 2 ^ (e2 - e).toNat : Nat)
  ((if n1 then -a else a) + (if n2 then -b else b), e)

/-- Round an exact signed value; an exact zero takes the sign given (R165). -/
def FFmt.roundInt (f : FFmt) (rm : Rm) (x : Int) (e : Int) (zeroNeg : Bool) : Nat × FFlags :=
  if x = 0 then (f.zeroS zeroNeg, 0) else f.round rm (x < 0) x.natAbs e false

/-- op0 + op1 on values (R165). -/
def FFmt.addV (f : FFmt) (rm : Rm) (a b : FV) : Nat × FFlags :=
  if a.isNan || b.isNan then f.nanRes (a.snan || b.snan)
  else match a, b with
  | .inf n, .inf k => if n = k then (f.infS n, 0) else f.nanRes true
  | .inf n, _ => (f.infS n, 0)
  | _, .inf n => (f.infS n, 0)
  | .zero n, .zero k => (f.zeroS (if n = k then n else rm = .rdn), 0)
  | a, b =>
    let (m1, e1) := a.mag
    let (m2, e2) := b.mag
    let e1 := if m1 = 0 then e2 else e1
    let e2 := if m2 = 0 then e1 else e2
    let (x, e) := exactAdd a.neg m1 e1 b.neg m2 e2
    f.roundInt rm x e (rm = .rdn)

/-- op0 × op1 on values (R165). -/
def FFmt.mulV (f : FFmt) (rm : Rm) (a b : FV) : Nat × FFlags :=
  let n := a.neg != b.neg
  if a.isNan || b.isNan then f.nanRes (a.snan || b.snan)
  else match a, b with
  | .inf _, .zero _ | .zero _, .inf _ => f.nanRes true
  | .inf _, _ | _, .inf _ => (f.infS n, 0)
  | .zero _, _ | _, .zero _ => (f.zeroS n, 0)
  | a, b => f.round rm n (a.mag.1 * b.mag.1) (a.mag.2 + b.mag.2) false

/-- The exact product of two values that are no NaN and not infinity times zero. -/
def mulFV (a b : FV) : FV :=
  let n := a.neg != b.neg
  match a, b with
  | .inf _, _ | _, .inf _ => .inf n
  | .zero _, _ | _, .zero _ => .zero n
  | a, b => .fin n (a.mag.1 * b.mag.1) (a.mag.2 + b.mag.2)

/-- Infinity times zero. -/
def infZero (a b : FV) : Bool :=
  match a, b with
  | .inf _, .zero _ | .zero _, .inf _ => true
  | _, _ => false

/-- op0 × op1 + op2 with one rounding (R165). -/
def FFmt.fmaV (f : FFmt) (rm : Rm) (a b c : FV) : Nat × FFlags :=
  if infZero a b then f.nanRes true
  else if a.isNan || b.isNan || c.isNan then f.nanRes (a.snan || b.snan || c.snan)
  else f.addV rm (mulFV a b) c

/-- op0 ÷ op1 on values (R165). -/
def FFmt.divV (f : FFmt) (rm : Rm) (a b : FV) : Nat × FFlags :=
  let n := a.neg != b.neg
  if a.isNan || b.isNan then f.nanRes (a.snan || b.snan)
  else match a, b with
  | .inf _, .inf _ | .zero _, .zero _ => f.nanRes true
  | .inf _, _ => (f.infS n, 0)
  | _, .inf _ => (f.zeroS n, 0)
  | .zero _, _ => (f.zeroS n, 0)
  | _, .zero _ => (f.infS n, flagDZ)
  | a, b =>
    let (m1, e1) := a.mag
    let (m2, e2) := b.mag
    let sh := f.fw + 4 + bitlen m2
    let num := m1 * 2 ^ sh
    f.round rm n (num / m2) (e1 - e2 - sh) (num % m2 != 0)

/-- The integer square root of a number below 4^n, bit by bit from the top: r is the root so far. -/
def isqrtFrom (x : Nat) : Nat → Nat → Nat
  | 0, r => r
  | n + 1, r => isqrtFrom x n (if (r + 2 ^ n) * (r + 2 ^ n) ≤ x then r + 2 ^ n else r)
/-- The integer square root. -/
def isqrt (x : Nat) : Nat := isqrtFrom x (bitlen x / 2 + 1) 0

/-- The square root of a value (R165). -/
def FFmt.sqrtV (f : FFmt) (rm : Rm) (a : FV) : Nat × FFlags :=
  match a with
  | .nan s => f.nanRes s
  | .zero n => (f.zeroS n, 0)
  | .inf n => if n then f.nanRes true else (f.infS false, 0)
  | .fin n m e =>
    if n then f.nanRes true
    else
      -- an even exponent with at least fw + 4 root bits
      let k := 2 * (f.fw + 4)
      let sh := if (e - (k : Int)) % 2 = 0 then k else k + 1
      let x := m * 2 ^ sh
      let r := isqrt x
      f.round rm false r ((e - (sh : Int)) / 2) (r * r != x)

def FFmt.add (f : FFmt) (rm : Rm) (x y : Nat) : Nat × FFlags := f.addV rm (f.val x) (f.val y)
def FFmt.sub (f : FFmt) (rm : Rm) (x y : Nat) : Nat × FFlags := f.addV rm (f.val x) (f.val y).negate
def FFmt.mul (f : FFmt) (rm : Rm) (x y : Nat) : Nat × FFlags := f.mulV rm (f.val x) (f.val y)
def FFmt.div (f : FFmt) (rm : Rm) (x y : Nat) : Nat × FFlags := f.divV rm (f.val x) (f.val y)
def FFmt.sqrt (f : FFmt) (rm : Rm) (x : Nat) : Nat × FFlags := f.sqrtV rm (f.val x)
def FFmt.fma (f : FFmt) (rm : Rm) (x y z : Nat) : Nat × FFlags := f.fmaV rm (f.val x) (f.val y) (f.val z)

/-- The order of two values that are no NaN; −0 below +0 when strictZero (R100). -/
def cmpFV (strictZero : Bool) (a b : FV) : Ordering :=
  let rank : FV → Int := fun v =>
    match v with
    | .inf true => -2
    | .inf false => 2
    | .fin true _ _ => -1
    | .fin false _ _ => 1
    | _ => 0
  if rank a ≠ rank b then (if rank a < rank b then .lt else .gt)
  else match a, b with
  | .zero n, .zero k => if strictZero && n != k then (if n then .lt else .gt) else .eq
  | .fin n m1 e1, .fin k m2 e2 =>
    let (x, _) := exactAdd n m1 e1 (!k) m2 e2
    if x < 0 then .lt else if x = 0 then .eq else .gt
  | _, _ => .eq

/-- minimumNumber or maximumNumber (R100). -/
def FFmt.minmax (f : FFmt) (wantMax : Bool) (x y : Nat) : Nat × FFlags :=
  let a := f.val x
  let b := f.val y
  let nv := flagIf flagNV (a.snan || b.snan)
  if a.isNan && b.isNan then (f.qnan, nv)
  else if a.isNan then (y % 2 ^ f.width, nv)
  else if b.isNan then (x % 2 ^ f.width, nv)
  else
    let pickB := if wantMax then cmpFV true a b == .lt else cmpFV true a b == .gt
    ((if pickB then y else x) % 2 ^ f.width, nv)

/-- Convert a value into another format, rounding once (R166). -/
def FFmt.ofFV (f : FFmt) (rm : Rm) (a : FV) : Nat × FFlags :=
  match a with
  | .nan s => f.nanRes s
  | .inf n => (f.infS n, 0)
  | .zero n => (f.zeroS n, 0)
  | .fin n m e => f.round rm n m e false

/-- An exact integer into a format (R166). -/
def FFmt.ofInt (f : FFmt) (rm : Rm) (x : Int) : Nat × FFlags := f.roundInt rm x 0 false

/-- The integer nearest a finite value in a mode, and whether it is inexact. -/
def FV.toIntRm (a : FV) (rm : Rm) : Int × Bool :=
  match a with
  | .fin n m e =>
    let (k, ix) := roundTo rm n m e 0 false
    (if n then -(k : Int) else k, ix)
  | _ => (0, false)

/-- Floating point to an integer of n bits, signed or not (R102, R166): pattern and flags. -/
def fpToInt (a : FV) (rm : Rm) (n : Nat) (signed : Bool) : Nat × FFlags :=
  let lo : Int := if signed then -(2 ^ (n - 1) : Nat) else 0
  let hi : Int := if signed then (2 ^ (n - 1) : Nat) - 1 else (2 ^ n : Nat) - 1
  match a with
  | .nan _ => (0, flagNV)
  | .inf neg => (ofInt n (if neg then lo else hi), flagNV)
  | .zero _ => (0, 0)
  | a =>
    let (k, ix) := a.toIntRm rm
    if k < lo then (ofInt n lo, flagNV)
    else if hi < k then (ofInt n hi, flagNV)
    else (ofInt n k, flagIf flagNX ix)

/-- FCLASS (R167). -/
def FFmt.fclass (f : FFmt) (x : Nat) : Nat :=
  let sub := nbits x f.fw f.ew = 0
  match f.val x with
  | .inf true => 1
  | .fin true _ _ => if sub then 4 else 2
  | .zero true => 8
  | .zero false => 16
  | .fin false _ _ => if sub then 32 else 64
  | .inf false => 128
  | .nan s => if s then 256 else 512

/-- FP32 operations rounded RNE, without flags (R5). -/
def add32 (x y : Nat) : Nat := (fp32.add .rne x y).1
def mul32 (x y : Nat) : Nat := (fp32.mul .rne x y).1

/-! The fixed reduction orders of R104. -/

/-- One level of VRED: lanes paired at distance 1 of the surviving lanes. -/
def redLevel {α : Type} (op : α → α → α) : List α → List α
  | a :: b :: r => op a b :: redLevel op r
  | l => l

/-- VRED's tree over a list whose length is a power of two (R104); fuel is the number of levels. -/
def redTree {α : Type} (op : α → α → α) (d : α) : Nat → List α → α
  | 0, l => l.headD d
  | n + 1, l =>
    match l with
    | [] => d
    | [a] => a
    | l => redTree op d n (redLevel op l)

/-- One step of VSCAN at distance d. -/
def scanStep {α : Type} (op : α → α → α) (d : Nat) (l : List α) : List α :=
  l.take d ++ List.zipWith op l (l.drop d)

/-- VSCAN (R104) over n lanes: steps at distances 1, 2, 4, …; fuel counts the levels left. -/
def scanTree {α : Type} (op : α → α → α) : Nat → Nat → List α → List α
  | 0, _, l => l
  | n + 1, d, l => if d < l.length then scanTree op n (2 * d) (scanStep op d l) else l

/-- The next power of two at or above n. -/
def pow2Up (n : Nat) : Nat := if n ≤ 1 then 1 else 2 ^ (Nat.log2 (n - 1) + 1)

/-- A sum in the order of R104 over the smallest power of two, absent positions −0 (R341, R343). -/
def sumTree32 (xs : List Nat) : Nat :=
  let n := pow2Up xs.length
  redTree add32 0x80000000 32 (xs ++ List.replicate (n - xs.length) 0x80000000)

end Sys2Proof.Machine
end

