-- ==== Sys2Proof/Machine/State.lean ====
section
/-!
DEFINITION. The machine's state as plain data: everything 00 to 20 give the machine, and the model's own fields (the
agenda, the focus, the free-value counter, identifier counters and the outbox; log entries 6, 7 and 17). Agents are
numbered across the package: die 0-15, course 0-159, brick 0-1279, context 0-5119 (R439). A sparse map lists only what
differs from its default; the defaults are the reset values.
-/

namespace Sys2Proof.Machine

/-- A stop of the model where the spec gives no effect: there is none, no step of this machine ends in a fault. -/
inductive Fault
  deriving DecidableEq, Repr

/-- A refusal of the model. -/
inductive Refusal
  /-- Answered by an arm of exec whose instruction has no meaning yet. Safe. -/
  | notModelled (mnemonic : String)
  deriving DecidableEq, Repr

/-- A token of the operand network (R50), or the null token (R54). -/
inductive Tok
  | null
  | s (x : Word)
  | m (x : MaskVal)
  | h (x : HandleVal)
  | v (x : VecVal)
  deriving DecidableEq, Repr

/-- The physical spaces of R110; an accumulator byte is named by task, unit and offset. -/
inductive Space | dram | spad | host | acc
  deriving DecidableEq, Repr

/-- A physical byte address: device address, brick x 2^22 + offset, host address, or task x 2^24 + unit x 2^16 + offset. -/
structure PLoc where
  sp : Space
  a : Nat
  deriving DecidableEq, Repr

/-- How an instruction slot of a mapped block stands (R51): not fired; fired and waiting or executing; done; resolved on
a null; predicated off; fired, but never to be performed, because R56 puts it before an access that it depends on. -/
inductive SlotSt | idle | busy | done | nulled | off | stuck
  deriving DecidableEq, Repr

/-- One instruction slot of a block in flight: the tokens received (R52), each with the slot that sent it (by operand as R48
numbers them), its status, and the number R199 or R250 gives it. -/
structure Slot where
  op0 : Option Tok
  op1 : Option Tok
  op2 : Option Tok
  pd : Option Tok
  src : List (Nat × Nat)
  st : SlotSt
  num : Nat
  /-- whether the number of a timeline instruction has been sent (R250) -/
  sent : Bool
  deriving DecidableEq, Repr

/-- A store held in the brick until commit (R31, R188): LSID (none for a vector lane), slot, place, bytes, the release
scope of STL, and the flat address for the trackers. -/
structure StoreRec where
  lsid : Option Nat
  slot : Nat
  loc : PLoc
  bytes : List Byte
  rel : Option Scope
  flat : Nat
  /-- device address of the page's leaf entry, 0 for none (R384) -/
  pte : Nat
  /-- already performed at the home before an atomic of its block: the atomic's LSID (R56) -/
  performed : Option Nat
  deriving DecidableEq, Repr

/-- How a read orders itself against the stores of its own block (R56, R231, R232): by LSID, by slot in the vector stream,
or not at all. -/
inductive Sees | lsid (l : Nat) | vec (slot : Nat) | none
  deriving DecidableEq, Repr

/-- A read a block in flight has made: slot, order in its block, place, the bytes returned, the pending writes it observed
(R293), and what its bytes were taken from before its own block's stores, for an LSID the aligned 8 bytes (R284, R288); mixed
says that the context's own earlier stores hold only part of those. -/
structure ReadRec where
  slot : Nat
  sees : Sees
  loc : PLoc
  bytes : List Byte
  saw : List Nat
  flat : Nat
  word : List Byte
  mixed : Bool := false
  deriving DecidableEq, Repr

/-- A range of R204: a tensor by id, or flat bytes. -/
inductive Range
  | tensor (id : Nat)
  | flat (base len : Nat)
  deriving DecidableEq, Repr

/-- What an engine command is to do, with its operands as they stood at firing (R270 to R282). -/
inductive CmdKind
  | copy (hd hs : HandleVal) (stamp : Option Nat)
  | copyf (src dst len : Nat) (stamp : Option Nat)
  | chain (addr : Nat)
  | disc (base len : Nat)
  | gath (table index dest size count : Nat)
  | scat (table index src size count : Nat)
  | xred (p : Nat)
  | xired (p : Nat)
  | xpkl (p : Nat)
  | nput (p : Nat)
  | nget (p : Nat)
  | namo (p : Nat)
  deriving DecidableEq, Repr

/-- What a tl7 instruction is to do, with its operands as they stood at firing (R257 to R266). -/
inductive PmaKind
  | mzero (mode : AccMode) (acc : Nat)
  | mma (mode : AccMode) (a b : HandleVal) (acc : Nat) (stream : Option (Bool × Bool × Nat))
  | mmac (mode : AccMode) (src acc : Nat) (b : HandleVal) (stream : Option (Bool × Nat)) (trim : Bool)
      (fmt width : Nat) (c s : BitVec 32) (z : Nat)
  | mcvt (hd : HandleVal) (acc : Nat) (c : BitVec 32)
  | madda (src acc : Nat)
  | ptrim (h : HandleVal)
  | pxpose (h : HandleVal) (e : Nat) (unpack : Bool) (base : Nat) (pitch : Word)
  deriving DecidableEq, Repr

/-- A command of the grout fabric (R324 to R327). Until its block commits, the lanes of a GSEND hold the address they are to
be read from. -/
inductive GKind
  | gcfg (image : Nat)
  | garg (op reg : Nat) (val : Word)
  | gsend (op : Nat) (lanes : BitVec 512) (mask : BitVec 16) (eos : Bool)
  | grecv (op addr : Nat)
  | greconf (op image : Nat)
  | gdrain (addr : Nat) (val : Word) (free : Bool)
  deriving DecidableEq, Repr

/-- Where a frame's record stands (R352, R353): the tag store, with the pool record that stands for it; its pool record
in memory; or a spill record. -/
inductive FramePlace
  | tag (rec : Nat)
  | pool (rec : Nat)
  | spill (area rec : Nat)
  deriving DecidableEq, Repr

/-- A frame reserved by a TSPAWN or TFORK of an uncommitted block (R211): its die, index and place. -/
structure Resv where
  slot : Nat
  die : Nat
  idx : Nat
  place : FramePlace
  deriving DecidableEq, Repr

/-- A class descriptor as the distributor read it (R15). -/
structure ClassDesc where
  addr : Nat
  entry : Nat
  spill : Nat
  spillSize : Nat
  /-- kinds of the slots: 0 scalar, 1 handle, 2 counter -/
  kinds : List Nat
  prio : Nat
  placement : Nat
  accUnits : Nat
  noSteal : Bool
  longWait : Bool
  counts : List Nat
  lease : Nat
  stamp : Nat
  cont : Word
  deriving DecidableEq, Repr

/-- What an instruction leaves at commit (R188, R251), kept by slot until then. -/
inductive CEff
  | ctl (op : Nat) (reg : Nat) (x : Word)
  | eret
  | ctxsv (addr : Nat) (data : List Byte)
  | ctxld (data : List Byte)
  | ttinv (kind : InvKind) (x : Word)
  | leaseAdd (base len : Nat)
  | leaseDrop (base len : Nat)
  | haltd (code : Nat)
  | idle (cycles : Nat)
  | arm (ranges : List (Nat × Range × Option (Nat × Nat)))
  | disarm (ranges : List (Nat × Range × Option (Nat × Nat)))
  | spawn (r : Resv) (cls : ClassDesc) (cont : Word) (fills : List Word) (fork : Bool)
  | send (frame slot : Nat) (dec : Bool) (x : Word)
  | sendh (frame slot : Nat) (x : HandleVal)
  | kill (frame : Nat)
  | arrive (addr : Nat) (sc : Scope)
  | qinit (addr lg : Nat) (x : Word)
  | qfill (addr : Nat) (t v : Word)
  | cmd (tl : Nat) (kind : CmdKind) (rel : Option Scope)
  | pma (kind : PmaKind)
  | grout (c : Nat) (kind : GKind)
  | yield
  deriving DecidableEq, Repr

/-- The exit that fired (R59): its slot, and where it leads or the exit code with which the task ends. -/
inductive ExitRec
  | to (slot succ : Nat)
  | tend (slot code : Nat)
  deriving DecidableEq, Repr

/-- A trap held with its block (R33): cause and TRAPINFO (R187), the slot that raised it, and the token that it kept from
its target (R52). -/
structure TrapRec where
  cause : Nat
  info : Word
  src : Option Nat
  lost : Option (Target × Tok)
  deriving DecidableEq, Repr

/-- One block in flight (R29 to R33, R41 to R62). -/
structure Blk where
  addr : Nat
  /-- ordinal among the task's blocks, counting from 1 (R369) -/
  ord : Nat
  hdr : List Word32
  body : List Word32
  slots : List Slot
  /-- register writes resolved so far: some value, or none when nullified -/
  gw : KMap (Option Word)
  vw : KMap (Option VecVal)
  hw : KMap (Option HandleVal)
  mw : KMap (Option MaskVal)
  /-- writes of the register streams in stream order: slot, register, value (R57) -/
  vs : List (Nat × Nat × VecVal)
  hs : List (Nat × Nat × HandleVal)
  ms : List (Nat × Nat × MaskVal)
  stores : List StoreRec
  reads : List ReadRec
  effs : KMap CEff
  /-- NV, DZ, OF, UF, NX in bits 4 to 0 (R99), by the slot that raised them -/
  raised : KMap (BitVec 5)
  exit : Option ExitRec
  /-- the traps held with the block, in the order raised -/
  traps : List TrapRec
  pinned : Bool
  resv : List Resv
  /-- power tokens granted in this block, by the slot of their PTOK (R183) -/
  grants : KMap Nat
  /-- TILEROOT at entry to the block (R178) -/
  tileroot : Word
  deriving DecidableEq, Repr

/-- One slot of a frame (R18). -/
inductive FSlot
  | scalar (x : Option Word)
  | handle (x : Option HandleVal)
  | counter (c : Nat)
  deriving DecidableEq, Repr

/-- A frame (R17 to R20, R351). -/
structure Frame where
  cls : ClassDesc
  graph : Word
  cont : Word
  slots : List FSlot
  /-- launch priority override (R21) -/
  override : Option Nat
  place : FramePlace
  /-- allocation order, for R353 -/
  seq : Nat
  /-- completion stamp address and value of the launch record (R38) -/
  launch : Option (Nat × Word)
  /-- the brick placement is measured from (R23) -/
  origin : Nat
  part : Nat
  /-- the writes that the release of its allocation covers (R210) -/
  deps : List Nat
  deriving DecidableEq, Repr

/-- What travels to a distributor (R18, R216): a token or a kill. -/
inductive MsgKind
  | fill (slot : Nat) (x : Word)
  | fillh (slot : Nat) (x : HandleVal)
  | dec (slot : Nat)
  | kill
  deriving DecidableEq, Repr

/-- A message on its way to a distributor, with the writes its release waits for (R210, R38). -/
structure Msg where
  frame : Nat
  graph : Word
  sender : Nat
  /-- the brick it left and the sender's task id (R19, R23) -/
  brick : Nat
  taskId : Nat
  ctxId : Nat
  kind : MsgKind
  deps : List Nat
  deriving DecidableEq, Repr

/-- A range tracker (R205, R206): range, arming block ordinal, retiring after a disarm. -/
structure Tracker where
  range : Range
  /-- stored extent of a scratchpad tensor, as a place and a length (R204) -/
  ext : Option (Nat × Nat)
  arm : Nat
  retiring : Bool
  deriving DecidableEq, Repr

/-- A fence of a task (R199 to R207): number, ordinal of its block, scope, kind, the ranges of a FENCER (none for a
FENCE), and whether it has performed. -/
structure FenceRec where
  num : Nat
  ord : Nat
  sc : Scope
  kind : FenceKind
  /-- for each named range: the tracker and its arming ordinal, or none when it is not armed (R207) -/
  ranges : Option (List (Option (Nat × Nat)))
  done : Bool
  deriving DecidableEq, Repr

/-- A pending write that some read of the task returned (R293), with the reading block's ordinal and trackers. -/
structure SeenRec where
  wid : Nat
  ord : Nat
  trk : List Nat
  deriving DecidableEq, Repr

/-- One timeline of a task (R135): value, newest number committed, finished numbers above the value, failed numbers with
their fault-record addresses, ALLFILL numbers, and the last finished command's number and final pointer for XWPTR. -/
structure Timeline where
  val : Nat
  newest : Nat
  fin : List Nat
  fails : List (Nat × Nat)
  allFill : List Nat
  last : Nat
  lastPtr : Nat
  deriving DecidableEq, Repr

/-- How far a task is (R20, R23, R26, R34, R38). -/
inductive Phase
  /-- fired, the lease being established; some request number while a residency answer is awaited -/
  | firing (wait : Option Nat)
  | ready
  | bound (ctx : Nat)
  | suspended
  /-- ended; some exit code, or none after a fault (its cause) -/
  | ending (code : Option Nat) (cause : Nat)
  | finished
  deriving DecidableEq, Repr

/-- The wake condition of a suspended task (R36). -/
inductive Wake
  /-- a write to the monitored 8 bytes -/
  | mem (loc : PLoc)
  | tl (tl n : Nat)
  | ring (addr : Nat)
  /-- the phase of the barrier at a place advances -/
  | bar (loc : PLoc)
  | fence (n : Nat)
  | now
  deriving DecidableEq, Repr

/-- A pinned page of a lease: flat base, size, the writable and readable bits, physical base, and whether in the host. -/
structure PinRec where
  flat : Nat
  size : Nat
  phys : Nat
  deriving DecidableEq, Repr

/-- A task from firing until its stamps and continuation are sent (R15, R20, R38, R358). -/
structure Task where
  uid : Nat
  part : Nat
  die : Nat
  cls : ClassDesc
  graph : Word
  cont : Word
  frame : Nat
  slots : List FSlot
  launch : Option (Nat × Word)
  origin : Nat
  /-- brick that sent the token or forked it, for R23's head push -/
  near : Option Nat
  prio : Nat
  phase : Phase
  /-- when it became ready at its level, and how often passed over (R25, R26) -/
  readyAt : Nat
  passed : Nat
  /-- brick whose deque or drain slot holds it -/
  brick : Nat
  lease : List (Nat × Nat)
  pins : List PinRec
  tensors : List Nat
  added : List (Nat × Nat)
  /-- pages pinned for the ranges that LEASE added, and ranges whose drop waits for their accesses (R182) -/
  addPins : List (Nat × Nat × List PinRec)
  drops : List (Nat × Nat)
  tls : List Timeline
  fenceNewest : Nat
  fences : List FenceRec
  seen : List SeenRec
  trackers : KMap Tracker
  ords : Nat
  save : Option (Nat × Nat)
  /-- resumes from its save record -/
  saved : Bool
  wake : Wake
  wokeAt : Nat
  accUnits : Nat
  accMode : KMap AccMode
  accOvf : KMap Bool
  /-- S, saved and W of the last MMA or MMAC (R267) -/
  mstat : Nat × Nat × Nat
  /-- the XCOPYs that have left the brick: channel, number, hd and hs (R262's trimming) -/
  copies : List (Nat × Nat × HandleVal × HandleVal)
  /-- a tl7 instruction has failed after the task ended: no further stamp and no continuation (R268) -/
  mute : Bool
  /-- task killed by teardown: no stamp, no continuation (R372) -/
  torn : Bool
  /-- the writes that the release of its fork covers: its lease is established once they have performed (R210) -/
  deps : List Nat
  deriving DecidableEq, Repr

/-- What CTXSV saves as it stood at entry to its block (R180): the timelines' values, FPMODE and the four counters. -/
structure Entry where
  vals : List Nat
  fpmode : Word
  mxstall : Word
  mxissue : Word
  bankconf : Word
  trimsave : Word
  deriving DecidableEq, Repr

/-- A context (R27, R177). -/
structure Ctx where
  /-- uid of the bound task, 0 for none -/
  uid : Nat
  g : Vector Word 64
  v : Vector VecVal 32
  h : Vector HandleVal 16
  m : Vector MaskVal 8
  /-- address of the oldest uncommitted block, and of the last committed one -/
  pc : Nat
  prev : Nat
  blks : List Blk
  fpmode : Word
  mxstall : Word
  mxissue : Word
  bankconf : Word
  trimsave : Word
  /-- as the oldest block found them at its entry (R180) -/
  entry : Entry
  /-- the flags that tl7 instructions raised in the cycle named, for a commit of that cycle (R179) -/
  pmaAt : Nat × Word
  /-- tokens held under PTOK (R183) -/
  held : Nat
  poolsplit : Word
  trapvec : Word
  trapcause : Word
  trapinfo : Word
  savearea : Word
  priv : Bool
  /-- IDLE: the cycle count at which it ends (R186) -/
  idle : Option Nat
  /-- HALTD committed, halt not yet done: code and block address; then halted (R434) -/
  haltReq : Option (Nat × Nat)
  halted : Bool
  /-- residency request a code fetch waits on, with the block it fetches, and the block whose fetch was answered fail -/
  fetchWait : Option (Nat × Nat)
  fetchFail : Option Nat
  /-- LEASE ranges not yet pinned: base, length, block address (R182); no block is fetched before they are -/
  leaseAdds : List (Nat × Nat × Nat)
  leaseWait : Option Nat
  /-- when the status of one of its instructions, or its list of blocks, last changed: it waits since then (R34) -/
  didAt : Nat
  /-- its YIELD has committed, and waits to suspend it or to go on (R173) -/
  yielding : Bool
  runSince : Nat
  /-- when pre-emption was first asked for; while the context is halted, the time counted until the halt (R434) -/
  preemptAt : Option Nat
  deriving DecidableEq, Repr

/-- The first failure of an engine command, as its fault record will carry it (R272, R387). -/
structure FailRec where
  cause : Nat
  reason : Nat
  item : Nat
  addr : Nat
  resume : Nat
  deriving DecidableEq, Repr

/-- A cached flat translation (R376, R377): physical base, page size, host, permissions, discard state. -/
structure Trans where
  phys : Nat
  size : Nat
  host : Bool
  r : Bool
  w : Bool
  x : Bool
  disc : Nat
  /-- device address of the leaf entry -/
  pte : Nat
  deriving DecidableEq, Repr

/-- A packet on its way (R426, R427): its place in the payload and its payload bytes, its port, and when it was last sent. -/
structure NetPkt where
  place : Nat
  n : Nat
  port : Nat
  sentAt : Nat
  deriving DecidableEq, Repr

/-- An engine command that has left its brick (R251, R269 to R282). -/
structure Cmd where
  id : Nat
  uid : Nat
  part : Nat
  brick : Nat
  graph : Word
  ctxId : Nat
  taskId : Nat
  blk : Nat
  ord : Nat
  tl : Nat
  num : Nat
  kind : CmdKind
  rel : Option Scope
  /-- what its release covers: for each range of its footprint a tracker and its arming ordinal, or none, as a FENCER
  there would have (R207, R271); none for a full release -/
  relRanges : Option (List (Option (Nat × Nat)))
  /-- newest tl7 number when it left: its accumulator aliases wait for it (R275) -/
  tl7 : Nat
  /-- trackers that count it -/
  trk : List Nat
  /-- under way, and done with its work though not yet reported -/
  running : Bool
  ended : Bool
  /-- the next unit of work (byte, item, element, query), the write pointer (R130) and whether it has stopped; total is
  the pointer at the start of a chain's current record -/
  pos : Nat
  wptr : Nat
  stopped : Bool
  total : Nat
  fail : Option FailRec
  failCount : Nat
  allFill : Bool
  /-- residency request a frozen port waits on (R390) -/
  frozen : Option Nat
  /-- current record of a chain and its ordinal, whether it is being performed and whether some of it failed (R134) -/
  recAddr : Nat
  recOrd : Nat
  recBusy : Bool
  recBad : Bool
  /-- the KiB of scratchpad into which the chain's finished records have written, as the pointer shows (R262) -/
  fed : List Nat
  /-- a residency request was answered fail: the work stops here (R390) -/
  abort : Bool
  /-- when a command with a parameter block left its brick, in arrival order (R279, R328); its block, and working values -/
  arrived : Option Nat
  params : List Byte
  work : KMap (List (BitVec 32))
  /-- packets sent to the network and not acknowledged, oldest first; the pieces of 4,096 bytes that a get has brought
  (R426, R427) -/
  pkts : List NetPkt
  got : List Nat
  pier : Nat
  /-- the 64 KiB parts in flight for it (R381) -/
  flights : List Nat
  /-- the translations of the 64 KiB pages that a footing command's items under way update (R377), by page -/
  held : KMap Trans := []
  /-- positions of the delivery order whose bytes were left unwritten (R272) -/
  missed : List Nat
  /-- its latest writes made at a home at once, as one run of bytes: where it starts, and its length (R393) -/
  run : Option (PLoc × Nat)
  deriving DecidableEq, Repr

/-- A tl7 instruction in a brick's PMA queue (R257). -/
structure PmaOp where
  uid : Nat
  ctx : Nat
  ord : Nat
  num : Nat
  blk : Nat
  kind : PmaKind
  trk : List Nat
  /-- the first cycle in which it may start: the one after its block's commit (R257) -/
  since : Nat
  deriving DecidableEq, Repr

/-- The PMA instruction under way (R257, R262): the cycle at which the array has done the steps it could start, W so far,
and how many plane and block groups of the streamed operand are done. -/
structure PmaRun where
  op : PmaOp
  freeAt : Nat
  w : Nat
  idx : Nat
  deriving DecidableEq, Repr

/-- A drain slot (R367): the suspended task it counts for. -/
structure Drain where
  uid : Nat
  deriving DecidableEq, Repr

/-- A brick (R7, R113, R350). -/
structure Brick where
  rfu : Nat
  accu : Nat
  /-- DSPLIT written, taking effect when no context is bound -/
  pending : Option (Nat × Nat)
  /-- ready deques of priorities 0 to 3, head first, as task uids -/
  dq0 : List Nat
  dq1 : List Nat
  dq2 : List Nat
  dq3 : List Nat
  /-- tasks passed over 64 times, which block the brick (R26) -/
  blockers : List Nat
  /-- power tokens in 1/256 units (R409) -/
  bucket : Nat
  pma : List PmaOp
  run : Option PmaRun
  /-- the cycle since which the instruction at the head of the PMA queue waits for power tokens (R261) -/
  stallAt : Option Nat
  chan0 : List Nat
  chan1 : List Nat
  drains : KMap Drain
  /-- trim tags of the scratchpad rows; unlisted is 0x1F (R126) -/
  tags : KMap (BitVec 5)
  /-- the CYCLE from which a bank of the pool is free; unlisted is free (R115) -/
  banks : KMap Nat
  deriving DecidableEq, Repr

/-- The writes of a course or partition register in one cycle, which apply in ascending order of the writer's CTXID (R179):
the cycle, the value before them, and each write's CTXID, kind (1 CTLWR, 2 CTLSET, 3 CTLCLR) and operand. The governor's
write comes after every context's (R400). -/
structure CtlOps where
  cyc : Nat
  base : Word
  ops : List (Nat × Nat × Word)
  deriving DecidableEq, Repr

/-- A course controller (R399 to R414). -/
structure Course where
  vf : Word
  cur : Nat
  target : Nat
  req : Nat
  /-- the denial of the latest boundary: 0 none, 2 DENIED_FLOOR, 3 DENIED_LIMIT -/
  status : Nat
  /-- the step under way (R402): when it began and the point it goes to; and the point whose clock drives the course -/
  step : Option (Nat × Nat)
  clk : Nat
  therm : BitVec 16
  curlim : Word
  /-- boost notices in force: barrier, phase and expiry time; early notices likewise -/
  grants : List (Nat × Nat × Nat)
  earlies : List (Nat × Nat × Nat)
  /-- notices on their way: boost or early, barrier, phase -/
  notices : List (Bool × Nat × Nat)
  boost : Bool
  early : Bool
  curlimited : Bool
  tceil : Nat
  tcount : Nat
  /-- the rail's voltage as last sensed, in mV (R405, R436) -/
  rail : Nat
  /-- clock stretched by a droop; CYCLE in 1/1000 since when, and since when the rail has stood within 20 mV (R405) -/
  droop : Bool
  droopAt : Nat
  steadyAt : Option Nat
  /-- droop events of a clock hop, counted once it settles (R406), and an inflow halving that is due (R405) -/
  drooped : Nat
  halve : Bool
  stall : BitVec 16
  /-- ends of the latest sample and of the latest sample the governor has read (R407, R408) -/
  sampleAt : Nat
  govAt : Nat
  /-- the sample under way: stalled brick-cycles and brick-cycles with a bound context; and one that has ended (R407) -/
  stalled : Nat
  counted : Nat
  sample : Option (Nat × Nat)
  /-- writes of the request that no boundary has passed yet: when, and the value they replaced (R400) -/
  vfLog : List (Nat × Word)
  /-- the latest cycle's writes of COURSEVF and CURLIM (R179, R400) -/
  vfOps : CtlOps
  limOps : CtlOps
  /-- CYCLE of the course's bricks at device time cycAt, in 1/1000 cycle; it runs at the current point's clock (R185) -/
  cycBase : Nat
  cycAt : Nat
  deriving DecidableEq, Repr

/-- A token of the fabric (R302): 16 lanes, validity mask, EOS; or a reconfiguration token on its way through it (R321). -/
inductive FTok
  | tok (lanes : BitVec 512) (mask : BitVec 16) (eos : Bool)
  | reconf (id : Nat)
  deriving DecidableEq, Repr

/-- One entry of a configuration image (R306). -/
structure GEntry where
  op : Nat
  /-- destinations of outputs 0 and 1: operator and input -/
  out0 : List (Nat × Nat)
  out1 : List (Nat × Nat)
  cfg : Word
  p : List Word
  deriving DecidableEq, Repr

/-- A round of a SRC under way (R310): the row or repetition, and the next element in it. -/
structure SrcRound where
  row : Nat
  idx : Nat
  deriving DecidableEq, Repr

/-- An operator in one context (R303, R305, R309). -/
structure FOp where
  entry : Option GEntry
  /-- a reconfiguration token awaited: its id, the inputs it must reach with the operators that feed them, and the entry that
  then applies (R321) -/
  next : Option (Nat × List (Nat × Nat) × Option GEntry)
  cached : Bool
  used : Nat
  q0 : List FTok
  q1 : List FTok
  /-- tokens produced and not yet taken by a receiving queue: output, receiver, input, token -/
  outq : List (Nat × Nat × Nat × FTok)
  accepted : Nat
  round : Option SrcRound
  /-- arguments on hold: register, value, and how many reconfigurations had come before (R322) -/
  gargs : List (Nat × Word × Nat)
  /-- COAL and EXQ: elements not yet emitted or stored; COAL: full token held; EXQ: an EOS follows them -/
  pend : List (BitVec 32)
  held : Option (BitVec 512)
  eosPend : Bool
  /-- ISECT: pairs of each input's segment and whether its EOS has come, matches and keys pending, last keys -/
  seg0 : List (BitVec 32 × BitVec 32)
  seg1 : List (BitVec 32 × BitVec 32)
  eos0 : Bool
  eos1 : Bool
  matches0 : List (BitVec 32 × BitVec 32)
  keys : List (BitVec 32)
  last0 : Option Nat
  last1 : Option Nat
  /-- SRED: accumulation of the segment, results pending, results this round -/
  acc : Option (BitVec 32)
  results : List (BitVec 32)
  nres : Nat
  /-- SNK: place in the output, in the segment array, elements of the segment, EOS tokens this round -/
  snkPos : Nat
  snkSeg : Nat
  snkLen : Nat
  snkEos : Nat
  /-- SNK: the completion write that waits, its address and value -/
  due : Option (Nat × Word)
  /-- EXQ: buffer in turn, elements collected, time of the first or of the next try to allocate; a firing that waits -/
  buf : Nat
  cnt : Nat
  firstAt : Nat
  firing : Bool
  /-- BRIDGE: requests waiting, as address and brick, and receive sequence number -/
  recvs : List (Nat × Nat)
  rseq : Nat
  /-- tokens discarded in error stop (R323) -/
  discarded : Nat
  deriving DecidableEq, Repr

/-- A configuration context of a fabric (R308). -/
structure FCtx where
  owner : Option (Nat × Word)
  /-- the reservations of GCFG instructions that have fired and not reached the fabric (R326): uid, block ordinal, slot -/
  resv : List (Nat × Nat × Nat)
  image : Nat
  leases : List (Nat × Nat)
  pins : List PinRec
  /-- lease ranges and pins of the configuration that a reconfiguration under way replaces (R321) -/
  oldLeases : List (Nat × Nat)
  oldPins : List PinRec
  ops : KMap FOp
  faulted : Bool
  errStop : Bool
  /-- GDRAIN waiting: completion address, value, free, and the issuing brick and task -/
  drain : Option (Nat × Word × Bool × Nat × Nat)
  reconfs : Nat
  deriving DecidableEq, Repr

/-- A grout command that has left its brick (R324). -/
structure GMsg where
  id : Nat
  uid : Nat
  ord : Nat
  part : Nat
  graph : Word
  ctxId : Nat
  taskId : Nat
  blk : Nat
  c : Nat
  kind : GKind
  deps : List Nat
  deriving DecidableEq, Repr

/-- A graph on a die (R364, R371). -/
structure GraphRec where
  part : Nat
  teardown : Bool
  prio : Option Nat
  /-- whether the graph has been live: an override written before it is waits for it (R364) -/
  begun : Bool
  deriving DecidableEq, Repr

/-- A C-die: its distributor (R350 to R372) and its fabric (R302 to R327). -/
structure Die where
  ctrl : Word
  poolBase : Word
  poolSize : Nat
  saveBase : Word
  saveSize : Nat
  slice : Word
  repriog : Word
  gsquery : Word
  plBusy : Option Nat
  plSkipped : Nat
  frames : KMap Frame
  frameSeq : Nat
  inbox : List Msg
  graphs : List (Word × GraphRec)
  saves : List (Nat × Nat × Nat)
  grout : KMap FCtx
  gq : List GMsg
  deriving DecidableEq, Repr

/-- A pier (R421 to R423, R328). -/
structure Pier where
  owner : Option Nat
  bucket : Nat
  /-- the key pair its DRAM is encrypted under, two keys of 32 bytes (R422) -/
  key : List Word
  errStop : Bool
  scrubPos : Nat
  deriving DecidableEq, Repr

/-- A cached tile translation (R379): the frame's flat address, its page, and the tile's trim tags. -/
structure TileEnt where
  flat : Nat
  page : Trans
  tag0 : Nat
  tag1 : Nat
  deriving DecidableEq, Repr

/-- Who waits for a residency answer (R380). -/
inductive Waiter
  /-- with the page asked for, and the item its record names -/
  | lease (uid addr item : Nat)
  | fetch (ctx : Nat)
  | stall (ctx addr : Nat)
  /-- with the address and item its record names -/
  | cmd (id addr item : Nat)
  | net (op : NetOp) (parts : List Nat)
  deriving DecidableEq, Repr

/-- A launch record (R21) in the queue. -/
structure Launch where
  bytes : List Byte
  requester : Nat
  deriving DecidableEq, Repr

/-- A partition (R373, R399, R419, R428). -/
structure Part where
  configured : Bool
  tdisp : Nat
  debugOn : Bool
  xlctrl : Word
  xlroot : Word
  xltrapvec : Word
  fqbase : Word
  fqsize : Nat
  fqhead : Word
  fqtail : Word
  fqlost : Word
  evstat : Word
  evPage : Option Nat
  ecccorr : Word
  eccunc : Word
  scrubper : Word
  tileroot : Word
  /-- the latest writes of TILEROOT at one device time (R179) -/
  tileOps : CtlOps
  seq : Nat
  /-- records waiting for room (R389): record bytes, graph, waiter -/
  fqWait : List (List Byte × Waiter)
  waits : KMap Waiter
  tlb : KMap Trans
  /-- 64 KiB pages whose translations a TTINV names while a lease pins them (R181) -/
  tlbInv : List Nat
  tiles : KMap TileEnt
  /-- frames of a tile of each registered tensor, as its format has them (R123, R382) -/
  tframes : KMap Nat
  hostOwners : KMap (BitVec 32)
  hostOverflow : Bool
  pwrctl : Word
  vffloor : Nat
  vfceil : Nat
  govthr : Word
  droopcnt : Word
  throtTherm : Nat
  throtCur : Nat
  partpwr : Word
  tokrate : Word
  netjob : Word
  nettgt : Word
  netwin : List (Word × Word)
  netResent : Nat
  netFailed : Nat
  jobKey : Option (BitVec 256)
  /-- the base addresses of the function's memory BARs (R415) -/
  bar0 : Word
  bar2 : Word
  inten : Word
  intstat : Word
  lqDropped : Nat
  staged : KMap (List Byte)
  queue : List Launch
  /-- FLR: reset of the window pending until its teardown finishes -/
  resetPending : Bool
  ide : Bool
  /-- graphs whose error bit is set (R371) -/
  errGraphs : List Word
  deriving DecidableEq, Repr

/-- A write that has left its agent and not reached its home (R287): level 0 left the brick, level 1 in the die cache. -/
structure Write where
  id : Nat
  uid : Nat
  ord : Nat
  die : Nat
  brick : Nat
  loc : PLoc
  bytes : List Byte
  cached : Bool
  cmd : Nat
  rel : Option Scope
  deps : List Nat
  flat : Nat
  pte : Nat
  trk : List Nat
  part : Nat
  /-- a vector store's lane, which no token's release of its own block covers (R200, R210) -/
  vec : Bool := false
  /-- its task has taken a fence, so that it may release what a fence covers (R289) -/
  fenced : Bool := false
  /-- timeline and number of the engine command or tl7 instruction it belongs to (R273) -/
  num : Nat × Nat := (0, 0)
  deriving DecidableEq, Repr

/-- The release sequence that the value of four aligned bytes belongs to (R291): the bricks and scopes of the releases in it.
Bytes with no entry may hold the value of any release (log entry 12). -/
structure Heads where
  sp : Space
  half : Nat
  rels : List (Nat × Scope)
  deriving DecidableEq, Repr

/-- An operation on its way to a home (R137, R218, R221, R223). -/
inductive HomeKind
  | arrive (addr : Nat) (loc : PLoc) (sc : Scope)
  | qinit (addr : Nat) (loc : PLoc) (lg : Nat) (x : Word)
  | qfill (addr : Nat) (loc : PLoc) (t : Word) (v : Word) (data : List Byte)
  deriving DecidableEq, Repr

/-- A home operation that has left its brick. -/
structure HomeOp where
  id : Nat
  uid : Nat
  ord : Nat
  part : Nat
  graph : Word
  brick : Nat
  ctxId : Nat
  taskId : Nat
  blk : Nat
  kind : HomeKind
  deps : List Nat
  scope : Scope
  trk : List Nat
  /-- the bytes that it may touch (R288) -/
  spans : List (PLoc × Nat)
  deriving DecidableEq, Repr

/-- Which slot of which block in flight is firing (the model's own). -/
structure Focus where
  ctx : Nat
  blk : Nat
  slot : Nat
  /-- fires although a lower-LSID store of its block is not resolved (log entry 9) -/
  early : Bool
  deriving DecidableEq, Repr

/-- A move of the agenda (the model's own, log entry 6): a slot fires, a step of the machine or the outside world
happens, or device time passes. -/
inductive Move
  | fire (f : Focus)
  | event (i : Instr)
  | tick (ns : Nat)
  deriving DecidableEq, Repr

/-- What leaves the package (the model's own record, log entry 17). -/
inductive Out
  | msix (q vector : Nat)
  /-- a packet of a command to a device: its port, its place in the payload, and the operation, with the packet's bytes -/
  | packet (cmd dev port off : Nat) (op : NetOp)
  /-- an answer to an operation: a reason or 0, and of the bytes it brings a packet with its port and place -/
  | netReply (dev reason port off : Nat) (data : List Byte)
  | hostData (tag : Nat) (data : List Byte)
  | unsupported (addr : Nat)
  | report (data : List Byte)
  | powerOff
  /-- the code a course's regulator is driven to on the rail-control bus (R436) -/
  | rail (course code : Nat)
  deriving DecidableEq, Repr

/-- Progress of the boot sequence (R430, R435, R437). -/
inductive Boot | rom | link | firmware | dram | up | recovery | off
  deriving DecidableEq, Repr

/-- A destination window of a port group (R427). -/
structure NetDest where
  group : Nat
  dev : Nat
  w : Nat
  /-- round trips acknowledged, with when -/
  samples : List (Nat × Nat)
  lastDec : Nat
  /-- last acknowledgement, or when something was first outstanding -/
  lastAck : Nat
  used : Nat
  /-- payload bytes and packets not acknowledged -/
  unacked : Nat
  packets : Nat
  deriving DecidableEq, Repr

/-- What this device answers an operation of another with: the bytes that its packets carry, how far they have been sent, and
the packets not acknowledged (R426, R427). -/
structure Reply where
  id : Nat
  part : Nat
  dev : Nat
  ordered : Bool
  data : List Byte
  pos : Nat
  pkts : List NetPkt
  deriving DecidableEq, Repr

/-- Internal notes of a barrier's home for boosts (R413): arrivals' courses of each phase, and whom it granted. -/
structure BarNote where
  part : Nat
  sp : Space
  courses : KMap (List Nat)
  deriving DecidableEq, Repr

/-- The management controller and package (R409 to R411, R430 to R433). -/
structure Pkg where
  boot : Boot
  mbcmd : Word
  mbarg : List Word
  mbstat : Word
  /-- the base address of function 0's BAR0 (R415), and the job key an SPDM session has supplied (R433) -/
  bar0 : Word
  spdmKey : Option (BitVec 256)
  flash : List Byte
  staging : List Byte
  running : List Byte
  minVersion : Nat
  netid : BitVec 19
  inflow : Nat
  overRun : Nat
  overAmps : Bool
  msWatts : List Nat
  dests : List NetDest
  portq : KMap Nat
  /-- ordered operations that have arrived and stand behind one that waits for residency (R281, R429) -/
  netHeld : List NetOp
  replies : List Reply
  /-- the SRAM rail's voltage as last sensed, in mV (R12, R436) -/
  sram : Nat
  boundary : Nat
  deriving DecidableEq, Repr

/-- The whole machine. -/
structure State where
  /-- device time in ns (R185) -/
  now : Nat
  agenda : List Move
  focus : Option Focus
  /-- counter of free values (the model's own, log entry 7) -/
  free : Nat
  /-- identifier counters (the model's own, log entry 6) -/
  nextUid : Nat
  nextId : Nat
  dram : List Host.Cell
  spad : List Host.Cell
  host : List Host.Cell
  acc : List Host.Cell
  /-- poisoned 8-byte words, as address / 8, by space (R393) -/
  badDram : List Nat
  badSpad : List Nat
  badAcc : List Nat
  /-- pending writes, in the order they left or entered the die cache -/
  writes : List Write
  heads : List Heads
  homeOps : List HomeOp
  ctxs : KMap Ctx
  tasks : KMap Task
  cmds : KMap Cmd
  bricks : KMap Brick
  courses : KMap Course
  dies : KMap Die
  piers : KMap Pier
  parts : KMap Part
  bars : KMap BarNote
  /-- 64 KiB pages of device memory that DPLACE has placed: page to pseudo-channel (R362) -/
  places : KMap Nat
  pkg : Pkg
  outbox : List Out
  deriving DecidableEq, Repr

/-- A slot as mapped (R51). -/
def Slot.fresh : Slot := ⟨none, none, none, none, [], .idle, 0, false⟩

/-- A context that no task is bound to; its registers hold the binding values of R27 (log entry 1). -/
def Ctx.reset : Ctx :=
  { uid := 0, g := Vector.replicate 64 0, v := Vector.replicate 32 0, h := Vector.replicate 16 0,
    m := Vector.replicate 8 (BitVec.allOnes 128), pc := 0, prev := 0, blks := [], fpmode := 0, mxstall := 0,
    mxissue := 0, bankconf := 0, trimsave := 0, entry := ⟨[], 0, 0, 0, 0, 0⟩, pmaAt := (0, 0), held := 0, poolsplit := 0, trapvec := 0, trapcause := 0,
    trapinfo := 0, savearea := 0, priv := false, idle := none, haltReq := none, halted := false, fetchWait := none,
    fetchFail := none, leaseAdds := [], leaseWait := none, didAt := 0, yielding := false, runSince := 0, preemptAt := none }

/-- A timeline at binding (R27). -/
def Timeline.zero : Timeline := ⟨0, 0, [], [], [], 0, 0⟩

/-- A brick after reset (R350); its token bucket is full (log entry 3). -/
def Brick.reset : Brick :=
  { rfu := 4, accu := 32, pending := none, dq0 := [], dq1 := [], dq2 := [], dq3 := [], blockers := [], bucket := 16384,
    pma := [], run := none, stallAt := none, chan0 := [], chan1 := [], drains := [], tags := [], banks := [] }

/-- A course after reset: point 9 (R396), thermal ceiling 15 (R414); the rest log entry 2. -/
def Course.reset : Course :=
  { vf := 9, cur := 9, target := 9, req := 9, status := 0, step := none, clk := 9, therm := 0, curlim := 0, grants := [],
    earlies := [], notices := [], boost := false, early := false, curlimited := false, tceil := 15, tcount := 0,
    rail := 600, droop := false, droopAt := 0, steadyAt := none, drooped := 0, halve := false, stall := 0, sampleAt := 0,
    govAt := 0, stalled := 0, counted := 0, sample := none, vfLog := [], vfOps := ⟨0, 0, []⟩, limOps := ⟨0, 0, []⟩, cycBase := 0, cycAt := 0 }

/-- An operator that holds nothing in a context. -/
def FOp.reset : FOp :=
  { entry := none, next := none, cached := false, used := 0, q0 := [], q1 := [], outq := [], accepted := 0,
    round := none, gargs := [], pend := [], held := none, eosPend := false, seg0 := [], seg1 := [], eos0 := false,
    eos1 := false, matches0 := [], keys := [], last0 := none, last1 := none, acc := none, results := [], nres := 0,
    snkPos := 0, snkSeg := 0, snkLen := 0, snkEos := 0, due := none, buf := 0, cnt := 0, firstAt := 0, firing := false, recvs := [],
    rseq := 0, discarded := 0 }

/-- A free fabric context (R308). -/
def FCtx.reset : FCtx :=
  { owner := none, resv := [], image := 0, leases := [], pins := [], oldLeases := [], oldPins := [], ops := [], faulted := false, errStop := false,
    drain := none, reconfs := 0 }

/-- A die after reset (R350). -/
def Die.reset : Die :=
  { ctrl := 0, poolBase := 0, poolSize := 16384, saveBase := 0, saveSize := 0, slice := 0, repriog := 0, gsquery := 0,
    plBusy := none, plSkipped := 0, frames := [], frameSeq := 0, inbox := [], graphs := [], saves := [], grout := [],
    gq := [] }

/-- A pier after reset, in no partition (R432); its footing budget is full (log entry 3). -/
def Pier.reset : Pier := { owner := none, bucket := 16384, key := List.replicate 8 0, errStop := false, scrubPos := 0 }

/-- A partition after reset (R373, R399, R419, R428). -/
def Part.reset : Part :=
  { configured := false, tdisp := 0, debugOn := false, xlctrl := 0, xlroot := 0, xltrapvec := 0, fqbase := 0, fqsize := 64,
    fqhead := 0, fqtail := 0, fqlost := 0, evstat := 0, evPage := none, ecccorr := 0, eccunc := 0, scrubper := 24,
    tileroot := 0, tileOps := ⟨0, 0, []⟩, seq := 1, fqWait := [], waits := [], tlb := [], tlbInv := [], tiles := [], tframes := [], hostOwners := [], hostOverflow := false,
    pwrctl := 3, vffloor := 0, vfceil := 9, govthr := 0x4000C000, droopcnt := 0, throtTherm := 0, throtCur := 0,
    partpwr := 0, tokrate := 0, netjob := 0, nettgt := 2000, netwin := [(0, 0), (0, 0), (0, 0), (0, 0)],
    netResent := 0, netFailed := 0, jobKey := none, bar0 := 0, bar2 := 0, inten := 0, intstat := 0, lqDropped := 0, staged := [], queue := [],
    resetPending := false, ide := false, errGraphs := [] }

/-- The package after reset: the boot ROM starts (R435); nominal inflow 2,064 tokens (R409). -/
def Pkg.reset : Pkg :=
  { boot := .rom, mbcmd := 0, mbarg := [0, 0, 0, 0], mbstat := 0, bar0 := 0, spdmKey := none, flash := [], staging := [], running := [],
    minVersion := 0, netid := 0, inflow := 2064 * 256, overRun := 0, overAmps := false, msWatts := [], dests := [],
    portq := [], netHeld := [], replies := [], sram := 750, boundary := 0 }

/-- The machine right after package reset (R432). -/
def State.reset : State :=
  { now := 0, agenda := [], focus := none, free := 0, nextUid := 1, nextId := 1, dram := [], spad := [], host := [],
    acc := [], badDram := [], badSpad := [], badAcc := [], writes := [], heads := [], homeOps := [], ctxs := [], tasks := [],
    cmds := [], bricks := [], courses := [], dies := [], piers := [], parts := [], bars := [], places := [], pkg := Pkg.reset,
    outbox := [] }

end Sys2Proof.Machine
end

