-- ==== Sys2Proof/Machine/Access.lean ====
section
/-!
DEFINITION. Reading and updating the parts of State by agent number, the numbering of R439, device time and CYCLE
(08 R185), and draws of free values (log entry 7).
-/

namespace Sys2Proof.Machine

def State.ctx (s : State) (c : Nat) : Ctx := kget c Ctx.reset s.ctxs
def State.setCtx (s : State) (c : Nat) (x : Ctx) : State := { s with ctxs := kset c x s.ctxs }
def State.modCtx (s : State) (c : Nat) (f : Ctx → Ctx) : State := s.setCtx c (f (s.ctx c))
def State.task? (s : State) (u : Nat) : Option Task := kget? u s.tasks
def State.setTask (s : State) (u : Nat) (t : Task) : State := { s with tasks := kset u t s.tasks }
def State.modTask (s : State) (u : Nat) (f : Task → Task) : State :=
  match s.task? u with
  | some t => s.setTask u (f t)
  | none => s
def State.delTask (s : State) (u : Nat) : State := { s with tasks := kdel u s.tasks }
def State.cmd? (s : State) (i : Nat) : Option Cmd := kget? i s.cmds
def State.setCmd (s : State) (i : Nat) (c : Cmd) : State := { s with cmds := kset i c s.cmds }
def State.modCmd (s : State) (i : Nat) (f : Cmd → Cmd) : State :=
  match s.cmd? i with
  | some c => s.setCmd i (f c)
  | none => s
def State.brick (s : State) (b : Nat) : Brick := kget b Brick.reset s.bricks
def State.setBrick (s : State) (b : Nat) (x : Brick) : State := { s with bricks := kset b x s.bricks }
def State.modBrick (s : State) (b : Nat) (f : Brick → Brick) : State := s.setBrick b (f (s.brick b))
def State.course (s : State) (c : Nat) : Course := kget c Course.reset s.courses
def State.setCourse (s : State) (c : Nat) (x : Course) : State := { s with courses := kset c x s.courses }
def State.modCourse (s : State) (c : Nat) (f : Course → Course) : State := s.setCourse c (f (s.course c))
def State.die (s : State) (d : Nat) : Die := kget d Die.reset s.dies
def State.setDie (s : State) (d : Nat) (x : Die) : State := { s with dies := kset d x s.dies }
def State.modDie (s : State) (d : Nat) (f : Die → Die) : State := s.setDie d (f (s.die d))
def State.pier (s : State) (p : Nat) : Pier := kget p Pier.reset s.piers
def State.setPier (s : State) (p : Nat) (x : Pier) : State := { s with piers := kset p x s.piers }
def State.modPier (s : State) (p : Nat) (f : Pier → Pier) : State := s.setPier p (f (s.pier p))
def State.part (s : State) (q : Nat) : Part := kget q Part.reset s.parts
def State.setPart (s : State) (q : Nat) (x : Part) : State := { s with parts := kset q x s.parts }
def State.modPart (s : State) (q : Nat) (f : Part → Part) : State := s.setPart q (f (s.part q))
def State.out (s : State) (o : Out) : State := { s with outbox := s.outbox ++ [o] }

/-! Numbering (R439). -/

def brickOfCtx (c : Nat) : Nat := c / 4
def courseOfBrick (b : Nat) : Nat := b / 8
/-- The die of an agent: brick b below 1280, or die d's own agents, its distributor and fabric, as 1280 + d. -/
def dieOfBrick (b : Nat) : Nat := if b < 1280 then b / 80 else b - 1280
/-- The number under which a die's distributor and fabric access memory. -/
def dieAgent (d : Nat) : Nat := 1280 + d
def dieOfCtx (c : Nat) : Nat := c / 320
def pierOfDie (d : Nat) : Nat := d / 2
def pierOfBrick (b : Nat) : Nat := b / 160

/-- CTXID (R177). -/
def ctxIdOf (c : Nat) : Nat :=
  2 ^ 9 * (c / 320) + 2 ^ 5 * (c / 32 % 10) + 4 * (c / 4 % 8) + c % 4

/-- The context a CTXID names (R177). -/
def ctxOfId (x : Nat) : Nat := 320 * nbits x 9 4 + 32 * nbits x 5 4 + 4 * nbits x 2 3 + nbits x 0 2

/-- The partition that owns a brick's pier (R421). -/
def State.partOfBrick (s : State) (b : Nat) : Option Nat := (s.pier (pierOfBrick b)).owner

/-- The piers of a partition (R421). -/
def State.piersOf (s : State) (q : Nat) : List Nat :=
  (List.range 8).filter fun p => (s.pier p).owner == some q

/-- The dies of a partition. -/
def State.diesOf (s : State) (q : Nat) : List Nat := (s.piersOf q).flatMap fun p => [2 * p, 2 * p + 1]

/-- Arithmetic clock of an operating point, in MHz (R396). -/
def pointMHz (p : Nat) : Nat :=
  lget [1600, 1700, 1800, 1900, 2000, 2100, 2200, 2300, 2400, 2500, 2600, 2700, 2750, 2800, 2850, 2900] p 2500

/-- Logic-rail voltage of an operating point, in mV (R396). -/
def pointMV (p : Nat) : Nat :=
  lget [450, 470, 490, 510, 530, 550, 565, 580, 590, 600, 625, 650, 675, 700, 725, 750] p 600

/-- When the clock of a step under way changes, and the point whose clock then drives the course (R402, R403). -/
def Course.hop (c : Course) : Option (Nat × Nat) :=
  match c.step with
  | none => none
  | some (t0, p) => if c.clk = p then none else some (if p < c.cur then t0 + 100 else t0 + 500, p)

/-- CYCLE of a course's bricks in 1/1000 cycle: a stretched cycle takes twice its period, and a clock hop that has ended counts
from its end (R185, R398, R402, R405). -/
def Course.milliCycles (c : Course) (now : Nat) : Nat :=
  let span (p n : Nat) : Nat := pointMHz p * n / (if c.droop then 2 else 1)
  match c.hop with
  | none => c.cycBase + span c.clk (now - c.cycAt)
  | some (h, p) =>
    let h := max c.cycAt (min now h)
    c.cycBase + span c.clk (h - c.cycAt) + span p (now - h)

/-- CYCLE of a brick (R177). -/
def State.cycle (s : State) (b : Nat) : Nat := (s.course (courseOfBrick b)).milliCycles s.now / 1000

/-- Note the cycles so far, before the clock of a course changes. -/
def Course.rebase (c : Course) (now : Nat) : Course := { c with cycBase := c.milliCycles now, cycAt := now }

/-! Free values and identifiers. -/

def State.drawBool (s : State) : Bool × State := (Config.freeBool s.free, { s with free := s.free + 1 })
def State.drawNat (s : State) : Nat × State := (Config.freeNat s.free, { s with free := s.free + 1 })
def State.drawWord (s : State) : Word × State := (Config.freeWord s.free, { s with free := s.free + 1 })
def State.newUid (s : State) : Nat × State := (s.nextUid, { s with nextUid := s.nextUid + 1 })
def State.newId (s : State) : Nat × State := (s.nextId, { s with nextId := s.nextId + 1 })

/-- The n-th timeline of a task. -/
def Task.tl (t : Task) (n : Nat) : Timeline := lget t.tls n Timeline.zero
/-- A task with its n-th timeline replaced. -/
def Task.setTl (t : Task) (n : Nat) (x : Timeline) : Task := { t with tls := lset t.tls n x }

/-- The deque of a priority (R24). -/
def Brick.dq (b : Brick) (p : Nat) : List Nat :=
  match p with
  | 0 => b.dq0 | 1 => b.dq1 | 2 => b.dq2 | _ => b.dq3
/-- A brick with the deque of a priority replaced. -/
def Brick.setDq (b : Brick) (p : Nat) (l : List Nat) : Brick :=
  match p with
  | 0 => { b with dq0 := l } | 1 => { b with dq1 := l } | 2 => { b with dq2 := l } | _ => { b with dq3 := l }
/-- Every ready task of a brick's deques, priority order, head first. -/
def Brick.readyAll (b : Brick) : List Nat := b.dq0 ++ b.dq1 ++ b.dq2 ++ b.dq3

/-- Scratchpad size of a brick in bytes (R113). -/
def Brick.spadBytes (b : Brick) : Nat := (4096 - 8 * b.rfu - 64 * b.accu) * 1024

/-- The task bound to a context. -/
def State.taskOf (s : State) (c : Nat) : Option Task := s.task? (s.ctx c).uid

/-- The blocks of a context that are in flight on its brick, all contexts together. -/
def State.inFlight (s : State) (b : Nat) : Nat :=
  ((List.range 4).map fun k => (s.ctx (4 * b + k)).blks.length).sum

/-- Bound contexts of a brick. -/
def State.boundCtxs (s : State) (b : Nat) : List Nat :=
  ((List.range 4).map fun k => 4 * b + k).filter fun c => (s.ctx c).uid != 0

end Sys2Proof.Machine
end

