-- ==== Sys2Proof/Machine/Memory.lean ====
section
/-!
DEFINITION. Physical memory: bytes in one canonical form per space, poison (18 R393), the writes on their way to their
homes (12 R287, R288, R294) and what an agent reads through them. An unlisted byte reads 0 (log entry 4).
-/

namespace Sys2Proof.Machine

/-- Read one byte. -/
def mread (a : Nat) (m : List Host.Cell) : Byte := kget a 0 m
/-- Write one byte, keeping the canonical form. -/
def mwrite (a : Nat) (b : Byte) (m : List Host.Cell) : List Host.Cell := if b = 0 then kdel a m else kset a b m
/-- Read n bytes. -/
def mreadN (a : Nat) : Nat → List Host.Cell → List Byte
  | 0, _ => []
  | n + 1, m => mread a m :: mreadN (a + 1) n m
/-- Write bytes at consecutive addresses. -/
def mwriteN (a : Nat) : List Byte → List Host.Cell → List Host.Cell
  | [], m => m
  | b :: bs, m => mwriteN (a + 1) bs (mwrite a b m)

/-- The canonical form: addresses strictly rising above lo, no byte 0. -/
def Memory.wfFrom (lo : Nat) : List Host.Cell → Bool
  | [] => true
  | (a, b) :: r => lo ≤ a && b != 0 && Memory.wfFrom (a + 1) r
/-- The canonical form of a memory. -/
def Memory.wf (m : List Host.Cell) : Bool := Memory.wfFrom 0 m

/-- The bytes of a space. -/
def State.cells (s : State) : Space → List Host.Cell
  | .dram => s.dram | .spad => s.spad | .host => s.host | .acc => s.acc
/-- A state with the bytes of a space replaced. -/
def State.setCells (s : State) (sp : Space) (m : List Host.Cell) : State :=
  match sp with
  | .dram => { s with dram := m } | .spad => { s with spad := m }
  | .host => { s with host := m } | .acc => { s with acc := m }

/-- The poisoned words of a space (R393). -/
def State.bad (s : State) : Space → List Nat
  | .dram => s.badDram | .spad => s.badSpad | .acc => s.badAcc | .host => []
/-- A state with the poisoned words of a space replaced. -/
def State.setBad (s : State) (sp : Space) (l : List Nat) : State :=
  match sp with
  | .dram => { s with badDram := l } | .spad => { s with badSpad := l }
  | .acc => { s with badAcc := l } | .host => s

/-- n bytes as they stand at the home. -/
def State.homeRead (s : State) (l : PLoc) (n : Nat) : List Byte := mreadN l.a n (s.cells l.sp)

/-- Whether a read of n bytes meets a poisoned word (R393). -/
def State.poisoned (s : State) (l : PLoc) (n : Nat) : Bool :=
  (s.bad l.sp).any fun w => overlaps (8 * w) 8 l.a n

/-- Whether four aligned bytes and n bytes at a place share a byte. -/
def Heads.touches (h : Heads) (l : PLoc) (n : Nat) : Bool := h.sp == l.sp && overlaps (4 * h.half) 4 l.a n

/-- A plain write of n bytes ends the release sequences of the bytes it touches (R291). -/
def State.endHeads (s : State) (l : PLoc) (n : Nat) : State :=
  if s.heads.isEmpty then s else { s with heads := s.heads.filter fun h => !h.touches l n }

/-- The aligned groups of four bytes that n bytes reach. -/
def halvesOf (l : PLoc) (n : Nat) : List Nat := (List.range ((l.a + n + 3) / 4 - l.a / 4)).map fun i => l.a / 4 + i

/-- The releases whose sequences n bytes belong to, when they are known. -/
def State.headsAt (s : State) (l : PLoc) (n : Nat) : Option (List (Nat × Scope)) :=
  (halvesOf l n).foldl (fun o k => match o, s.heads.find? fun h => h.sp == l.sp && h.half == k with
    | some rs, some h => some (rs ++ h.rels)
    | _, _ => none) (some [])

/-- Note the releases whose sequence the value of n aligned bytes now belongs to (R291). -/
def State.setHeads (s : State) (l : PLoc) (n : Nat) (rels : List (Nat × Scope)) : State :=
  { s with heads := (halvesOf l n).map (fun k => ⟨l.sp, k, rels⟩) ++ s.heads.filter fun h => !h.touches l n }

/-- A write that an agent sees wakes the tasks whose MWAIT monitors a byte of it (R36). -/
def State.wakeMem (s : State) (l : PLoc) (n : Nat) : State :=
  let hit (t : Task) : Bool := match t.wake with
    | .mem m => m.sp == l.sp && overlaps m.a 8 l.a n
    | _ => false
  if s.tasks.any fun t => hit t.2 then
    { s with tasks := s.tasks.map fun t => if hit t.2 then (t.1, { t.2 with wake := .now }) else t }
  else s

/-- Write bytes at the home; a word wholly covered loses its poison (R393). -/
def State.homeWrite (s : State) (l : PLoc) (bs : List Byte) : State :=
  let s := (s.setCells l.sp (mwriteN l.a bs (s.cells l.sp))).endHeads l bs.length
  let s := s.wakeMem l bs.length
  if (s.bad l.sp).isEmpty then s
  else s.setBad l.sp ((s.bad l.sp).filter fun w => !(l.a ≤ 8 * w && 8 * w + 8 ≤ l.a + bs.length))

/-- The 8-byte word at a device address, as it stands at the home. -/
def State.dramWord (s : State) (a : Nat) : Nat := leNat (mreadN a 8 s.dram)

/-- The device address of a leaf entry, as a translation names it: 1 is added for a 32 MiB page. -/
def pteAddr (pte : Nat) : Nat := pte / 8 * 8
/-- The size of the page a leaf entry maps, as a translation names it. -/
def pteSize (pte : Nat) : Nat := if pte % 8 = 1 then 2 ^ 25 else 2 ^ 16

/-- Discard state of a leaf entry (R375): 0 live, 1 dying, 2 dead. -/
def State.discOf (s : State) (pte : Nat) : Nat := if pte = 0 then 0 else nbits (s.dramWord (pteAddr pte)) 8 2

/-- Whether every read of a page gives zero: it is dying or dead (R384). -/
def State.dying (s : State) (pte : Nat) : Bool := s.discOf pte == 1 || s.discOf pte == 2

/-- Drop the cached translations that come from a leaf entry. -/
def State.dropTransOf (s : State) (pte : Nat) : State :=
  { s with parts := s.parts.map fun (q, p) => (q, { p with tlb := p.tlb.filter fun e => e.2.pte != pte }) }

/-- Zero bytes in a range (R384, R423). -/
def State.zeroRange (s : State) (sp : Space) (a n : Nat) : State :=
  let s := (s.setCells sp ((s.cells sp).filter fun c => !(a ≤ c.1 && c.1 < a + n))).endHeads ⟨sp, a⟩ n
  s.setBad sp ((s.bad sp).filter fun w => !overlaps (8 * w) 8 a n)

/-- A dead page becomes live: it reads zero in every byte (R384). -/
def State.revive (s : State) (pte : Nat) : State :=
  let e := s.dramWord (pteAddr pte)
  let sp : Space := if e.testBit 6 then .host else .dram
  ((s.homeWrite ⟨.dram, pteAddr pte⟩ (leBytes 8 (e - 2 * 2 ^ 8))).dropTransOf pte).zeroRange sp
    (nbits e 12 45 * 2 ^ 12) (pteSize pte)

/-- A write reaches its home: a dying page drops it, a dead page becomes live first (R384). -/
def State.homeApply (s : State) (l : PLoc) (bs : List Byte) (pte : Nat) : State :=
  match s.discOf pte with
  | 1 => s
  | 2 => (s.revive pte).homeWrite l bs
  | _ => s.homeWrite l bs

/-- Bytes base with the bytes of a write at wa laid over, where base starts at a. -/
def overlay (base : List Byte) (a wa : Nat) (wb : List Byte) : List Byte :=
  if overlaps a base.length wa wb.length then
    (List.zip (List.range base.length) base).map fun (i, b) =>
      if wa ≤ a + i && a + i < wa + wb.length then lget wb (a + i - wa) b else b
  else base

/-- Whether an agent of a die, acting for a task, sees a pending write (R287): the die cache's writes of its die, and
the writes of the task itself that are still on their way. Uid 0 acts for no task. -/
def Write.seenBy (w : Write) (die : Nat) (uid : Nat) : Bool :=
  if w.cached then w.die == die else uid != 0 && w.uid == uid && w.cmd == 0

/-- n bytes as an agent of a die reads them, and the pending writes it sees there. -/
def State.viewRead (s : State) (die uid : Nat) (l : PLoc) (n : Nat) : List Byte × List Nat :=
  let ws := s.writes.filter fun w =>
    w.loc.sp == l.sp && overlaps w.loc.a w.bytes.length l.a n && w.seenBy die uid
  let cached := ws.filter (·.cached)
  let own := ws.filter fun w => !w.cached
  let bs := (cached ++ own).foldl (fun b w => overlay b l.a w.loc.a w.bytes) (s.homeRead l n)
  (bs, ws.map (·.id))

/-- Whether a pending write has performed at a scope (R287): in the die cache it has for agents of its die. -/
def Write.performedAt (w : Write) (sc : Scope) : Bool :=
  match sc with
  | .brick | .course | .die => w.cached
  | _ => false

/-- Whether writes named by number have performed at a scope. -/
def State.writesPerformed (s : State) (ids : List Nat) (sc : Scope) : Bool :=
  ids.all fun i => s.writes.all fun w => w.id != i || w.performedAt sc

/-- Append a pending write. -/
def State.addWrite (s : State) (w : Write) : State := { s with writes := s.writes ++ [w] }

/-- Pending writes of one space that overlap bytes and that an atomic of a task must see done first (R56, R288, R298). -/
def State.pendingAt (s : State) (die uid : Nat) (l : PLoc) (n : Nat) : List Write :=
  s.writes.filter fun w => w.loc.sp == l.sp && overlaps w.loc.a w.bytes.length l.a n && w.seenBy die uid

/-- The release sequences after a pending write has reached its home: a release starts its own (R291). -/
def State.writeHeads (s : State) (w : Write) : State :=
  match w.rel with
  | some sc => if w.fenced then s else s.setHeads w.loc w.bytes.length [(w.brick, sc)]
  | none => s

/-- A pending write reaches its home. -/
def State.performOne (s : State) (w : Write) : State :=
  { ((s.homeApply w.loc w.bytes w.pte).writeHeads w) with writes := s.writes.filter fun x => x.id != w.id }

/-- Perform the listed pending writes at their home, in order. -/
def State.performAll (s : State) (ws : List Write) : State := ws.foldl State.performOne s

/-- The writes in the die caches that a write or an atomic at a home must find performed: those to the same bytes, each
with every write that entered its die's cache before it (R284, R288, R292). Dies that skip names keep theirs. -/
def dragged (l : PLoc) (n : Nat) (skip : Nat → Bool) (ws : List Write) : List Write :=
  (ws.foldr (fun w (acc : List Write × List Nat) =>
    if w.cached && !skip w.die
        && (acc.2.contains w.die || (w.loc.sp == l.sp && overlaps w.loc.a w.bytes.length l.a n))
    then (w :: acc.1, w.die :: acc.2) else acc) ([], [])).1

/-- Write those home. -/
def State.drainLines (s : State) (l : PLoc) (n : Nat) (skip : Nat → Bool) : State :=
  if s.writes.isEmpty then s else s.performAll (dragged l n skip s.writes)

/-- A write made at a home at once: the die caches' writes of the same bytes go home before it (R284, R288). -/
def State.writeNow (s : State) (l : PLoc) (bs : List Byte) (pte : Nat) : State :=
  (s.drainLines l bs.length fun _ => false).homeApply l bs pte

/-! The die cache (R11): 96 MiB of 128-byte lines; the lines that pending writes touch, each counted once for each write. -/

def dieLines : Nat := 96 * 2 ^ 20 / 128
def Write.lines (w : Write) : Nat := (w.loc.a + w.bytes.length - 1) / 128 - w.loc.a / 128 + 1
def State.dirtyLines (s : State) (d : Nat) : Nat :=
  ((s.writes.filter fun w => w.cached && w.die == d).map Write.lines).sum

/-- While the die's cache has no room for n more lines, its oldest write goes home (R11). -/
def State.evictLines (d n : Nat) : Nat → State → State
  | 0, s => s
  | k + 1, s =>
    if s.dirtyLines d + n ≤ dieLines then s
    else match s.writes.find? fun w => w.cached && w.die == d with
      | some w => State.evictLines d n k (s.performOne w)
      | none => s
def State.makeRoom (s : State) (d n : Nat) : State := State.evictLines d n s.writes.length s

/-- A write enters the die cache of its die: other dies' writes of the same bytes go home first, so that the order in
which writes of a byte enter the caches is the coherence order (R284, R288). -/
def State.enterCache (s : State) (w : Write) : State :=
  let s := (s.drainLines w.loc w.bytes.length fun d => d == w.die).makeRoom w.die w.lines
  let s := s.wakeMem w.loc w.bytes.length
  { s with writes := (s.writes.filter fun x => x.id != w.id) ++ [{ w with cached := true }] }

end Sys2Proof.Machine
end

