-- ==== Sys2Proof/Machine/Translate.lean ====
section
/-!
DEFINITION. Address translation (18 R373 to R379), scratchpad windows (06 R112), the lease test (09 R189, 17 R358) and
the owner entries and counts of the residency array (18 R381, R382; its layout inside the 24 MiB is log entry 16).
-/

namespace Sys2Proof.Machine

/-- The kinds of access a translation is tested for (R376); `any` is the device's own, which no permission bit bars. -/
inductive Acc | read | write | fetch | any
  deriving DecidableEq, Repr

/-- How a walk ends (R376): a translation, a refusal by the entries, by the permissions, or a page not resident. -/
inductive Walk
  | ok (t : Trans)
  | invalid
  | denied
  | absent (t : Trans)
  deriving DecidableEq, Repr

/-- Device addresses that are DRAM of some pier of a partition, outside the residency array (R373, R375). -/
def State.partDram (s : State) (q a n : Nat) : Bool :=
  let p := a / Config.pierSpan
  let off := a % Config.pierSpan
  p < 8 && off + n ≤ Config.pierBytes - Config.residencyBytes && (s.pier p).owner == some q

/-- The index bits and entry size of each level (R374). -/
def levelLo (l : Nat) : Nat := lget [16, 25, 37, 50] l 50
def levelBits (l : Nat) : Nat := lget [9, 12, 13, 7] l 7

/-- Whether an entry of a level is well formed (R375). -/
def State.pteOk (s : State) (q l e : Nat) : Bool :=
  let leaf := e.testBit 2
  let host := e.testBit 6
  let addr := nbits e 12 45 * 2 ^ 12
  e.testBit 0 && nbits e 57 7 == 0 && nbits e 10 2 == 0 && !e.testBit 1 && nbits e 8 2 != 3
    && (if l ≥ 2 then !leaf else if l = 0 then leaf else true)
    && (if leaf then
          let size := if l = 1 then 2 ^ 25 else 2 ^ 16
          addr % size == 0 && (host || s.partDram q addr size)
        else
          let size := 8 * 2 ^ levelBits (l - 1)
          addr % size == 0 && s.partDram q addr size)

/-- Whether a table entry allows an access of a kind (R375, R376). -/
def pteAllows (e : Nat) : Acc → Bool
  | .read => e.testBit 3
  | .write => e.testBit 4
  | .fetch => e.testBit 5
  | .any => true

/-- The outcome of a walk below an entry: a translation admits what every level on its way admits (R376, R377). -/
def Walk.narrow (e : Nat) : Walk → Walk
  | .ok t => .ok { t with r := t.r && e.testBit 3, w := t.w && e.testBit 4, x := t.x && e.testBit 5 }
  | .absent t => .absent { t with r := t.r && e.testBit 3, w := t.w && e.testBit 4, x := t.x && e.testBit 5 }
  | r => r

/-- The walk from a table of level l (R374, R376); the level counts down. At each level in turn: V and form, permission,
residence (R376; log entry 22). A poisoned entry, whose bits no one receives (R393), ends the walk as a malformed one
(log entry 23). -/
def State.walkFrom (s : State) (q fa : Nat) (acc : Acc) : Nat → Nat → Walk
  | l, table =>
    let ea := table + 8 * nbits fa (levelLo l) (levelBits l)
    let e := s.dramWord ea
    if s.poisoned ⟨.dram, ea⟩ 8 || !s.pteOk q l e then .invalid
    else if !pteAllows e acc then .denied
    else if e.testBit 2 then
      let t : Trans :=
        { phys := nbits e 12 45 * 2 ^ 12, size := if l = 1 then 2 ^ 25 else 2 ^ 16, host := e.testBit 6, r := e.testBit 3,
          w := e.testBit 4, x := e.testBit 5, disc := nbits e 8 2, pte := ea + (if l = 1 then 1 else 0) }
      if !t.host && !e.testBit 7 then .absent t else .ok t
    else
      match l with
      | 0 => .invalid
      | l' + 1 => (s.walkFrom q fa acc l' (nbits e 12 45 * 2 ^ 12)).narrow e

/-- The walk of a flat address (R373, R376). A root table outside the DRAM of the partition's piers is not read: it answers
nothing to the partition's translation units (R421). -/
def State.walk (s : State) (q fa : Nat) (acc : Acc) : Walk :=
  if !(s.part q).xlctrl.getLsbD 0 || 2 ^ 57 ≤ fa || !s.partDram q (s.part q).xlroot.toNat 1024 then .invalid
  else s.walkFrom q fa acc 3 (s.part q).xlroot.toNat

/-- Whether an access of a kind is allowed by a cached translation. -/
def Trans.allows (t : Trans) : Acc → Bool
  | .read => t.r | .write => t.w | .fetch => t.x | .any => true

/-! Cached translations (R377): a brick is unit b, and the translation unit of pier p is unit 1280 + p. -/

/-- The translation unit of a pier. -/
def pierUnit (p : Nat) : Nat := 1280 + p
/-- The unit that translates for an agent: a brick for itself, a pier's unit for its dies. -/
def unitOf (b : Nat) : Nat := if b < 1280 then b else pierUnit (pierOfDie (b - 1280))
/-- The key of a unit's cached translation of a 64 KiB page. -/
def tlbKey (u page : Nat) : Nat := 2048 * page + u

/-- The translation a unit uses for an access (R376, R377): where the one it has cached differs from the tables, the old
one or the new one, by a free choice (log entry 15). -/
def State.unitWalk (s : State) (u q fa : Nat) (acc : Acc) : Walk :=
  let fresh := s.walk q fa acc
  if !(s.part q).xlctrl.getLsbD 0 then .invalid
  else match kget? (tlbKey u (fa / 2 ^ 16)) (s.part q).tlb with
  | none => fresh
  | some old =>
    if fresh = .ok old || !Config.useOld s.now s.free u (fa / 2 ^ 16) then fresh
    else if old.allows acc then .ok old else .denied

/-- A unit caches a completed walk, but no walk that ended otherwise (R377). -/
def State.keepTrans (s : State) (u q fa : Nat) : Walk → State
  | .ok t => s.modPart q fun p => { p with tlb := kset (tlbKey u (fa / 2 ^ 16)) t p.tlb }
  | _ => s

/-- Translate for an access and cache the result (R376, R377). -/
def State.xlate (s : State) (u q fa : Nat) (acc : Acc) : Walk × State :=
  let w := s.unitWalk u q fa acc
  (w, s.keepTrans u q fa w)

/-- The physical place of a flat address under a translation. -/
def Trans.loc (t : Trans) (fa : Nat) : PLoc := ⟨if t.host then .host else .dram, t.phys + fa % t.size⟩

/-- The scratchpad place of a window address for a brick (R112): none outside the windows, some none where it is unmapped.
A die's own agents have no windows. -/
def State.spadLoc (s : State) (b fa : Nat) : Option (Option PLoc) :=
  if fa < Config.localWin then none
  else if 1280 ≤ b then some none
  else if fa < Config.unmappedWin then
    let x := fa - Config.localWin
    some (if x < (s.brick b).spadBytes then some ⟨.spad, b * Config.poolBytes + x⟩ else none)
  else if fa < Config.courseWin then some none
  else if fa < Config.courseWin + 8 * Config.poolBytes then
    let off := fa - Config.courseWin
    let b' := courseOfBrick b * 8 + off / Config.poolBytes
    let x := off % Config.poolBytes
    some (if x < (s.brick b').spadBytes then some ⟨.spad, b' * Config.poolBytes + x⟩ else none)
  else none

/-- How far a run of covered bytes reaches from a: fuel bounds the ranges used. -/
def coverEnd (ranges : List (Nat × Nat)) : Nat → Nat → Nat
  | 0, a => a
  | n + 1, a =>
    match ranges.find? fun r => r.1 ≤ a && a < r.1 + r.2 with
    | some r => coverEnd ranges n (r.1 + r.2)
    | none => a

/-- Whether n bytes from a lie inside a union of ranges. -/
def covered (ranges : List (Nat × Nat)) (a n : Nat) : Bool := a + n ≤ coverEnd ranges (ranges.length + 1) a

/-- The ranges of a task's lease: its own and the scratchpad windows (R189, R358). -/
def Task.leaseAll (t : Task) : List (Nat × Nat) :=
  t.lease ++ t.added ++ [(Config.localWin, Config.poolBytes), (Config.courseWin, 8 * Config.poolBytes)]

/-- Whether n bytes from a lie inside the task's lease (R189). -/
def Task.inLease (t : Task) (a n : Nat) : Bool := covered t.leaseAll a n

/-! The residency array (R381, R382): counts at the pier's last 24 MiB, owner entries in its second half; 8 bytes of
counts (pin, then in flight) for each 64 KiB, 4 bytes of owner for each 32 KiB (log entry 16). -/

def residencyBase (a : Nat) : Nat :=
  a / Config.pierSpan * Config.pierSpan + Config.pierBytes - Config.residencyBytes

/-- Where the counts of the 64 KiB that hold a device address stand. -/
def countAt (a : Nat) : Nat := residencyBase a + 8 * (a % Config.pierSpan / 2 ^ 16)
/-- Where the owner entry of the 32 KiB frame that holds a device address stands. -/
def ownerAt (a : Nat) : Nat := residencyBase a + 12 * 2 ^ 20 + 4 * (a % Config.pierSpan / 2 ^ 15)

/-- The pin count and the in-flight count of a device address (R381). -/
def State.pinCount (s : State) (a : Nat) : Nat := leNat (mreadN (countAt a) 4 s.dram)
def State.flightCount (s : State) (a : Nat) : Nat := leNat (mreadN (countAt a + 4) 4 s.dram)

/-- Set a count; the 32-bit field wraps. -/
def State.setCount (s : State) (at4 : Nat) (x : Nat) : State := s.homeWrite ⟨.dram, at4⟩ (leBytes 4 x)

/-- The 64 KiB parts of a page. -/
def pageParts (phys size : Nat) : List Nat := (List.range (size / 2 ^ 16)).map fun i => phys + i * 2 ^ 16

/-- Pin a page once (R359): every 64 KiB part of it counts. -/
def State.pinPage (s : State) (phys size : Nat) : State :=
  (pageParts phys size).foldl (fun s a => s.setCount (countAt a) (s.pinCount a + 1)) s
/-- Undo one pin of a page (R361). -/
def State.unpinPage (s : State) (phys size : Nat) : State :=
  (pageParts phys size).foldl (fun s a => s.setCount (countAt a) (s.pinCount a - 1)) s
/-- Raise the in-flight count of the 64 KiB that hold a device address (R381). -/
def State.flightUp (s : State) (a : Nat) : State := s.setCount (countAt a + 4) (s.flightCount a + 1)
/-- Lower it. -/
def State.flightDown (s : State) (a : Nat) : State := s.setCount (countAt a + 4) (s.flightCount a - 1)

/-- Whether a page is pinned, or in flight (R381). -/
def State.pagePinned (s : State) (phys size : Nat) : Bool := (pageParts phys size).any fun a => s.pinCount a != 0
def State.pageInFlight (s : State) (phys size : Nat) : Bool := (pageParts phys size).any fun a => s.flightCount a != 0

/-- The owner entry recorded for the frame that holds a place (R382). -/
def State.ownerEntry (s : State) (q : Nat) (l : PLoc) : Nat :=
  match l.sp with
  | .dram => leNat (mreadN (ownerAt l.a) 4 s.dram)
  | .host => (kget (l.a / 2 ^ 15) 0 (s.part q).hostOwners).toNat
  | _ => 0

/-- What an access to a translated place is told of its owner (R382): tensor id, OWNED, SHARED. Every host frame counts as
SHARED while the host owner table has overflowed. -/
def State.ownerOf (s : State) (q : Nat) (l : PLoc) : Nat × Bool × Bool :=
  let e := s.ownerEntry q l
  (e % 2 ^ 16, e.testBit 16, e.testBit 17 || (l.sp == .host && (s.part q).hostOverflow))

/-- An owner entry after a tensor has been recorded in it (R382): the first id stays, a second one makes it SHARED. -/
def ownerAdd (e id : Nat) : Nat :=
  if !e.testBit 16 then id % 2 ^ 16 + 2 ^ 16
  else if e % 2 ^ 16 = id % 2 ^ 16 then e % 2 ^ 18
  else e % 2 ^ 16 + 3 * 2 ^ 16

/-- Record that a tensor names a frame (R382, at registration and at translation). -/
def State.recordOwner (s : State) (q id : Nat) (l : PLoc) : State :=
  let e := ownerAdd (s.ownerEntry q l) id
  match l.sp with
  | .dram => s.homeWrite ⟨.dram, ownerAt l.a⟩ (leBytes 4 e)
  | .host =>
    let p := s.part q
    let k := l.a / 2 ^ 15
    if (kget? k p.hostOwners).isSome || p.hostOwners.length < 65536 then
      s.setPart q { p with hostOwners := kset k (BitVec.ofNat 32 e) p.hostOwners }
    else s.setPart q { p with hostOverflow := true }
  | _ => s

/-- Rewrite the owner entry of a frame from the tensors still registered that name it (R382, at release). -/
def State.rewriteOwner (s : State) (q : Nat) (l : PLoc) (ids : List Nat) : State :=
  let e := match ids with
    | [] => 0
    | [i] => i % 2 ^ 16 + 2 ^ 16
    | i :: _ =>
      let old := s.ownerEntry q l
      (if old.testBit 16 && ids.contains (old % 2 ^ 16) then old % 2 ^ 16 else i % 2 ^ 16) + 3 * 2 ^ 16
  match l.sp with
  | .dram => s.homeWrite ⟨.dram, ownerAt l.a⟩ (leBytes 4 e)
  | .host =>
    s.modPart q fun p =>
      let m := if e = 0 then kdel (l.a / 2 ^ 15) p.hostOwners else kset (l.a / 2 ^ 15) (BitVec.ofNat 32 e) p.hostOwners
      { p with hostOwners := m, hostOverflow := p.hostOverflow && 65536 ≤ m.length }
  | _ => s

/-! The tensor directory (R378). -/

/-- Flat base of the directory, when it is enabled. -/
def State.dirBase (s : State) (q : Nat) : Option Nat :=
  let r := (s.part q).tileroot
  if r.getLsbD 0 then some (wbits r 20 37 * 2 ^ 20) else none

/-- A directory entry: table flat address, tile count, references, VALID (R378). -/
structure DirEnt where
  table : Nat
  tiles : Nat
  refs : Nat
  valid : Bool
  deriving DecidableEq, Repr

/-- How a directory entry is found: TILEROOT [56:20] is a flat base, translated as any address (R378, R379). -/
inductive DirGot
  | ok (e : DirEnt)
  /-- its page is not resident: the page -/
  | absent (page : Nat)
  | poison (addr : Nat)
  | bad
  deriving DecidableEq, Repr

/-- The entry in the 16 bytes of a directory entry. -/
def DirEnt.ofBytes (b : List Byte) : DirEnt := ⟨field b 0 8, field b 8 4, field b 12 2, (field b 14 1).testBit 0⟩

/-- n bytes at the home under a translation: zero in a dying or dead page (R384). -/
def State.transRead (s : State) (t : Trans) (fa n : Nat) : List Byte :=
  if s.dying t.pte then List.replicate n 0 else s.homeRead (t.loc fa) n

/-- Read a directory entry through the flat translation of a unit (R379 step 3). -/
def State.dirFind (s : State) (u q id : Nat) : DirGot :=
  match s.dirBase q with
  | none => .bad
  | some b =>
    match s.unitWalk u q (b + 16 * id) .read with
    | .ok t =>
      if !s.dying t.pte && s.poisoned (t.loc (b + 16 * id)) 16 then .poison (b + 16 * id)
      else .ok (DirEnt.ofBytes (s.transRead t (b + 16 * id) 16))
    | .absent t => .absent ((b + 16 * id) / t.size * t.size)
    | .invalid | .denied => .bad

/-- The page of a directory entry, for the release of a lease, which waits for nothing: an entry whose page is not resident is
left as it is (log entry 24). -/
def State.dirPage (s : State) (q id : Nat) : Option (Trans × Nat) :=
  (s.dirBase q).bind fun b => match s.walk q (b + 16 * id) .any with
    | .ok t => some (t, b + 16 * id)
    | .absent _ | .invalid | .denied => none

/-- The directory entry as the release of a lease reads it. -/
def State.dirRead (s : State) (q id : Nat) : Option DirEnt :=
  (s.dirPage q id).bind fun (t, a) =>
    if !s.dying t.pte && s.poisoned (t.loc a) 16 then none else some (DirEnt.ofBytes (s.transRead t a 16))

/-- Write a directory entry; its reserved byte is left alone (R4, R378). -/
def State.dirWrite (s : State) (q id : Nat) (e : DirEnt) : State :=
  match s.dirPage q id with
  | none => s
  | some (t, a) =>
    s.homeApply (t.loc a) (leBytes 8 e.table ++ leBytes 4 e.tiles ++ leBytes 2 e.refs ++ [BitVec.ofNat 8 e.valid.toNat]) t.pte

end Sys2Proof.Machine
end

