-- ==== Sys2Proof/Machine/Records.lean ====
section
/-!
DEFINITION. Flat accesses of the device's own agents, fault records and the fault queue (18 R387 to R389), interrupts
(20 R419, R420), and the error bit of a graph (17 R371).
-/

namespace Sys2Proof.Machine

/-! Flat accesses by the distributor, the units and the engines. -/

/-- How a flat address is translated for agent b: through a scratchpad window, or by its unit (R112, R377). -/
def State.flatWalk (s : State) (q b fa : Nat) (acc : Acc) : Option (PLoc × Nat) :=
  match s.spadLoc b fa with
  | some l => l.map fun l => (l, 0)
  | none => match s.unitWalk (unitOf b) q fa acc with
    | .ok t => some (t.loc fa, t.pte)
    | _ => none

/-- The place of a flat address for agent b. -/
def State.flatLoc (s : State) (q b fa : Nat) (acc : Acc) : Option PLoc := (s.flatWalk q b fa acc).map (·.1)

/-- The device address of the leaf entry a flat address is translated by, 0 for none. -/
def State.flatPte (s : State) (q b fa : Nat) (acc : Acc) : Nat := ((s.flatWalk q b fa acc).map (·.2)).getD 0

/-- The pieces of a flat range, each inside one 64 KiB page: flat address and length. -/
def pieces : Nat → Nat → Nat → List (Nat × Nat)
  | 0, _, _ => []
  | fuel + 1, fa, n =>
    if n = 0 then []
    else
      let k := min n (2 ^ 16 - fa % 2 ^ 16)
      (fa, k) :: pieces fuel (fa + k) (n - k)

def piecesOf (fa n : Nat) : List (Nat × Nat) := pieces (n / 2 ^ 16 + 2) fa n

/-- Bytes of a flat range as an agent of a die reads them for a task; none where some page has no translation. A dying or
dead page reads zero (R384). -/
def State.readFlat (s : State) (q b uid fa n : Nat) : Option (List Byte) :=
  (piecesOf fa n).foldl (fun acc p =>
    match acc, s.flatLoc q b p.1 .read with
    | some bs, some l =>
      if !s.dying (s.flatPte q b p.1 .read) then some (bs ++ (s.viewRead (dieOfBrick b) uid l p.2).1)
      else some (bs ++ List.replicate p.2 0)
    | _, _ => none) (some [])

/-- The poisoned words among n bytes that no write in view covers whole (R393). -/
def State.badWords (s : State) (die uid : Nat) (l : PLoc) (n : Nat) : List Nat :=
  ((s.bad l.sp).filter fun w => overlaps (8 * w) 8 l.a n).filter fun w => !s.writes.any fun p =>
    p.loc.sp == l.sp && p.seenBy die uid && p.loc.a ≤ 8 * w && 8 * w + 8 ≤ p.loc.a + p.bytes.length

/-- Whether a flat range meets a poisoned word as an agent reads it for a task (R393), and the address of the first. -/
def State.flatPoison (s : State) (q b uid fa n : Nat) : Option Nat :=
  (piecesOf fa n).foldl (fun acc p =>
    match acc, s.flatWalk q b p.1 .read with
    | some a, _ => some a
    | none, some (l, pte) =>
      (match if s.dying pte then [] else s.badWords (dieOfBrick b) uid l p.2 with
      | [] => none
      | w :: ws => some (p.1 + (ws.foldl min w * 8 - l.a)))
    | none, none => none) none

/-- Write a flat range at its home; a page without a translation is left alone. -/
def State.writeFlat (s : State) (q b fa : Nat) (bs : List Byte) : State :=
  ((piecesOf fa bs.length).foldl (fun (x : State × List Byte) p =>
    match x.1.flatLoc q b p.1 .write with
    | some l => (x.1.writeNow l (x.2.take p.2) (x.1.flatPte q b p.1 .write), x.2.drop p.2)
    | none => (x.1, x.2.drop p.2)) (s, bs)).1

/-! Fault records (R387). -/

/-- The fields of a fault record that its rule fills; sequence and partition are added when it is written. -/
structure FaultRec where
  cause : Nat
  reason : Nat := 0
  source : Nat := 0
  flags : Nat := 0
  graph : Word := 0
  blk : Nat := 0
  addr : Nat := 0
  task : Nat := 0
  ctxId : Nat := 0
  engine : Nat := 0
  cmd : Nat := 0
  item : Nat := 0
  resume : Nat := 0
  deriving DecidableEq, Repr

/-- The 64 bytes of a record (R387). -/
def FaultRec.bytes (r : FaultRec) (seq q : Nat) : List Byte :=
  leBytes 1 r.cause ++ leBytes 1 r.reason ++ leBytes 1 r.source ++ leBytes 1 r.flags ++ leBytes 4 seq
    ++ leBytes 8 r.graph.toNat ++ leBytes 8 r.blk ++ leBytes 8 r.addr ++ leBytes 4 (r.task % 2 ^ 20)
    ++ leBytes 2 r.ctxId ++ leBytes 1 r.engine ++ leBytes 1 q ++ leBytes 8 r.cmd ++ leBytes 8 r.item
    ++ leBytes 8 r.resume

/-- Set an interrupt status bit of a partition; a newly set, enabled bit sends its vector (R419, R420). -/
def State.interrupt (s : State) (q bit : Nat) : State :=
  let p := s.part q
  let fresh := !p.intstat.getLsbD bit
  let s := s.setPart q { p with intstat := p.intstat ||| (1 <<< bit) }
  if fresh && p.inten.getLsbD bit then s.out (.msix q bit) else s

/-- Whether the fault queue is full (R389). -/
def Part.fqFull (p : Part) : Bool := (p.fqtail.toNat + 2 ^ 32 - p.fqhead.toNat) % 2 ^ 32 = p.fqsize

/-- The flat address of the next record of the queue (R389). -/
def Part.fqNext (p : Part) : Nat := p.fqbase.toNat + 64 * (p.fqtail.toNat % p.fqsize)

/-- Count a dropped record (R373). -/
def Part.lose (p : Part) : Part :=
  { p with fqlost := if p.fqlost = BitVec.allOnes 64 then p.fqlost else p.fqlost + 1 }

/-- Put a record into the queue where there is room and its slot can be written: the state and the record's address,
none when it is not written (R389). -/
def State.putRecord (s : State) (q : Nat) (bs : List Byte) : State × Option Nat :=
  let p := s.part q
  match s.walk q p.fqNext .write with
  | .ok t =>
    let s := s.writeNow (t.loc p.fqNext) bs t.pte
    let s := s.modPart q fun p => { p with fqtail := BitVec.ofNat 64 ((p.fqtail.toNat + 1) % 2 ^ 32) }
    (s.interrupt q 0, some p.fqNext)
  | _ => (s.modPart q Part.lose, none)

/-- Write a fault record no one waits on (R389): the state and the record's address, 0 when it was dropped. A dropped
record takes a sequence number too (log entry 21). -/
def State.report (s : State) (q : Nat) (r : FaultRec) : State × Nat :=
  let p := s.part q
  let s := s.setPart q { p with seq := if p.seq + 1 = 2 ^ 32 then 0 else p.seq + 1 }
  if p.fqFull then (s.modPart q Part.lose, 0)
  else match s.putRecord q (r.bytes p.seq q) with
    | (s, a) => (s, a.getD 0)

/-- Whether an address lies in the page that EVREQ is evicting (R383). -/
def State.evicting (s : State) (q a : Nat) : Bool :=
  (s.part q).evPage.any fun e => match s.walk q e .any with
    | .ok t | .absent t => a / t.size == e / t.size
    | .invalid | .denied => false

/-- What a residency request comes to (R380, R389). -/
inductive Asked
  /-- the record is written or waits for room; its sequence number -/
  | waiting (seq : Nat)
  /-- its slot cannot be written: answered fail at once -/
  | failed
  deriving DecidableEq, Repr

/-- Raise a residency request for a waiter (R380): cause TRANSLATION, source 6, flag RESIDENCY, and FROZEN for a port. It
waits for room in the queue, and, where it names a page under eviction, for the end of the eviction (R383). -/
def State.request (s : State) (q : Nat) (r : FaultRec) (w : Waiter) : State × Asked :=
  let p := s.part q
  let r := { r with cause := 7, source := 6, flags := r.flags ||| 1 }
  let s := s.setPart q { p with seq := if p.seq + 1 = 2 ^ 32 then 0 else p.seq + 1 }
  if p.fqFull || s.evicting q r.addr then
    (s.modPart q fun p' => { p' with fqWait := p'.fqWait ++ [(r.bytes p.seq q, w)], waits := kset p.seq w p'.waits },
      .waiting p.seq)
  else
    match s.putRecord q (r.bytes p.seq q) with
    | (s, none) => (s, .failed)
    | (s, some _) => (s.modPart q fun p' => { p' with waits := kset p.seq w p'.waits }, .waiting p.seq)

/-! Graphs (R371). -/

/-- Whether a task keeps its graph live: fired, ready, bound or suspended. -/
def Task.live (t : Task) : Bool :=
  match t.phase with
  | .firing _ | .ready | .bound _ | .suspended => true
  | .ending .. | .finished => false

/-- Whether a graph is live on a die (R371). -/
def State.liveOn (s : State) (d : Nat) (g : Word) : Bool :=
  (s.die d).frames.any (fun f => f.2.graph == g) || s.tasks.any fun t => t.2.die == d && t.2.graph == g && t.2.live

/-- Whether a graph is live in a partition. -/
def State.graphLive (s : State) (q : Nat) (g : Word) : Bool := (s.diesOf q).any fun d => s.liveOn d g

/-- Set the error bit of a live graph (R371). -/
def State.graphError (s : State) (q : Nat) (g : Word) : State :=
  if g != 0 && s.graphLive q g && !(s.part q).errGraphs.contains g then
    s.modPart q fun p => { p with errGraphs := p.errGraphs ++ [g] }
  else s

/-- Drop the error bits and overrides of graphs that have been live and are no longer (R364, R371). -/
def State.sweepGraphs (s : State) (q : Nat) : State :=
  let s := s.modPart q fun p => { p with errGraphs := p.errGraphs.filter fun g => s.graphLive q g }
  (s.diesOf q).foldl (fun s d => s.modDie d fun x =>
    { x with graphs := x.graphs.filter fun g => g.2.teardown || !g.2.begun || s.graphLive q g.1 }) s

/-- Whether a graph is being torn down on a die (R372). -/
def State.tearing (s : State) (d : Nat) (g : Word) : Bool :=
  (s.die d).graphs.any fun x => x.1 == g && x.2.teardown

end Sys2Proof.Machine
end

