-- ==== Sys2Proof/Machine/FrameStore.lean ====
section
/-!
DEFINITION. Where frame records stand (17 R351 to R353): their bytes, the tag store that caches pool records, spill
records, and what a frame's end does with its record.
-/

namespace Sys2Proof.Machine

/-! Records (R351). -/

/-- Whether a slot lets its frame fire (R20). -/
def FSlot.full : FSlot → Bool
  | .scalar x => x.isSome
  | .handle x => x.isSome
  | .counter c => c == 0

/-- The counts of a frame's counter slots. -/
def slotCounts (l : List FSlot) : List Nat := l.filterMap fun x => match x with
  | .counter c => some c
  | _ => none

/-- A frame's record (R351), in pieces with their offsets: the reserved bytes between them are left alone (R4). -/
def Frame.pieces (f : Frame) (id : Nat) : List (Nat × List Byte) :=
  let fullBits := ((List.zip (List.range 8) f.slots).map fun (i, x) => match x with
    | .counter _ => 0
    | x => if x.full then 2 ^ i else 0).sum
  let ovr := match f.override with
    | some p => 0x80 + p
    | none => 0
  let slotBytes (x : FSlot) : List Byte := match x with
    | .scalar (some v) => leBytes 64 v.toNat
    | .handle (some v) => leBytes 64 v.toNat
    | _ => leBytes 64 0
  [(0, leBytes 8 f.cls.addr ++ leBytes 8 f.graph.toNat ++ leBytes 8 f.cont.toNat ++ leBytes 4 (2 ^ 31 + id)
      ++ leBytes 1 fullBits ++ leBytes 1 ovr),
    (32, leBytes 2 ((slotCounts f.slots).getD 0 0) ++ leBytes 2 ((slotCounts f.slots).getD 1 0)),
    (64, (List.range 8).flatMap fun i => slotBytes (lget f.slots i (.counter 0)))]

/-- The flat address of pool record r of a die (R351). -/
def Die.poolAt (d : Die) (r : Nat) : Nat := d.poolBase.toNat + 576 * r

/-- Where a frame's record stands in memory, if it does (R352). -/
def State.recordAt (s : State) (die : Nat) : FramePlace → Option Nat
  | .tag _ => none
  | .pool r => some ((s.die die).poolAt r)
  | .spill area r => some (area + 576 * r)

/-- Write a frame's record where it stands in memory. -/
def State.syncFrame (s : State) (die idx : Nat) (f : Frame) : State :=
  match s.recordAt die f.place with
  | none => s
  | some a => (f.pieces (die * 2 ^ 16 + idx)).foldl (fun s p => s.writeFlat f.part (dieAgent die) (a + p.1) p.2) s

/-- Clear the VALID bit of a spill record (R353). -/
def State.clearValid (s : State) (q die : Nat) : FramePlace → State
  | .spill area r => s.writeFlat q (dieAgent die) (area + 576 * r + 24) (leBytes 4 0)
  | .tag _ | .pool _ => s

/-- The pool record that a place takes up. -/
def FramePlace.poolRec : FramePlace → Option Nat
  | .tag r | .pool r => some r
  | .spill .. => none

/-! The tag store (R352). -/

/-- Its entries. -/
def tagEntries : Nat := 4096

/-- A frame's record in the tag store moves to its pool record. -/
def State.evictTag (s : State) (die idx : Nat) (f : Frame) : State :=
  match f.place with
  | .tag r =>
    let f := { f with place := .pool r }
    (s.modDie die fun d => { d with frames := kset idx f d.frames }).syncFrame die idx f
  | .pool _ | .spill .. => s

/-- Of some frames, the one allocated earliest. -/
def earliest (l : KMap Frame) : Option (Nat × Frame) :=
  l.foldl (fun best f => match best with
    | none => some f
    | some g => if f.2.seq < g.2.seq then some f else some g) none

/-- Make room for one more entry: the frame allocated earliest leaves a full tag store (log entry 29). -/
def State.tagRoom (s : State) (die : Nat) : State :=
  let tagged := (s.die die).frames.filter fun f => match f.2.place with
    | .tag _ => true
    | _ => false
  if tagged.length < tagEntries then s
  else match earliest tagged with
    | some (idx, f) => s.evictTag die idx f
    | none => s

/-- Whether a frame's record in memory meets a poisoned word (R17, R392). -/
def State.recordBad (s : State) (die : Nat) (f : Frame) : Bool :=
  match s.recordAt die f.place with
  | some a => (s.flatPoison f.part (dieAgent die) 0 a 576).isSome
  | none => false

/-- A frame's record meets an uncorrectable error (R17, R392): its graph's error bit is set, and it leaves the die with no
continuation or stamp. -/
def State.loseFrame (s : State) (die idx : Nat) (f : Frame) : State :=
  let s := (s.graphError f.part f.graph).clearValid f.part die f.place
  (s.modDie die fun d => { d with frames := kdel idx d.frames }).sweepGraphs f.part

/-- A pool record that became free takes the spilled frame of the die that was allocated earliest (R353); a spilled frame
whose record cannot be read fails (R392). -/
def State.migrate (s : State) (die r : Nat) : Nat → State
  | 0 => s
  | n + 1 =>
    match earliest ((s.die die).frames.filter fun f => f.2.place.poolRec.isNone) with
    | none => s
    | some (idx, f) =>
      if s.recordBad die f then (s.loseFrame die idx f).migrate die r n
      else
        let f' := { f with place := .pool r }
        let s := s.clearValid f.part die f.place
        (s.modDie die fun d => { d with frames := kset idx f' d.frames }).syncFrame die idx f'

/-- Give a frame's or a reservation's record back (R353). -/
def State.giveRecord (s : State) (q die : Nat) (p : FramePlace) : State :=
  match p.poolRec with
  | some r => s.migrate die r (s.die die).frames.length
  | none => s.clearValid q die p

/-- Free a frame's index and record (R20, R353). -/
def State.freeFrame (s : State) (die idx : Nat) : State :=
  match kget? idx (s.die die).frames with
  | none => s
  | some f => (s.modDie die fun d => { d with frames := kdel idx d.frames }).giveRecord f.part die f.place

/-- A frame whose record cannot be read is freed (R17, R392). -/
def State.frameFail (s : State) (die idx : Nat) (f : Frame) : State :=
  ((s.graphError f.part f.graph).freeFrame die idx).sweepGraphs f.part

/-- Fetch a pool record into the tag store, with room made for it (R352); it fails where it cannot be read (R392). -/
def State.fetchTag (s : State) (die idx r : Nat) (f : Frame) : State :=
  if s.recordBad die f then s.frameFail die idx f
  else (s.tagRoom die).modDie die fun d => { d with frames := kset idx { f with place := .tag r } d.frames }

/-- Put a frame's new contents where its record stands. -/
def State.putFrame (s : State) (die idx : Nat) (f : Frame) : State :=
  (s.modDie die fun d => { d with frames := kset idx f d.frames }).syncFrame die idx f

/-- A graph of a partition is live from now on (R364, R371). -/
def State.beginGraph (s : State) (q : Nat) (g : Word) : State :=
  (s.diesOf q).foldl (fun s d =>
    if (s.die d).graphs.any fun x => x.1 == g && !x.2.begun then s.modDie d fun x =>
      { x with graphs := x.graphs.map fun y => if y.1 == g then (g, { y.2 with begun := true }) else y }
    else s) s

/-- Allocate a frame: one that takes a pool record enters the tag store (R211, R352). -/
def State.addFrame (s : State) (die idx : Nat) (f : Frame) : State :=
  ((if f.place.poolRec.isSome then s.tagRoom die else s).beginGraph f.part f.graph).putFrame die idx f

end Sys2Proof.Machine
end

