-- ==== Sys2Proof/Machine/RingHeader.lean ====
section
/-!
DEFINITION. The header of a reorder ring (06 R136).
-/

namespace Sys2Proof.Machine

/-- A ring header read from its 64 bytes (R136). -/
structure RingHdr where
  ticket : Nat
  head : Nat
  array : Nat
  cap : Nat
  big : Bool
  ok : Bool
  deriving DecidableEq, Repr

def RingHdr.of (bs : List Byte) : RingHdr :=
  let cap := field bs 24 4
  let es := field bs 28 1
  { ticket := field bs 0 8, head := field bs 8 8, array := field bs 16 8, cap := cap, big := es == 1,
    ok := cap != 0 && cap ≤ 65536 && 2 ^ Nat.log2 cap == cap && es ≤ 1 && field bs 16 8 % 8 == 0 && field bs 29 35 == 0 }

def RingHdr.esize (r : RingHdr) : Nat := if r.big then 32 else 8
/-- ticket − head (R137, R225), as a 64-bit number. -/
def RingHdr.occ (r : RingHdr) : Nat := (r.ticket + 2 ^ 64 - r.head) % 2 ^ 64
/-- The flat address of entry t (R136). -/
def RingHdr.entry (r : RingHdr) (hdr t : Nat) : Nat := hdr + 64 + t % r.cap * r.esize
/-- The flat address of the byte that holds the full bit of entry t, and the bit in it (R136). -/
def RingHdr.bit (r : RingHdr) (t : Nat) : Nat × Nat := (r.array + t % r.cap / 8, t % r.cap % 8)

/-- Bytes of the full-bit array of a capacity (R136). -/
def ringArray (cap : Nat) : Nat := cdiv cap 64 * 8

end Sys2Proof.Machine
end

