-- ==== Sys2Proof/WellFormed.lean ====
section
/-!
DEFINITION. Which terms of Instr stand for an encoding or a step of the machine: the limits on operands that R139 to
R150 and the instruction entries give, so that an ill-formed term has no encoding (R151).
-/

namespace Sys2Proof

/-- Bytes of one element (R229). -/
def ElemTy.bytes : ElemTy → Nat
  | .f32 => 4 | .f64 => 8 | .bf16 => 2 | .s32 => 4 | .n32 => 4 | .s64 => 8 | .s16 => 2 | .s8 => 1

/-- Lanes of a vector register (R229). -/
def ElemTy.lanes (t : ElemTy) : Nat := 128 / t.bytes

/-- The F types of R146. -/
def ElemTy.isFloat : ElemTy → Bool
  | .f32 | .f64 | .bf16 => true
  | .s32 | .n32 | .s64 | .s16 | .s8 => false

/-- The highest register number plus one of an XREAD or XWRITE kind (R43; log entry 14). -/
def XKind.count : XKind → Nat
  | .v => 32 | .h => 16 | .m => 8

/-- Parts a VCVT may name (R240). -/
def vcvtPartOk (dst src : ElemTy) (part : Nat) : Bool :=
  dst != src &&
    (if dst.lanes < src.lanes then part < src.lanes / dst.lanes
     else if src.lanes < dst.lanes then part < dst.lanes / src.lanes
     else part == 0)

/-- The limits of the shift immediates (R160). -/
def shiftImmOk (w : Bool) (imm : BitVec 9) : Bool := imm.toNat < (if w then 32 else 64)

/-- The vector shift amount (R237). -/
def vshiftOk (ty : ElemTy) (vb : BitVec 5) (amt : BitVec 6) : Bool :=
  !ty.isFloat && amt.toNat < 8 * ty.bytes && (amt == 0 || vb == 0)

/-- The chunk of VACRD and VACWR, and the types they admit (R146, R249). -/
def chunkOk (ty : ElemTy) (q : BitVec 6) : Bool :=
  match ty with
  | .f32 | .s32 => q.toNat < 4
  | .s64 => q.toNat < 8
  | _ => false

/-- The kind of a grout operator id, by its code (R304). -/
def groutKind (op : Nat) : Option Nat :=
  if op < 0x10 then some 0 else if op < 0x20 then some 1 else if op < 0x40 then some 2
  else if op < 0x50 then some 3 else if op < 0x60 then some 4 else if op < 0x68 then some 5
  else if op < 0x70 then some 6 else if op < 0x78 then some 9 else if op < 0x80 then some 10
  else if op < 0x90 then some 11 else if op < 0xB0 then some 7 else if op < 0xD0 then some 8 else none

/-- Whether a GARG register exists at an operator (R325). -/
def gargRegOk (op reg : Nat) : Bool := (groutKind op).isSome && (reg ≤ 4 || (reg == 7 && groutKind op == some 0))

/-- Control registers that can be read (R177). -/
def ctlReadable (r : Nat) : Bool :=
  [0x000, 0x001, 0x002, 0x010, 0x011, 0x020, 0x021, 0x022, 0x024, 0x025, 0x100, 0x101, 0x102, 0x103, 0x110, 0x111,
   0x200, 0x201, 0x202, 0x203, 0x204, 0x205].contains r

/-- Control registers that some context may write (R177). -/
def ctlWritable (r : Nat) : Bool := [0x011, 0x100, 0x101, 0x102, 0x103, 0x111, 0x200, 0x203].contains r

/-- The ranges a FENCER names, 1 to 4 (R145, R203). -/
def fenceRangesOk (hm : BitVec 16) (flat : Bool) : Bool :=
  let n := ((List.range 16).filter hm.getLsbD).length + flat.toNat
  1 ≤ n && n ≤ 4

/-- The MSET fields each kind uses (R248). -/
def msetOk (k : MsetKind) (md mb : BitVec 3) (t1 t0 : Target) : Bool :=
  match k with
  | .and | .or => t1 == 0 && t0 == 0
  | .not => mb == 0 && t1 == 0 && t0 == 0
  | .popc => md == 0 && mb == 0

/-- The MMAC operand format (R263). -/
def mmacFmtOk (fmt : BitVec 5) (w : BitVec 4) : Bool := fmt.toNat ≤ 2 || (fmt.toNat ≤ 5 && w == 0)

/-- Whether the row has an encoding, so that it can stand in a block; the others are steps of the machine. -/
def Instr.encodes : Instr → Bool
  | .launchWindowWrite .. | .launchAccept .. | .tokenApply .. | .tkillApply .. | .spawnRetry .. | .leaseEstablish ..
  | .taskBind .. | .taskAging .. | .blockMap .. | .blockCommit .. | .trapTaken .. | .contextSuspend .. | .taskWake ..
  | .wakeTimeout .. | .watchdogExpiry .. | .taskCompletion .. | .accumulatorRelease .. | .idleWake .. | .debugHalt ..
  | .writePerform .. | .atomicPerform .. | .monitorWrite .. | .monitorPoll .. | .fencePerform .. | .qfillHome ..
  | .qinitHome .. | .barrierArrival .. | .copyExecute .. | .chainRecord .. | .gatherScatterExecute .. | .xredExecute ..
  | .xiredExecute .. | .xpklExecute .. | .pklQueryScore .. | .discardExecute .. | .pageDeath .. | .engineCommandFinish ..
  | .pmaStart .. | .mmaStreamStep .. | .pmaComplete .. | .networkPacketSend .. | .networkAck .. | .packetRetransmit ..
  | .destinationTimeout .. | .networkArrival .. | .gcfgApply .. | .greconfApply .. | .reconfToken .. | .gargApply ..
  | .gsendArrival .. | .grecvDeliver .. | .gdrainComplete .. | .configFetch .. | .srcRound .. | .snkToken .. | .mapToken ..
  | .filtToken .. | .coalToken .. | .isectToken .. | .partToken .. | .gathToken .. | .scatToken .. | .sredToken ..
  | .exqToken .. | .exqTimer .. | .exqRetry .. | .dpreempt .. | .preemptSave .. | .drepriop .. | .dteardown ..
  | .teardownComplete .. | .dplace .. | .dsplitApply .. | .timeSliceExpiry .. | .drainSlotFree .. | .registerWrite ..
  | .fqanswer .. | .fqheadWrite .. | .fqlostClear .. | .evreq .. | .evictionComplete .. | .patrolScrub ..
  | .intervalBoundary .. | .vfStep .. | .droopEvent .. | .droopRecovery .. | .stallSample .. | .governorAction ..
  | .boostNotice .. | .boostExpiry .. | .thermalShutdown | .droopcntClear .. | .throtcntClear .. | .netstatClear ..
  | .pintstatClear .. | .hostMemoryAccess .. | .ideKeySetup .. | .tdispStateChange .. | .attestationReport .. | .partcfg ..
  | .netcfg .. | .dbgen .. | .dbgresume .. | .fwstage .. | .fwapply | .mgmtreset | .packageReset | .partitionReset ..
  | .managementFlr | .bootSequence | .gdrainArrival .. => false
  | _ => true

/-- The operand limits of an instruction with an encoding. -/
def Instr.wf : Instr → Bool
  | .xread k r _ _ => r.toNat < k.count
  | .xwrite _ k r => r.toNat < k.count
  | .shli _ w imm _ | .shri _ w imm _ | .sari _ w imm _ => shiftImmOk w imm
  | .fcvt _ c _ _ => c.toNat < 13 || 15 < c.toNat
  | .fencer _ _ _ hm f _ _ | .fencerArm _ hm f _ _ | .fencerDisarm _ hm f _ _ => fenceRangesOk hm f
  | .tfork _ n _ _ => n.toNat < 3
  | .qinit _ lg => lg.toNat ≤ 16
  | .vfma _ ty _ _ _ _ => ty.isFloat
  | .vabs _ ty _ _ _ | .vneg _ ty _ _ _ => ty != .n32
  | .vand _ ty _ _ _ _ | .vor _ ty _ _ _ _ | .vxor _ ty _ _ _ _ => !ty.isFloat
  | .vshl _ ty _ _ _ vb a | .vshr _ ty _ _ _ vb a | .vsar _ ty _ _ _ vb a => vshiftOk ty vb a
  | .vcmp _ ty _ _ _ _ c => ty.isFloat || c != .un
  | .vcvt _ ty _ _ _ src p => vcvtPartOk ty src p.toNat
  | .vrcp _ ty _ _ _ | .vrsq _ ty _ _ _ | .vexp2 _ ty _ _ _ | .vlog2 _ ty _ _ _ => ty.isFloat
  | .mset _ k md _ mb t1 t0 => msetOk k md mb t1 t0
  | .vplane _ ty _ _ _ _ => !ty.isFloat
  | .vacrd _ ty _ _ _ q | .vacwr _ ty _ _ _ q => chunkOk ty q
  | .mmac _ _ _ _ _ _ _ _ fmt w _ _ => mmacFmtOk fmt w
  | .gcfg _ c | .gdrain _ c _ => c != 15
  | .garg _ op c reg => c != 15 && gargRegOk op.toNat reg.toNat
  | .gsend _ op c | .grecv _ op c => c != 15 && groutKind op.toNat == some 11
  | .greconf _ op c => c != 15 && (groutKind op.toNat == some 11 || groutKind op.toNat == some 0)
  | .gstat _ op c _ _ => c != 15 && (groutKind op.toNat).isSome
  | .ctlrd _ r _ _ => ctlReadable r.toNat
  | .ctlwr _ r | .ctlset _ r | .ctlclr _ r => ctlWritable r.toNat
  | _ => true

end Sys2Proof
end

