-- ==== Sys2Proof/Decode.lean ====
section
/-!
DEFINITION. Decoding (R46 to R48, R139 to R151) and, after it, the encoder. decodeAt is total: a slot's word and the
word after it give an instruction or the map-time code of R63 that refuses it, in the order 0x10, 0x11, 0x12, 0x13.
-/

namespace Sys2Proof

/-- Why a word is no instruction (R63 codes 0x10 to 0x13; truncated: an X-format word with no second word, 0x08). -/
inductive DecodeError
  | reservedMajor | badPr | unassigned | nonzero | truncated
  deriving DecidableEq, Repr

/-- The TRAPINFO code of a refusal (R63). -/
def DecodeError.code : DecodeError → Nat
  | .reservedMajor => 0x10 | .badPr => 0x11 | .unassigned => 0x12 | .nonzero => 0x13 | .truncated => 0x08

/-- Bits [lo + n - 1 : lo] of a word. -/
def fld (w : Word32) (lo n : Nat) : BitVec n := w.extractLsb' lo n

/-- The major opcode (R46). -/
def majorOf (w : Word32) : Nat := w.toNat / 2 ^ 25

/-- The X-format majors (R47). -/
def isX (maj : Nat) : Bool :=
  [0x06, 0x0B, 0x58, 0x59, 0x5A, 0x5C, 0x68, 0x6A, 0x6B, 0x71, 0x78, 0x79, 0x7A, 0x7B, 0x7C].contains maj

/-- The reserved majors (R63 code 0x10). -/
def isReserved (m : Nat) : Bool :=
  m == 0 || (0x2A ≤ m && m ≤ 0x2F) || (0x34 ≤ m && m ≤ 0x37) || (0x43 ≤ m && m ≤ 0x47) || (0x55 ≤ m && m ≤ 0x57)
    || m == 0x67 || m == 0x76 || m == 0x77 || (0x7D ≤ m && m ≤ 0x7F)

/-- A value that a table assigns, or code 0x12. -/
def assigned {α : Type} : Option α → Except DecodeError α
  | some a => .ok a
  | none => .error .unassigned

/-- Code 0x12 unless the condition holds. -/
def guard12 (c : Bool) : Except DecodeError Unit := if c then .ok () else .error .unassigned
/-- Code 0x13 unless the condition holds. -/
def guard13 (c : Bool) : Except DecodeError Unit := if c then .ok () else .error .nonzero

def Pr.ofBits : BitVec 2 → Except DecodeError Pr
  | 0 => .ok .always | 1 => .error .badPr | 2 => .ok .onFalse | 3 => .ok .onTrue
def Scope.ofBits : BitVec 3 → Option Scope
  | 0 => some .brick | 1 => some .course | 2 => some .die | 3 => some .pier | 4 => some .dev | 5 => some .sys
  | _ => none
def ElemTy.ofBits : BitVec 3 → ElemTy
  | 0 => .f32 | 1 => .f64 | 2 => .bf16 | 3 => .s32 | 4 => .n32 | 5 => .s64 | 6 => .s16 | 7 => .s8
def XKind.ofBits : BitVec 2 → Option XKind
  | 0 => some .v | 1 => some .h | 2 => some .m | _ => none
def Cond.ofBits : BitVec 4 → Option Cond
  | 0 => some .eq | 1 => some .ne | 2 => some .lt | 3 => some .le | 4 => some .ltn | 5 => some .len | 6 => some .gt
  | 7 => some .ge | 8 => some .gtn | 9 => some .gen | _ => none
def FCond.ofBits : BitVec 4 → Option FCond
  | 0 => some .eq | 1 => some .lt | 2 => some .le | 3 => some .un | 4 => some .ne | _ => none
def Rm.ofBits : BitVec 3 → Option Rm
  | 0 => some .rne | 1 => some .rtz | 2 => some .rdn | 3 => some .rup | 4 => some .rmm | 7 => some .dyn | _ => none
def BitsKind.ofBits : BitVec 3 → Option BitsKind
  | 0 => some .clz | 1 => some .ctz | 2 => some .popc | 3 => some .brev | 4 => some .bswap | _ => none
def ExtW.ofBits : BitVec 2 → Option ExtW
  | 0 => some .b8 | 1 => some .b16 | 2 => some .b32 | _ => none
def SgnKind.ofBits : BitVec 3 → Option SgnKind
  | 0 => some .copysign | 1 => some .negsign | 2 => some .xorsign | 3 => some .abs | 4 => some .neg | _ => none
def AmoOp.ofBits : BitVec 4 → Option AmoOp
  | 0 => some .add | 1 => some .and | 2 => some .or | 3 => some .xor | 4 => some .smin | 5 => some .smax
  | 6 => some .nmin | 7 => some .nmax | 8 => some .swap | _ => none
def FamoOp.ofBits : BitVec 4 → Option FamoOp
  | 0 => some .fadd32 | 1 => some .fmin32 | 2 => some .fmax32 | 4 => some .fadd64 | 5 => some .fmin64
  | 6 => some .fmax64 | 8 => some .faddbf | _ => none
def Order.ofBits : BitVec 2 → Order
  | 0 => .rlx | 1 => .acq | 2 => .rel | 3 => .ar
def FenceKind.ofBits : BitVec 2 → Option FenceKind
  | 0 => some .rel | 1 => some .acq | 2 => some .ar | _ => none
def MCond.ofBits : BitVec 2 → Option MCond
  | 0 => some .ne | 1 => some .ge | _ => none
def SelfSel.ofBits : BitVec 5 → Option SelfSel
  | 0 => some .frame | 1 => some .cls | 2 => some .graph | _ => none
def VCond.ofBits : BitVec 6 → Option VCond
  | 0 => some .eq | 1 => some .ne | 2 => some .lt | 3 => some .le | 4 => some .gt | 5 => some .ge | 6 => some .un
  | _ => none
def RedOp.ofBits : BitVec 6 → Option RedOp
  | 0 => some .add | 1 => some .min | 2 => some .max | _ => none
def MsetKind.ofBits : BitVec 6 → Option MsetKind
  | 0 => some .and | 1 => some .or | 2 => some .not | 3 => some .popc | _ => none
def AccMode.ofBits : BitVec 2 → Option AccMode
  | 0 => some .fp32 | 1 => some .int32 | 2 => some .int64 | _ => none
def HField.ofBits : BitVec 3 → Option HField
  | 0 => some .row0 | 1 => some .col0 | 2 => some .rows | 3 => some .cols | 4 => some .window | 5 => some .trim
  | 6 => some .shape | _ => none
def HGetF.ofBits : BitVec 4 → Option HGetF
  | 0 => some .row0 | 1 => some .col0 | 2 => some .shape | 3 => some .window | 4 => some .status | 5 => some .d0
  | 6 => some .d1 | 7 => some .d2 | 8 => some .d3 | _ => none
def PxSize.ofBits : BitVec 2 → Option PxSize
  | 0 => some .e1 | 1 => some .e2 | 2 => some .e4 | _ => none
def InvKind.ofBits : BitVec 2 → Option InvKind
  | 0 => some .page | 1 => some .table | 2 => some .all | _ => none
def HintKind.ofBits : BitVec 8 → Option HintKind
  | 0 => some .none | 1 => some .code | 2 => some .heavy | 3 => some .light | _ => Option.none

/-- The fields of a G-layout word (R46). -/
structure GWord where
  pr : Pr
  xop : BitVec 5
  t1 : Target
  t0 : Target
  deriving DecidableEq, Repr

/-- Word 1 read in G layout; PR 01 is code 0x11. -/
def gword (w : Word32) : Except DecodeError GWord := do
  let pr ← Pr.ofBits (fld w 23 2)
  .ok ⟨pr, fld w 18 5, fld w 9 9, fld w 0 9⟩

/-- No targets: an instruction without results holds zero in both (R140). -/
def GWord.noT (g : GWord) : Bool := g.t1 == 0 && g.t0 == 0

/-- Majors 0x01 to 0x0B (R153 to R157). -/
def decPlumb (maj : Nat) (w v : Word32) : Except DecodeError Instr :=
  match maj with
  | 0x01 => do
    guard13 (fld w 24 1 == 0)
    .ok (.gread (fld w 18 6) (fld w 9 9) (fld w 0 9))
  | 0x02 => do
    let pr ← Pr.ofBits (fld w 23 2)
    guard13 (fld w 0 17 == 0)
    .ok (.gwrite pr (fld w 17 6))
  | 0x03 => do
    let k ← assigned (XKind.ofBits (fld w 23 2))
    guard12 ((fld w 18 5).toNat < k.count)
    .ok (.xread k (fld w 18 5) (fld w 9 9) (fld w 0 9))
  | 0x04 => do
    let pr ← Pr.ofBits (fld w 23 2)
    let k ← assigned (XKind.ofBits (fld w 21 2))
    guard12 ((fld w 16 5).toNat < k.count)
    guard13 (fld w 0 16 == 0)
    .ok (.xwrite pr k (fld w 16 5))
  | 0x05 => do
    let g ← gword w
    guard13 (g.xop == 0)
    .ok (.mov g.pr g.t1 g.t0)
  | 0x06 => do
    let g ← gword w
    guard13 (g.xop == 0 && fld v 18 14 == 0)
    .ok (.movl g.pr (fld v 9 9) (fld v 0 9) g.t1 g.t0)
  | 0x07 => do
    let g ← gword w
    guard13 (g.xop == 0)
    .ok (.null g.pr g.t1 g.t0)
  | 0x08 => .ok (.genc (fld w 9 16) (fld w 0 9))
  | 0x09 => .ok (.gencn (fld w 9 16) (fld w 0 9))
  | 0x0A => .ok (.appc (fld w 9 16) (fld w 0 9))
  | 0x0B => do
    let g ← gword w
    guard13 (g.xop == 0)
    .ok (.gencl g.pr v g.t1 g.t0)
  | _ => .error .reservedMajor

/-- Bit i of a 5-bit xop. -/
def xb (x : BitVec 5) (i : Nat) : Bool := x.getLsbD i

/-- Majors 0x0C to 0x1F (R158, R159, R161). -/
def decInt (maj : Nat) (w : Word32) : Except DecodeError Instr := do
  let g ← gword w
  let x := g.xop
  let wf := xb x 0
  let n := xb x 1
  -- the forms whose xop holds W alone, and those with N
  let only := guard13 (x.extractLsb' 1 4 == 0)
  let withN := guard13 (x.extractLsb' 2 3 == 0)
  match maj with
  | 0x0C => do only; .ok (.add g.pr wf g.t1 g.t0)
  | 0x0D => do only; .ok (.sub g.pr wf g.t1 g.t0)
  | 0x0E => do only; .ok (.mul g.pr wf g.t1 g.t0)
  | 0x0F => do withN; .ok (.mulh g.pr n wf g.t1 g.t0)
  | 0x10 => do withN; .ok (.div g.pr n wf g.t1 g.t0)
  | 0x11 => do withN; .ok (.rem g.pr n wf g.t1 g.t0)
  | 0x12 => do only; .ok (.and g.pr wf g.t1 g.t0)
  | 0x13 => do only; .ok (.or g.pr wf g.t1 g.t0)
  | 0x14 => do only; .ok (.xor g.pr wf g.t1 g.t0)
  | 0x15 => do only; .ok (.andn g.pr wf g.t1 g.t0)
  | 0x16 => do only; .ok (.shl g.pr wf g.t1 g.t0)
  | 0x17 => do only; .ok (.shr g.pr wf g.t1 g.t0)
  | 0x18 => do only; .ok (.sar g.pr wf g.t1 g.t0)
  | 0x19 => do only; .ok (.rot g.pr wf g.t1 g.t0)
  | 0x1A => do withN; .ok (.min g.pr n wf g.t1 g.t0)
  | 0x1B => do withN; .ok (.max g.pr n wf g.t1 g.t0)
  | 0x1C => do
    let k ← assigned (BitsKind.ofBits (x.extractLsb' 1 3))
    guard13 (!xb x 4)
    .ok (.bits g.pr k wf g.t1 g.t0)
  | 0x1D => do
    let s ← assigned (ExtW.ofBits (x.extractLsb' 2 2))
    guard13 (!xb x 4)
    .ok (.ext g.pr s n wf g.t1 g.t0)
  | 0x1E => do only; .ok (.sel g.pr wf g.t1 g.t0)
  | 0x1F => do only; .ok (.madd g.pr wf g.t1 g.t0)
  | _ => .error .reservedMajor

/-- Majors 0x20 to 0x29 and the compares 0x30 to 0x33 (R160, R162 to R164). -/
def decImm (maj : Nat) (w : Word32) : Except DecodeError Instr := do
  let g ← gword w
  let x := g.xop
  let wf := xb x 0
  let n := xb x 1
  let only := guard13 (x.extractLsb' 1 4 == 0)
  let withN := guard13 (x.extractLsb' 2 3 == 0)
  let shift := guard13 (x.extractLsb' 1 4 == 0 && shiftImmOk wf g.t1)
  match maj with
  | 0x20 => do only; .ok (.addi g.pr wf g.t1 g.t0)
  | 0x21 => do only; .ok (.muli g.pr wf g.t1 g.t0)
  | 0x22 => do only; .ok (.andi g.pr wf g.t1 g.t0)
  | 0x23 => do only; .ok (.ori g.pr wf g.t1 g.t0)
  | 0x24 => do only; .ok (.xori g.pr wf g.t1 g.t0)
  | 0x25 => do shift; .ok (.shli g.pr wf g.t1 g.t0)
  | 0x26 => do shift; .ok (.shri g.pr wf g.t1 g.t0)
  | 0x27 => do shift; .ok (.sari g.pr wf g.t1 g.t0)
  | 0x28 => do withN; .ok (.mini g.pr n wf g.t1 g.t0)
  | 0x29 => do withN; .ok (.maxi g.pr n wf g.t1 g.t0)
  | 0x30 => do
    let c ← assigned (Cond.ofBits (x.extractLsb' 0 4))
    .ok (.tcmp g.pr c (xb x 4) g.t1 g.t0)
  | 0x31 => do
    let c ← assigned (Cond.ofBits (x.extractLsb' 0 4))
    .ok (.tcmpi g.pr c (xb x 4) g.t1 g.t0)
  | 0x32 => do
    let c ← assigned (FCond.ofBits (x.extractLsb' 0 4))
    .ok (.fcmp g.pr c (xb x 4) g.t1 g.t0)
  | 0x33 => do
    guard12 (x.toNat < 2)
    .ok (.tbit g.pr wf g.t1 g.t0)
  | _ => .error .reservedMajor

/-- Majors 0x38 to 0x42 (R143, R144, R165 to R168). -/
def decFp (maj : Nat) (w : Word32) : Except DecodeError Instr := do
  let g ← gword w
  let x := g.xop
  let d := xb x 4
  let rm : Except DecodeError Rm := do
    let r ← assigned (Rm.ofBits (x.extractLsb' 0 3))
    guard13 (!xb x 3)
    .ok r
  let plain := guard13 (x.extractLsb' 0 4 == 0)
  match maj with
  | 0x38 => do let r ← rm; .ok (.fadd g.pr d r g.t1 g.t0)
  | 0x39 => do let r ← rm; .ok (.fsub g.pr d r g.t1 g.t0)
  | 0x3A => do let r ← rm; .ok (.fmul g.pr d r g.t1 g.t0)
  | 0x3B => do let r ← rm; .ok (.fdiv g.pr d r g.t1 g.t0)
  | 0x3C => do let r ← rm; .ok (.fsqrt g.pr d r g.t1 g.t0)
  | 0x3D => do let r ← rm; .ok (.fma g.pr d r g.t1 g.t0)
  | 0x3E => do plain; .ok (.fmin g.pr d g.t1 g.t0)
  | 0x3F => do plain; .ok (.fmax g.pr d g.t1 g.t0)
  | 0x40 => do
    guard12 (x.toNat < 13 || 15 < x.toNat)
    .ok (.fcvt g.pr x g.t1 g.t0)
  | 0x41 => do plain; .ok (.fclass g.pr d g.t1 g.t0)
  | 0x42 => do
    let k ← assigned (SgnKind.ofBits (x.extractLsb' 0 3))
    guard13 (!xb x 3)
    .ok (.fsgn g.pr d k g.t1 g.t0)
  | _ => .error .reservedMajor

/-- Majors 0x48 to 0x54 and PREF (R190 to R193, R209). -/
def decMem (maj : Nat) (w : Word32) : Except DecodeError Instr := do
  let g ← gword w
  let ls := g.xop
  let imm := g.t1
  let store := guard13 (g.t0 == 0)
  let acq : Except DecodeError (Scope × Bool) := do
    let sc ← assigned (Scope.ofBits (imm.extractLsb' 6 3))
    guard12 ((imm.extractLsb' 4 2).toNat < 2)
    .ok (sc, imm.getLsbD 4)
  match maj with
  | 0x48 => .ok (.ldb g.pr ls imm g.t0)
  | 0x49 => .ok (.ldbn g.pr ls imm g.t0)
  | 0x4A => .ok (.ldh g.pr ls imm g.t0)
  | 0x4B => .ok (.ldhn g.pr ls imm g.t0)
  | 0x4C => .ok (.ldw g.pr ls imm g.t0)
  | 0x4D => .ok (.ldwn g.pr ls imm g.t0)
  | 0x4E => .ok (.ldd g.pr ls imm g.t0)
  | 0x4F => do
    let (sc, d) ← acq
    guard13 (imm.extractLsb' 0 4 == 0)
    .ok (.lda g.pr ls sc d g.t0)
  | 0x50 => do store; .ok (.stb g.pr ls imm)
  | 0x51 => do store; .ok (.sth g.pr ls imm)
  | 0x52 => do store; .ok (.stw g.pr ls imm)
  | 0x53 => do store; .ok (.std g.pr ls imm)
  | 0x54 => do
    let (sc, d) ← acq
    guard13 (imm.extractLsb' 0 4 == 0 && g.t0 == 0)
    .ok (.stl g.pr ls sc d)
  | 0x5F => do store; .ok (.pref g.pr ls imm)
  | _ => .error .reservedMajor

/-- Majors 0x58 to 0x5E (R145, R194 to R208). -/
def decSync (maj : Nat) (w v : Word32) : Except DecodeError Instr := do
  let g ← gword w
  let x := g.xop
  let xz := x == 0
  let size : Except DecodeError Bool := do
    guard12 ((fld v 21 2).toNat < 2)
    .ok (v.getLsbD 21)
  let ls : BitVec 5 := fld v 27 5
  let o := Order.ofBits (fld v 16 2)
  match maj with
  | 0x58 => do
    let op ← assigned (AmoOp.ofBits (fld v 23 4))
    let d ← size
    let sc ← assigned (Scope.ofBits (fld v 18 3))
    guard13 (xz && fld v 0 16 == 0)
    .ok (.amo g.pr ls op d sc o g.t1 g.t0)
  | 0x59 => do
    guard12 (fld v 23 4 == 0)
    let d ← size
    let sc ← assigned (Scope.ofBits (fld v 18 3))
    guard13 (xz && fld v 0 16 == 0)
    .ok (.cas g.pr ls d sc o g.t1 g.t0)
  | 0x5A => do
    let op ← assigned (FamoOp.ofBits (fld v 23 4))
    let sc ← assigned (Scope.ofBits (fld v 18 3))
    guard13 (xz && fld v 21 2 == 0 && fld v 0 16 == 0)
    .ok (.famo g.pr ls op sc o g.t1 g.t0)
  | 0x5B => do
    let sc ← assigned (Scope.ofBits (x.extractLsb' 2 3))
    let k ← assigned (FenceKind.ofBits (x.extractLsb' 0 2))
    .ok (.fence g.pr sc k g.t1 g.t0)
  | 0x5C => do
    let hm : BitVec 16 := fld v 16 16
    let flat := v.getLsbD 14
    guard12 (!v.getLsbD 15 && fenceRangesOk hm flat)
    if x.extractLsb' 0 2 == 3 then do
      guard12 ((x.extractLsb' 2 3).toNat < 2)
      guard13 (fld v 0 14 == 0)
      .ok (if xb x 2 then .fencerDisarm g.pr hm flat g.t1 g.t0 else .fencerArm g.pr hm flat g.t1 g.t0)
    else do
      let sc ← assigned (Scope.ofBits (x.extractLsb' 2 3))
      let k ← assigned (FenceKind.ofBits (x.extractLsb' 0 2))
      guard13 (fld v 0 14 == 0)
      .ok (.fencer g.pr sc k hm flat g.t1 g.t0)
  | 0x5D => do guard13 xz; .ok (.fwait g.pr g.t1 g.t0)
  | 0x5E => do
    let sc ← assigned (Scope.ofBits (x.extractLsb' 2 3))
    let c ← assigned (MCond.ofBits (x.extractLsb' 0 2))
    .ok (.mwait g.pr sc c g.t1 g.t0)
  | _ => .error .reservedMajor

/-- Majors 0x60 to 0x66 (R169 to R174). -/
def decCtl (maj : Nat) (w : Word32) : Except DecodeError Instr := do
  let g ← gword w
  let x := g.xop
  let e : BitVec 3 := x.extractLsb' 0 3
  let hi := x.extractLsb' 3 2 == 0
  match maj with
  | 0x60 => .ok (.br g.pr (fld w 20 3) (fld w 0 20))
  | 0x61 => do guard13 (hi && g.noT); .ok (.bri g.pr e)
  | 0x62 => .ok (.callb g.pr (fld w 20 3) (fld w 0 20))
  | 0x63 => do guard13 (hi && g.noT); .ok (.retb g.pr e)
  | 0x64 => do
    guard13 (hi && g.t1 == 0 && (!g.t0.getLsbD 8 || g.t0.extractLsb' 0 8 == 0))
    .ok (if g.t0.getLsbD 8 then .tendOp0 g.pr e else .tend g.pr e (g.t0.extractLsb' 0 8))
  | 0x65 => .ok (.yield g.pr (fld w 20 3) (fld w 0 20))
  | 0x66 => do
    guard13 (x == 0 && !g.t1.getLsbD 8 && g.t0 == 0)
    .ok (.trap g.pr (g.t1.extractLsb' 0 8))
  | _ => .error .reservedMajor

/-- Majors 0x68 to 0x75 (R210 to R225). -/
def decTask (maj : Nat) (w v : Word32) : Except DecodeError Instr := do
  let g ← gword w
  let x := g.xop
  let xz := x == 0
  let barScope : Except DecodeError Scope := do
    let sc ← assigned (Scope.ofBits (x.extractLsb' 2 3))
    guard13 (x.extractLsb' 0 2 == 0)
    .ok sc
  match maj with
  | 0x68 => do guard13 (xz && fld v 1 31 == 0); .ok (.tspawn g.pr (v.getLsbD 0) g.t1 g.t0)
  | 0x69 => do
    guard12 ((x.extractLsb' 0 2).toNat < 2)
    guard13 g.noT
    .ok (.tsend g.pr (x.extractLsb' 2 3) (xb x 0))
  | 0x6A => do guard13 (xz && g.noT && fld v 0 25 == 0); .ok (.tsendh g.pr (fld v 28 4) (fld v 25 3))
  | 0x6B => do
    guard12 ((fld v 0 2).toNat < 3)
    guard13 (xz && fld v 2 30 == 0)
    .ok (.tfork g.pr (fld v 0 2) g.t1 g.t0)
  | 0x6C => do
    let k ← assigned (SelfSel.ofBits x)
    .ok (.tself g.pr k g.t1 g.t0)
  | 0x6D => do guard13 (xz && g.noT); .ok (.tkill g.pr)
  | 0x6E => do let sc ← barScope; .ok (.bara g.pr sc g.t1 g.t0)
  | 0x6F => do let sc ← barScope; .ok (.barw g.pr sc g.t1 g.t0)
  | 0x70 => do guard13 xz; .ok (.qtkt g.pr g.t1 g.t0)
  | 0x71 => do guard13 (xz && g.noT && v == 0); .ok (.qfill g.pr)
  | 0x72 => do guard13 xz; .ok (.qpop g.pr g.t1 g.t0)
  | 0x73 => do guard13 xz; .ok (.qpeek g.pr g.t1 g.t0)
  | 0x74 => do guard13 xz; .ok (.qocc g.pr g.t1 g.t0)
  | 0x75 => do
    guard12 (x.toNat ≤ 16)
    guard13 g.noT
    .ok (.qinit g.pr x)
  | _ => .error .reservedMajor

/-- Major 0x78 (R226, R227, R146). -/
def decVec (w v : Word32) : Except DecodeError Instr := do
  let g ← gword w
  let p := g.pr
  let d : BitVec 5 := fld v 19 5
  let a : BitVec 5 := fld v 14 5
  let b : BitVec 5 := fld v 9 5
  let m : BitVec 3 := fld v 6 3
  let x : BitVec 6 := fld v 0 6
  let dz := d == 0
  let az := a == 0
  let bz := b == 0
  let mz := m == 0
  let xz := x == 0
  let nt := g.noT
  let sub := (fld v 24 8).toNat
  guard12 (g.xop.toNat < 8 && sub < 0x28)
  let ty := ElemTy.ofBits (g.xop.extractLsb' 0 3)
  match sub with
  | 0x00 => do guard13 (az && bz && xz && nt); .ok (.vld p ty m d)
  | 0x01 => do guard13 (az && bz && xz && nt); .ok (.vlds p ty m d)
  | 0x02 => do guard13 (az && xz && nt); .ok (.vldx p ty m d b)
  | 0x03 => do guard13 (dz && bz && xz && nt); .ok (.vst p ty m a)
  | 0x04 => do guard13 (dz && bz && xz && nt); .ok (.vsts p ty m a)
  | 0x05 => do guard13 (dz && xz && nt); .ok (.vstx p ty m a b)
  | 0x06 => do guard13 (az && bz && xz && nt); .ok (.vbcst p ty m d)
  | 0x07 => do guard13 (bz && xz && nt); .ok (.vmov p ty m d a)
  | 0x08 => do guard13 (xz && nt); .ok (.vadd p ty m d a b)
  | 0x09 => do guard13 (xz && nt); .ok (.vsub p ty m d a b)
  | 0x0A => do guard13 (xz && nt); .ok (.vmul p ty m d a b)
  | 0x0B => do guard12 ty.isFloat; guard13 (xz && nt); .ok (.vfma p ty m d a b)
  | 0x0C => do guard13 (xz && nt); .ok (.vdiv p ty m d a b)
  | 0x0D => do guard13 (xz && nt); .ok (.vmin p ty m d a b)
  | 0x0E => do guard13 (xz && nt); .ok (.vmax p ty m d a b)
  | 0x0F => do guard12 (ty != .n32); guard13 (bz && xz && nt); .ok (.vabs p ty m d a)
  | 0x10 => do guard12 (ty != .n32); guard13 (bz && xz && nt); .ok (.vneg p ty m d a)
  | 0x11 => do guard12 (!ty.isFloat); guard13 (xz && nt); .ok (.vand p ty m d a b)
  | 0x12 => do guard12 (!ty.isFloat); guard13 (xz && nt); .ok (.vor p ty m d a b)
  | 0x13 => do guard12 (!ty.isFloat); guard13 (xz && nt); .ok (.vxor p ty m d a b)
  | 0x14 => do
    guard12 (!ty.isFloat && x.toNat < 8 * ty.bytes); guard13 ((xz || bz) && nt); .ok (.vshl p ty m d a b x)
  | 0x15 => do
    guard12 (!ty.isFloat && x.toNat < 8 * ty.bytes); guard13 ((xz || bz) && nt); .ok (.vshr p ty m d a b x)
  | 0x16 => do
    guard12 (!ty.isFloat && x.toNat < 8 * ty.bytes); guard13 ((xz || bz) && nt); .ok (.vsar p ty m d a b x)
  | 0x17 => do
    let c ← assigned (VCond.ofBits x)
    guard12 (ty.isFloat || c != .un)
    guard13 (d.extractLsb' 3 2 == 0 && nt)
    .ok (.vcmp p ty m (d.extractLsb' 0 3) a b c)
  | 0x18 => do guard13 (xz && nt); .ok (.vsel p ty m d a b)
  | 0x19 => do
    let src := ElemTy.ofBits (x.extractLsb' 0 3)
    guard12 (vcvtPartOk ty src (x.extractLsb' 3 3).toNat)
    guard13 (bz && nt)
    .ok (.vcvt p ty m d a src (x.extractLsb' 3 3))
  | 0x1A => do
    let op ← assigned (RedOp.ofBits x)
    guard13 (dz && bz)
    .ok (.vred p ty m a op g.t1 g.t0)
  | 0x1B => do
    let op ← assigned (RedOp.ofBits x)
    guard13 (bz && nt)
    .ok (.vscan p ty m d a op)
  | 0x1C => do guard13 (xz && nt); .ok (.vperm p ty m d a b)
  | 0x1D => do guard12 ty.isFloat; guard13 (bz && xz && nt); .ok (.vrcp p ty m d a)
  | 0x1E => do guard12 ty.isFloat; guard13 (bz && xz && nt); .ok (.vrsq p ty m d a)
  | 0x1F => do guard12 ty.isFloat; guard13 (bz && xz && nt); .ok (.vexp2 p ty m d a)
  | 0x20 => do guard12 ty.isFloat; guard13 (bz && xz && nt); .ok (.vlog2 p ty m d a)
  | 0x21 => do guard12 (ty == .f64); guard13 (bz && xz && nt); .ok (.vsplt p m d a)
  | 0x22 => do guard13 (dz && bz && mz && xz); .ok (.vgetl p ty a g.t1 g.t0)
  | 0x23 => do guard13 (az && bz && mz && xz && nt); .ok (.vsetl p ty d)
  | 0x24 => do
    let k ← assigned (MsetKind.ofBits x)
    guard12 (g.xop == 0)
    guard13 (d.extractLsb' 3 2 == 0 && a.extractLsb' 3 2 == 0 && b.extractLsb' 3 2 == 0 && mz
      && msetOk k (d.extractLsb' 0 3) (b.extractLsb' 0 3) g.t1 g.t0)
    .ok (.mset p k (d.extractLsb' 0 3) (a.extractLsb' 0 3) (b.extractLsb' 0 3) g.t1 g.t0)
  | 0x25 => do
    guard12 (!ty.isFloat); guard13 (bz && x.extractLsb' 1 5 == 0 && nt); .ok (.vplane p ty m d a (x.getLsbD 0))
  | 0x26 => do
    guard12 (ty == .f32 || ty == .s32 || ty == .s64)
    guard13 (az && !b.getLsbD 4 && chunkOk ty x && nt)
    .ok (.vacrd p ty m d (b.extractLsb' 0 4) x)
  | _ => do
    guard12 (ty == .f32 || ty == .s32 || ty == .s64)
    guard13 (dz && !b.getLsbD 4 && chunkOk ty x && nt)
    .ok (.vacwr p ty m a (b.extractLsb' 0 4) x)

/-- Major 0x79 (R252, R147). -/
def decTile (w v : Word32) : Except DecodeError Instr := do
  let g ← gword w
  let p := g.pr
  let x := g.xop
  let xz := x == 0
  let nt := g.noT
  let f20 : BitVec 4 := fld v 20 4
  let f16 : BitVec 4 := fld v 16 4
  let f12 : BitVec 4 := fld v 12 4
  match (fld v 24 8).toNat with
  | 0x00 => do guard13 (xz && nt && fld v 0 20 == 0); .ok (.hdef p f20)
  | 0x01 => do
    let f ← assigned (HField.ofBits (fld v 0 3))
    guard13 (xz && nt && fld v 3 13 == 0)
    .ok (.hset p f20 f16 f)
  | 0x02 => do guard13 (xz && nt && fld v 0 16 == 0); .ok (.hadv p f20 f16)
  | 0x03 => do
    let f ← assigned (HGetF.ofBits (fld v 0 4))
    guard13 (xz && f20 == 0 && fld v 4 12 == 0)
    .ok (.hget p f16 f g.t1 g.t0)
  | 0x04 => do
    let mode ← assigned (AccMode.ofBits (x.extractLsb' 1 2))
    guard13 (!xb x 0 && x.extractLsb' 3 2 == 0 && fld v 16 8 == 0 && fld v 0 12 == 0)
    .ok (.mzero p mode f12 g.t1 g.t0)
  | 0x05 => do
    let mode ← assigned (AccMode.ofBits (x.extractLsb' 1 2))
    guard13 (x.extractLsb' 3 2 == 0 && fld v 0 10 == 0)
    .ok (.mma p mode (xb x 0) f20 f16 f12 (v.getLsbD 11) (v.getLsbD 10) g.t1 g.t0)
  | 0x06 => do
    let mode ← assigned (AccMode.ofBits (x.extractLsb' 1 2))
    guard12 ((fld v 4 5).toNat ≤ 5)
    guard13 (x.extractLsb' 3 2 == 0 && !v.getLsbD 11 && mmacFmtOk (fld v 4 5) (fld v 0 4))
    .ok (.mmac p mode (xb x 0) f20 f16 f12 (v.getLsbD 10) (v.getLsbD 9) (fld v 4 5) (fld v 0 4) g.t1 g.t0)
  | 0x07 => do guard13 (xz && f16 == 0 && fld v 0 12 == 0); .ok (.mcvt p f20 f12 g.t1 g.t0)
  | 0x08 => do guard13 (xz && f20 == 0 && fld v 0 12 == 0); .ok (.madda p f16 f12 g.t1 g.t0)
  | 0x09 => do guard13 (xz && fld v 0 20 == 0); .ok (.ptrim p f20 g.t1 g.t0)
  | 0x0A => do
    let e ← assigned (PxSize.ofBits (fld v 18 2))
    guard13 (xz && fld v 0 17 == 0)
    .ok (.pxpose p f20 e (v.getLsbD 17) g.t1 g.t0)
  | 0x0B => do guard13 (xz && fld v 16 8 == 0 && fld v 0 12 == 0); .ok (.mstat p f12 g.t1 g.t0)
  | _ => .error .unassigned

/-- The release flag of a command (R148). -/
def decRel (x : BitVec 5) : Except DecodeError (Option Scope) :=
  if xb x 4 then do
    let sc ← assigned (Scope.ofBits (x.extractLsb' 0 3))
    guard13 (!xb x 3)
    .ok (some sc)
  else do
    guard13 (x.extractLsb' 0 4 == 0)
    .ok none

/-- Major 0x7A (R269, R148). -/
def decEng (w v : Word32) : Except DecodeError Instr := do
  let g ← gword w
  let p := g.pr
  let x := g.xop
  let chan := v.getLsbD 15
  let lo15 := fld v 0 15 == 0
  let body := fld v 0 24 == 0
  match (fld v 24 8).toNat with
  | 0x00 => do
    let r ← decRel x
    guard13 (fld v 0 14 == 0)
    .ok (.xcopy p r (fld v 20 4) (fld v 16 4) chan (v.getLsbD 14) g.t1 g.t0)
  | 0x01 => do
    let r ← decRel x
    guard13 (fld v 16 8 == 0 && fld v 0 14 == 0)
    .ok (.xcopyf p r chan (v.getLsbD 14) g.t1 g.t0)
  | 0x02 => do
    let r ← decRel x
    guard13 (fld v 16 8 == 0 && lo15)
    .ok (.xchain p r chan g.t1 g.t0)
  | 0x03 => do guard13 (x == 0 && fld v 16 8 == 0 && lo15); .ok (.xwptr p chan g.t1 g.t0)
  | 0x04 => do
    let sc ← assigned (Scope.ofBits (x.extractLsb' 0 3))
    guard13 (x.extractLsb' 3 2 == 0 && fld v 4 20 == 0)
    .ok (.waitt p sc (v.getLsbD 3) (fld v 0 3) g.t1 g.t0)
  | 0x05 => do guard13 (x == 0 && fld v 3 21 == 0); .ok (.rdtl p (fld v 0 3) g.t1 g.t0)
  | 0x06 => do
    let r ← decRel x
    guard13 (fld v 16 5 == 0)
    .ok (.xgath p r (fld v 21 3) (fld v 0 16) g.t1 g.t0)
  | 0x07 => do
    let r ← decRel x
    guard13 (fld v 16 5 == 0)
    .ok (.xscat p r (fld v 21 3) (fld v 0 16) g.t1 g.t0)
  | 0x08 => do let r ← decRel x; guard13 body; .ok (.xred p r g.t1 g.t0)
  | 0x09 => do let r ← decRel x; guard13 body; .ok (.xired p r g.t1 g.t0)
  | 0x0A => do let r ← decRel x; guard13 body; .ok (.xpkl p r g.t1 g.t0)
  | 0x0B => do let r ← decRel x; guard13 body; .ok (.nput p r g.t1 g.t0)
  | 0x0C => do let r ← decRel x; guard13 body; .ok (.nget p r g.t1 g.t0)
  | 0x0D => do let r ← decRel x; guard13 body; .ok (.namo p r g.t1 g.t0)
  | 0x0E => do
    let r ← decRel x
    guard13 (fld v 16 8 == 0 && lo15)
    .ok (.xdisc p r chan g.t1 g.t0)
  | _ => .error .unassigned

/-- Major 0x7B (R325, R149). -/
def decGrout (w v : Word32) : Except DecodeError Instr := do
  let g ← gword w
  let p := g.pr
  let op : BitVec 8 := fld v 16 8
  let c : BitVec 4 := fld v 12 4
  let opz := op == 0
  let lo := fld v 0 12 == 0
  let xz := g.xop == 0
  let nt := g.noT
  let ctxOk := guard12 (c != 15)
  match (fld v 24 8).toNat with
  | 0x00 => do ctxOk; guard13 (xz && nt && opz && lo); .ok (.gcfg p c)
  | 0x01 => do
    ctxOk
    guard12 (gargRegOk op.toNat (fld v 8 4).toNat)
    guard13 (xz && nt && fld v 0 8 == 0)
    .ok (.garg p op c (fld v 8 4))
  | 0x02 => do ctxOk; guard12 (groutKind op.toNat == some 11); guard13 (xz && nt && lo); .ok (.gsend p op c)
  | 0x03 => do ctxOk; guard12 (groutKind op.toNat == some 11); guard13 (xz && nt && lo); .ok (.grecv p op c)
  | 0x04 => do
    ctxOk
    guard12 (groutKind op.toNat == some 11 || groutKind op.toNat == some 0)
    guard13 (xz && nt && lo)
    .ok (.greconf p op c)
  | 0x05 => do ctxOk; guard12 (groutKind op.toNat).isSome; guard13 (xz && lo); .ok (.gstat p op c g.t1 g.t0)
  | 0x06 => do
    ctxOk
    guard13 (xz && nt && opz && fld v 1 11 == 0)
    .ok (.gdrain p c (v.getLsbD 0))
  | _ => .error .unassigned

/-- Major 0x7C (R175, R150). -/
def decSys (w v : Word32) : Except DecodeError Instr := do
  let g ← gword w
  let p := g.pr
  let xz := g.xop == 0
  let nt := g.noT
  let body := fld v 0 24 == 0
  let reg : BitVec 12 := fld v 0 12
  let rz := fld v 12 12 == 0
  match (fld v 24 8).toNat with
  | 0x00 => do guard12 (ctlReadable reg.toNat); guard13 (xz && rz); .ok (.ctlrd p reg g.t1 g.t0)
  | 0x01 => do guard12 (ctlWritable reg.toNat); guard13 (xz && rz && nt); .ok (.ctlwr p reg)
  | 0x02 => do guard12 (ctlWritable reg.toNat); guard13 (xz && rz && nt); .ok (.ctlset p reg)
  | 0x03 => do guard12 (ctlWritable reg.toNat); guard13 (xz && rz && nt); .ok (.ctlclr p reg)
  | 0x04 => do guard13 (xz && body && nt); .ok (.eret p)
  | 0x05 => do guard13 (xz && body); .ok (.ctxsv p g.t1 g.t0)
  | 0x06 => do guard13 (xz && body && nt); .ok (.ctxld p)
  | 0x07 => do
    let k ← assigned (InvKind.ofBits (fld v 0 2))
    guard13 (xz && fld v 2 22 == 0 && nt)
    .ok (.ttinv p k)
  | 0x08 => do
    guard13 (xz && fld v 1 23 == 0 && nt)
    .ok (if v.getLsbD 0 then .leaseDrop p else .leaseAdd p)
  | 0x09 => do guard13 (xz && body); .ok (.ptok p g.t1 g.t0)
  | 0x0A => do
    let k ← assigned (HintKind.ofBits (fld v 0 8))
    guard13 (xz && fld v 8 16 == 0 && nt)
    .ok (.hint p k)
  | 0x0B => do guard13 (xz && fld v 8 16 == 0 && nt); .ok (.haltd p (fld v 0 8))
  | 0x0C => do guard13 (xz && body); .ok (.cycrd p g.t1 g.t0)
  | 0x0D => do guard13 (xz && body && nt); .ok (.idle p)
  | _ => .error .unassigned

/-- The instruction of a slot word and the word after it; the second word is read only by the X formats (R47). -/
def decodeAt (w v : Word32) : Except DecodeError Instr :=
  let m := majorOf w
  if isReserved m then .error .reservedMajor
  else if m < 0x0C then decPlumb m w v
  else if m < 0x20 then decInt m w
  else if m < 0x38 then decImm m w
  else if m < 0x43 then decFp m w
  else if m < 0x58 || m == 0x5F then decMem m w
  else if m < 0x5F then decSync m w v
  else if m < 0x67 then decCtl m w
  else if m < 0x76 then decTask m w v
  else if m == 0x78 then decVec w v
  else if m == 0x79 then decTile w v
  else if m == 0x7A then decEng w v
  else if m == 0x7B then decGrout w v
  else decSys w v

/-- The first instruction of a list of slot words, and the words after it. -/
def decode : List Word32 → Except DecodeError (Instr × List Word32)
  | [] => .error .truncated
  | w :: ws =>
    if isX (majorOf w) then
      match ws with
      | [] => .error .truncated
      | v :: rest => do let i ← decodeAt w v; .ok (i, rest)
    else do let i ← decodeAt w 0; .ok (i, ws)

/-- The slot words whose bits, numbered as spec/opcode_table.json numbers them, are w; bits at or above nbits are 0. -/
def tableWords (nbits w : Nat) : List Word32 :=
  let x := w % 2 ^ nbits
  [BitVec.ofNat 32 x, BitVec.ofNat 32 (x / 2 ^ 32)]

/-- The instruction this decoder reads from a row's bits. -/
def decodeTableWord (nbits w : Nat) : Option Instr :=
  match decode (tableWords nbits w) with
  | .ok (i, _) => some i
  | .error _ => none

/-! The encoder, from the same tables. -/

def Pr.toBits : Pr → BitVec 2
  | .always => 0 | .onFalse => 2 | .onTrue => 3
def Scope.toBits : Scope → BitVec 3
  | .brick => 0 | .course => 1 | .die => 2 | .pier => 3 | .dev => 4 | .sys => 5
def ElemTy.toBits : ElemTy → BitVec 3
  | .f32 => 0 | .f64 => 1 | .bf16 => 2 | .s32 => 3 | .n32 => 4 | .s64 => 5 | .s16 => 6 | .s8 => 7
def XKind.toBits : XKind → BitVec 2
  | .v => 0 | .h => 1 | .m => 2
def Cond.toBits : Cond → BitVec 4
  | .eq => 0 | .ne => 1 | .lt => 2 | .le => 3 | .ltn => 4 | .len => 5 | .gt => 6 | .ge => 7 | .gtn => 8 | .gen => 9
def FCond.toBits : FCond → BitVec 4
  | .eq => 0 | .lt => 1 | .le => 2 | .un => 3 | .ne => 4
def Rm.toBits : Rm → BitVec 3
  | .rne => 0 | .rtz => 1 | .rdn => 2 | .rup => 3 | .rmm => 4 | .dyn => 7
def BitsKind.toBits : BitsKind → BitVec 3
  | .clz => 0 | .ctz => 1 | .popc => 2 | .brev => 3 | .bswap => 4
def ExtW.toBits : ExtW → BitVec 2
  | .b8 => 0 | .b16 => 1 | .b32 => 2
def SgnKind.toBits : SgnKind → BitVec 3
  | .copysign => 0 | .negsign => 1 | .xorsign => 2 | .abs => 3 | .neg => 4
def AmoOp.toBits : AmoOp → BitVec 4
  | .add => 0 | .and => 1 | .or => 2 | .xor => 3 | .smin => 4 | .smax => 5 | .nmin => 6 | .nmax => 7 | .swap => 8
def FamoOp.toBits : FamoOp → BitVec 4
  | .fadd32 => 0 | .fmin32 => 1 | .fmax32 => 2 | .fadd64 => 4 | .fmin64 => 5 | .fmax64 => 6 | .faddbf => 8
def Order.toBits : Order → BitVec 2
  | .rlx => 0 | .acq => 1 | .rel => 2 | .ar => 3
def FenceKind.toBits : FenceKind → BitVec 2
  | .rel => 0 | .acq => 1 | .ar => 2
def MCond.toBits : MCond → BitVec 2
  | .ne => 0 | .ge => 1
def SelfSel.toBits : SelfSel → BitVec 5
  | .frame => 0 | .cls => 1 | .graph => 2
def VCond.toBits : VCond → BitVec 6
  | .eq => 0 | .ne => 1 | .lt => 2 | .le => 3 | .gt => 4 | .ge => 5 | .un => 6
def RedOp.toBits : RedOp → BitVec 6
  | .add => 0 | .min => 1 | .max => 2
def MsetKind.toBits : MsetKind → BitVec 6
  | .and => 0 | .or => 1 | .not => 2 | .popc => 3
def AccMode.toBits : AccMode → BitVec 2
  | .fp32 => 0 | .int32 => 1 | .int64 => 2
def HField.toBits : HField → BitVec 3
  | .row0 => 0 | .col0 => 1 | .rows => 2 | .cols => 3 | .window => 4 | .trim => 5 | .shape => 6
def HGetF.toBits : HGetF → BitVec 4
  | .row0 => 0 | .col0 => 1 | .shape => 2 | .window => 3 | .status => 4 | .d0 => 5 | .d1 => 6 | .d2 => 7 | .d3 => 8
def PxSize.toBits : PxSize → BitVec 2
  | .e1 => 0 | .e2 => 1 | .e4 => 2
def InvKind.toBits : InvKind → BitVec 2
  | .page => 0 | .table => 1 | .all => 2
def HintKind.toBits : HintKind → BitVec 8
  | .none => 0 | .code => 1 | .heavy => 2 | .light => 3

/-- One bit of a field. -/
def bit (b : Bool) : BitVec 1 := BitVec.ofBool b

/-- A word in G layout (R46); the I, L and S formats place imm9 where T1 stands. -/
def packG (maj : BitVec 7) (pr : Pr) (xop : BitVec 5) (t1 t0 : Target) : Word32 :=
  maj ++ pr.toBits ++ xop ++ t1 ++ t0

/-- A word in B format (R46). -/
def packB (maj : BitVec 7) (pr : Pr) (e : BitVec 3) (off : BitVec 20) : Word32 := maj ++ pr.toBits ++ e ++ off

/-- Word 2 of a VEC instruction (R226). -/
def packV (sub : BitVec 8) (d a b : BitVec 5) (m : BitVec 3) (x : BitVec 6) : Word32 := sub ++ d ++ a ++ b ++ m ++ x

/-- Word 2 of a TILE or ENG instruction with three 4-bit fields (R252, R269). -/
def pack4 (sub : BitVec 8) (a b c : BitVec 4) (lo : BitVec 12) : Word32 := sub ++ a ++ b ++ c ++ lo

/-- xop of an integer instruction (R141). -/
def xopW (w : Bool) : BitVec 5 := 0#4 ++ bit w
/-- xop with N and W (R141). -/
def xopN (n w : Bool) : BitVec 5 := 0#3 ++ bit n ++ bit w
/-- xop of a rounding instruction (R143). -/
def xopF (d : Bool) (rm : BitVec 3) : BitVec 5 := bit d ++ 0#1 ++ rm
/-- xop of a command (R148). -/
def xopRel : Option Scope → BitVec 5
  | none => 0
  | some s => 0b10#2 ++ s.toBits
/-- xop of a VEC instruction (R226). -/
def xopT (t : ElemTy) : BitVec 5 := 0#2 ++ t.toBits
/-- Word 2 of an atomic (R145). -/
def packA (ls : BitVec 5) (op : BitVec 4) (size : BitVec 2) (sc : Scope) (o : Order) : Word32 :=
  ls ++ op ++ size ++ sc.toBits ++ o.toBits ++ 0#16
/-- imm9 of LDA and STL (R191). -/
def immA (sc : Scope) (d : Bool) : BitVec 9 := sc.toBits ++ 0#1 ++ bit d ++ 0#4
/-- Word 2 of a FENCER (R203). -/
def packR (hm : BitVec 16) (flat : Bool) : Word32 := hm ++ 0#1 ++ bit flat ++ 0#14

/-- The words of a VEC instruction. -/
def encV (pr : Pr) (x : BitVec 5) (t1 t0 : Target) (sub : BitVec 8) (d a b : BitVec 5) (m : BitVec 3)
    (aux : BitVec 6) : List Word32 := [packG 0x78 pr x t1 t0, packV sub d a b m aux]

/-- The words of a TILE instruction. -/
def encT (pr : Pr) (x : BitVec 5) (t1 t0 : Target) (v : Word32) : List Word32 := [packG 0x79 pr x t1 t0, v]
/-- The words of an ENG instruction. -/
def encE (pr : Pr) (x : BitVec 5) (t1 t0 : Target) (v : Word32) : List Word32 := [packG 0x7A pr x t1 t0, v]
/-- The words of a GROUT instruction. -/
def encG (pr : Pr) (t1 t0 : Target) (sub : BitVec 8) (op : BitVec 8) (c : BitVec 4) (lo : BitVec 12) : List Word32 :=
  [packG 0x7B pr 0 t1 t0, sub ++ op ++ c ++ lo]
/-- The words of a SYS instruction. -/
def encS (pr : Pr) (t1 t0 : Target) (sub : BitVec 8) (lo : BitVec 24) : List Word32 :=
  [packG 0x7C pr 0 t1 t0, sub ++ lo]

/-- The slot words of a well-formed instruction; the empty list for the rows without an encoding. -/
def encode : Instr → List Word32
  | .gread r t1 t0 => [(0x01#7 ++ 0#1 ++ r ++ t1 ++ t0 : Word32)]
  | .xread k r t1 t0 => [(0x03#7 ++ k.toBits ++ r ++ t1 ++ t0 : Word32)]
  | .gwrite pr r => [(0x02#7 ++ pr.toBits ++ r ++ 0#17 : Word32)]
  | .xwrite pr k r => [(0x04#7 ++ pr.toBits ++ k.toBits ++ r ++ 0#16 : Word32)]
  | .mov pr t1 t0 => [packG 0x05 pr 0 t1 t0]
  | .movl pr t3 t2 t1 t0 => [packG 0x06 pr 0 t1 t0, (0#14 ++ t3 ++ t2 : Word32)]
  | .null pr t1 t0 => [packG 0x07 pr 0 t1 t0]
  | .genc c t0 => [(0x08#7 ++ c ++ t0 : Word32)]
  | .gencn c t0 => [(0x09#7 ++ c ++ t0 : Word32)]
  | .appc c t0 => [(0x0A#7 ++ c ++ t0 : Word32)]
  | .gencl pr c t1 t0 => [packG 0x0B pr 0 t1 t0, c]
  | .add pr w t1 t0 => [packG 0x0C pr (xopW w) t1 t0]
  | .sub pr w t1 t0 => [packG 0x0D pr (xopW w) t1 t0]
  | .mul pr w t1 t0 => [packG 0x0E pr (xopW w) t1 t0]
  | .mulh pr n w t1 t0 => [packG 0x0F pr (xopN n w) t1 t0]
  | .div pr n w t1 t0 => [packG 0x10 pr (xopN n w) t1 t0]
  | .rem pr n w t1 t0 => [packG 0x11 pr (xopN n w) t1 t0]
  | .and pr w t1 t0 => [packG 0x12 pr (xopW w) t1 t0]
  | .or pr w t1 t0 => [packG 0x13 pr (xopW w) t1 t0]
  | .xor pr w t1 t0 => [packG 0x14 pr (xopW w) t1 t0]
  | .andn pr w t1 t0 => [packG 0x15 pr (xopW w) t1 t0]
  | .shl pr w t1 t0 => [packG 0x16 pr (xopW w) t1 t0]
  | .shr pr w t1 t0 => [packG 0x17 pr (xopW w) t1 t0]
  | .sar pr w t1 t0 => [packG 0x18 pr (xopW w) t1 t0]
  | .rot pr w t1 t0 => [packG 0x19 pr (xopW w) t1 t0]
  | .min pr n w t1 t0 => [packG 0x1A pr (xopN n w) t1 t0]
  | .max pr n w t1 t0 => [packG 0x1B pr (xopN n w) t1 t0]
  | .bits pr k w t1 t0 => [packG 0x1C pr (0#1 ++ k.toBits ++ bit w) t1 t0]
  | .ext pr s n w t1 t0 => [packG 0x1D pr (0#1 ++ s.toBits ++ bit n ++ bit w) t1 t0]
  | .sel pr w t1 t0 => [packG 0x1E pr (xopW w) t1 t0]
  | .madd pr w t1 t0 => [packG 0x1F pr (xopW w) t1 t0]
  | .addi pr w imm t0 => [packG 0x20 pr (xopW w) imm t0]
  | .muli pr w imm t0 => [packG 0x21 pr (xopW w) imm t0]
  | .andi pr w imm t0 => [packG 0x22 pr (xopW w) imm t0]
  | .ori pr w imm t0 => [packG 0x23 pr (xopW w) imm t0]
  | .xori pr w imm t0 => [packG 0x24 pr (xopW w) imm t0]
  | .shli pr w imm t0 => [packG 0x25 pr (xopW w) imm t0]
  | .shri pr w imm t0 => [packG 0x26 pr (xopW w) imm t0]
  | .sari pr w imm t0 => [packG 0x27 pr (xopW w) imm t0]
  | .mini pr n w imm t0 => [packG 0x28 pr (xopN n w) imm t0]
  | .maxi pr n w imm t0 => [packG 0x29 pr (xopN n w) imm t0]
  | .tcmp pr c w t1 t0 => [packG 0x30 pr (bit w ++ c.toBits) t1 t0]
  | .tcmpi pr c w imm t0 => [packG 0x31 pr (bit w ++ c.toBits) imm t0]
  | .fcmp pr c d t1 t0 => [packG 0x32 pr (bit d ++ c.toBits) t1 t0]
  | .tbit pr clr t1 t0 => [packG 0x33 pr (xopW clr) t1 t0]
  | .fadd pr d r t1 t0 => [packG 0x38 pr (xopF d r.toBits) t1 t0]
  | .fsub pr d r t1 t0 => [packG 0x39 pr (xopF d r.toBits) t1 t0]
  | .fmul pr d r t1 t0 => [packG 0x3A pr (xopF d r.toBits) t1 t0]
  | .fdiv pr d r t1 t0 => [packG 0x3B pr (xopF d r.toBits) t1 t0]
  | .fsqrt pr d r t1 t0 => [packG 0x3C pr (xopF d r.toBits) t1 t0]
  | .fma pr d r t1 t0 => [packG 0x3D pr (xopF d r.toBits) t1 t0]
  | .fmin pr d t1 t0 => [packG 0x3E pr (xopF d 0) t1 t0]
  | .fmax pr d t1 t0 => [packG 0x3F pr (xopF d 0) t1 t0]
  | .fcvt pr code t1 t0 => [packG 0x40 pr code t1 t0]
  | .fclass pr d t1 t0 => [packG 0x41 pr (xopF d 0) t1 t0]
  | .fsgn pr d k t1 t0 => [packG 0x42 pr (xopF d k.toBits) t1 t0]
  | .ldb pr ls imm t0 => [packG 0x48 pr ls imm t0]
  | .ldbn pr ls imm t0 => [packG 0x49 pr ls imm t0]
  | .ldh pr ls imm t0 => [packG 0x4A pr ls imm t0]
  | .ldhn pr ls imm t0 => [packG 0x4B pr ls imm t0]
  | .ldw pr ls imm t0 => [packG 0x4C pr ls imm t0]
  | .ldwn pr ls imm t0 => [packG 0x4D pr ls imm t0]
  | .ldd pr ls imm t0 => [packG 0x4E pr ls imm t0]
  | .lda pr ls sc d t0 => [packG 0x4F pr ls (immA sc d) t0]
  | .stb pr ls imm => [packG 0x50 pr ls imm 0]
  | .sth pr ls imm => [packG 0x51 pr ls imm 0]
  | .stw pr ls imm => [packG 0x52 pr ls imm 0]
  | .std pr ls imm => [packG 0x53 pr ls imm 0]
  | .stl pr ls sc d => [packG 0x54 pr ls (immA sc d) 0]
  | .amo pr ls op d sc o t1 t0 => [packG 0x58 pr 0 t1 t0, packA ls op.toBits (0#1 ++ bit d) sc o]
  | .cas pr ls d sc o t1 t0 => [packG 0x59 pr 0 t1 t0, packA ls 0 (0#1 ++ bit d) sc o]
  | .famo pr ls op sc o t1 t0 => [packG 0x5A pr 0 t1 t0, packA ls op.toBits 0 sc o]
  | .fence pr sc k t1 t0 => [packG 0x5B pr (sc.toBits ++ k.toBits) t1 t0]
  | .fencer pr sc k hm f t1 t0 => [packG 0x5C pr (sc.toBits ++ k.toBits) t1 t0, packR hm f]
  | .fencerArm pr hm f t1 t0 => [packG 0x5C pr 3 t1 t0, packR hm f]
  | .fencerDisarm pr hm f t1 t0 => [packG 0x5C pr 7 t1 t0, packR hm f]
  | .fwait pr t1 t0 => [packG 0x5D pr 0 t1 t0]
  | .mwait pr sc c t1 t0 => [packG 0x5E pr (sc.toBits ++ c.toBits) t1 t0]
  | .pref pr ls imm => [packG 0x5F pr ls imm 0]
  | .br pr e off => [packB 0x60 pr e off]
  | .bri pr e => [packG 0x61 pr (0#2 ++ e) 0 0]
  | .callb pr e off => [packB 0x62 pr e off]
  | .retb pr e => [packG 0x63 pr (0#2 ++ e) 0 0]
  | .tend pr e code => [packG 0x64 pr (0#2 ++ e) 0 (0#1 ++ code)]
  | .tendOp0 pr e => [packG 0x64 pr (0#2 ++ e) 0 0x100]
  | .yield pr e off => [packB 0x65 pr e off]
  | .trap pr n => [packG 0x66 pr 0 (0#1 ++ n) 0]
  | .tspawn pr c t1 t0 => [packG 0x68 pr 0 t1 t0, (0#31 ++ bit c : Word32)]
  | .tsend pr slot dec => [packG 0x69 pr (slot ++ 0#1 ++ bit dec) 0 0]
  | .tsendh pr h slot => [packG 0x6A pr 0 0 0, (h ++ slot ++ 0#25 : Word32)]
  | .tfork pr n t1 t0 => [packG 0x6B pr 0 t1 t0, (0#30 ++ n : Word32)]
  | .tself pr k t1 t0 => [packG 0x6C pr k.toBits t1 t0]
  | .tkill pr => [packG 0x6D pr 0 0 0]
  | .bara pr sc t1 t0 => [packG 0x6E pr (sc.toBits ++ 0#2) t1 t0]
  | .barw pr sc t1 t0 => [packG 0x6F pr (sc.toBits ++ 0#2) t1 t0]
  | .qtkt pr t1 t0 => [packG 0x70 pr 0 t1 t0]
  | .qfill pr => [packG 0x71 pr 0 0 0, 0]
  | .qpop pr t1 t0 => [packG 0x72 pr 0 t1 t0]
  | .qpeek pr t1 t0 => [packG 0x73 pr 0 t1 t0]
  | .qocc pr t1 t0 => [packG 0x74 pr 0 t1 t0]
  | .qinit pr lg => [packG 0x75 pr lg 0 0]
  | .vld pr ty m d => encV pr (xopT ty) 0 0 0x00 d 0 0 m 0
  | .vlds pr ty m d => encV pr (xopT ty) 0 0 0x01 d 0 0 m 0
  | .vldx pr ty m d b => encV pr (xopT ty) 0 0 0x02 d 0 b m 0
  | .vst pr ty m a => encV pr (xopT ty) 0 0 0x03 0 a 0 m 0
  | .vsts pr ty m a => encV pr (xopT ty) 0 0 0x04 0 a 0 m 0
  | .vstx pr ty m a b => encV pr (xopT ty) 0 0 0x05 0 a b m 0
  | .vbcst pr ty m d => encV pr (xopT ty) 0 0 0x06 d 0 0 m 0
  | .vmov pr ty m d a => encV pr (xopT ty) 0 0 0x07 d a 0 m 0
  | .vadd pr ty m d a b => encV pr (xopT ty) 0 0 0x08 d a b m 0
  | .vsub pr ty m d a b => encV pr (xopT ty) 0 0 0x09 d a b m 0
  | .vmul pr ty m d a b => encV pr (xopT ty) 0 0 0x0A d a b m 0
  | .vfma pr ty m d a b => encV pr (xopT ty) 0 0 0x0B d a b m 0
  | .vdiv pr ty m d a b => encV pr (xopT ty) 0 0 0x0C d a b m 0
  | .vmin pr ty m d a b => encV pr (xopT ty) 0 0 0x0D d a b m 0
  | .vmax pr ty m d a b => encV pr (xopT ty) 0 0 0x0E d a b m 0
  | .vabs pr ty m d a => encV pr (xopT ty) 0 0 0x0F d a 0 m 0
  | .vneg pr ty m d a => encV pr (xopT ty) 0 0 0x10 d a 0 m 0
  | .vand pr ty m d a b => encV pr (xopT ty) 0 0 0x11 d a b m 0
  | .vor pr ty m d a b => encV pr (xopT ty) 0 0 0x12 d a b m 0
  | .vxor pr ty m d a b => encV pr (xopT ty) 0 0 0x13 d a b m 0
  | .vshl pr ty m d a b x => encV pr (xopT ty) 0 0 0x14 d a b m x
  | .vshr pr ty m d a b x => encV pr (xopT ty) 0 0 0x15 d a b m x
  | .vsar pr ty m d a b x => encV pr (xopT ty) 0 0 0x16 d a b m x
  | .vcmp pr ty m md a b c => encV pr (xopT ty) 0 0 0x17 (0#2 ++ md) a b m c.toBits
  | .vsel pr ty m d a b => encV pr (xopT ty) 0 0 0x18 d a b m 0
  | .vcvt pr ty m d a s h => encV pr (xopT ty) 0 0 0x19 d a 0 m (h ++ s.toBits)
  | .vred pr ty m a op t1 t0 => encV pr (xopT ty) t1 t0 0x1A 0 a 0 m op.toBits
  | .vscan pr ty m d a op => encV pr (xopT ty) 0 0 0x1B d a 0 m op.toBits
  | .vperm pr ty m d a b => encV pr (xopT ty) 0 0 0x1C d a b m 0
  | .vrcp pr ty m d a => encV pr (xopT ty) 0 0 0x1D d a 0 m 0
  | .vrsq pr ty m d a => encV pr (xopT ty) 0 0 0x1E d a 0 m 0
  | .vexp2 pr ty m d a => encV pr (xopT ty) 0 0 0x1F d a 0 m 0
  | .vlog2 pr ty m d a => encV pr (xopT ty) 0 0 0x20 d a 0 m 0
  | .vsplt pr m d a => encV pr (xopT .f64) 0 0 0x21 d a 0 m 0
  | .vgetl pr ty a t1 t0 => encV pr (xopT ty) t1 t0 0x22 0 a 0 0 0
  | .vsetl pr ty d => encV pr (xopT ty) 0 0 0x23 d 0 0 0 0
  | .mset pr k md ma mb t1 t0 => encV pr 0 t1 t0 0x24 (0#2 ++ md) (0#2 ++ ma) (0#2 ++ mb) 0 k.toBits
  | .vplane pr ty m d a u => encV pr (xopT ty) 0 0 0x25 d a 0 m (0#5 ++ bit u)
  | .vacrd pr ty m d acc q => encV pr (xopT ty) 0 0 0x26 d 0 (0#1 ++ acc) m q
  | .vacwr pr ty m a acc q => encV pr (xopT ty) 0 0 0x27 0 a (0#1 ++ acc) m q
  | .hdef pr hd => encT pr 0 0 0 (pack4 0x00 hd 0 0 0)
  | .hset pr hd hs f => encT pr 0 0 0 (pack4 0x01 hd hs 0 (0#9 ++ f.toBits))
  | .hadv pr hd hs => encT pr 0 0 0 (pack4 0x02 hd hs 0 0)
  | .hget pr hs f t1 t0 => encT pr 0 t1 t0 (pack4 0x03 0 hs 0 (0#8 ++ f.toBits))
  | .mzero pr mode acc t1 t0 => encT pr (0#2 ++ mode.toBits ++ 0#1) t1 t0 (pack4 0x04 0 0 acc 0)
  | .mma pr mode st ha hb acc sb ch t1 t0 =>
    encT pr (0#2 ++ mode.toBits ++ bit st) t1 t0 (pack4 0x05 ha hb acc (bit sb ++ bit ch ++ 0#10))
  | .mmac pr mode st src hb acc ch tr fmt w t1 t0 =>
    encT pr (0#2 ++ mode.toBits ++ bit st) t1 t0 (pack4 0x06 src hb acc (0#1 ++ bit ch ++ bit tr ++ fmt ++ w))
  | .mcvt pr hd acc t1 t0 => encT pr 0 t1 t0 (pack4 0x07 hd 0 acc 0)
  | .madda pr src acc t1 t0 => encT pr 0 t1 t0 (pack4 0x08 0 src acc 0)
  | .ptrim pr h t1 t0 => encT pr 0 t1 t0 (pack4 0x09 h 0 0 0)
  | .pxpose pr h e u t1 t0 => encT pr 0 t1 t0 (pack4 0x0A h (e.toBits ++ bit u ++ 0#1) 0 0)
  | .mstat pr acc t1 t0 => encT pr 0 t1 t0 (pack4 0x0B 0 0 acc 0)
  | .xcopy pr rel hd hs ch st t1 t0 =>
    encE pr (xopRel rel) t1 t0 (pack4 0x00 hd hs (bit ch ++ bit st ++ 0#2) 0)
  | .xcopyf pr rel ch st t1 t0 => encE pr (xopRel rel) t1 t0 (pack4 0x01 0 0 (bit ch ++ bit st ++ 0#2) 0)
  | .xchain pr rel ch t1 t0 => encE pr (xopRel rel) t1 t0 (pack4 0x02 0 0 (bit ch ++ 0#3) 0)
  | .xwptr pr ch t1 t0 => encE pr 0 t1 t0 (pack4 0x03 0 0 (bit ch ++ 0#3) 0)
  | .waitt pr sc te tl t1 t0 => encE pr (0#2 ++ sc.toBits) t1 t0 (pack4 0x04 0 0 0 (0#8 ++ bit te ++ tl))
  | .rdtl pr tl t1 t0 => encE pr 0 t1 t0 (pack4 0x05 0 0 0 (0#9 ++ tl))
  | .xgath pr rel lg cnt t1 t0 => encE pr (xopRel rel) t1 t0 (0x06#8 ++ lg ++ 0#5 ++ cnt : Word32)
  | .xscat pr rel lg cnt t1 t0 => encE pr (xopRel rel) t1 t0 (0x07#8 ++ lg ++ 0#5 ++ cnt : Word32)
  | .xred pr rel t1 t0 => encE pr (xopRel rel) t1 t0 (pack4 0x08 0 0 0 0)
  | .xired pr rel t1 t0 => encE pr (xopRel rel) t1 t0 (pack4 0x09 0 0 0 0)
  | .xpkl pr rel t1 t0 => encE pr (xopRel rel) t1 t0 (pack4 0x0A 0 0 0 0)
  | .nput pr rel t1 t0 => encE pr (xopRel rel) t1 t0 (pack4 0x0B 0 0 0 0)
  | .nget pr rel t1 t0 => encE pr (xopRel rel) t1 t0 (pack4 0x0C 0 0 0 0)
  | .namo pr rel t1 t0 => encE pr (xopRel rel) t1 t0 (pack4 0x0D 0 0 0 0)
  | .xdisc pr rel ch t1 t0 => encE pr (xopRel rel) t1 t0 (pack4 0x0E 0 0 (bit ch ++ 0#3) 0)
  | .gcfg pr c => encG pr 0 0 0x00 0 c 0
  | .garg pr op c reg => encG pr 0 0 0x01 op c (reg ++ 0#8)
  | .gsend pr op c => encG pr 0 0 0x02 op c 0
  | .grecv pr op c => encG pr 0 0 0x03 op c 0
  | .greconf pr op c => encG pr 0 0 0x04 op c 0
  | .gstat pr op c t1 t0 => encG pr t1 t0 0x05 op c 0
  | .gdrain pr c f => encG pr 0 0 0x06 0 c (0#11 ++ bit f)
  | .ctlrd pr reg t1 t0 => encS pr t1 t0 0x00 (0#12 ++ reg)
  | .ctlwr pr reg => encS pr 0 0 0x01 (0#12 ++ reg)
  | .ctlset pr reg => encS pr 0 0 0x02 (0#12 ++ reg)
  | .ctlclr pr reg => encS pr 0 0 0x03 (0#12 ++ reg)
  | .eret pr => encS pr 0 0 0x04 0
  | .ctxsv pr t1 t0 => encS pr t1 t0 0x05 0
  | .ctxld pr => encS pr 0 0 0x06 0
  | .ttinv pr k => encS pr 0 0 0x07 (0#22 ++ k.toBits)
  | .leaseAdd pr => encS pr 0 0 0x08 0
  | .leaseDrop pr => encS pr 0 0 0x08 1
  | .ptok pr t1 t0 => encS pr t1 t0 0x09 0
  | .hint pr k => encS pr 0 0 0x0A (0#16 ++ k.toBits)
  | .haltd pr code => encS pr 0 0 0x0B (0#16 ++ code)
  | .cycrd pr t1 t0 => encS pr t1 t0 0x0C 0
  | .idle pr => encS pr 0 0 0x0D 0
  | _ => []

end Sys2Proof
end

