-- ==== Sys2Proof/Machine/Shape.lean ====
section
/-!
DEFINITION. What the encoding fixes of an instruction before it fires: predicate mode, operands and targets (07 R140),
LSID and class (03 R54, R55), exit index (R59), streams (R57), registers written (R44, R58), timeline (11 R250) and
fences that take a number (09 R199).
-/

namespace Sys2Proof.Machine

/-- The predicate mode; an instruction without a PR field is never predicated (R49). -/
def prOf : Instr → Pr
  | .gwrite p _ | .xwrite p .. | .mov p .. | .movl p .. | .null p .. | .gencl p .. | .add p .. | .sub p .. | .mul p ..
  | .mulh p .. | .div p .. | .rem p .. | .and p .. | .or p .. | .xor p .. | .andn p .. | .shl p .. | .shr p ..
  | .sar p .. | .rot p .. | .min p .. | .max p .. | .bits p .. | .ext p .. | .sel p .. | .madd p .. | .addi p ..
  | .muli p .. | .andi p .. | .ori p .. | .xori p .. | .shli p .. | .shri p .. | .sari p .. | .mini p .. | .maxi p ..
  | .tcmp p .. | .tcmpi p .. | .fcmp p .. | .tbit p .. | .fadd p .. | .fsub p .. | .fmul p .. | .fdiv p .. | .fsqrt p ..
  | .fma p .. | .fmin p .. | .fmax p .. | .fcvt p .. | .fclass p .. | .fsgn p .. | .ldb p .. | .ldbn p .. | .ldh p ..
  | .ldhn p .. | .ldw p .. | .ldwn p .. | .ldd p .. | .lda p .. | .stb p .. | .sth p .. | .stw p .. | .std p ..
  | .stl p .. | .amo p .. | .cas p .. | .famo p .. | .fence p .. | .fencer p .. | .fencerArm p .. | .fencerDisarm p ..
  | .fwait p .. | .mwait p .. | .pref p .. | .br p .. | .bri p .. | .callb p .. | .retb p .. | .tend p .. | .tendOp0 p ..
  | .yield p .. | .trap p .. | .tspawn p .. | .tsend p .. | .tsendh p .. | .tfork p .. | .tself p .. | .tkill p
  | .bara p .. | .barw p .. | .qtkt p .. | .qfill p | .qpop p .. | .qpeek p .. | .qocc p .. | .qinit p .. | .vld p ..
  | .vlds p .. | .vldx p .. | .vst p .. | .vsts p .. | .vstx p .. | .vbcst p .. | .vmov p .. | .vadd p .. | .vsub p ..
  | .vmul p .. | .vfma p .. | .vdiv p .. | .vmin p .. | .vmax p .. | .vabs p .. | .vneg p .. | .vand p .. | .vor p ..
  | .vxor p .. | .vshl p .. | .vshr p .. | .vsar p .. | .vcmp p .. | .vsel p .. | .vcvt p .. | .vred p .. | .vscan p ..
  | .vperm p .. | .vrcp p .. | .vrsq p .. | .vexp2 p .. | .vlog2 p .. | .vsplt p .. | .vgetl p .. | .vsetl p ..
  | .mset p .. | .vplane p .. | .vacrd p .. | .vacwr p .. | .hdef p .. | .hset p .. | .hadv p .. | .hget p ..
  | .mzero p .. | .mma p .. | .mmac p .. | .mcvt p .. | .madda p .. | .ptrim p .. | .pxpose p .. | .mstat p ..
  | .xcopy p .. | .xcopyf p .. | .xchain p .. | .xwptr p .. | .waitt p .. | .rdtl p .. | .xgath p .. | .xscat p ..
  | .xred p .. | .xired p .. | .xpkl p .. | .nput p .. | .nget p .. | .namo p .. | .xdisc p .. | .gcfg p ..
  | .garg p .. | .gsend p .. | .grecv p .. | .greconf p .. | .gstat p .. | .gdrain p .. | .ctlrd p .. | .ctlwr p ..
  | .ctlset p .. | .ctlclr p .. | .eret p | .ctxsv p .. | .ctxld p | .ttinv p .. | .leaseAdd p | .leaseDrop p
  | .ptok p .. | .hint p .. | .haltd p .. | .cycrd p .. | .idle p => p
  | _ => .always

/-- How many operands the encoding has: op0, then op1, then op2 (R140, R175, R227, R252, R269, R325). -/
def nOpsOf : Instr → Nat
  | .gwrite .. | .xwrite .. | .mov .. | .movl .. | .appc .. | .bits .. | .ext .. | .addi .. | .muli .. | .andi ..
  | .ori .. | .xori .. | .shli .. | .shri .. | .sari .. | .mini .. | .maxi .. | .tcmpi .. | .fsqrt .. | .fcvt ..
  | .fclass .. | .fsgn _ _ .abs _ _ | .fsgn _ _ .neg _ _ | .ldb .. | .ldbn .. | .ldh .. | .ldhn .. | .ldw .. | .ldwn ..
  | .ldd .. | .lda .. | .pref .. | .fwait .. | .bri .. | .retb .. | .tendOp0 .. | .tspawn _ false _ _
  | .tsend _ _ true | .tsendh .. | .tkill .. | .bara .. | .qtkt .. | .qpop .. | .qpeek .. | .qocc .. | .vld .. | .vldx ..
  | .vst .. | .vstx .. | .vbcst .. | .vsplt .. | .vgetl .. | .vacrd .. | .vacwr .. | .hdef .. | .hset .. | .mcvt ..
  | .xchain .. | .waitt .. | .xred .. | .xired .. | .xpkl .. | .nput .. | .nget .. | .namo .. | .gcfg .. | .garg ..
  | .grecv .. | .greconf .. | .ctlwr .. | .ctlset .. | .ctlclr .. | .ctxsv .. | .ctxld .. | .ttinv _ .page
  | .ttinv _ .table | .ptok .. | .hint _ .code | .idle .. => 1
  | .add .. | .sub .. | .mul .. | .mulh .. | .div .. | .rem .. | .and .. | .or .. | .xor .. | .andn .. | .shl ..
  | .shr .. | .sar .. | .rot .. | .min .. | .max .. | .tcmp .. | .fcmp .. | .tbit .. | .fadd .. | .fsub .. | .fmul ..
  | .fdiv .. | .fmin .. | .fmax .. | .fsgn .. | .stb .. | .sth .. | .stw .. | .std .. | .stl .. | .amo .. | .famo ..
  | .mwait .. | .tspawn _ true _ _ | .tsend _ _ false | .barw .. | .qinit .. | .vlds .. | .vsts .. | .vsetl ..
  | .hadv .. | .pxpose .. | .xdisc .. | .gsend .. | .gdrain .. | .leaseAdd .. | .leaseDrop .. => 2
  | .sel .. | .madd .. | .fma .. | .cas .. | .qfill .. | .xcopyf .. | .xgath .. | .xscat .. => 3
  | .fencer _ _ _ _ f _ _ | .fencerArm _ _ f _ _ | .fencerDisarm _ _ f _ _ => if f then 2 else 0
  | .tfork _ n _ _ => 1 + n.toNat
  | .mma _ _ stream _ _ _ _ _ _ _ => if stream then 1 else 0
  | .mmac _ _ stream _ _ _ _ _ _ _ _ _ => if stream then 3 else 2
  | .xcopy _ _ _ _ _ stamp _ _ => if stamp then 1 else 0
  | _ => 0

/-- The target fields in the order T0, T1, T2, T3 (R48). -/
def targetsOf : Instr → List Target
  | .gread _ b a | .xread _ _ b a | .mov _ b a | .null _ b a | .gencl _ _ b a | .add _ _ b a | .sub _ _ b a
  | .mul _ _ b a | .mulh _ _ _ b a | .div _ _ _ b a | .rem _ _ _ b a | .and _ _ b a | .or _ _ b a | .xor _ _ b a
  | .andn _ _ b a | .shl _ _ b a | .shr _ _ b a | .sar _ _ b a | .rot _ _ b a | .min _ _ _ b a | .max _ _ _ b a
  | .bits _ _ _ b a | .ext _ _ _ _ b a | .sel _ _ b a | .madd _ _ b a | .tcmp _ _ _ b a | .fcmp _ _ _ b a
  | .tbit _ _ b a | .fadd _ _ _ b a | .fsub _ _ _ b a | .fmul _ _ _ b a | .fdiv _ _ _ b a | .fsqrt _ _ _ b a
  | .fma _ _ _ b a | .fmin _ _ b a | .fmax _ _ b a | .fcvt _ _ b a | .fclass _ _ b a | .fsgn _ _ _ b a
  | .amo _ _ _ _ _ _ b a | .cas _ _ _ _ _ b a | .famo _ _ _ _ _ b a | .fence _ _ _ b a | .fencer _ _ _ _ _ b a
  | .fencerArm _ _ _ b a | .fencerDisarm _ _ _ b a | .fwait _ b a | .mwait _ _ _ b a | .tspawn _ _ b a
  | .tfork _ _ b a | .tself _ _ b a | .bara _ _ b a | .barw _ _ b a | .qtkt _ b a | .qpop _ b a | .qpeek _ b a
  | .qocc _ b a | .vred _ _ _ _ _ b a | .vgetl _ _ _ b a | .mset _ .popc _ _ _ b a | .hget _ _ _ b a | .mzero _ _ _ b a
  | .mma _ _ _ _ _ _ _ _ b a | .mmac _ _ _ _ _ _ _ _ _ _ b a | .mcvt _ _ _ b a | .madda _ _ _ b a | .ptrim _ _ b a
  | .pxpose _ _ _ _ b a | .mstat _ _ b a | .xcopy _ _ _ _ _ _ b a | .xcopyf _ _ _ _ b a | .xchain _ _ _ b a
  | .xwptr _ _ b a | .waitt _ _ _ _ b a | .rdtl _ _ b a | .xgath _ _ _ _ b a | .xscat _ _ _ _ b a | .xred _ _ b a
  | .xired _ _ b a | .xpkl _ _ b a | .nput _ _ b a | .nget _ _ b a | .namo _ _ b a | .xdisc _ _ _ b a
  | .gstat _ _ _ b a | .ctlrd _ _ b a | .ctxsv _ b a | .ptok _ b a | .cycrd _ b a => [a, b]
  | .movl _ d c b a => [a, b, c, d]
  | .genc _ a | .gencn _ a | .appc _ a | .addi _ _ _ a | .muli _ _ _ a | .andi _ _ _ a | .ori _ _ _ a | .xori _ _ _ a
  | .shli _ _ _ a | .shri _ _ _ a | .sari _ _ _ a | .mini _ _ _ _ a | .maxi _ _ _ _ a | .tcmpi _ _ _ _ a
  | .ldb _ _ _ a | .ldbn _ _ _ a | .ldh _ _ _ a | .ldhn _ _ _ a | .ldw _ _ _ a | .ldwn _ _ _ a | .ldd _ _ _ a
  | .lda _ _ _ _ a => [a]
  | _ => []

/-! The operands and targets that a slot's words have (R140), read from the fields that select them, whatever else the words
hold: what the map-time checks of other slots go by (R63). -/

/-- The subop of a family escape's second word (R47). -/
def subopOf (v : Word32) : Nat := (fld v 24 8).toNat

/-- Operands of a VEC subop (R227). -/
def vecOps (sub : Nat) : Nat :=
  if [0x01, 0x04, 0x23].contains sub then 2
  else if sub ≤ 0x06 || [0x21, 0x22, 0x26, 0x27].contains sub then 1 else 0

/-- Operands of a TILE encoding (R252). -/
def tileOps (w v : Word32) : Nat :=
  let sa := (fld w 18 1) == 1
  match subopOf v with
  | 0x00 | 0x01 | 0x07 => 1
  | 0x02 | 0x0A => 2
  | 0x05 => if sa then 1 else 0
  | 0x06 => if sa then 3 else 2
  | _ => 0

/-- Operands of an ENG encoding (R269). -/
def engOps (v : Word32) : Nat :=
  match subopOf v with
  | 0x00 => if v.getLsbD 14 then 1 else 0
  | 0x01 | 0x06 | 0x07 => 3
  | 0x03 | 0x05 => 0
  | 0x0E => 2
  | n => if n < 0x0E then 1 else 0

/-- Operands of a GROUT subop (R325). -/
def groutOps (sub : Nat) : Nat :=
  match sub with
  | 0x00 | 0x01 | 0x03 | 0x04 => 1
  | 0x02 | 0x06 => 2
  | _ => 0

/-- Operands of a SYS encoding (R175). -/
def sysOps (v : Word32) : Nat :=
  match subopOf v with
  | 0x01 | 0x02 | 0x03 | 0x05 | 0x06 | 0x09 | 0x0D => 1
  | 0x07 => if (fld v 0 2).toNat < 2 then 1 else 0
  | 0x08 => 2
  | 0x0A => if (fld v 0 8) == 1 then 1 else 0
  | _ => 0

/-- How many operands the encoding in a slot has (R140). -/
def wordOps (w v : Word32) : Nat :=
  let m := majorOf w
  let x := fld w 18 5
  if [0x1E, 0x1F, 0x3D, 0x59, 0x71].contains m then 3
  else if (0x0C ≤ m && m ≤ 0x1B) || [0x30, 0x32, 0x33, 0x38, 0x39, 0x3A, 0x3B, 0x3E, 0x3F, 0x50, 0x51, 0x52, 0x53, 0x54,
      0x58, 0x5A, 0x5E, 0x6F, 0x75].contains m then 2
  else if (0x20 ≤ m && m ≤ 0x29) || (0x48 ≤ m && m ≤ 0x4F) || [0x02, 0x04, 0x05, 0x06, 0x0A, 0x1C, 0x1D, 0x31, 0x3C, 0x40,
      0x41, 0x5D, 0x5F, 0x61, 0x63, 0x6A, 0x6D, 0x6E, 0x70, 0x72, 0x73, 0x74].contains m then 1
  else match m with
    | 0x42 => if (x.extractLsb' 0 3).toNat < 3 then 2 else 1
    | 0x5C => if (fld v 14 2) == 1 then 2 else 0
    | 0x64 => if (fld w 8 1) == 1 then 1 else 0
    | 0x68 => if v.getLsbD 0 then 2 else 1
    | 0x69 => if (x.extractLsb' 0 2) == 0 then 2 else 1
    | 0x6B => (match (fld v 0 2).toNat with
      | 0 => 1
      | 1 => 2
      | 2 => 3
      | _ => 1)
    | 0x78 => vecOps (subopOf v)
    | 0x79 => tileOps w v
    | 0x7A => engOps v
    | 0x7B => groutOps (subopOf v)
    | 0x7C => sysOps v
    | _ => 0

/-- How many of T0, T1, T2, T3 the encoding in a slot has (R140). -/
def wordTargets (w v : Word32) : Nat :=
  let m := majorOf w
  if m = 0x06 then 4
  else if (0x0C ≤ m && m ≤ 0x1F) || (0x38 ≤ m && m ≤ 0x42) || (0x58 ≤ m && m ≤ 0x5E) || [0x01, 0x03, 0x05, 0x07, 0x0B, 0x30,
      0x32, 0x33, 0x68, 0x6B, 0x6C, 0x6E, 0x6F, 0x70, 0x72, 0x73, 0x74].contains m then 2
  else if (0x20 ≤ m && m ≤ 0x29) || (0x48 ≤ m && m ≤ 0x4F) || [0x08, 0x09, 0x0A, 0x31].contains m then 1
  else match m with
    | 0x78 => if subopOf v = 0x1A || subopOf v = 0x22 || (subopOf v = 0x24 && (fld v 0 6) == 3) then 2 else 0
    | 0x79 => if 0x03 ≤ subopOf v && subopOf v ≤ 0x0B then 2 else 0
    | 0x7A => if subopOf v ≤ 0x0E then 2 else 0
    | 0x7B => if subopOf v = 0x05 then 2 else 0
    | 0x7C => if [0x00, 0x05, 0x09, 0x0C].contains (subopOf v) then 2 else 0
    | _ => 0

/-- The LSID of an LSID-bearing instruction, and whether it is store-class (R55). -/
def lsidOf : Instr → Option (Nat × Bool)
  | .ldb _ l _ _ | .ldbn _ l _ _ | .ldh _ l _ _ | .ldhn _ l _ _ | .ldw _ l _ _ | .ldwn _ l _ _ | .ldd _ l _ _
  | .lda _ l _ _ _ => some (l.toNat, false)
  | .stb _ l _ | .sth _ l _ | .stw _ l _ | .std _ l _ | .stl _ l _ _ | .amo _ l _ _ _ _ _ _ | .cas _ l _ _ _ _ _
  | .famo _ l _ _ _ _ _ => some (l.toNat, true)
  | _ => none

/-- The LSID of a store-class instruction (R55). -/
def storeLsid (i : Instr) : Option Nat := (lsidOf i).bind fun x => if x.2 then some x.1 else none

/-- The exit index of an exit instruction (R59). -/
def exitOf : Instr → Option Nat
  | .br _ e _ | .bri _ e | .callb _ e _ | .retb _ e | .tend _ e _ | .tendOp0 _ e | .yield _ e _ => some e.toNat
  | _ => none

/-- Members of the vector stream (R57). -/
def vecMember : Instr → Bool
  | .vld .. | .vlds .. | .vldx .. | .vst .. | .vsts .. | .vstx .. | .vbcst .. | .vmov .. | .vadd .. | .vsub .. | .vmul ..
  | .vfma .. | .vdiv .. | .vmin .. | .vmax .. | .vabs .. | .vneg .. | .vand .. | .vor .. | .vxor .. | .vshl .. | .vshr ..
  | .vsar .. | .vcmp .. | .vsel .. | .vcvt .. | .vred .. | .vscan .. | .vperm .. | .vrcp .. | .vrsq .. | .vexp2 ..
  | .vlog2 .. | .vsplt .. | .vgetl .. | .vsetl .. | .mset .. | .vplane .. | .vacrd .. | .vacwr .. => true
  | _ => false

/-- Members of the tile stream (R57, R203, R214, R269). -/
def tileMember : Instr → Bool
  | .hdef .. | .hset .. | .hadv .. | .hget .. | .mzero .. | .mma .. | .mmac .. | .mcvt .. | .madda .. | .ptrim ..
  | .pxpose .. | .mstat .. | .vacrd .. | .vacwr .. | .tsendh .. | .xcopy .. => true
  | .fencer _ _ _ hm _ _ _ | .fencerArm _ hm _ _ _ | .fencerDisarm _ hm _ _ _ => hm != 0
  | _ => false

/-- GROUT instructions fire in slot order among themselves (R325). -/
def groutMember : Instr → Bool
  | .gcfg .. | .garg .. | .gsend .. | .grecv .. | .greconf .. | .gstat .. | .gdrain .. => true
  | _ => false

/-- The timeline an instruction takes a number on (R250). -/
def timelineOf : Instr → Option Nat
  | .mzero .. | .mma .. | .mmac .. | .mcvt .. | .madda .. | .ptrim .. | .pxpose .. => some 7
  | .xcopy _ _ _ _ ch _ _ _ => some ch.toNat
  | .xcopyf _ _ ch _ _ _ => some ch.toNat
  | .xchain _ _ ch _ _ => some ch.toNat
  | .xdisc _ _ ch _ _ => some ch.toNat
  | .xgath .. | .xscat .. => some 2
  | .xred .. => some 3
  | .xired .. => some 4
  | .xpkl .. => some 5
  | .nput .. | .nget .. | .namo .. => some 6
  | _ => none

/-- The fences that take a number (R199). -/
def takesFence : Instr → Bool
  | .fence .. | .fencer .. => true
  | _ => false

/-- The scalar register a write mask answers for (R44); g0 is none (R63). -/
def gDest : Instr → Option Nat
  | .gwrite _ r => if r = 0 then none else some r.toNat
  | .callb .. => some 63
  | _ => none

/-- The register an XWRITE names (R44); m0 is none (R63). -/
def xDest : Instr → Option (XKind × Nat)
  | .xwrite _ .m r => if r = 0 then none else some (.m, r.toNat)
  | .xwrite _ k r => some (k, r.toNat)
  | _ => none

/-- The register a stream instruction writes (R58). -/
def streamDest : Instr → Option (XKind × Nat)
  | .vld _ _ _ d | .vlds _ _ _ d | .vldx _ _ _ d _ | .vbcst _ _ _ d | .vmov _ _ _ d _ | .vadd _ _ _ d _ _
  | .vsub _ _ _ d _ _ | .vmul _ _ _ d _ _ | .vfma _ _ _ d _ _ | .vdiv _ _ _ d _ _ | .vmin _ _ _ d _ _
  | .vmax _ _ _ d _ _ | .vabs _ _ _ d _ | .vneg _ _ _ d _ | .vand _ _ _ d _ _ | .vor _ _ _ d _ _ | .vxor _ _ _ d _ _
  | .vshl _ _ _ d _ _ _ | .vshr _ _ _ d _ _ _ | .vsar _ _ _ d _ _ _ | .vsel _ _ _ d _ _ | .vcvt _ _ _ d _ _ _
  | .vscan _ _ _ d _ _ | .vperm _ _ _ d _ _ | .vrcp _ _ _ d _ | .vrsq _ _ _ d _ | .vexp2 _ _ _ d _ | .vlog2 _ _ _ d _
  | .vsplt _ _ d _ | .vsetl _ _ d | .vplane _ _ _ d _ _ | .vacrd _ _ _ d _ _ => some (.v, d.toNat)
  | .vcmp _ _ _ md _ _ _ => some (.m, md.toNat)
  | .mset _ .popc _ _ _ _ _ => none
  | .mset _ _ md _ _ _ _ => some (.m, md.toNat)
  | .hdef _ hd => some (.h, hd.toNat)
  | .hset _ hd _ _ => some (.h, hd.toNat)
  | .hadv _ hd _ => some (.h, hd.toNat)
  | _ => none

/-- Instructions that are performed irrevocably (R31). -/
def irrevocable : Instr → Bool
  | .amo .. | .cas .. | .famo .. | .qtkt .. | .qpop .. => true
  | _ => false

/-- The waiting instructions of R34. -/
def waiting : Instr → Bool
  | .mwait .. | .waitt .. | .qpop .. | .barw .. | .fwait .. => true
  | _ => false

/-- Whether operands wider than 64 bits are accepted, and of which kinds (R50): MOV and MOVL any, XWRITE its own. -/
def acceptsTok (i : Instr) (op : Nat) (t : Tok) : Bool :=
  match t with
  | .null => true
  | .s _ => match i with
    | .xwrite .. => op != 1
    | _ => true
  | .m _ => op == 1 && (match i with | .mov .. | .movl .. => true | .xwrite _ .m _ => true | _ => false)
  | .h _ => op == 1 && (match i with | .mov .. | .movl .. => true | .xwrite _ .h _ => true | _ => false)
  | .v _ => op == 1 && (match i with | .mov .. | .movl .. => true | .xwrite _ .v _ => true | _ => false)

end Sys2Proof.Machine
end

