-- ==== Sys2Proof/Machine/Operands.lean ====
section
/-!
DEFINITION. Operands: the instructions of a mapped block, delivery of tokens (03 R52), readiness of an instruction
(R51), nulls (R54), register values at entry to a block (R53) and in stream order (R57), and the numbers timeline
instructions send (11 R250).
-/

namespace Sys2Proof.Machine

/-! Blocks and slots. -/

/-- The slots at which instructions start: an X-format instruction takes two (R47). -/
def slotStarts (skip : Bool) (n : Nat) : List Word32 → List Nat
  | [] => []
  | w :: r => if skip then slotStarts false (n + 1) r else n :: slotStarts (isX (majorOf w)) (n + 1) r

/-- The instruction that starts at a slot. -/
def instrAt (body : List Word32) (n : Nat) : Option Instr :=
  match decodeAt (lget body n 0) (lget body (n + 1) 0) with
  | .ok i => some i
  | .error _ => none

/-- The instructions of a body with their slots. -/
def membersOf (body : List Word32) : List (Nat × Instr) :=
  (slotStarts false 0 body).filterMap fun n => (instrAt body n).map fun i => (n, i)

def Blk.members (b : Blk) : List (Nat × Instr) := membersOf b.body
def Blk.slot (b : Blk) (n : Nat) : Slot := lget b.slots n Slot.fresh
def Blk.setSlot (b : Blk) (n : Nat) (x : Slot) : Blk := { b with slots := b.slots.set n x }
def Blk.setSt (b : Blk) (n : Nat) (st : SlotSt) : Blk := b.setSlot n { b.slot n with st := st }

/-- An instruction that has fired, resolved on a null or been predicated off. -/
def SlotSt.resolved : SlotSt → Bool
  | .idle | .busy | .stuck => false
  | .done | .nulled | .off => true

/-- An instruction that has issued, resolved or been predicated off (R57). -/
def SlotSt.issued : SlotSt → Bool
  | .idle => false | _ => true

/-- A header word. -/
def Blk.h (b : Blk) (n : Nat) : Nat := (lget b.hdr n 0).toNat
/-- The safe-point bit (R43). -/
def Blk.safe (b : Blk) : Bool := (b.h 0).testBit 16
/-- Body length L (R43). -/
def Blk.len (b : Blk) : Nat := nbits (b.h 0) 17 7 + 1
/-- The next sequential block address (R42). -/
def seqAddr (addr len : Nat) : Nat := addr + 48 + 16 * cdiv len 4
/-- Write mask of g registers (R43). -/
def Blk.gMask (b : Blk) (r : Nat) : Bool := if r < 32 then (b.h 2).testBit r else (b.h 3).testBit (r - 32)
/-- Write masks of v, h and m registers (R43). -/
def Blk.xMask (b : Blk) (k : XKind) (r : Nat) : Bool :=
  match k with
  | .v => (b.h 4).testBit r | .h => r < 16 && (b.h 5).testBit r | .m => r < 8 && (b.h 5).testBit (16 + r)

def State.blk? (s : State) (c k : Nat) : Option Blk := (s.ctx c).blks[k]?

/-- How the slots of a context's blocks stand. -/
def Ctx.statuses (x : Ctx) : List (List SlotSt) := x.blks.map fun b => b.slots.map fun n => n.st

/-- Change a block in flight; a context whose instructions move on has not been waiting (R34). -/
def State.modBlk (s : State) (c k : Nat) (f : Blk → Blk) : State :=
  s.modCtx c fun x =>
    let y := { x with blks := x.blks.modify k f }
    if y.statuses = x.statuses then y else { y with didAt := s.now }

/-! Traps held with a block (R33). -/

/-- The first trap held with a block. -/
def Blk.trap (b : Blk) : Option TrapRec := b.traps.head?

/-- Hold a trap raised by a slot; the first one that stands is taken. -/
def Blk.hold (b : Blk) (cause : Nat) (info : Word) (src : Option Nat) : Blk :=
  { b with traps := b.traps ++ [⟨cause, info, src, none⟩] }

/-- Hold a BAD_TARGET with the token that it kept from its target. -/
def Blk.refuse (b : Blk) (info : Word) (send : Nat) (t : Target) (tok : Tok) : Blk :=
  { b with traps := b.traps ++ [⟨3, info, some send, some (t, tok)⟩] }

/-- TRAPINFO of BAD_TARGET (R62): reason, receiver, operand (0 op2, 1 op0, 2 op1, 3 predicate), sender. -/
def badTargetInfo (reason recv op send : Nat) : Word :=
  BitVec.ofNat 64 (reason + 2 ^ 8 * recv + 2 ^ 28 * op + 2 ^ 16 * send)
/-- TRAPINFO of COMMIT_VIOLATION (R62): reason, slot, item class, item number. -/
def violationInfo (reason slot cls item : Nat) : Word :=
  BitVec.ofNat 64 (reason + 2 ^ 8 * slot + 2 ^ 28 * cls + 2 ^ 16 * item)

/-! Tokens (R52). -/

/-- Whether an operand has received a token (R52). -/
def Slot.got (x : Slot) (op : Nat) : Bool :=
  match op with
  | 0 => x.op2.isSome | 1 => x.op0.isSome | 2 => x.op1.isSome | _ => x.pd.isSome
/-- A slot with a token put at an operand, and with the operand emptied. -/
def Slot.setOp (x : Slot) (op : Nat) (t : Option Tok) : Slot :=
  match op with
  | 0 => { x with op2 := t } | 1 => { x with op0 := t } | 2 => { x with op1 := t }
  | _ => { x with pd := t }
def Slot.put (x : Slot) (op : Nat) (t : Tok) (send : Nat) : Slot :=
  { x.setOp op (some t) with src := x.src ++ [(op, send)] }

/-- Deliver a token to a target (R48, R52); target 0 is none. A token that is both the second one and of a refused width
is reported as the second one, R62's reason 0x01: no rule orders the two (log entry 30). -/
def Blk.deliver (b : Blk) (send : Nat) (t : Target) (tok : Tok) : Blk :=
  if t = 0 then b
  else
    let op := t.toNat / 128
    let n := t.toNat % 128
    let x := b.slot n
    if x.got op then b.refuse (badTargetInfo 1 n op send) send t tok
    else if !((instrAt b.body n).any fun i => acceptsTok i op tok) then b.refuse (badTargetInfo 2 n op send) send t tok
    else b.setSlot n (x.put op tok send)

/-- Deliver tokens to targets in order. -/
def Blk.deliverAll (b : Blk) (send : Nat) (ts : List (Target × Tok)) : Blk :=
  ts.foldl (fun b x => b.deliver send x.1 x.2) b

/-- Both targets get one value. -/
def both (x : Word) : List Tok := [.s x, .s x]

/-! Readiness (R51). -/

/-- How an instruction stands before it fires. -/
inductive Ready
  /-- something is missing -/
  | wait
  /-- its predicate does not match -/
  | off
  /-- it holds a null -/
  | null
  /-- it may fire on these operands -/
  | go (ops : List Tok)
  deriving DecidableEq, Repr

/-- The readiness of an instruction in its slot (R51); a null takes precedence over the predicate. -/
def Slot.ready (x : Slot) (i : Instr) : Ready :=
  let os := [x.op0, x.op1, x.op2].take (nOpsOf i)
  if os.contains (some .null) || x.pd == some .null then .null
  else
    let go := if os.all Option.isSome then Ready.go (os.filterMap id) else .wait
    match prOf i, x.pd with
    | .always, _ => go
    | .onTrue, some (.s p) => if p.getLsbD 0 then go else .off
    | .onFalse, some (.s p) => if p.getLsbD 0 then .off else go
    | _, _ => .wait

/-- The k-th operand as a scalar. -/
def opw (ops : List Tok) (k : Nat) : Word :=
  match ops[k]? with
  | some (.s x) => x
  | _ => 0

/-! Streams (R57) and the order of GROUT instructions (R325). -/

/-- Whether every lower-numbered member of the streams an instruction belongs to has issued or resolved. -/
def Blk.streamReady (b : Blk) (n : Nat) (i : Instr) : Bool :=
  let v := vecMember i
  let t := tileMember i
  let g := groutMember i
  !(v || t || g) || b.members.all fun (m, j) =>
    n ≤ m || !((v && vecMember j) || (t && tileMember j) || (g && groutMember j)) || (b.slot m).st.issued

/-! Resolution of obligations (R55, R61, R62). -/

/-- Whether another store-class instruction of the LSID has already fired or been nullified. -/
def Blk.lsidTaken (b : Blk) (n l : Nat) : Bool :=
  b.members.any fun (m, j) => m != n && storeLsid j == some l &&
    (match (b.slot m).st with | .done | .busy | .nulled => true | _ => false)

/-- Note that a store-class instruction fires or is nullified; a second one of its LSID is reason 0x04. -/
def Blk.resolveLsid (b : Blk) (n : Nat) (i : Instr) : Blk :=
  match storeLsid i with
  | some l => if b.lsidTaken n l then b.hold 4 (violationInfo 4 n 0 l) (some n) else b
  | none => b

/-- Resolve a g register of the write mask (R61). -/
def Blk.resolveG (b : Blk) (n r : Nat) (v : Option Word) : Blk :=
  if (kget? r b.gw).isSome then b.hold 4 (violationInfo 5 n 1 r) (some n) else { b with gw := kset r v b.gw }

/-- Item class of a register kind (R62). -/
def xkindCls : XKind → Nat
  | .v => 2 | .h => 3 | .m => 4

/-- Whether an XWRITE register of the write mask has resolved. -/
def Blk.xResolved (b : Blk) (k : XKind) (r : Nat) : Bool :=
  match k with
  | .v => (kget? r b.vw).isSome | .h => (kget? r b.hw).isSome | .m => (kget? r b.mw).isSome

/-- Resolve a v, h or m register of the write mask. -/
def Blk.resolveX (b : Blk) (n : Nat) (k : XKind) (r : Nat) (t : Option Tok) : Blk :=
  if b.xResolved k r then b.hold 4 (violationInfo 5 n (xkindCls k) r) (some n)
  else
    match k with
    | .v => { b with vw := kset r (match t with | some (.v x) => some x | _ => none) b.vw }
    | .h => { b with hw := kset r (match t with | some (.h x) => some x | _ => none) b.hw }
    | .m => { b with mw := kset r (match t with | some (.m x) => some x | _ => none) b.mw }

/-- An instruction resolves on a null (R54). -/
def Blk.resolveNull (b : Blk) (n : Nat) (i : Instr) : Blk :=
  if (exitOf i).isSome then (b.setSt n .nulled).hold 4 (violationInfo 3 n 0 0) (some n)
  else
    let b := b.resolveLsid n i
    let b := match gDest i with
      | some r => b.resolveG n r none
      | none => b
    let b := match xDest i with
      | some (k, r) => b.resolveX n k r none
      | none => b
    (b.setSt n .nulled).deliverAll n ((targetsOf i).map fun t => (t, .null))

/-- An instruction is predicated off (R51): a vector instruction sends null to its targets (R230), any other sends nothing. -/
def Blk.resolveOff (b : Blk) (n : Nat) (i : Instr) : Blk :=
  (b.setSt n .off).deliverAll n (if vecMember i then (targetsOf i).map fun t => (t, .null) else [])

/-! Register values at entry to a block (R53): the last older block that writes the register decides; none means that
its write has not resolved. -/

/-- A block that holds a CTXLD which has not been nullified or predicated off: it writes every register at commit. -/
def Blk.loadsAll (b : Blk) : Bool :=
  b.members.any fun (m, j) => match j with
    | .ctxld .. => (match (b.slot m).st with | .nulled | .off => false | _ => true)
    | _ => false

/-- g register at entry, older blocks listed youngest first. -/
def Ctx.gIn (x : Ctx) (r : Nat) : List Blk → Option Word
  | [] => some (if r = 0 then 0 else x.g.toList.getD r 0)
  | b :: bs =>
    if r = 0 then some 0
    else if b.loadsAll then none
    else
      match kget? r b.gw with
      | some (some v) => some v
      | some none => x.gIn r bs
      | none => if b.gMask r then none else x.gIn r bs

/-- Whether a stream instruction of the block that writes a register has not resolved. -/
def Blk.streamOpen (b : Blk) (k : XKind) (r : Nat) : Bool :=
  b.members.any fun (m, j) => streamDest j == some (k, r) && !(b.slot m).st.resolved

/-- The latest write of a register among a stream's writes. -/
def streamGet {α : Type} (r : Nat) (ws : List (Nat × Nat × α)) : Option α :=
  (ws.reverse.find? fun w => w.2.1 == r).map fun w => w.2.2

/-- A v, h or m register at entry. -/
def regIn {α : Type} (k : XKind) (r : Nat) (w : Blk → KMap (Option α)) (sw : Blk → List (Nat × Nat × α)) (base : α) :
    List Blk → Option α
  | [] => some base
  | b :: bs =>
    if b.loadsAll then none
    else
      match kget? r (w b) with
      | some (some v) => some v
      | some none => regIn k r w sw base bs
      | none =>
        if b.xMask k r || b.streamOpen k r then none
        else match streamGet r (sw b) with
          | some v => some v
          | none => regIn k r w sw base bs

/-- The blocks older than the k-th, youngest first. -/
def Ctx.olderBlks (x : Ctx) (k : Nat) : List Blk := (x.blks.take k).reverse

/-- The value of a g register at entry to the k-th block in flight (R53). -/
def Ctx.entryG (x : Ctx) (k r : Nat) : Option Word := x.gIn r (x.olderBlks k)
def Ctx.entryV (x : Ctx) (k r : Nat) : Option VecVal :=
  regIn .v r (·.vw) (·.vs) (x.v.toList.getD r 0) (x.olderBlks k)
def Ctx.entryH (x : Ctx) (k r : Nat) : Option HandleVal :=
  regIn .h r (·.hw) (·.hs) (x.h.toList.getD r 0) (x.olderBlks k)
def Ctx.entryM (x : Ctx) (k r : Nat) : Option MaskVal :=
  if r = 0 then some (BitVec.allOnes 128)
  else regIn .m r (·.mw) (·.ms) (x.m.toList.getD r 0) (x.olderBlks k)

/-- A v register as a stream instruction of the k-th block reads it (R57). -/
def Ctx.streamV (x : Ctx) (k r : Nat) : Option VecVal :=
  match x.blks[k]?.bind fun b => streamGet r b.vs with
  | some v => some v
  | none => x.entryV k r
def Ctx.streamH (x : Ctx) (k r : Nat) : Option HandleVal :=
  match x.blks[k]?.bind fun b => streamGet r b.hs with
  | some v => some v
  | none => x.entryH k r
def Ctx.streamM (x : Ctx) (k r : Nat) : Option MaskVal :=
  if r = 0 then some (BitVec.allOnes 128)
  else match x.blks[k]?.bind fun b => streamGet r b.ms with
    | some v => some v
    | none => x.entryM k r

/-- Whether an instruction is a control write of FPMODE, or a CTXLD, that may still change its mode (R179, R180). -/
def writesFpmode : Instr → Bool
  | .ctlwr _ r | .ctlset _ r | .ctlclr _ r => r == 0x011
  | .ctxld .. => true
  | _ => false

/-- FPMODE's rounding field at entry to the k-th block: none while an older block may still write it (R98, R179). -/
def Ctx.entryMode (x : Ctx) (k : Nat) : Option Word :=
  if (x.olderBlks k).any fun b => b.members.any fun (m, j) =>
      writesFpmode j && (match (b.slot m).st with | .nulled | .off => false | _ => true)
  then none else some x.fpmode

/-! Numbers of timeline instructions (R250). -/

/-- The members of a block that take numbers on a timeline, with their slots. -/
def Blk.tlMembers (b : Blk) (tl : Nat) : List Nat :=
  b.members.filterMap fun (m, j) => if timelineOf j == some tl then some m else none

/-- How many instructions of a timeline have fired in a block below a slot. -/
def Blk.tlFired (b : Blk) (tl below : Nat) : Nat :=
  ((b.tlMembers tl).filter fun m => m < below && (b.slot m).st == .done).length

/-- Whether every instruction of a timeline in a block below a slot has resolved. -/
def Blk.tlFixed (b : Blk) (tl below : Nat) : Bool :=
  (b.tlMembers tl).all fun m => below ≤ m || (b.slot m).st.resolved

/-- The fired timeline instructions of a block, with their timelines. -/
def Blk.tlSlots (b : Blk) : List (Nat × Nat) :=
  b.effs.filterMap fun (n, e) => match e with
    | .cmd tl _ _ => some (n, tl)
    | .pma _ => some (n, 7)
    | _ => none

/-- Send one waiting number, when it is fixed: newest is the number held before this block by older blocks. -/
def Blk.sendNum (b : Blk) (newest : Nat) (n tl : Nat) : Blk :=
  if (b.slot n).sent || !b.tlFixed tl n then b
  else
    let num := newest + 1 + b.tlFired tl n
    let b := b.setSlot n { b.slot n with sent := true, num := num }
    match instrAt b.body n with
    | some i => b.deliverAll n ((targetsOf i).map fun t => (t, .s (BitVec.ofNat 64 num)))
    | none => b

/-- Send every number that has become fixed, oldest block first (R250). -/
def flushBlks (newest : Nat → Nat) (fixed : Nat → Bool) : List Blk → List Blk
  | [] => []
  | b :: bs =>
    let b' := b.tlSlots.foldl (fun b x => if fixed x.2 then b.sendNum (newest x.2) x.1 x.2 else b) b
    b' :: flushBlks (fun tl => newest tl + b'.tlFired tl 128) (fun tl => fixed tl && b'.tlFixed tl 128) bs

/-- Send the fixed numbers of a context. -/
def State.flush (s : State) (c : Nat) : State :=
  if (s.ctx c).blks.all fun b => b.tlSlots.all fun x => (b.slot x.1).sent then s
  else
    match s.taskOf c with
    | none => s
    | some t => s.modCtx c fun x =>
        { x with blks := flushBlks (fun tl => (t.tl tl).newest) (fun _ => true) x.blks }

/-! What depends on what in a block, and the loads that have read ahead (R56, R190; log entry 9). -/

/-- Whether a read of a block sees a store of it: a lower LSID for an LSID-bearing read, a lower-slot vector store for a
vector read. Between the two kinds no order holds, and cross decides (R232). -/
def Sees.sel (v : Sees) (cross : Bool) (w : StoreRec) : Bool :=
  match v, w.lsid with
  | .lsid l, some k => k < l
  | .vec n, .none => w.slot < n
  | .lsid _, .none | .vec _, some _ => cross
  | .none, _ => false

/-- The LSID of a read. -/
def ReadRec.lsid (r : ReadRec) : Option Nat :=
  match r.sees with
  | .lsid l => some l
  | _ => none

/-- Whether an LSID of a block has been settled: one of its instructions is done or nullified. -/
def Blk.lsidKnown (b : Blk) (l : Nat) : Bool :=
  b.members.any fun (m, i) => (lsidOf i).any (fun x => x.1 == l)
    && (match (b.slot m).st with | .done | .nulled => true | _ => false)

/-- Whether a block holds an MWAIT, WAITT, BARW or FWAIT that has not resolved. -/
def Blk.waitOpen (b : Blk) : Bool :=
  b.members.any fun (m, j) => (match j with
    | .mwait .. | .waitt .. | .barw .. | .fwait .. => true
    | _ => false) && !(b.slot m).st.resolved

/-- The instructions of lower LSIDs that may still matter to a read of an LSID (R56, R200): store-class instructions and LDAs
that have not resolved and, while an acquire of the block waits, loads. -/
def Blk.lowerOpen (b : Blk) (l : Nat) : List Nat :=
  b.members.filterMap fun (m, j) =>
    match lsidOf j with
    | some (k, isSt) =>
      let kind : Bool := isSt || (match j with
        | .lda .. => true
        | _ => b.waitOpen)
      if k < l && kind && (match (b.slot m).st with | .idle | .busy => true | _ => false) && !b.lsidKnown k then some m else none
    | none => none

/-- Whether a read of an LSID would go ahead of a lower one that may still matter to it. -/
def Blk.ahead (b : Blk) (l : Nat) : Bool := !(b.lowerOpen l).isEmpty

/-- The loads of a block that have read ahead of lower LSIDs which have still not resolved. -/
def Blk.guesses (b : Blk) : List Nat :=
  b.members.filterMap fun (m, j) =>
    match lsidOf j with
    | some (l, false) => if (b.slot m).st == .done && b.ahead l then some m else none
    | _ => none

/-- The slots that take something from a slot: the targets of its tokens; the later members of its streams, of the GROUT
instructions and of its timeline; and the reads that saw a store of it. -/
def Blk.nexts (b : Blk) (n : Nat) : List Nat :=
  match b.members.find? fun m => m.1 == n with
  | none => []
  | some (_, i) => (((targetsOf i).filter (· != 0)).map fun t => t.toNat % 128)
      ++ (b.members.filterMap fun (m, j) =>
        if n < m && ((vecMember i && vecMember j) || (tileMember i && tileMember j) || (groutMember i && groutMember j)
            || ((timelineOf i).isSome && timelineOf i == timelineOf j)) then some m else none)
      ++ (b.stores.filter fun w => w.slot == n).flatMap fun w => (b.reads.filter fun r =>
        r.slot != n && r.loc.sp == w.loc.sp && overlaps r.loc.a r.bytes.length w.loc.a w.bytes.length && r.sees.sel true w).map (·.slot)

/-- The slots reached from some in at most n hops. -/
def closure (next : Nat → List Nat) : Nat → List Nat → List Nat
  | 0, got => got
  | n + 1, got =>
    match ((got.flatMap next).filter fun m => !got.contains m).dedup with
    | [] => got
    | new => closure next n (got ++ new)

/-- Some slots and all that depends on them. -/
def Blk.after (b : Blk) (ns : List Nat) : List Nat := closure b.nexts 128 ns.dedup

/-- The first trap of a block that stands whatever its loads ahead turn out to have read: map-time, or raised by a slot that
depends on none of them. -/
def Blk.firm (b : Blk) : Option TrapRec :=
  match b.traps with
  | [] => none
  | ts =>
    let open' := b.after b.guesses
    ts.find? fun t => match t.src with
      | none => true
      | some n => !open'.contains n

/-! Firing. -/

/-- What a firing leads to. -/
inductive Fire
  /-- it cannot proceed yet; nothing changes -/
  | wait
  /-- it has fired and its results come later -/
  | busy (s : State)
  /-- it has fired and sends these tokens, the first to T0 -/
  | done (s : State) (toks : List Tok)
  /-- it has fired, and sends its number once that is fixed (R250) -/
  | numbered (s : State)
  /-- a trap held with the block -/
  | trap (s : State) (cause : Nat) (info : Word)
  /-- it has fired, and can never be performed: R56 puts it before an access that it depends on -/
  | stuck

/-- Complete a firing: the slot is done and its results go to the targets. -/
def State.finish (s : State) (f : Focus) (i : Instr) (toks : List Tok) : State :=
  (s.modBlk f.ctx f.blk fun b =>
    (b.setSt f.slot .done).deliverAll f.slot (List.zip (targetsOf i) toks)).flush f.ctx

/-- Fire the focused slot as instruction i (R51, R54, R57): act says what firing on the operands does. -/
def fireG (i : Instr) (act : Focus → List Tok → State → Fire) (s : State) : Host.Outcome State Fault Refusal :=
  match s.focus with
  | none => .next s
  | some f =>
    match s.blk? f.ctx f.blk with
    | none => .next s
    | some b =>
      if b.firm.isSome || (b.slot f.slot).st != .idle then .next s
      else
        match (b.slot f.slot).ready i with
        | .wait => .next s
        | .off => .next ((s.modBlk f.ctx f.blk fun b => b.resolveOff f.slot i).flush f.ctx)
        | .null => .next ((s.modBlk f.ctx f.blk fun b => b.resolveNull f.slot i).flush f.ctx)
        | .go ops =>
          if !b.streamReady f.slot i then .next s
          else
            match act f ops s with
            | .wait => .next s
            | .busy s => .next (s.modBlk f.ctx f.blk fun b => b.setSt f.slot .busy)
            | .done s toks => .next (s.finish f i toks)
            | .numbered s =>
              .next ((s.modBlk f.ctx f.blk fun b =>
                b.setSlot f.slot { b.slot f.slot with st := .done, sent := false }).flush f.ctx)
            | .trap s c x => .next (s.modBlk f.ctx f.blk fun b => (b.setSt f.slot .done).hold c x (some f.slot))
            | .stuck => .next (s.modBlk f.ctx f.blk fun b => b.setSt f.slot .stuck)

/-- A firing that only computes: both targets get the value, and flags are noted with the block (R99). -/
def fireVal (i : Instr) (val : List Tok → Word) (s : State) : Host.Outcome State Fault Refusal :=
  fireG i (fun _ ops s => .done s (both (val ops))) s

end Sys2Proof.Machine
end

