-- ==== Sys2Proof/Machine/Save.lean ====
section
/-!
DEFINITION. The save record (17 R369, R370): its bytes for a set of registers, and what loading one leaves in a context.
-/

namespace Sys2Proof.Machine

/-- Which registers a record holds (R369). -/
structure SaveMasks where
  g : Nat
  v : Nat
  h : Nat
  m : Nat
  u : Nat
  deriving DecidableEq, Repr

/-- NACC of a POOLSPLIT value (R113). -/
def naccOf (p : Word) : Nat := wbits p 24 5

/-- Number of set bits of a mask below n. -/
def popn (n x : Nat) : Nat := (bitsOf n x).length

/-- Mode code of an accumulator (R177's MSTAT, R369). -/
def modeCode : AccMode → Nat
  | .fp32 => 0 | .int32 => 1 | .int64 => 2
def modeOfCode : Nat → AccMode
  | 1 => .int32 | 2 => .int64 | _ => .fp32

/-- Mode of an accumulator of a task. -/
def Task.modeOf (t : Task) (i : Nat) : AccMode := kget i .fp32 t.accMode
/-- Overflow bit of an accumulator of a task. -/
def Task.ovfOf (t : Task) (i : Nat) : Bool := kget i false t.accOvf

/-- The masks of a block's live-in maps (R43, R370). -/
def liveMasks (t : Task) (hdr : List Word32) : SaveMasks :=
  let w (n : Nat) : Nat := (lget hdr n 0).toNat
  let accs := w 9 / 2 ^ 16
  let units := (bitsOf 16 accs).foldl (fun u i =>
    u ||| 2 ^ i ||| (if t.modeOf i == .int64 then 2 ^ (i + 1) else 0)) 0
  { g := (w 6 + 2 ^ 32 * w 7) / 2 * 2, v := w 8, h := w 9 % 2 ^ 16, m := w 10 % 2 ^ 8 / 2 * 2, u := units % 2 ^ 16 }

/-- Every register (R370). -/
def fullMasks (nacc : Nat) : SaveMasks :=
  { g := 2 ^ 64 - 2, v := 2 ^ 32 - 1, h := 2 ^ 16 - 1, m := 2 ^ 8 - 2, u := 2 ^ nacc - 1 }

/-- The record's size (R369). -/
def SaveMasks.size (k : SaveMasks) : Nat :=
  512 + alignUp (8 * popn 64 k.g) 64 + alignUp (16 * popn 8 k.m) 64 + 64 * popn 16 k.h + 128 * popn 32 k.v
    + 65536 * popn 16 k.u

/-- Pad with zero bytes to a multiple of 64. -/
def padTo64 (bs : List Byte) : List Byte := bs ++ List.replicate (alignUp bs.length 64 - bs.length) 0

/-- One tracker in a record (R369). -/
def trackerBytes (t : Option Tracker) : List Byte :=
  match t with
  | none => List.replicate 32 0
  | some t =>
    if t.retiring then List.replicate 32 0
    else match t.range with
      | .tensor id => leBytes 8 id ++ leBytes 8 0 ++ leBytes 8 t.arm ++ leBytes 8 1
      | .flat b n => leBytes 8 b ++ leBytes 8 n ++ leBytes 8 t.arm ++ leBytes 8 3

/-- Where an accumulator unit of a task stands in the accumulator space. -/
def accAt (uid unit off : Nat) : PLoc := ⟨.acc, uid * 2 ^ 24 + unit * 2 ^ 16 + off⟩

/-- Registers as a record captures them. -/
structure Regs where
  g : List Word
  v : List VecVal
  h : List HandleVal
  m : List MaskVal
  deriving DecidableEq, Repr

def Ctx.regs (x : Ctx) : Regs := ⟨x.g.toList, x.v.toList, x.h.toList, x.m.toList⟩

/-- The parts of a record of n bytes that the device writes: all but the bytes reserved (R4, R369). -/
def recordRuns (n : Nat) : List (Nat × Nat) := [(0, 23), (24, 2), (28, 6), (40, 184), (256, n - 256)]

/-- Write a save record, but for its reserved bytes. -/
def State.writeRecord (s : State) (q b a : Nat) (bs : List Byte) : State :=
  (recordRuns bs.length).foldl (fun s r => s.writeFlat q b (a + r.1) ((bs.drop r.1).take r.2)) s

/-- Whether an accumulator unit that a record is to hold has a poisoned word: no record may take its bits (R393). -/
def State.accBad (s : State) (uid : Nat) (k : SaveMasks) : Bool := (bitsOf 16 k.u).any fun i => s.poisoned (accAt uid i 0) 65536

/-- A context and its task as they stood at entry to the oldest block (R180). -/
def Ctx.atEntry (x : Ctx) : Ctx :=
  { x with fpmode := x.entry.fpmode, mxstall := x.entry.mxstall, mxissue := x.entry.mxissue, bankconf := x.entry.bankconf,
           trimsave := x.entry.trimsave }
def Task.atEntry (t : Task) (e : Entry) : Task :=
  { t with tls := (List.zip (List.range 8) t.tls).map fun (i, l) => { l with val := lget e.vals i l.val } }

/-- The record of a context (R369, R370). -/
def State.saveRecord (s : State) (t : Task) (x : Ctx) (r : Regs) (fp : Word) (k : SaveMasks) (full : Bool) (resume : Nat) :
    List Byte :=
  let na := naccOf x.poolsplit
  let modes := (List.range 16).foldl (fun a i => a + modeCode (t.modeOf i) * 2 ^ (2 * i)) 0
  let ovf := (List.range 16).foldl (fun a i => a + (t.ovfOf i).toNat * 2 ^ i) 0
  leBytes 8 (1 + full.toNat * 2 ^ 8 + na * 2 ^ 16) ++ leBytes 8 k.g ++ leBytes 4 k.v ++ leBytes 2 k.h ++ leBytes 1 k.m
    ++ [0] ++ leBytes 2 k.u ++ [0, 0] ++ leBytes 4 modes ++ leBytes 2 ovf ++ leBytes 6 0 ++ leBytes 8 resume
    ++ leBytes 8 fp.toNat ++ leBytes 8 t.fenceNewest
    ++ (List.range 8).flatMap (fun i => leBytes 8 (t.tl i).val)
    ++ (List.range 8).flatMap (fun i => leBytes 8 (t.tl i).newest)
    ++ leBytes 8 x.mxstall.toNat ++ leBytes 8 x.mxissue.toNat ++ leBytes 8 x.bankconf.toNat ++ leBytes 8 x.trimsave.toNat
    ++ List.replicate 32 0
    ++ (List.range 8).flatMap (fun i => trackerBytes (kget? i t.trackers))
    ++ padTo64 ((bitsOf 64 k.g).flatMap fun i => leBytes 8 (r.g.getD i 0).toNat)
    ++ padTo64 ((bitsOf 8 k.m).flatMap fun i => leBytes 16 (r.m.getD i 0).toNat)
    ++ (bitsOf 16 k.h).flatMap (fun i => leBytes 64 (r.h.getD i 0).toNat)
    ++ (bitsOf 32 k.v).flatMap (fun i => leBytes 128 (r.v.getD i 0).toNat)
    ++ (bitsOf 16 k.u).flatMap (fun i => s.homeRead (accAt t.uid i 0) 65536)

/-- The masks a record holds. -/
def masksOf (bs : List Byte) : SaveMasks :=
  { g := field bs 8 8, v := field bs 16 4, h := field bs 20 2, m := field bs 22 1, u := field bs 24 2 }
/-- The accumulator count a record holds (R369). -/
def recordNa (bs : List Byte) : Nat := nbits (field bs 0 8) 16 5

/-- The value of register i of a section, or none where the mask does not name it. -/
def sectionVal (bs : List Byte) (off size n mask i : Nat) : Option Nat :=
  if i < n && mask.testBit i then some (field bs (off + size * popn i mask) size) else none

/-- A context with the registers of a record: named registers from the record, the others at their binding values
(R180, R370). -/
def Ctx.loadRegs (x : Ctx) (bs : List Byte) : Ctx :=
  let k := masksOf bs
  let offM := 512 + alignUp (8 * popn 64 k.g) 64
  let offH := offM + alignUp (16 * popn 8 k.m) 64
  let offV := offH + 64 * popn 16 k.h
  { x with
    g := Vector.ofFn fun i => BitVec.ofNat 64 ((sectionVal bs 512 8 64 k.g i.val).getD 0)
    m := Vector.ofFn fun i => match sectionVal bs offM 16 8 k.m i.val with
      | some v => BitVec.ofNat 128 v
      | none => BitVec.allOnes 128
    h := Vector.ofFn fun i => BitVec.ofNat 512 ((sectionVal bs offH 64 16 k.h i.val).getD 0)
    v := Vector.ofFn fun i => BitVec.ofNat 1024 ((sectionVal bs offV 128 32 k.v i.val).getD 0)
    fpmode := fpmodeWrite (BitVec.ofNat 64 (field bs 48 8)) }

/-- A task's accumulators from a record (R180, R370). -/
def State.loadAccs (s : State) (uid nacc : Nat) (bs : List Byte) : State :=
  let k := masksOf bs
  let off := 512 + alignUp (8 * popn 64 k.g) 64 + alignUp (16 * popn 8 k.m) 64 + 64 * popn 16 k.h + 128 * popn 32 k.v
  let s := (List.range nacc).foldl (fun s i =>
    let s := s.zeroRange .acc (accAt uid i 0).a 65536
    if k.u.testBit i then s.homeWrite (accAt uid i 0) ((bs.drop (off + 65536 * popn i k.u)).take 65536) else s) s
  s.modTask uid fun t =>
    { t with
      accMode := (List.range nacc).map fun i => (i, modeOfCode (nbits (field bs 28 4) (2 * i) 2))
      accOvf := (List.range nacc).map fun i => (i, (field bs 32 2).testBit i) }

end Sys2Proof.Machine
end

