-- ==== Sys2Proof/Machine/Ops.lean ====
section
/-!
DEFINITION. Operations shared by many steps: discarding blocks (02 R30), freeing a context, ending a task by a fault
(R39), TAKING A TRAP (18 R385, one operation for every cause) and the return from one (08 R176, R180), pushing ready
tasks (02 R23), suspension (R34, 17 R367), and the address checks of R189 with the reads and stores of a block (03 R56).
-/

namespace Sys2Proof.Machine

/-! Power tokens (R183, R410). -/

/-- Bucket capacity in 1/256 token (R409). -/
def bucketCap : Nat := 64 * 256

/-- The bricks a brick's excess passes to, in order: its course, then the other courses of its die (R183). -/
def spillOrder (b : Nat) : List Nat :=
  let c := courseOfBrick b
  let d := dieOfBrick b
  ((List.range 8).map fun i => 8 * c + i).filter (· != b)
    ++ ((List.range 80).map fun i => 80 * d + i).filter fun x => courseOfBrick x != c

/-- Put tokens (1/256) into the bricks of a list while they have room; what remains is returned. -/
def State.fillBricks (s : State) (n : Nat) : List Nat → State × Nat
  | [] => (s, n)
  | b :: bs =>
    if n = 0 then (s, 0)
    else
      let room := bucketCap - (s.brick b).bucket
      let k := min room n
      (if k = 0 then s else s.modBrick b fun x => { x with bucket := x.bucket + k }).fillBricks (n - k) bs

/-- Return tokens to a brick's bucket (R183); what finds no room on the die is discarded. -/
def State.giveTokens (s : State) (b n : Nat) : State :=
  if n = 0 then s else (s.fillBricks (256 * n) (b :: spillOrder b)).1

/-! Discarding blocks (R30, R188). -/

/-- Give back the records that discarded blocks had reserved (R353). -/
def State.unreserve (s : State) (q : Nat) (rs : List Resv) : State :=
  rs.foldl (fun s r => s.giveRecord q r.die r.place) s

/-- A fabric context without the reservations that a test meets, of a task's block ordinals and slots (R326). -/
def FCtx.unresv (g : FCtx) (uid : Nat) (gone : Nat → Nat → Bool) : FCtx :=
  { g with resv := g.resv.filter fun r => !(r.1 == uid && gone r.2.1 r.2.2) }

/-- The power tokens granted in a block (R183). -/
def Blk.granted (b : Blk) : Nat := (b.grants.map (·.2)).sum

/-- Discard the blocks of a context from the k-th on (R30): reservations, PTOK grants, fence numbers and fabric contexts
reserved go back (R183, R188, R199, R326). A grant goes back whole, what an MMA has drawn on it meanwhile included, and the
held count stops at 0 (log entry 78). -/
def State.discardFrom (s : State) (c k : Nat) : State :=
  let x := s.ctx c
  match x.blks.drop k with
  | [] => s
  | b0 :: bs =>
    let gone := b0 :: bs
    let br := brickOfCtx c
    let granted := (gone.map (·.granted)).sum
    let fences := (gone.map fun b => (b.members.filter fun m => takesFence m.2).length).sum
    let s := s.setCtx c
      { x with blks := x.blks.take k, held := x.held - granted, didAt := s.now }
    let s := s.giveTokens br granted
    let s := match s.task? x.uid with
      | none => s
      | some t =>
        let s := s.unreserve t.part (gone.flatMap Blk.resv)
        s.modTask x.uid fun t =>
          { t with fenceNewest := t.fenceNewest - fences, fences := t.fences.filter fun f => f.ord < b0.ord }
    s.modDie (dieOfCtx c) fun d => { d with grout := d.grout.map fun y => (y.1, y.2.unresv x.uid fun o _ => b0.ord ≤ o) }

/-! Contexts and tasks. -/

/-- Whether some tl7 instruction of a task has left the brick and not completed (R258). -/
def State.pmaBusy (s : State) (b uid : Nat) : Bool :=
  (s.brick b).pma.any (fun o => o.uid == uid) || (s.brick b).run.any fun r => r.op.uid == uid

/-- Free a context: every block is discarded, held tokens go back (R34, R38, R183). -/
def State.freeCtx (s : State) (c : Nat) : State :=
  let s := s.discardFrom c 0
  let held := (s.ctx c).held
  (s.setCtx c Ctx.reset).giveTokens (brickOfCtx c) held

/-- The identity a fault record of a context carries (R387). -/
def State.ctxRec (s : State) (c : Nat) (r : FaultRec) : FaultRec :=
  match s.taskOf c with
  | some t => { r with graph := t.graph, task := t.frame, ctxId := ctxIdOf c }
  | none => { r with ctxId := ctxIdOf c }

/-- The bound task of a context ends by a fault (R39): error bit, fault record with flag 2, context freed; stamps follow
when its work is done. -/
def State.faultEnd (s : State) (c : Nat) (r : FaultRec) : State :=
  match s.taskOf c with
  | none => s
  | some t =>
    let s := s.graphError t.part t.graph
    let s := (s.report t.part (s.ctxRec c { r with flags := 4 })).1
    let s := s.freeCtx c
    let s := s.modTask t.uid fun t => { t with phase := .ending none r.cause }
    s.sweepGraphs t.part

/-! Traps. -/

/-- Whether a trap goes to the handler (R385); COMMIT_VIOLATION ends the task, as R62 says of it alone (log entry 35). -/
def Ctx.delivers (x : Ctx) (b : Blk) (cause : Nat) : Bool :=
  x.trapvec != 0 && !x.priv && !b.pinned && cause != 0x0D && cause != 4

/-- Deliver a trap to the handler (R385): every block is discarded, the full save record goes to SAVEAREA with the
registers at entry to the trapping block, TRAPCAUSE and TRAPINFO are set, the context becomes privileged at TRAPVEC. An
accumulator that cannot be read ends the task (R393). -/
def State.deliverTrap (s : State) (c : Nat) (t : Task) (addr : Nat) (r : TrapRec) : State :=
  let s := s.discardFrom c 0
  let x := s.ctx c
  let k := fullMasks (naccOf x.poolsplit)
  if s.accBad t.uid k then s.faultEnd c { cause := 0x0F, blk := addr }
  else
    let rec' := s.saveRecord ((s.task? t.uid).getD t) x x.regs x.fpmode k true addr
    let s := s.writeRecord t.part (brickOfCtx c) x.savearea.toNat rec'
    s.modCtx c fun x =>
      { x with trapcause := BitVec.ofNat 64 r.cause, trapinfo := r.info, priv := true, pc := x.trapvec.toNat }

/-- TAKE A TRAP at a context's oldest block (R33, R385, R386): deliver it to the handler, or end the task (R39). The full
record waits for the context's tl7 instructions (R258). One operation for every cause. -/
def State.takeTrap (s : State) (c : Nat) : State :=
  let x := s.ctx c
  match x.blks, s.taskOf c with
  | b :: _, some t =>
    match b.firm <|> b.trap with
    | none => s
    | some r =>
      if x.delivers b r.cause then
        if s.pmaBusy (brickOfCtx c) t.uid then s else s.deliverTrap c t b.addr r
      else
        let led := if r.cause = 1 && r.info.toNat % 256 = 1 then x.prev else 0
        s.faultEnd c { cause := r.cause, blk := b.addr, addr := r.info.toNat, resume := led }
  | _, _ => s

/-- RETURN FROM A TRAP: the commit of a block that holds ERET makes the context a user context (R176). -/
def Ctx.eret (x : Ctx) : Ctx := { x with priv := false }

/-- CTXLD's effect at commit (R180): registers, FPMODE and accumulators come from the record. -/
def State.ctxLoad (s : State) (c : Nat) (bs : List Byte) : State :=
  let x := s.ctx c
  (s.setCtx c (x.loadRegs bs)).loadAccs x.uid (naccOf x.poolsplit) bs

/-! Ready deques (R23, R25). -/

/-- The priority a task takes when it is pushed (R364). -/
def State.pushPrio (s : State) (t : Task) : Nat :=
  match (s.die t.die).graphs.find? fun g => g.1 == t.graph with
  | some (_, g) => g.prio.getD t.prio
  | none => t.prio

/-- Push a task, ready, on a brick's deque at the head or the tail. -/
def State.pushReady (s : State) (uid b : Nat) (atHead : Bool) : State :=
  match s.task? uid with
  | none => s
  | some t =>
    let p := s.pushPrio t
    let s := s.setTask uid { t with phase := .ready, prio := p, readyAt := s.now, brick := b }
    s.modBrick b fun x => x.setDq p (if atHead then uid :: x.dq p else x.dq p ++ [uid])

/-- Take a task out of its brick's deques. -/
def State.unqueue (s : State) (uid : Nat) : State :=
  match s.task? uid with
  | none => s
  | some t => s.modBrick t.brick fun x =>
      { x with dq0 := x.dq0.filter (· != uid), dq1 := x.dq1.filter (· != uid), dq2 := x.dq2.filter (· != uid),
               dq3 := x.dq3.filter (· != uid), blockers := x.blockers.filter (· != uid) }

/-! Suspension (R34, R367, R370). -/

/-- The first free drain slot of a brick (R367). -/
def Brick.freeDrain (b : Brick) : Option Nat := (List.range 8).find? fun k => (kget? k b.drains).isNone

/-- Save a context at a resume block and free it (R34 steps 1 to 3): the record holds the live-in registers of the resume
block's header, the task takes a drain slot. An accumulator that cannot be read ends the task (R393). -/
def State.saveAndFree (s : State) (c k addr : Nat) (hdr : List Word32) (wake : Wake) : State :=
  match s.taskOf c with
  | none => s
  | some t =>
    let b := brickOfCtx c
    let s := s.discardFrom c 0
    let x := s.ctx c
    let t := (s.task? t.uid).getD t
    let m := liveMasks t hdr
    if s.accBad t.uid m then s.faultEnd c { cause := 0x0F, blk := addr }
    else
      let s := s.writeRecord t.part b x.savearea.toNat (s.saveRecord t x x.regs x.fpmode m false addr)
      let s := s.modBrick b fun y => { y with drains := kset k ⟨t.uid⟩ y.drains }
      let s := s.freeCtx c
      s.setTask t.uid { t with phase := .suspended, brick := b, saved := true, wake := wake, wokeAt := s.now }

/-! Address checks (R189). -/

/-- The outcome of an address check. -/
inductive Chk
  | ok (l : PLoc) (pte : Nat)
  | bad (cause : Nat) (addr : Word)
  deriving DecidableEq, Repr

/-- Check an access of n bytes at a flat address by a task on brick b (R189). A dying or dead page is translated as any
other. -/
def State.check (s : State) (t : Task) (b : Nat) (a : Word) (n : Nat) (acc : Acc) : Chk × State :=
  let fa := a.toNat
  if 2 ^ 57 ≤ fa then (.bad 7 a, s)
  else
    match s.spadLoc b fa with
    | some none => (.bad 7 a, s)
    | some (some l) => if fa % n = 0 then (.ok l 0, s) else (.bad 5 a, s)
    | none =>
      if fa % n != 0 then (.bad 5 a, s)
      else if !t.inLease fa n then (.bad 6 a, s)
      else
        match s.xlate (unitOf b) t.part fa acc with
        | (.ok tr, s) => (.ok (tr.loc fa) tr.pte, s)
        | (_, s) => (.bad 7 a, s)

/-- Check a range of n bytes at a multiple of al for reading or writing, in the order of R189: mapped, aligned, inside the
lease, every page allowed. The first failing page gives the trap. -/
def State.checkRange (s : State) (t : Task) (b : Nat) (a : Word) (n al : Nat) (acc : Acc) : Option (Nat × Word) :=
  if 2 ^ 57 ≤ a.toNat then some (7, a)
  else if (s.spadLoc b a.toNat) == some none then some (7, a)
  else if a.toNat % al != 0 then some (5, a)
  else if !t.inLease a.toNat n then some (6, a)
  else
    match (piecesOf a.toNat n).find? fun p => (s.flatLoc t.part b p.1 acc).isNone with
    | some p => some (7, BitVec.ofNat 64 p.1)
    | none => none

/-! The stores of older blocks, and operations on their way to a home, that a read must find done (R56, R288). -/

/-- The bytes at a flat range, page by page. -/
def State.spanOf (s : State) (t : Task) (br a n : Nat) : List (PLoc × Nat) :=
  (piecesOf a n).filterMap fun p => (s.flatLoc t.part br p.1 .write).map fun l => (l, p.2)

/-- The flat ranges that an operation may touch at its home: a barrier's record; a ring's header with its full bits, or with
an entry and the full bit of it. -/
def State.effRanges (s : State) (t : Task) (br : Nat) : CEff → List (Nat × Nat)
  | .arrive addr _ => [(addr, 64)]
  | .qinit addr lg x => [(addr, 64), ((x &&& ~~~7).toNat, ringArray (2 ^ lg))]
  | .qfill addr k _ =>
    (addr, 64) :: (match s.readFlat t.part br t.uid addr 64 with
      | some bs =>
        let r := RingHdr.of bs
        if r.ok then [(r.entry addr k.toNat, r.esize), ((r.bit k.toNat).1, 1)] else []
      | none => [])
  | _ => []
def State.effSpans (s : State) (t : Task) (br : Nat) (e : CEff) : List (PLoc × Nat) :=
  (s.effRanges t br e).flatMap fun r => s.spanOf t br r.1 r.2

/-- Whether a span shares a byte with n bytes at a place. -/
def hits (p : PLoc × Nat) (l : PLoc) (n : Nat) : Bool := p.1.sp == l.sp && overlaps p.1.a p.2 l.a n

/-- Whether an operation of the task itself to some bytes is still on its way to its home. -/
def State.homePending (s : State) (uid : Nat) (l : PLoc) (n : Nat) : Bool :=
  s.homeOps.any fun h => h.uid == uid && h.spans.any fun p => hits p l n

/-- An instruction whose effect is an operation at a home. -/
def homeInstr : Instr → Bool
  | .bara .. | .qinit .. | .qfill .. => true
  | _ => false

/-- Whether older blocks of a context keep a read of some bytes from being made: a store of theirs has not resolved, or an
operation of theirs to those bytes has still to act at its home. -/
def Ctx.storesKnown (x : Ctx) (k : Nat) : Bool :=
  (x.olderBlks k).all fun b => b.members.all fun (m, j) =>
    !((storeLsid j).isSome || homeInstr j || match j with | .vst .. | .vsts .. | .vstx .. => true | _ => false)
      || (b.slot m).st.resolved
def State.homeAhead (s : State) (c k : Nat) (t : Task) (l : PLoc) (n : Nat) : Bool :=
  s.homePending t.uid l n || ((s.ctx c).olderBlks k).any fun b =>
    b.effs.any fun e => (s.effSpans t (brickOfCtx c) e.2).any fun p => hits p l n

/-- Where the context's own writes that have not left the brick, and the stores of its older blocks, touch some bytes: the
latest of them, as address and length (R284). -/
def State.lastOwn (s : State) (c k uid : Nat) (l : PLoc) (n : Nat) : Option (Nat × Nat) :=
  let hit (sp : Space) (a m : Nat) : Bool := sp == l.sp && overlaps a m l.a n
  let gone := (s.writes.filter fun w => w.uid == uid && w.cmd == 0 && !w.cached && hit w.loc.sp w.loc.a w.bytes.length).map fun w =>
    (w.loc.a, w.bytes.length)
  let held := ((s.ctx c).blks.take k).flatMap fun b => (b.stores.filter fun w =>
    w.performed.isNone && hit w.loc.sp w.loc.a w.bytes.length).map fun w => (w.loc.a, w.bytes.length)
  (gone ++ held).getLast?

/-- Whether the context's own earlier writes hold only part of some bytes (R284): what they hold and what the memory holds are
of two moments until those writes have performed. -/
def State.partOwn (s : State) (c k uid : Nat) (l : PLoc) (n : Nat) : Bool :=
  (s.lastOwn c k uid l n).any fun w => !(w.1 ≤ l.a && l.a + n ≤ w.1 + w.2)

/-! Reads and stores of a block (R56, R190, R192). -/

/-- The bytes of some of a block's stores laid over bytes read at a place. -/
def Blk.overStores (b : Blk) (l : PLoc) (bs : List Byte) (sel : StoreRec → Bool) : List Byte :=
  b.stores.foldl (fun bs w => if w.loc.sp == l.sp && sel w then overlay bs l.a w.loc.a w.bytes else bs) bs

/-- Whether a block holds a store of the other kind to the bytes of a read (R232). -/
def Blk.crosses (b : Blk) (v : Sees) (l : PLoc) (n : Nat) : Bool :=
  b.stores.any fun w => w.loc.sp == l.sp && overlaps w.loc.a w.bytes.length l.a n && v.sel true w && !v.sel false w

/-- Byte by byte, one of two readings: the second where the byte's bit is set (R232). -/
def pickBytes (cross : Nat) (x y : List Byte) : List Byte :=
  (List.zip (List.range x.length) (List.zip x y)).map fun (i, a, b) => if cross.testBit i then b else a

/-- Stores keep ascending LSIDs and, among vector lanes, the order in which they fired; other pairs have no order. -/
def insertStore (w : StoreRec) : List StoreRec → List StoreRec
  | [] => [w]
  | x :: r =>
    let before : Bool := match w.lsid, x.lsid with
      | some a, some b => a < b
      | .none, .none => w.slot < x.slot
      | _, _ => false
    if before then w :: x :: r else x :: insertStore w r

/-- The memory as the brick sees it, with the stores of older blocks in flight laid over (R29). -/
def State.outerRead (s : State) (c k uid : Nat) (l : PLoc) (n : Nat) : List Byte :=
  ((s.ctx c).blks.take k).foldl (fun bs b => b.overStores l bs fun w => w.performed.isNone) (s.viewRead (dieOfCtx c) uid l n).1

/-- The aligned 8 bytes that hold a place. -/
def PLoc.word (l : PLoc) : PLoc := { l with a := l.a / 8 * 8 }

/-- Of the reads and atomics of higher LSIDs that a block has made in an aligned word, the one of the lowest LSID: a read of
a lower LSID in the word takes the bytes that it took, so that it is not later (R56, R288) and mixes no two moments (R284). -/
def Blk.higher (b : Blk) (k : Nat) (l : PLoc) : Option (Nat × ReadRec) :=
  b.reads.foldl (fun o r => match r.lsid with
    | some j => if k < j && r.loc.word == l.word && o.all (fun y => j < y.1) then some (j, r) else o
    | none => o) none

/-- Whether a store of the block has still to be laid over the bytes that a read of LSID j took. -/
def StoreRec.after (w : StoreRec) (j : Nat) : Bool := w.performed.all fun a => j ≤ a

/-- What a read of the k-th block of a context takes from the memory: a place with its bytes there, the pending writes seen,
and which stores of the block come after them. An LSID's read takes a whole aligned word. -/
def State.readBase (s : State) (c k uid : Nat) (l : PLoc) (n : Nat) (v : Sees) (dead : Bool) :
    PLoc × List Byte × List Nat × (StoreRec → Bool) :=
  let fresh (p : PLoc) (m : Nat) := (p, if dead then List.replicate m 0 else s.outerRead c k uid p m,
    (s.viewRead (dieOfCtx c) uid l n).2, fun (w : StoreRec) => w.performed.isNone)
  match v with
  | .lsid i =>
    (match (s.blk? c k).bind fun b => b.higher i l with
    | some (j, r) => (l.word, r.word, r.saw, fun w => w.after j)
    | none => fresh l.word 8)
  | _ => fresh l n

/-- n bytes as the k-th block of a context reads them, the pending writes seen, and the bytes from the memory: its own
block's stores are laid over those (R29, R56); the bits of cross decide where the two kinds of access meet (R232). -/
def State.blockRead (s : State) (c k uid : Nat) (l : PLoc) (n : Nat) (v : Sees) (dead : Bool) (cross : Nat) :
    List Byte × List Nat × List Byte :=
  let (p, base, ids, later) := s.readBase c k uid l n v dead
  match s.blk? c k with
  | some b =>
    let laid (x : Bool) := ((b.overStores p base fun w => later w && v.sel x w).drop (l.a - p.a)).take n
    (pickBytes cross (laid false) (laid true), ids, base)
  | none => ((base.drop (l.a - p.a)).take n, ids, base)

/-- Whether a read meets a poisoned word that no write in view covers whole (R393). -/
def State.readPoison (s : State) (die uid : Nat) (l : PLoc) (n : Nat) : Bool := !(s.badWords die uid l n).isEmpty

/-- Whether a store covers a word whole. -/
def StoreRec.covers (w : StoreRec) (l : PLoc) : Bool :=
  w.loc.sp == l.sp && w.loc.a ≤ l.a && l.a + 8 ≤ w.loc.a + w.bytes.length

/-- Whether a read of a block meets a poisoned word (R393), which no write in view, no store of an older block and none of its
own that it sees covers. -/
def State.blockPoison (s : State) (c k uid : Nat) (l : PLoc) (n : Nat) (v : Sees) : Bool :=
  (s.badWords (dieOfCtx c) uid l n).any fun w => !((s.ctx c).olderBlks k).any (fun b => b.stores.any fun x => x.covers ⟨l.sp, 8 * w⟩)
    && !(s.blk? c k).any fun b => b.stores.any (fun x => v.sel false x && x.covers ⟨l.sp, 8 * w⟩)
      || (match v with
        | .lsid i => (b.higher i l).isSome
        | _ => false)

/-- Discard the younger blocks of a context that have read bytes of a place, so that reads of one location stay in program
order (R288, R30). -/
def State.squashReaders (s : State) (c k : Nat) (l : PLoc) (n : Nat) : State :=
  match findIdx1 (fun (b : Blk) => b.reads.any fun r => r.loc.sp == l.sp && overlaps r.loc.a r.bytes.length l.a n)
      ((s.ctx c).blks.drop (k + 1)) with
  | some (i, _) => s.discardFrom c (k + 1 + i)
  | none => s

/-- Discard every younger block of a context that has made a read, after an acquire (R200). -/
def State.squashAfter (s : State) (c k : Nat) : State :=
  match findIdx1 (fun (b : Blk) => !b.reads.isEmpty) ((s.ctx c).blks.drop (k + 1)) with
  | some (i, _) => s.discardFrom c (k + 1 + i)
  | none => s

/-! A load performed again (R190; log entry 9): the slots that depend on it go back to where they stood before it fired. -/

/-- A slot to which it is as if some senders had not fired; where it is itself to fire again, as if it had not. -/
def Slot.without (x : Slot) (gone : Nat → Bool) (fence : Bool) : Slot :=
  let y := x.src.foldl (fun (y : Slot) p => if gone p.2 then y.setOp p.1 none else y) x
  { y with src := x.src.filter (fun p => !gone p.2), st := .idle, sent := false, num := if fence then x.num else 0 }

/-- The slot of an exit that fired. -/
def ExitRec.slot : ExitRec → Nat
  | .to n _ | .tend n _ => n

/-- A block as if some slots, and with them all that depends on them, had not fired. What these traps kept from their targets
is delivered where its sender stays. -/
def Blk.without (b : Blk) (gone : Nat → Bool) : Blk :=
  let wrote (p : Instr → Bool) : Bool := b.members.any fun (m, i) => gone m && (b.slot m).st.resolved && p i
  let fences (n : Nat) : Bool := b.members.any fun (m, i) => m == n && takesFence i
  let c := { b with
    slots := (List.zip (List.range b.slots.length) b.slots).map fun (n, x) => if gone n then x.without gone (fences n) else x
    gw := b.gw.filter fun w => !wrote fun i => gDest i == some w.1
    vw := b.vw.filter fun w => !wrote fun i => xDest i == some (.v, w.1)
    hw := b.hw.filter fun w => !wrote fun i => xDest i == some (.h, w.1)
    mw := b.mw.filter fun w => !wrote fun i => xDest i == some (.m, w.1)
    vs := b.vs.filter fun w => !gone w.1
    hs := b.hs.filter fun w => !gone w.1
    ms := b.ms.filter fun w => !gone w.1
    stores := b.stores.filter fun w => !gone w.slot
    reads := b.reads.filter fun r => !gone r.slot
    effs := b.effs.filter fun e => !gone e.1
    raised := b.raised.filter fun e => !gone e.1
    exit := b.exit.filter fun e => !gone e.slot
    traps := []
    resv := b.resv.filter fun r => !gone r.slot
    grants := b.grants.filter fun g => !gone g.1 }
  b.traps.foldl (fun c t => match t.src, t.lost with
    | some n, some (tgt, tok) => if gone n then c else c.deliver n tgt tok
    | _, _ => c) c

/-- Whether an irrevocable instruction of a block has been performed in a slot. -/
def Blk.performedAt (b : Blk) (n : Nat) : Bool :=
  (b.slot n).st == .done && b.members.any fun (m, i) => m == n && irrevocable i

/-- Some slots of a block, with all that depends on them, are to fire again: what they did goes back as at a discard (R183,
R188, R199, R326). A slot that raised a trap by what they did fires again too; the younger blocks are discarded. -/
def State.refire (s : State) (c k : Nat) (ns : List Nat) : State :=
  match s.blk? c k with
  | none => s
  | some b =>
    let raisers := b.traps.filterMap fun t => if t.lost.isNone then t.src else none
    let set := b.after (ns ++ raisers)
    let gone (n : Nat) : Bool := set.contains n
    let back := ((b.grants.filter fun g => gone g.1).map (·.2)).sum
    let s := s.discardFrom c (k + 1)
    let s := s.modCtx c fun x => { x with held := x.held - back, blks := x.blks.set k (b.without gone), didAt := s.now }
    let s := s.giveTokens (brickOfCtx c) back
    let uid := (s.ctx c).uid
    let s := match s.task? uid with
      | none => s
      | some t =>
        let s := s.unreserve t.part (b.resv.filter fun r => gone r.slot)
        let nums := b.members.filterMap fun (m, j) => if takesFence j && gone m then some (b.slot m).num else none
        s.modTask uid fun t => { t with fences := t.fences.filter fun f => !nums.contains f.num }
    s.modDie (dieOfCtx c) fun d => { d with grout := d.grout.map fun y => (y.1, y.2.unresv uid fun o n => o == b.ord && gone n) }

/-- Whether a slot can be made to fire again for the sake of another: nothing irrevocable depends on it, nor does that
other one. -/
def Blk.canRefire (b : Blk) (n other : Nat) : Bool :=
  let set := b.after [n]
  !set.contains other && !set.any b.performedAt

/-- Make the slots of a list fire again that can, for the sake of the focused one. -/
def State.again (s : State) (f : Focus) (ns : List Nat) : State :=
  match s.blk? f.ctx f.blk with
  | none => s
  | some b => match ns.filter fun n => b.canRefire n f.slot with
    | [] => s
    | ns => s.refire f.ctx f.blk ns

/-- The reads of a block whose bytes come in part from a store of the block itself: until it commits with them, another write
must not come between (R284). -/
def Blk.partials (b : Blk) : List ReadRec :=
  b.reads.filter fun r => ((b.stores.filter fun w => w.performed.isNone && w.loc.sp == r.loc.sp
      && overlaps w.loc.a w.bytes.length r.loc.a r.bytes.length && r.sees.sel true w).getLast?).any fun w =>
    !(w.loc.a ≤ r.loc.a && r.loc.a + r.bytes.length ≤ w.loc.a + w.bytes.length)

/-- The slots of those whose other bytes have changed since, in the k-th block of a context. -/
def State.stale (s : State) (c k : Nat) (t : Task) (b : Blk) : List Nat :=
  (b.partials.filter fun r =>
    let dead := s.dying (s.flatPte t.part (brickOfCtx c) r.flat .read)
    (s.readBase c k t.uid r.loc r.bytes.length r.sees dead).2.1 != r.word).map (·.slot)

/-- The slots of a block's reads of LSIDs above one that touch some bytes. -/
def Blk.readAbove (b : Blk) (k : Nat) (l : PLoc) (n : Nat) : List Nat :=
  (b.reads.filter fun r => r.loc.sp == l.sp && overlaps r.loc.a r.bytes.length l.a n && r.lsid.any fun j => k < j).map (·.slot)

/-- The slots of a block's loads of LSIDs above one, those that share its aligned word, or all. -/
def Blk.loadsAbove (b : Blk) (k : Nat) (l : Option PLoc) : List Nat :=
  (b.reads.filter fun r => r.lsid.any (fun j => k < j) && l.all fun l => r.loc.word == l.word).map (·.slot)

/-! Acquires (R290, R291). -/

/-- Whether a scope contains two bricks (R283). -/
def Scope.joins (sc : Scope) (a b : Nat) : Bool :=
  match sc with
  | .brick => a == b
  | .course => courseOfBrick a == courseOfBrick b
  | .die => a / 80 == b / 80
  | .pier => pierOfBrick a == pierOfBrick b
  | .dev | .sys => true

/-- Whether some release of a sequence synchronises with an acquire by brick b at a scope (R291). -/
def synced (rels : List (Nat × Scope)) (b : Nat) (sc : Scope) : Bool := rels.any fun r => Scope.joins r.2 r.1 b && Scope.joins sc r.1 b

/-- Whether an acquire that read n bytes and saw some pending writes there surely synchronises with no release, its scope
or the release's leaving out the other brick (R291). -/
def State.unsynced (s : State) (c : Nat) (l : PLoc) (n : Nat) (saw : List Nat) (sc : Scope) : Bool :=
  match saw with
  | [] => (s.headsAt l n).any fun rels => !synced rels (brickOfCtx c) sc
  | [i] => s.writes.any fun w => w.id == i && !w.fenced && w.loc.a ≤ l.a && l.a + n ≤ w.loc.a + w.bytes.length
      && w.rel.any fun sx => !synced [(w.brick, sx)] (brickOfCtx c) sc
  | _ => false

/-- Whether the accesses after an acquire must be performed after it: a free choice where it synchronises with nothing. -/
def State.orders (s : State) (c : Nat) (l : PLoc) (n : Nat) (saw : List Nat) (sc : Scope) : Bool × State :=
  if s.unsynced c l n saw sc then s.drawBool else (true, s)

/-! Banks (R115). -/

/-- The banks a scratchpad access of n bytes reaches, one for each 16 bytes. -/
def banksOf (off n : Nat) : List Nat := (List.range ((off + n - 1) / 16 + 1 - off / 16)).map fun i => (off / 16 + i) % 64

/-- An access reaches banks of a brick in a cycle: how long it waits, and when each bank is free again. -/
def bankWait (cyc : Nat) (banks : List Nat) (busy : KMap Nat) : Nat × KMap Nat :=
  banks.foldl (fun (acc : Nat × KMap Nat) k =>
    let at' := max cyc (kget k 0 acc.2)
    (acc.1 + (at' - cyc), kset k (at' + 1) acc.2)) (0, busy)

/-- A context's access reaches the scratchpad banks: each cycle it waits adds to its BANKCONF (R115). Each lane of a vector
access is an access of its own (log entry 42). -/
def State.conflicts (s : State) (c : Nat) (l : PLoc) (n : Nat) : State :=
  match l.sp with
  | .spad =>
    let b := l.a / Config.poolBytes
    let (k, busy) := bankWait (s.cycle b) (banksOf (l.a % Config.poolBytes) n) (s.brick b).banks
    (s.modBrick b fun x => { x with banks := busy }).modCtx c fun x => { x with bankconf := x.bankconf + BitVec.ofNat 64 k }
  | _ => s

/-- A PMA instruction or a copy accesses the scratchpad, in cycles that no rule gives: the banks that it takes in the current
cycle are free, and so is the count of its own conflicts, which the issuing context gets while its task is bound (R115; log
entry 7). -/
def State.freeConflicts (s : State) (b uid : Nat) : State :=
  let (taken, s) := s.drawNat
  let now := s.cycle b
  let s := s.modBrick b fun x => { x with banks := (List.range 64).foldl (fun m k =>
    if taken.testBit k then kset k (max now (kget k 0 m) + 1) m else m) x.banks }
  match s.task? uid with
  | some t =>
    match t.phase with
    | .bound c =>
      let (n, s) := s.drawNat
      s.modCtx c fun x => { x with bankconf := x.bankconf + BitVec.ofNat 64 n }
    | _ => s
  | none => s

/-! A read of a block. -/

/-- The LSID of a read's order. -/
def seesLsid : Sees → Option Nat
  | .lsid k => some k
  | _ => none

/-- What a checked read of a block gives. -/
inductive Got
  | wait
  | bytes (bs : List Byte) (s : State)
  | trap (s : State) (cause : Nat) (info : Word)

/-- Note a read with the focused block; younger blocks that have read those bytes are discarded. -/
def State.noteRead (s : State) (f : Focus) (r : ReadRec) : State :=
  (s.modBlk f.ctx f.blk fun b => { b with reads := b.reads ++ [r] }).squashReaders f.ctx f.blk r.loc r.bytes.length

/-- Read n bytes at a checked place for the focused slot (R189, R190), once what comes before it is known, and note it. -/
def State.readAt (s : State) (f : Focus) (t : Task) (b : Blk) (l : PLoc) (pte flat n : Nat) (v : Sees) : List Byte × State :=
  let (cross, s) := if b.crosses v l n then s.drawNat else (0, s)
  let (bs, ids, word) := s.blockRead f.ctx f.blk t.uid l n v (s.dying pte) cross
  (bs, (s.conflicts f.ctx l n).noteRead f ⟨f.slot, v, l, bs, ids, flat, word, s.partOwn f.ctx f.blk t.uid l.word 8⟩)

/-- The loads of the focused block with LSIDs above one, of an aligned word or all, are performed again where they can be. -/
def State.againAbove (s : State) (f : Focus) (k : Nat) (l : Option PLoc) : State :=
  match s.blk? f.ctx f.blk with
  | some b => s.again f (b.loadsAbove k l)
  | none => s

/-- A wait of the focused block is over: what is ordered after it is performed again where it has been (R200): the reads of
younger blocks, and the loads of its own block ahead of lower ones, which may depend on it. -/
def State.afterWait (s : State) (f : Focus) : State :=
  let s := s.squashAfter f.ctx f.blk
  match s.blk? f.ctx f.blk with
  | some b => s.again f (b.guesses.filter fun g => g != f.slot)
  | none => s

/-- Before a read of an LSID takes bytes of a word from what a higher one took: where that word was of two moments, and the
higher read had other bytes of it, the loads above are performed again instead (R284). -/
def State.unmix (s : State) (f : Focus) (b : Blk) (l : PLoc) (n : Nat) (v : Sees) : State :=
  match v with
  | .lsid i =>
    if (b.higher i l).any fun (_, r) => r.mixed && !(r.loc.a ≤ l.a && l.a + n ≤ r.loc.a + r.bytes.length) then s.againAbove f i (some l)
    else s
  | _ => s

/-- A checked read of n bytes for the focused slot (R189, R190): it waits for the stores of older blocks, for the operations of
the task on those bytes at a home, for the task's own writes that hold only part of them and, unless it goes ahead, for the
lower LSIDs of its block. One that meets a poisoned word is noted too: a lower LSID may still write that word. -/
def State.load (s : State) (f : Focus) (a : Word) (n : Nat) (v : Sees) : Got :=
  match s.taskOf f.ctx, s.blk? f.ctx f.blk with
  | some t, some b =>
    match s.check t (brickOfCtx f.ctx) a n .read with
    | (.bad cause w, s) => .trap s cause w
    | (.ok l pte, s) =>
      if !(s.ctx f.ctx).storesKnown f.blk || s.homeAhead f.ctx f.blk t l n || s.partOwn f.ctx f.blk t.uid l n
          || (seesLsid v).any b.ahead && !f.early then .wait
      else if s.blockPoison f.ctx f.blk t.uid l n v && !s.dying pte then
        .trap (s.noteRead f ⟨f.slot, v, l, List.replicate n 0, [], a.toNat, List.replicate 8 0, false⟩) 0x0F a
      else
        let s := s.unmix f b l n v
        let (bs, s) := s.readAt f t ((s.blk? f.ctx f.blk).getD b) l pte a.toNat n v
        .bytes bs s
  | _, _ => .wait

/-- Hold a store with its block (R192, R193, R231). -/
def State.hold (s : State) (f : Focus) (w : StoreRec) : State :=
  let s := s.modBlk f.ctx f.blk fun b => { b with stores := insertStore w b.stores }
  s.squashReaders f.ctx f.blk w.loc w.bytes.length

/-- Note what an instruction leaves at commit (R188). -/
def State.eff (s : State) (f : Focus) (e : CEff) : State :=
  s.modBlk f.ctx f.blk fun b => { b with effs := kset f.slot e b.effs }

/-- Note flags raised by a block (R99). -/
def State.flag (s : State) (f : Focus) (x : FFlags) : State :=
  if x = 0 then s else s.modBlk f.ctx f.blk fun b => { b with raised := kset f.slot (kget f.slot 0 b.raised ||| x) b.raised }

/-- The flags raised by a block (R99). -/
def Blk.flags (b : Blk) : FFlags := b.raised.foldl (fun x e => x ||| e.2) 0

/-- The oldest block of a context in which the slot holds a busy instruction of some kind, with its focus (R51). -/
def State.findBusy (s : State) (c n : Nat) (p : Instr → Bool) : Option (Focus × Blk × Instr) :=
  (findIdx1 (fun (b : Blk) => b.firm.isNone && !b.traps.any (fun t => t.src == some n) && (b.slot n).st == .busy
      && b.members.any fun m => m.1 == n && p m.2)
      (s.ctx c).blks).bind fun (k, b) =>
    (b.members.find? fun m => m.1 == n).map fun m => (⟨c, k, n, false⟩, b, m.2)

/-- The operands a slot fired on. -/
def Slot.ops (x : Slot) (i : Instr) : List Tok := ([x.op0, x.op1, x.op2].take (nOpsOf i)).filterMap id

/-- A busy instruction raises a trap, held with its block (R33). -/
def State.busyTrap (s : State) (f : Focus) (cause : Nat) (info : Word) : State :=
  s.modBlk f.ctx f.blk fun b => (b.setSt f.slot .done).hold cause info (some f.slot)

/-- A check of a record of n bytes at a multiple of n, where a misaligned address has a cause of its own (R218, R221). -/
def Chk.recast (x : Chk) (cause : Nat) : Chk :=
  match x with
  | .bad 5 a => .bad cause a
  | x => x

/-- Cycles the PMA has waited so far for power tokens of a context's instruction (R261). -/
def State.stallNow (s : State) (c : Nat) : Nat :=
  let b := s.brick (brickOfCtx c)
  match b.stallAt, b.pma with
  | some t0, op :: _ => if op.ctx = c && op.uid = (s.ctx c).uid then s.cycle (brickOfCtx c) - t0 else 0
  | _, _ => 0

/-- Note what the oldest block of a context finds at its entry (R180). -/
def State.noteEntry (s : State) (c : Nat) : State :=
  match s.taskOf c with
  | none => s
  | some t => s.modCtx c fun x =>
      { x with entry := ⟨t.tls.map (·.val), x.fpmode, x.mxstall + BitVec.ofNat 64 (s.stallNow c), x.mxissue, x.bankconf, x.trimsave⟩ }

/-- Whether the focused block is the context's oldest. -/
def Focus.oldest (f : Focus) : Bool := f.blk == 0

end Sys2Proof.Machine
end

