-- ==== Sys2Proof/Machine/Plumbing.lean ====
section
/-!
DEFINITION. Plumbing and constants (08 R153 to R157).
-/

namespace Sys2Proof.Machine

/-- What a meaning answers. -/
abbrev Res := Host.Outcome State Fault Refusal

/-- 1 or 0 as a token. -/
def boolTok (b : Bool) : Word := if b then 1 else 0

/-- R153: a g register as it stands at entry to the block. -/
def execGread (r : BitVec 6) (t1 t0 : Target) (s : State) : Res :=
  fireG (.gread r t1 t0) (fun f _ s => match (s.ctx f.ctx).entryG f.blk r.toNat with
    | some x => .done s (both x)
    | none => .wait) s

/-- A v, h or m register at entry as a token. -/
def Ctx.entryTok (x : Ctx) (k : Nat) (kind : XKind) (r : Nat) : Option Tok :=
  match kind with
  | .v => (x.entryV k r).map .v
  | .h => (x.entryH k r).map .h
  | .m => (x.entryM k r).map .m

/-- R153: a v, h or m register as it stands at entry to the block. -/
def execXread (k : XKind) (r : BitVec 5) (t1 t0 : Target) (s : State) : Res :=
  fireG (.xread k r t1 t0) (fun f _ s => match (s.ctx f.ctx).entryTok f.blk k r.toNat with
    | some x => .done s [x, x]
    | none => .wait) s

/-- R154, R63: op0 is written at commit; g0 resolves nothing. -/
def execGwrite (pr : Pr) (r : BitVec 6) (s : State) : Res :=
  fireG (.gwrite pr r) (fun f ops s => .done (s.modBlk f.ctx f.blk fun b =>
    if r = 0 then b else b.resolveG f.slot r.toNat (some (opw ops 0))) []) s

/-- R154, R63: op0 of the kind's width is written at commit; m0 resolves nothing. -/
def execXwrite (pr : Pr) (k : XKind) (r : BitVec 5) (s : State) : Res :=
  fireG (.xwrite pr k r) (fun f ops s => .done (s.modBlk f.ctx f.blk fun b =>
    if k = .m && r = 0 then b else b.resolveX f.slot k r.toNat ops.head?) []) s

/-- R155: op0, of any width, to T0 and T1. -/
def execMov (pr : Pr) (t1 t0 : Target) (s : State) : Res :=
  fireG (.mov pr t1 t0) (fun _ ops s => .done s ((targetsOf (.mov pr t1 t0)).flatMap fun _ => ops.take 1)) s

/-- R155: op0, of any width, to T0, T1, T2 and T3. -/
def execMovl (pr : Pr) (t3 t2 t1 t0 : Target) (s : State) : Res :=
  fireG (.movl pr t3 t2 t1 t0) (fun _ ops s =>
    .done s ((targetsOf (.movl pr t3 t2 t1 t0)).flatMap fun _ => ops.take 1)) s

/-- R156: a null token to T0 and T1. -/
def execNull (pr : Pr) (t1 t0 : Target) (s : State) : Res :=
  fireG (.null pr t1 t0) (fun _ _ s => .done s [.null, .null]) s

/-- R157: the constant sign-extended. -/
def execGenc (c : BitVec 16) (t0 : Target) (s : State) : Res := fireVal (.genc c t0) (fun _ => sext c) s
/-- R157: the constant zero-extended. -/
def execGencn (c : BitVec 16) (t0 : Target) (s : State) : Res := fireVal (.gencn c t0) (fun _ => zext c) s
/-- R157: op0 shifted up by 16 with the constant below. -/
def execAppc (c : BitVec 16) (t0 : Target) (s : State) : Res :=
  fireVal (.appc c t0) (fun ops => (opw ops 0 <<< 16) ||| zext c) s
/-- R157: word 2 sign-extended. -/
def execGencl (pr : Pr) (c : Word32) (t1 t0 : Target) (s : State) : Res := fireVal (.gencl pr c t1 t0) (fun _ => sext c) s

end Sys2Proof.Machine
end

