-- ==== Sys2Proof/Machine/Integer.lean ====
section
/-!
DEFINITION. Integer instructions and compares (08 R158 to R162, R164). An operation is written once for any width; the W
form works on the low 32 bits and sign-extends (R158).
-/

namespace Sys2Proof.Machine

/-- The low 32 bits of a scalar. -/
def low32 (x : Word) : BitVec 32 := x.setWidth 32

/-- An operation of one operand at 64 bits, or at 32 bits and sign-extended (R158). -/
def alu1 (w : Bool) (op : (n : Nat) → BitVec n → BitVec n) (a : Word) : Word :=
  if w then sext (op 32 (low32 a)) else op 64 a
/-- The same of two operands. -/
def alu2 (w : Bool) (op : (n : Nat) → BitVec n → BitVec n → BitVec n) (a b : Word) : Word :=
  if w then sext (op 32 (low32 a) (low32 b)) else op 64 a b
/-- The same of three operands. -/
def alu3 (w : Bool) (op : (n : Nat) → BitVec n → BitVec n → BitVec n → BitVec n) (a b c : Word) : Word :=
  if w then sext (op 32 (low32 a) (low32 b) (low32 c)) else op 64 a b c

def opAdd (n : Nat) (a b : BitVec n) : BitVec n := a + b
def opSub (n : Nat) (a b : BitVec n) : BitVec n := a - b
def opMul (n : Nat) (a b : BitVec n) : BitVec n := a * b
/-- The high half of the double-width product (R159). -/
def opMulh (u : Bool) (n : Nat) (a b : BitVec n) : BitVec n :=
  if u then BitVec.ofNat n (a.toNat * b.toNat / 2 ^ n) else BitVec.ofInt n (a.toInt * b.toInt / (2 ^ n : Nat))
/-- Division truncating toward zero; divisor 0 gives all ones (R159). -/
def opDiv (u : Bool) (n : Nat) (a b : BitVec n) : BitVec n :=
  if b = 0 then BitVec.allOnes n else if u then a.udiv b else a.sdiv b
/-- Remainder with the sign of op0; divisor 0 gives op0 (R159). -/
def opRem (u : Bool) (n : Nat) (a b : BitVec n) : BitVec n :=
  if b = 0 then a else if u then a.umod b else a.srem b
def opAnd (n : Nat) (a b : BitVec n) : BitVec n := a &&& b
def opOr (n : Nat) (a b : BitVec n) : BitVec n := a ||| b
def opXor (n : Nat) (a b : BitVec n) : BitVec n := a ^^^ b
def opAndn (n : Nat) (a b : BitVec n) : BitVec n := a &&& ~~~b
/-- Shifts and rotates read the low bits of op1, 5 or 6 of them (R158). -/
def opShl (n : Nat) (a b : BitVec n) : BitVec n := a <<< (b.toNat % n)
def opShr (n : Nat) (a b : BitVec n) : BitVec n := a >>> (b.toNat % n)
def opSar (n : Nat) (a b : BitVec n) : BitVec n := a.sshiftRight (b.toNat % n)
def opRot (n : Nat) (a b : BitVec n) : BitVec n := a.rotateLeft (b.toNat % n)
def opMin (u : Bool) (n : Nat) (a b : BitVec n) : BitVec n := if (if u then a.ult b else a.slt b) then a else b
def opMax (u : Bool) (n : Nat) (a b : BitVec n) : BitVec n := if (if u then a.ult b else a.slt b) then b else a
def opSel (n : Nat) (a b c : BitVec n) : BitVec n := if a.getLsbD 0 then b else c
def opMadd (n : Nat) (a b c : BitVec n) : BitVec n := a * b + c

/-- Zero bits below the lowest set bit; n for zero (R161). -/
def ctzNat (n x : Nat) : Nat := ((List.range n).find? fun i => x.testBit i).getD n

/-- The BITS kinds (R161). -/
def opBits (k : BitsKind) (n : Nat) (a : BitVec n) : BitVec n :=
  match k with
  | .clz => BitVec.ofNat n (n - bitlen a.toNat)
  | .ctz => BitVec.ofNat n (ctzNat n a.toNat)
  | .popc => BitVec.ofNat n (bitsOf n a.toNat).length
  | .brev => a.reverse
  | .bswap => BitVec.ofNat n (leNat (leBytes (n / 8) a.toNat).reverse)

/-- Source bits of EXT (R161). -/
def ExtW_bits : ExtW → Nat
  | .b8 => 8 | .b16 => 16 | .b32 => 32
/-- EXT before the W form (R161). -/
def extVal (sw : ExtW) (u : Bool) (a : Word) : Word :=
  let x := a.setWidth (ExtW_bits sw)
  if u then zext x else sext x

def execAdd (pr : Pr) (w : Bool) (t1 t0 : Target) (s : State) : Res :=
  fireVal (.add pr w t1 t0) (fun ops => alu2 w opAdd (opw ops 0) (opw ops 1)) s
def execSub (pr : Pr) (w : Bool) (t1 t0 : Target) (s : State) : Res :=
  fireVal (.sub pr w t1 t0) (fun ops => alu2 w opSub (opw ops 0) (opw ops 1)) s
def execMul (pr : Pr) (w : Bool) (t1 t0 : Target) (s : State) : Res :=
  fireVal (.mul pr w t1 t0) (fun ops => alu2 w opMul (opw ops 0) (opw ops 1)) s
def execMulh (pr : Pr) (n w : Bool) (t1 t0 : Target) (s : State) : Res :=
  fireVal (.mulh pr n w t1 t0) (fun ops => alu2 w (opMulh n) (opw ops 0) (opw ops 1)) s
def execDiv (pr : Pr) (n w : Bool) (t1 t0 : Target) (s : State) : Res :=
  fireVal (.div pr n w t1 t0) (fun ops => alu2 w (opDiv n) (opw ops 0) (opw ops 1)) s
def execRem (pr : Pr) (n w : Bool) (t1 t0 : Target) (s : State) : Res :=
  fireVal (.rem pr n w t1 t0) (fun ops => alu2 w (opRem n) (opw ops 0) (opw ops 1)) s
def execAnd (pr : Pr) (w : Bool) (t1 t0 : Target) (s : State) : Res :=
  fireVal (.and pr w t1 t0) (fun ops => alu2 w opAnd (opw ops 0) (opw ops 1)) s
def execOr (pr : Pr) (w : Bool) (t1 t0 : Target) (s : State) : Res :=
  fireVal (.or pr w t1 t0) (fun ops => alu2 w opOr (opw ops 0) (opw ops 1)) s
def execXor (pr : Pr) (w : Bool) (t1 t0 : Target) (s : State) : Res :=
  fireVal (.xor pr w t1 t0) (fun ops => alu2 w opXor (opw ops 0) (opw ops 1)) s
def execAndn (pr : Pr) (w : Bool) (t1 t0 : Target) (s : State) : Res :=
  fireVal (.andn pr w t1 t0) (fun ops => alu2 w opAndn (opw ops 0) (opw ops 1)) s
def execShl (pr : Pr) (w : Bool) (t1 t0 : Target) (s : State) : Res :=
  fireVal (.shl pr w t1 t0) (fun ops => alu2 w opShl (opw ops 0) (opw ops 1)) s
def execShr (pr : Pr) (w : Bool) (t1 t0 : Target) (s : State) : Res :=
  fireVal (.shr pr w t1 t0) (fun ops => alu2 w opShr (opw ops 0) (opw ops 1)) s
def execSar (pr : Pr) (w : Bool) (t1 t0 : Target) (s : State) : Res :=
  fireVal (.sar pr w t1 t0) (fun ops => alu2 w opSar (opw ops 0) (opw ops 1)) s
def execRot (pr : Pr) (w : Bool) (t1 t0 : Target) (s : State) : Res :=
  fireVal (.rot pr w t1 t0) (fun ops => alu2 w opRot (opw ops 0) (opw ops 1)) s
def execMin (pr : Pr) (n w : Bool) (t1 t0 : Target) (s : State) : Res :=
  fireVal (.min pr n w t1 t0) (fun ops => alu2 w (opMin n) (opw ops 0) (opw ops 1)) s
def execMax (pr : Pr) (n w : Bool) (t1 t0 : Target) (s : State) : Res :=
  fireVal (.max pr n w t1 t0) (fun ops => alu2 w (opMax n) (opw ops 0) (opw ops 1)) s
def execBits (pr : Pr) (k : BitsKind) (w : Bool) (t1 t0 : Target) (s : State) : Res :=
  fireVal (.bits pr k w t1 t0) (fun ops => alu1 w (opBits k) (opw ops 0)) s
/-- EXT.w takes the low 32 bits of the extension and sign-extends them (R161). -/
def execExt (pr : Pr) (sw : ExtW) (n w : Bool) (t1 t0 : Target) (s : State) : Res :=
  fireVal (.ext pr sw n w t1 t0) (fun ops =>
    if w then sext (low32 (extVal sw n (opw ops 0))) else extVal sw n (opw ops 0)) s
def execSel (pr : Pr) (w : Bool) (t1 t0 : Target) (s : State) : Res :=
  fireVal (.sel pr w t1 t0) (fun ops => alu3 w opSel (opw ops 0) (opw ops 1) (opw ops 2)) s
def execMadd (pr : Pr) (w : Bool) (t1 t0 : Target) (s : State) : Res :=
  fireVal (.madd pr w t1 t0) (fun ops => alu3 w opMadd (opw ops 0) (opw ops 1) (opw ops 2)) s

/-! Immediate forms: op1 is the sign-extended immediate (R160). -/

def execAddi (pr : Pr) (w : Bool) (imm : BitVec 9) (t0 : Target) (s : State) : Res :=
  fireVal (.addi pr w imm t0) (fun ops => alu2 w opAdd (opw ops 0) (sext imm)) s
def execMuli (pr : Pr) (w : Bool) (imm : BitVec 9) (t0 : Target) (s : State) : Res :=
  fireVal (.muli pr w imm t0) (fun ops => alu2 w opMul (opw ops 0) (sext imm)) s
def execAndi (pr : Pr) (w : Bool) (imm : BitVec 9) (t0 : Target) (s : State) : Res :=
  fireVal (.andi pr w imm t0) (fun ops => alu2 w opAnd (opw ops 0) (sext imm)) s
def execOri (pr : Pr) (w : Bool) (imm : BitVec 9) (t0 : Target) (s : State) : Res :=
  fireVal (.ori pr w imm t0) (fun ops => alu2 w opOr (opw ops 0) (sext imm)) s
def execXori (pr : Pr) (w : Bool) (imm : BitVec 9) (t0 : Target) (s : State) : Res :=
  fireVal (.xori pr w imm t0) (fun ops => alu2 w opXor (opw ops 0) (sext imm)) s
def execShli (pr : Pr) (w : Bool) (imm : BitVec 9) (t0 : Target) (s : State) : Res :=
  fireVal (.shli pr w imm t0) (fun ops => alu2 w opShl (opw ops 0) (zext imm)) s
def execShri (pr : Pr) (w : Bool) (imm : BitVec 9) (t0 : Target) (s : State) : Res :=
  fireVal (.shri pr w imm t0) (fun ops => alu2 w opShr (opw ops 0) (zext imm)) s
def execSari (pr : Pr) (w : Bool) (imm : BitVec 9) (t0 : Target) (s : State) : Res :=
  fireVal (.sari pr w imm t0) (fun ops => alu2 w opSar (opw ops 0) (zext imm)) s
def execMini (pr : Pr) (n w : Bool) (imm : BitVec 9) (t0 : Target) (s : State) : Res :=
  fireVal (.mini pr n w imm t0) (fun ops => alu2 w (opMin n) (opw ops 0) (sext imm)) s
def execMaxi (pr : Pr) (n w : Bool) (imm : BitVec 9) (t0 : Target) (s : State) : Res :=
  fireVal (.maxi pr n w imm t0) (fun ops => alu2 w (opMax n) (opw ops 0) (sext imm)) s

/-! Compares. -/

/-- The integer conditions (R70, R162). -/
def condHolds {n : Nat} (c : Cond) (a b : BitVec n) : Bool :=
  match c with
  | .eq => a == b | .ne => a != b
  | .lt => a.slt b | .le => !b.slt a | .gt => b.slt a | .ge => !a.slt b
  | .ltn => a.ult b | .len => !b.ult a | .gtn => b.ult a | .gen => !a.ult b

/-- A compare at 64 bits, or of the low 32 bits (R162). -/
def tcmpVal (c : Cond) (w : Bool) (a b : Word) : Word :=
  boolTok (if w then condHolds c (low32 a) (low32 b) else condHolds c a b)

def execTcmp (pr : Pr) (c : Cond) (w : Bool) (t1 t0 : Target) (s : State) : Res :=
  fireVal (.tcmp pr c w t1 t0) (fun ops => tcmpVal c w (opw ops 0) (opw ops 1)) s
def execTcmpi (pr : Pr) (c : Cond) (w : Bool) (imm : BitVec 9) (t0 : Target) (s : State) : Res :=
  fireVal (.tcmpi pr c w imm t0) (fun ops => tcmpVal c w (opw ops 0) (sext imm)) s
/-- R164: bit op1[5:0] of op0. -/
def execTbit (pr : Pr) (clr : Bool) (t1 t0 : Target) (s : State) : Res :=
  fireVal (.tbit pr clr t1 t0) (fun ops => boolTok ((opw ops 0).getLsbD ((opw ops 1).toNat % 64) != clr)) s

end Sys2Proof.Machine
end

