-- ==== Sys2Proof/Machine/Order.lean ====
section
/-!
DEFINITION. Ordering: what trackers count (09 R204, R205), what a fence waits for (R200, R207), what a release covers
(12 R289, R293), and the levels a write goes through (R287, R294).
-/

namespace Sys2Proof.Machine

/-! Trackers. -/

/-- The armed trackers of a task whose range a flat access touches (R204). -/
def State.trkFlat (s : State) (t : Task) (l : PLoc) (flat n : Nat) : List Nat :=
  t.trackers.filterMap fun (k, r) =>
    if r.retiring then none
    else
      let hit : Bool := match r.range with
        | .flat b len => overlaps flat n b len
        | .tensor id => match l.sp with
          | .spad => match r.ext with
            | some (a, m) => overlaps l.a n a m
            | none => false
          | .acc => false
          | _ => let (o, owned, shared) := s.ownerOf t.part l
                 shared || (owned && o == id)
      if hit then some k else none

/-- The armed trackers of a task that name a tensor (R204). -/
def Task.trkTensor (t : Task) (id : Nat) : List Nat :=
  t.trackers.filterMap fun (k, r) => if !r.retiring && r.range == .tensor id then some k else none

/-- The place of a flat address, whatever its permissions and residence; an address with no translation names no tensor's
frame, and is given the place of an accumulator byte. -/
def State.flatAny (s : State) (q b fa : Nat) : PLoc :=
  match s.spadLoc b fa with
  | some l => l.getD ⟨.acc, 0⟩
  | none => match s.unitWalk (unitOf b) q fa .any with
    | .ok t | .absent t => t.loc fa
    | .invalid | .denied => ⟨.acc, 0⟩

/-- The trackers a flat range of any length touches: frame by frame. -/
def State.trkRange (s : State) (t : Task) (b flat n : Nat) : List Nat :=
  if t.trackers.isEmpty then []
  else
    ((List.range (n / 2 ^ 15 + 2)).flatMap fun i =>
      let lo := max flat ((flat / 2 ^ 15 + i) * 2 ^ 15)
      let hi := min (flat + n) ((flat / 2 ^ 15 + i + 1) * 2 ^ 15)
      if lo < hi then
        s.trkFlat t (s.flatAny t.part b lo) lo (hi - lo)
      else []).dedup

/-- Whether a tracker still counts something (R205). -/
def State.trkBusy (s : State) (uid k : Nat) : Bool :=
  s.writes.any (fun w => w.uid == uid && w.trk.contains k)
    || s.cmds.any (fun c => c.2.uid == uid && c.2.trk.contains k)
    || s.homeOps.any (fun h => h.uid == uid && h.trk.contains k)
    || s.bricks.any (fun b => b.2.pma.any (fun o => o.uid == uid && o.trk.contains k)
        || b.2.run.any fun r => r.op.uid == uid && r.op.trk.contains k)
    || (match s.task? uid with
      | some t => t.seen.any fun r => r.trk.contains k && s.writes.any fun w => w.id == r.wid
      | none => false)

/-- Drop the trackers taken out of use whose counts are zero (R206). -/
def State.freeTrackers (s : State) (t : Task) : KMap Tracker :=
  t.trackers.filter fun (k, r) => !(r.retiring && !s.trkBusy t.uid k)

/-- Whether a named range keeps an armed tracker (R206): the same tensor, or a flat range inside an armed one. -/
def keepsTracker (trs : KMap Tracker) (r : Range) : Option Nat :=
  (trs.find? fun (_, x) => !x.retiring && (match r, x.range with
    | .tensor i, .tensor j => i == j
    | .flat b n, .flat b' n' => b' ≤ b && b + n ≤ b' + n'
    | _, _ => false)).map (·.1)

/-- Whether a named range has a tracker of its own (R206's disarm). -/
def ownTracker (trs : KMap Tracker) (r : Range) : Option Nat :=
  (trs.find? fun (_, x) => !x.retiring && x.range == r).map (·.1)

/-- Arm named ranges in order (R206): the trackers after, and which ranges end armed. -/
def armAll (ord : Nat) : List (Nat × Range × Option (Nat × Nat)) → KMap Tracker → KMap Tracker × List Nat
  | [], trs => (trs, [])
  | (bit, r, ext) :: rest, trs =>
    match keepsTracker trs r with
    | some _ => let (t, l) := armAll ord rest trs; (t, bit :: l)
    | none =>
      match (List.range 8).find? fun k => (kget? k trs).isNone with
      | some k => let (t, l) := armAll ord rest (kset k ⟨r, ext, ord, false⟩ trs); (t, bit :: l)
      | none => armAll ord rest trs

/-- The flat physical extent of a range's scratchpad tensor, when it has one: filled in where handles are known. -/
abbrev NamedRange := Nat × Range × Option (Nat × Nat)

/-! Fences. -/

/-- Whether work of a block ordinal, counted in some trackers, is covered by a fence (R200, R207). -/
def FenceRec.covers (f : FenceRec) (ord : Nat) (trk : List Nat) : Bool :=
  match f.ranges with
  | none => ord < f.ord
  | some rs => rs.any fun r => match r with
    | none => ord < f.ord
    | some (k, a) => ord ≤ a || (ord < f.ord && trk.contains k)

/-- Whether covered reads have performed at the fence's scope (R200, R293). -/
def State.readsDone (s : State) (t : Task) (f : FenceRec) : Bool :=
  t.seen.all fun r => !f.covers r.ord r.trk || s.writesPerformed [r.wid] f.sc

/-- Whether covered writes and engine commands have performed or finished at the fence's scope (R200). -/
def State.workDone (s : State) (t : Task) (f : FenceRec) : Bool :=
  s.writes.all (fun w => w.uid != t.uid || !f.covers w.ord w.trk || w.performedAt f.sc)
    && s.homeOps.all (fun h => h.uid != t.uid || !f.covers h.ord h.trk)
    && s.dies.all (fun d => d.2.gq.all fun m => m.uid != t.uid || !f.covers m.ord [])
    && s.cmds.all (fun c => c.2.uid != t.uid || !f.covers c.2.ord c.2.trk)
    && s.bricks.all fun b => b.2.pma.all (fun o => o.uid != t.uid || !f.covers o.ord o.trk)
      && (match b.2.run with
        | some r => r.op.uid != t.uid || !f.covers r.op.ord r.op.trk
        | none => true)

/-- Whether a fence may perform (R200, R207): every older block has committed and the covered work is done. -/
def State.fenceReady (s : State) (t : Task) (f : FenceRec) : Bool :=
  f.ord ≤ t.ords + 1 && s.readsDone t f && (match f.kind with
    | .acq => true
    | _ => s.workDone t f)

/-! Releases. -/

/-- What a release of a task at some block covers (R289, R293): its pending writes and home operations of blocks up to an
ordinal, and the pending writes it has observed. -/
def State.relDeps (s : State) (t : Task) (ord : Nat) : List Nat :=
  (s.writes.filter fun w => w.uid == t.uid && w.cmd == 0 && w.ord ≤ ord).map (·.id)
    ++ (s.homeOps.filter fun h => h.uid == t.uid && h.ord ≤ ord).map (·.id)
    ++ ((t.seen.filter fun r => r.ord ≤ ord).map (·.wid)).filter fun i => s.writes.any fun w => w.id == i

/-- Whether the things a release waits for have performed at a scope. -/
def State.depsDone (s : State) (deps : List Nat) (sc : Scope) : Bool :=
  s.writesPerformed deps sc && s.homeOps.all fun h => !deps.contains h.id

/-- Whether a scope reaches past the die cache (R283). -/
def Scope.wide : Scope → Bool
  | .brick | .course | .die => false
  | .pier | .dev | .sys => true

/-! When an irrevocable instruction may be performed (R31, R56, R200). -/

/-- Whether an instruction that has not fired has all it needs from its own block. -/
def Blk.canFire (b : Blk) (n : Nat) (i : Instr) : Bool :=
  (b.slot n).st == .idle && (match (b.slot n).ready i with
    | .wait => false
    | .off | .null => true
    | .go _ => b.streamReady n i)

/-! The levels of a write. -/

/-- Where a write goes next: into the die cache, or to its home. -/
inductive NextLevel | cache | home
  deriving DecidableEq, Repr

def Write.nextLevel (w : Write) : NextLevel :=
  if w.cached || w.loc.sp != .dram then .home
  else match w.rel with
    | some sc => if Scope.wide sc then .home else .cache
    | none => .cache

/-- Whether something earlier must go before a pending write (R286, R288): to the same bytes, a write of the same task that
has not left its brick, an operation of an older block of the task, or, for a write in a die cache, one that entered it
earlier. A write in a die cache that may be a release goes after everything that entered it earlier, which may happen before
it (R292). -/
def State.writeBlocked (s : State) (w : Write) : Bool :=
  (s.writes.takeWhile fun x => x.id != w.id).any (fun x =>
      if w.cached then x.cached && x.die == w.die && (w.rel.isSome || w.fenced
        || (x.loc.sp == w.loc.sp && overlaps x.loc.a x.bytes.length w.loc.a w.bytes.length))
      else x.loc.sp == w.loc.sp && overlaps x.loc.a x.bytes.length w.loc.a w.bytes.length && x.uid == w.uid && !x.cached)
    || (w.cmd == 0 && !w.cached && s.homeOps.any fun h => h.uid == w.uid && h.ord < w.ord && h.spans.any fun p => hits p w.loc w.bytes.length)

/-- Whether a write may take its next step: what its release waits for has performed at its scope, and at the home before a
release in a die cache goes there (R292, R293). -/
def State.writeReady (s : State) (w : Write) : Bool :=
  !s.writeBlocked w && (match w.rel with
    | some sc => s.depsDone w.deps (if w.cached then .dev else sc)
    | none => true)

/-- A write takes its next step (R287, R294): into the die cache, or to its home. -/
def State.writeStep (s : State) (w : Write) : State :=
  match w.nextLevel with
  | .cache => s.enterCache w
  | .home => (if w.cached then s else s.drainLines w.loc w.bytes.length fun _ => false).performOne w

end Sys2Proof.Machine
end

