-- ==== Sys2Proof/Machine/Loads.lean ====
section
/-!
DEFINITION. Loads, stores and PREF (09 R190 to R193, R209).
-/

namespace Sys2Proof.Machine

/-- The effective address of the L and S formats: op0 + Sext(imm9, 9) × access size, modulo 2^64 (R189). -/
def effAddr (base : Word) (imm : BitVec 9) (n : Nat) : Word := base + sext imm * BitVec.ofNat 64 n

/-- A load of n bytes sent through a conversion (R190). -/
def fireLoad (i : Instr) (ls : BitVec 5) (imm : BitVec 9) (n : Nat) (conv : Word → Word) (s : State) : Res :=
  fireG i (fun f ops s => match s.load f (effAddr (opw ops 0) imm n) n (.lsid ls.toNat) with
    | .wait => .wait
    | .trap s c x => .trap s c x
    | .bytes bs s => .done s [.s (conv (leWord bs))]) s

def execLdb (pr : Pr) (ls : BitVec 5) (imm : BitVec 9) (t0 : Target) (s : State) : Res :=
  fireLoad (.ldb pr ls imm t0) ls imm 1 (fun x => sext (x.setWidth 8)) s
def execLdbn (pr : Pr) (ls : BitVec 5) (imm : BitVec 9) (t0 : Target) (s : State) : Res :=
  fireLoad (.ldbn pr ls imm t0) ls imm 1 (fun x => x) s
def execLdh (pr : Pr) (ls : BitVec 5) (imm : BitVec 9) (t0 : Target) (s : State) : Res :=
  fireLoad (.ldh pr ls imm t0) ls imm 2 (fun x => sext (x.setWidth 16)) s
def execLdhn (pr : Pr) (ls : BitVec 5) (imm : BitVec 9) (t0 : Target) (s : State) : Res :=
  fireLoad (.ldhn pr ls imm t0) ls imm 2 (fun x => x) s
def execLdw (pr : Pr) (ls : BitVec 5) (imm : BitVec 9) (t0 : Target) (s : State) : Res :=
  fireLoad (.ldw pr ls imm t0) ls imm 4 (fun x => sext (x.setWidth 32)) s
def execLdwn (pr : Pr) (ls : BitVec 5) (imm : BitVec 9) (t0 : Target) (s : State) : Res :=
  fireLoad (.ldwn pr ls imm t0) ls imm 4 (fun x => x) s
def execLdd (pr : Pr) (ls : BitVec 5) (imm : BitVec 9) (t0 : Target) (s : State) : Res :=
  fireLoad (.ldd pr ls imm t0) ls imm 8 (fun x => x) s

/-- Size of LDA, STL, AMO and CAS: 4 bytes, or 8 with d. -/
def dwBytes (d : Bool) : Nat := if d then 8 else 4

/-- The latest read of the focused slot acts as an acquire at a scope (R200, R290): where it orders what follows, the
younger blocks that have read are discarded, so that they read after it. -/
def State.acquire (s : State) (f : Focus) (sc : Scope) : Bool × State :=
  match (s.blk? f.ctx f.blk).bind fun b => b.reads.getLast? with
  | none => (false, s)
  | some r =>
    let (o, s) := s.orders f.ctx r.loc r.bytes.length r.saw sc
    (o, if o then s.squashAfter f.ctx f.blk else s)

/-- R191: the acquire load; the accesses of its block with higher LSIDs that have been made are made again after it (R200). -/
def execLda (pr : Pr) (ls : BitVec 5) (sc : Scope) (d : Bool) (t0 : Target) (s : State) : Res :=
  fireG (.lda pr ls sc d t0) (fun f ops s => match s.load f (opw ops 0) (dwBytes d) (.lsid ls.toNat) with
    | .wait => .wait
    | .trap s c x => .trap s c x
    | .bytes bs s =>
      let (o, s) := s.acquire f sc
      .done (if o then s.againAbove f ls.toNat none else s) [.s (leWord bs)]) s

/-- A store of the low n bytes of op1, held for commit (R192). Loads of higher LSIDs that went ahead of it and read its bytes
are performed again (R56, R190). Where the store itself depends on such a load, R56's order cannot be met: the store is
never performed, and the block that owes it ends by COMMIT_VIOLATION (R61, R62; log entry 9). -/
def fireStore (i : Instr) (ls : BitVec 5) (addr : List Tok → Word) (n : Nat) (rel : Option Scope) (s : State) : Res :=
  fireG i (fun f ops s =>
    match s.taskOf f.ctx, s.blk? f.ctx f.blk with
    | some t, some b =>
      match s.check t (brickOfCtx f.ctx) (addr ops) n .write with
      | (.bad c w, s) => .trap s c w
      | (.ok l pte, s) =>
        let early := b.readAbove ls.toNat l n
        if early.all (fun m => b.canRefire m f.slot) || b.lsidTaken f.slot ls.toNat then
          let s := (s.again f early).modBlk f.ctx f.blk fun b => b.resolveLsid f.slot i
          .done (s.hold f ⟨some ls.toNat, f.slot, l, leBytes n (opw ops 1).toNat, rel, (addr ops).toNat, pte, none⟩) []
        else .stuck
    | _, _ => .wait) s

def execStb (pr : Pr) (ls : BitVec 5) (imm : BitVec 9) (s : State) : Res :=
  fireStore (.stb pr ls imm) ls (fun ops => effAddr (opw ops 0) imm 1) 1 none s
def execSth (pr : Pr) (ls : BitVec 5) (imm : BitVec 9) (s : State) : Res :=
  fireStore (.sth pr ls imm) ls (fun ops => effAddr (opw ops 0) imm 2) 2 none s
def execStw (pr : Pr) (ls : BitVec 5) (imm : BitVec 9) (s : State) : Res :=
  fireStore (.stw pr ls imm) ls (fun ops => effAddr (opw ops 0) imm 4) 4 none s
def execStd (pr : Pr) (ls : BitVec 5) (imm : BitVec 9) (s : State) : Res :=
  fireStore (.std pr ls imm) ls (fun ops => effAddr (opw ops 0) imm 8) 8 none s
/-- R193: the release store. -/
def execStl (pr : Pr) (ls : BitVec 5) (sc : Scope) (d : Bool) (s : State) : Res :=
  fireStore (.stl pr ls sc d) ls (fun ops => opw ops 0) (dwBytes d) (some sc) s

/-- R209: a line fill changes no value, and PREF never traps. -/
def execPref (pr : Pr) (ls : BitVec 5) (imm : BitVec 9) (s : State) : Res :=
  fireG (.pref pr ls imm) (fun _ _ s => .done s []) s

end Sys2Proof.Machine
end

