-- ==== Sys2Proof/Machine/Atomics.lean ====
section
/-!
DEFINITION. Atomics (09 R194 to R198): the checks at firing, and the step at the home (03 R56, 12 R298).
-/

namespace Sys2Proof.Machine

/-- The new value of an AMO on n-bit words (R194). -/
def amoNew (op : AmoOp) (n : Nat) (v x : BitVec n) : BitVec n :=
  match op with
  | .add => v + x
  | .and => v &&& x
  | .or => v ||| x
  | .xor => v ^^^ x
  | .smin => if v.slt x then v else x
  | .smax => if v.slt x then x else v
  | .nmin => if v.ult x then v else x
  | .nmax => if v.ult x then x else v
  | .swap => x

/-- The new value of a FAMO (R198). -/
def famoNew (op : FamoOp) (v x : Nat) : Nat :=
  match op with
  | .fadd32 => (fp32.add .rne v x).1
  | .fmin32 => (fp32.minmax false v x).1
  | .fmax32 => (fp32.minmax true v x).1
  | .fadd64 => (fp64.add .rne v x).1
  | .fmin64 => (fp64.minmax false v x).1
  | .fmax64 => (fp64.minmax true v x).1
  | .faddbf => (bf16.add .rne (nbits v 0 16) (nbits x 0 16)).1 + 2 ^ 16 * (bf16.add .rne (nbits v 16 16) (nbits x 16 16)).1

/-- Bytes of a FAMO (R198). -/
def famoBytes : FamoOp → Nat
  | .fadd64 | .fmin64 | .fmax64 => 8
  | _ => 4

/-- Size, scope and order of an atomic. -/
def atomicShape : Instr → Option (Nat × Scope × Order)
  | .amo _ _ _ d sc o _ _ => some (dwBytes d, sc, o)
  | .cas _ _ d sc o _ _ => some (dwBytes d, sc, o)
  | .famo _ _ op sc o _ _ => some (famoBytes op, sc, o)
  | _ => none

/-- Whether the host link performs an atomic (R196). -/
def hostAtomic : Instr → Bool
  | .amo _ _ .add _ _ _ _ _ | .amo _ _ .swap _ _ _ _ _ | .cas .. => true
  | _ => false

/-- What an atomic writes over an old value of n bytes, none when it writes nothing (R194, R195, R198). -/
def atomicNew (i : Instr) (v : Nat) (ops : List Tok) : Option Nat :=
  match i with
  | .amo _ _ op d _ _ _ _ =>
    let n := 8 * dwBytes d
    some (amoNew op n (BitVec.ofNat n v) ((opw ops 1).setWidth n)).toNat
  | .cas _ _ d _ _ _ _ =>
    let n := 8 * dwBytes d
    if v = nbits (opw ops 1).toNat 0 n then some (nbits (opw ops 2).toNat 0 n) else none
  | .famo _ _ op _ _ _ _ => some (famoNew op v (nbits (opw ops 1).toNat 0 (8 * famoBytes op)))
  | _ => none

/-- Whether an order releases, and whether it acquires (R197). -/
def Order.rels : Order → Bool
  | .rel | .ar => true
  | _ => false
def Order.acqs : Order → Bool
  | .acq | .ar => true
  | _ => false

/-- Fire an atomic: the checks of R189; it performs when its block is oldest (R31). One that depends on a higher-LSID read of its
bytes is never performed (R56; log entry 9). -/
def fireAtomic (i : Instr) (s : State) : Res :=
  fireG i (fun f ops s =>
    match s.taskOf f.ctx, atomicShape i with
    | some t, some (n, _, _) =>
      match s.check t (brickOfCtx f.ctx) (opw ops 0) n .write with
      | (.bad c w, s) => .trap s c w
      | (.ok l _, s) =>
        if l.sp == .host && !hostAtomic i then .trap s 8 (opw ops 0)
        else match (s.blk? f.ctx f.blk), storeLsid i with
          | some b, some ls =>
            if !b.lsidTaken f.slot ls && (b.readAbove ls l n).any fun m => (b.after [m]).contains f.slot then .stuck
            else .busy (s.modBlk f.ctx f.blk fun b => b.resolveLsid f.slot i)
          | _, _ => .wait
    | _, _ => .wait) s

def execAmo (pr : Pr) (ls : BitVec 5) (op : AmoOp) (d : Bool) (sc : Scope) (o : Order) (t1 t0 : Target) (s : State) : Res :=
  fireAtomic (.amo pr ls op d sc o t1 t0) s
def execCas (pr : Pr) (ls : BitVec 5) (d : Bool) (sc : Scope) (o : Order) (t1 t0 : Target) (s : State) : Res :=
  fireAtomic (.cas pr ls d sc o t1 t0) s
def execFamo (pr : Pr) (ls : BitVec 5) (op : FamoOp) (sc : Scope) (o : Order) (t1 t0 : Target) (s : State) : Res :=
  fireAtomic (.famo pr ls op sc o t1 t0) s

/-- Whether every store-class LSID of a block below one has been resolved: one of its instructions has fired or been
nullified (R56). -/
def Blk.lowerKnown (b : Blk) (l : Nat) : Bool :=
  b.members.all fun (_, j) => (storeLsid j).all fun k => l ≤ k || b.members.any fun (m, i) =>
    storeLsid i == some k && (match (b.slot m).st with | .done | .nulled => true | _ => false)

/-- The stores of a list, highest LSID first, that write some of the named bytes, or bytes that a store taken already
writes: stores to one byte perform in LSID order (R56). The answer has the lowest LSID first. -/
def takeUnder : List (PLoc × Nat) → List StoreRec → List StoreRec → List StoreRec
  | _, got, [] => got
  | rs, got, w :: ws =>
    if rs.any fun r => r.1.sp == w.loc.sp && overlaps w.loc.a w.bytes.length r.1.a r.2 then
      takeUnder ((w.loc, w.bytes.length) :: rs) (w :: got) ws
    else takeUnder rs got ws

/-- The lower-LSID stores of an atomic's block that are performed before it: those that write its bytes, those below them
to the same bytes, and all of them where it or one of those is a release (R56, R200). -/
def Blk.beforeAtomic (b : Blk) (l : Nat) (p : PLoc) (n : Nat) (rel : Bool) : List StoreRec :=
  let low := b.stores.filter fun w => w.performed.isNone && (match w.lsid with
    | some k => k < l
    | none => false)
  let hit := takeUnder [(p, n)] [] low.reverse
  if rel || hit.any (fun w => w.rel.isSome) then low else hit

/-! When an irrevocable instruction may be performed (R31, R56, R200): a pinned block is not run again, so what the
instruction takes from its block must be sure, and what it comes after must be done (log entry 9). -/

/-- Instructions that wait for something and then act as acquires (R290). -/
def acquireWait : Instr → Bool
  | .mwait .. | .waitt .. | .barw .. | .fwait .. => true
  | _ => false

/-- Reads other than those of an LSID. -/
def otherRead : Instr → Bool
  | .vld .. | .vlds .. | .vldx .. | .qpeek .. | .qocc .. | .bara .. => true
  | _ => false

/-- The instructions of a block that have still to act before an atomic of an LSID does: an MWAIT, BARW, WAITT or FWAIT and a
lower-LSID LDA (R200, R290); for a release a lower-LSID load (R289); and every read where plain stores are performed with
the atomic (R286). -/
def Blk.owed (b : Blk) (l : Nat) (rel stores : Bool) : List Nat :=
  b.members.filterMap fun (m, j) =>
    let asked : Bool := acquireWait j || (stores && otherRead j) || (match j, lsidOf j with
      | .lda .., some (k, _) => k < l || stores
      | _, some (k, false) => (rel && k < l) || stores
      | _, _ => false)
    if asked && (match (b.slot m).st with | .idle | .busy => true | _ => false) then some m else none

/-- The stores that the atomic in a slot performs with it. -/
def State.heldBy (s : State) (c : Nat) (b : Blk) (n : Nat) (i : Instr) (t : Task) : List StoreRec :=
  match atomicShape i, storeLsid i with
  | some (m, _, o), some l =>
    (match s.flatLoc t.part (brickOfCtx c) (opw ((b.slot n).ops i) 0).toNat .write with
    | some p => b.beforeAtomic l p m (Order.rels o)
    | none => [])
  | _, _ => []

/-- What the irrevocable instruction in a slot waits for in its block, but for what depends on itself: the lower LSIDs of the
loads ahead that it, or a store performed with it, depends on, and what an atomic comes after. -/
def State.needs (s : State) (c : Nat) (b : Blk) (n : Nat) (i : Instr) (t : Task) : List Nat :=
  let held := s.heldBy c b n i t
  let feeding := b.guesses.filter fun g =>
    let set := b.after [g]
    set.contains n || held.any fun w => set.contains w.slot
  let unsure := feeding.flatMap fun g => match (instrAt b.body g).bind lsidOf with
    | some (l, _) => b.lowerOpen l
    | none => []
  let owed := match atomicShape i, storeLsid i with
    | some (_, _, o), some l => b.owed l (Order.rels o) (!held.isEmpty)
    | _, _ => []
  let mine := b.after [n]
  (unsure ++ owed).filter fun m => !mine.contains m

/-- Whether an irrevocable instruction has what R56 asks of the lower LSIDs. -/
def Blk.lowerOk (b : Blk) (i : Instr) : Bool :=
  match atomicShape i, storeLsid i with
  | some _, some l => b.lowerKnown l
  | _, _ => true

/-- Whether the instruction in a slot may go on without one that is still needed being passed over. -/
def State.goesOn (s : State) (c : Nat) (b : Blk) (n : Nat) (i : Instr) (t : Task) : Bool :=
  if (b.slot n).st == .busy then !irrevocable i || (b.lowerOk i && (s.needs c b n i t).isEmpty)
  else b.canFire n i && (!irrevocable i || (atomicShape i).isSome || (s.needs c b n i t).isEmpty)

/-- Whether the irrevocable instruction of the focused slot may be performed: it needs nothing more, or nothing of its block
can go on and it is the first that could be performed. -/
def State.mayGo (s : State) (f : Focus) (b : Blk) (i : Instr) (t : Task) : Bool :=
  (s.needs f.ctx b f.slot i t).isEmpty
    || (b.members.all (fun m => !s.goesOn f.ctx b m.1 m.2 t)
      && (b.members.find? fun m => irrevocable m.2 && b.lowerOk m.2
          && ((b.slot m.1).st == .busy || ((atomicShape m.2).isNone && b.canFire m.1 m.2))).any fun m => m.1 == f.slot)

/-- Whether what a release by an atomic covers has reached its home, where the atomic acts (R289, R292, R293). -/
def State.relReady (s : State) (t : Task) (b : Blk) : Bool :=
  s.depsDone (s.relDeps t b.ord) .dev && s.writesPerformed (b.reads.flatMap (·.saw)) .dev

/-- A read record of a store-class access that is performed at its home before commit: the word as it stood before. -/
def State.noteHome (s : State) (f : Focus) (slot lsid : Nat) (l : PLoc) (n flat : Nat) : State :=
  s.modBlk f.ctx f.blk fun b =>
    { b with reads := b.reads ++ [⟨slot, .lsid lsid, l, s.homeRead l n, [], flat, s.homeRead l.word 8, false⟩] }

/-- Perform a held store of a block at its home with the atomic of an LSID, noting the bytes it replaces for lower-LSID loads
(R56). -/
def State.performHeld (s : State) (f : Focus) (ls : Nat) (w : StoreRec) : State :=
  let s := s.drainLines w.loc w.bytes.length fun _ => false
  let s := s.noteHome f w.slot (w.lsid.getD 0) w.loc w.bytes.length w.flat
  let s := s.homeApply w.loc w.bytes w.pte
  s.modBlk f.ctx f.blk fun b => { b with stores := b.stores.map fun x => if x = w then { x with performed := some ls } else x }

/-- An atomic reads and writes at its home in one step (R298): the old value, and the state after; the release sequence of
the word goes on (R291), but for a write that a fence may order, whose releases are not known. -/
def State.atHome (s : State) (l : PLoc) (pte n : Nat) (rel : Option (Nat × Scope)) (fenced : Bool) (new : Nat → Option Nat) :
    Nat × State :=
  let s := s.drainLines l n fun _ => false
  let old := if !s.dying pte then leNat (s.homeRead l n) else 0
  let heads := s.headsAt l n
  match new old with
  | none => (old, s)
  | some x =>
    let s := s.homeApply l (leBytes n x) pte
    (old, match heads with
      | some hs => if fenced then s else s.setHeads l n (hs ++ rel.toList)
      | none => s)

/-- ATOMIC_PERFORM (R298, R56, R32): in the oldest block, an atomic reads and writes at its home in one step and pins its
block. It waits for the accesses to its bytes that its task has on their way, and that its brick sees. Loads of higher LSIDs
in its word, or all of them after an acquire, are performed again. -/
def State.performAtomic (s : State) (f : Focus) (b : Blk) (i : Instr) (t : Task) : State :=
  let ops := (b.slot f.slot).ops i
  let a := opw ops 0
  match atomicShape i, storeLsid i with
  | some (n, sc, o), some ls =>
    match s.check t (brickOfCtx f.ctx) a n .write with
    | (.bad c w, s) => s.busyTrap f c w
    | (.ok l pte, s') =>
      let held := b.beforeAtomic ls l n (Order.rels o)
      let quiet (p : PLoc) (m : Nat) : Bool := (s.pendingAt (dieOfCtx f.ctx) t.uid p m).isEmpty && !s.homePending t.uid p m
      let covers : Bool := Order.rels o || held.any (fun w => w.rel.isSome) || t.fenceNewest != 0
      if !b.lowerKnown ls || !s.mayGo f b i t || !quiet l n || held.any (fun w => !quiet w.loc w.bytes.length)
          || (covers && !s.relReady t b) then s
      else if held.any (fun w => b.partials.any fun r => hits (r.loc, r.bytes.length) w.loc w.bytes.length)
          && (s.stale f.ctx f.blk t b).any fun m => !(b.after [m]).any b.performedAt then
        s.refire f.ctx f.blk ((s.stale f.ctx f.blk t b).filter fun m => !(b.after [m]).any b.performedAt)
      else
        let s1 := (s'.drainLines l.word 8 fun _ => false).noteHome f f.slot ls l n a.toNat
        let s1 := held.foldl (fun s w => s.performHeld f ls w) s1
        if s1.poisoned l n && !s1.dying pte then s'.busyTrap f 0x0F a
        else
          let rel := if Order.rels o then some (brickOfCtx f.ctx, sc) else none
          let (acq, s1) := if Order.acqs o then (s1.drainLines l n fun _ => false).orders f.ctx l n [] sc else (false, s1)
          let (old, s) := s1.atHome l pte n rel (t.fenceNewest != 0) fun v => atomicNew i v ops
          let s := s.modBlk f.ctx f.blk fun b => { b with pinned := true }
          let s := ((s.conflicts f.ctx l n).squashReaders f.ctx f.blk l n).againAbove f ls (some l)
          let s := if acq then (s.squashAfter f.ctx f.blk).againAbove f ls none else s
          s.finish f i (both (BitVec.ofNat 64 old))
  | _, _ => s

/-- The home performs the atomic in a slot of a context's oldest block. -/
def execAtomicPerform (ctx slot : Nat) (s : State) : Res :=
  match s.findBusy ctx slot (fun i => (atomicShape i).isSome), s.taskOf ctx with
  | some (f, b, i), some t => if f.oldest then .next (s.performAtomic f b i t) else .next s
  | _, _ => .next s

end Sys2Proof.Machine
end

