-- ==== Sys2Proof/Machine/Tensor.lean ====
section
/-!
DEFINITION. Tensors (06 R116 to R129): descriptors, handles and their views, where the bytes of an element stand, tile
translation (18 R379), scales (05 R87), element values and trim tags.
-/

namespace Sys2Proof.Machine

/-- A tensor descriptor (R117). -/
structure Desc where
  base : Nat
  rows : Nat
  cols : Nat
  fmt : Nat
  /-- the width field, width − 1 -/
  wf : Nat
  kmajor : Bool
  loc : Nat
  trim : Bool
  span : Nat
  id : Nat
  fill : Nat
  scale : Nat
  deriving DecidableEq, Repr

/-- The descriptor of 32 bytes read as a number (R117). -/
def Desc.ofNat (x : Nat) : Desc :=
  { base := nbits x 0 64, rows := nbits x 64 32, cols := nbits x 96 32, fmt := nbits x 139 5, wf := nbits x 135 4,
    kmajor := x.testBit 134, loc := nbits x 132 2, trim := x.testBit 131, span := nbits x 128 3, id := nbits x 144 16,
    fill := nbits x 160 32, scale := nbits x 192 64 }

/-- Shared-exponent formats and their magnitude bits (R88). -/
def bfqM : Nat → Option Nat
  | 3 => some 3 | 4 => some 4 | 5 => some 6 | _ => none
/-- Element size of the element-major formats (R123). -/
def elemSize : Nat → Option Nat
  | 8 => some 4 | 9 => some 8 | 10 => some 2 | _ => none
/-- INT, UINT and ZPB. -/
def intFmt (f : Nat) : Bool := f < 3
/-- Whether a format code and width field are assigned (R82, R83). -/
def fmtOk (f wf : Nat) : Bool := f < 3 || (wf == 0 && ((bfqM f).isSome || (elemSize f).isSome))

/-- Width w of an integer format. -/
def Desc.w (d : Desc) : Nat := d.wf + 1
/-- Stored planes of a format (R82, R121). -/
def storedOf (f wf : Nat) : Nat :=
  match bfqM f with
  | some m => m + 2
  | none => if intFmt f then wf + 1 else 1
def Desc.stored (d : Desc) : Nat := storedOf d.fmt d.wf
/-- Planes an operand presents before trimming (R82). -/
def arrayOf (f wf : Nat) : Nat := if f = 2 then wf + 2 else storedOf f wf
def Desc.isElem (d : Desc) : Bool := (elemSize d.fmt).isSome
def Desc.esize (d : Desc) : Nat := (elemSize d.fmt).getD 1
/-- Tensors translated by tile (locations 0 and 3). -/
def Desc.tiled (d : Desc) : Bool := d.loc == 0 || d.loc == 3

/-- Whether an address is in one of the scratchpad windows (R112). -/
def inWindows (a : Nat) : Bool :=
  (Config.localWin ≤ a && a < Config.localWin + Config.poolBytes)
    || (Config.courseWin ≤ a && a < Config.courseWin + 8 * Config.poolBytes)

/-- Whether a descriptor is valid (R118). A scale-table address that is not 8-byte aligned, which R86 and R117 exclude, is
none of R118's cases: the table is read where it stands (log entry 32). -/
def Desc.ok (d : Desc) : Bool :=
  fmtOk d.fmt d.wf && d.rows != 0 && d.cols != 0 && (!d.tiled || d.base % 8 == 0)
    && (d.loc != 1 || (d.base % 1024 == 0 && inWindows d.base)) && d.span != 7
    && (d.loc != 2 || (d.fmt == 8 && d.rows ≤ 128 && d.cols ≤ 128 && d.base < 16))
    && ((bfqM d.fmt).isNone || (d.scale == 0 && d.fill == 0))

/-! Views (R120, R121). -/

/-- A handle: a descriptor and a view on it. -/
structure View where
  d : Desc
  row0 : Nat
  col0 : Nat
  rows : Nat
  cols : Nat
  lo : Nat
  hi : Nat
  trimEn : Bool
  valid : Bool
  partly : Bool
  outside : Bool
  reserved : Bool
  deriving DecidableEq, Repr

def View.of (h : HandleVal) : View :=
  let x := h.toNat
  { d := Desc.ofNat (x % 2 ^ 256), row0 := nbits x 256 32, col0 := nbits x 288 32, rows := nbits x 320 16,
    cols := nbits x 336 16, lo := nbits x 352 4, hi := nbits x 356 4, trimEn := x.testBit 360, valid := x.testBit 368,
    partly := x.testBit 369, outside := x.testBit 370,
    reserved := nbits x 384 128 != 0 || nbits x 371 13 != 0 || nbits x 361 7 != 0 }

/-- A bit range of a handle replaced. -/
def hput (x lo n v : Nat) : Nat := x - nbits x lo n * 2 ^ lo + v % 2 ^ n * 2 ^ lo

/-- Recompute PARTIAL and OUTSIDE (R255). -/
def handleStatus (x : Nat) : Nat :=
  let v := View.of (BitVec.ofNat 512 x)
  let outside := v.d.rows ≤ v.row0 || v.d.cols ≤ v.col0
  let partly := v.d.rows < v.row0 + v.rows || v.d.cols < v.col0 + v.cols
  hput (hput x 369 1 partly.toNat) 370 1 outside.toNat

/-- The full-extent view of a descriptor (R120). -/
def handleOf (x : Nat) : Nat :=
  let d := Desc.ofNat x
  let rows := min d.rows 65535
  let cols := min d.cols 65535
  x % 2 ^ 256 + rows * 2 ^ 320 + cols * 2 ^ 336 + (d.stored - 1) * 2 ^ 356 + d.trim.toNat * 2 ^ 360 + 2 ^ 368

/-- Whether a view's window obeys R121. -/
def View.windowOk (v : View) : Bool :=
  v.lo ≤ v.hi && v.hi ≤ v.d.stored - 1 && (v.d.fmt < 2 || (v.lo == 0 && v.hi == v.d.stored - 1))
/-- Whether a handle is usable (R121, R82). -/
def View.usable (v : View) : Bool := v.valid && !v.reserved && v.windowOk && fmtOk v.d.fmt v.d.wf
/-- Whether the view lies inside its tensor. -/
def View.inside (v : View) : Bool := !v.partly && !v.outside
/-- Whether trimming applies to a view (R121). -/
def View.trims (v : View) : Bool := v.trimEn && v.d.trim

/-! Where bytes stand (R116, R122 to R124). -/

/-- Where a byte of a tensor stands: a tile's frame and offset, an offset from the scratchpad base, an offset in an
accumulator. -/
inductive TLoc
  | tile (tile frame off : Nat)
  | spad (off : Nat)
  | acc (off : Nat)
  deriving DecidableEq, Repr

/-- The swizzled place of a tensor-relative offset (R116). -/
def swizzle (f a : Nat) : Nat :=
  let k := ((a / 16) ^^^ (a / 1024 * 2 ^ f)) % 64
  a / 1024 * 1024 + k * 16 + a % 16

/-- Rows and columns of an operand block (R124). -/
def Desc.blkRows (d : Desc) : Nat := if d.kmajor then 128 else 64
def Desc.blkCols (d : Desc) : Nat := if d.kmajor then 64 else 128
/-- KiB of a scratchpad operand block: its planes and a BFQ side plane (R124). -/
def Desc.blkKiB (d : Desc) : Nat := if (bfqM d.fmt).isSome then d.stored + 1 else d.stored
/-- The block index of an element (R124). -/
def Desc.blkIndex (d : Desc) (r c : Nat) : Nat := r / d.blkRows * cdiv d.cols d.blkCols + c / d.blkCols
/-- Tensor-relative offset of a block. -/
def Desc.blkOff (d : Desc) (i : Nat) : Nat := i * d.blkKiB * 1024
/-- The tile number of an element (R122). -/
def Desc.tileOf (d : Desc) (r c : Nat) : Nat := r / 128 * cdiv d.cols 128 + c / 128
/-- Tiles of a tensor (R122). -/
def Desc.tiles (d : Desc) : Nat := cdiv d.rows 128 * cdiv d.cols 128
/-- Which block of its tile an element is in (R122). -/
def Desc.half (d : Desc) (r c : Nat) : Nat := if d.kmajor then c % 128 / 64 else r % 128 / 64

/-- The byte that holds plane p of an element; the bit in it is the column modulo 8 (R123, R124). -/
def Desc.planeAt (d : Desc) (r c p : Nat) : TLoc :=
  if d.tiled then .tile (d.tileOf r c) 0 (p * 2048 + r % 128 * 16 + c % 128 / 8)
  else
    let inner := if d.kmajor then r % 128 * 8 + c % 64 / 8 else r % 64 * 16 + c % 128 / 8
    .spad (swizzle d.span (d.blkOff (d.blkIndex r c) + p * 1024 + inner))

/-- The byte that holds the exponent of an element's BFQ group (R89, R124). -/
def Desc.sideAt (d : Desc) (r c : Nat) : TLoc :=
  if d.tiled then
    let (line, k) := if d.kmajor then (c % 128, r % 128) else (r % 128, c % 128)
    .tile (d.tileOf r c) 0 (15 * 2048 + line * 4 + k / 32)
  else
    let (line, k) := if d.kmajor then (c % 64, r % 128) else (r % 64, c % 128)
    .spad (swizzle d.span (d.blkOff (d.blkIndex r c) + d.stored * 1024 + line * 4 + k / 32))

/-- The first byte of an element of an element-major tensor (R123, R124) or accumulator alias (R118). -/
def Desc.elemAt (d : Desc) (r c : Nat) : TLoc :=
  if d.loc = 2 then .acc ((r * 128 + c) * 4)
  else if d.tiled then
    let a := (r % 128 * 128 + c % 128) * d.esize
    .tile (d.tileOf r c) (a / 32768) (a % 32768)
  else .spad (swizzle d.span (r * alignUp (d.cols * d.esize) 16 + c * d.esize))

/-- Whether an element lies inside its tensor (R122). -/
def Desc.has (d : Desc) (r c : Nat) : Bool := r < d.rows && c < d.cols

/-! Tile translation (R379). -/

/-- How a tile's translation ends. -/
inductive TileRes
  | ok (e : TileEnt)
  /-- Present 0, a reserved field, or a page not resident: the address the record names -/
  | absent (addr : Nat)
  | bad (addr : Nat)
  | poison (addr : Nat)
  deriving DecidableEq, Repr

def tileKey (id tile fr : Nat) : Nat := (id * 2 ^ 40 + tile) * 4 + fr

/-- Whether a tile-table entry's reserved fields are zero (R122). -/
def tileEntOk (x : Nat) : Bool := nbits x 57 7 == 0 && nbits x 1 4 == 0

/-- Translate a frame of a tile from the tables (R379 step 3); a residency request names a page, or the entry that is not
present (R388). -/
def State.tileWalk (s : State) (q b id tile fr : Nat) (acc : Acc) : TileRes :=
  match s.dirFind (unitOf b) q id with
  | .bad => .bad 0
  | .absent a => .absent a
  | .poison a => .poison a
  | .ok e =>
    let ea := e.table + 8 * tile
    if !e.valid || e.tiles ≤ tile then .bad ea
    else match s.unitWalk (unitOf b) q ea .read with
    | .absent t => .absent (ea / t.size * t.size)
    | .invalid | .denied => .bad ea
    | .ok t =>
      if !s.dying t.pte && s.poisoned (t.loc ea) 8 then .poison ea
      else
        let x := leNat (s.transRead t ea 8)
        if !x.testBit 0 || !tileEntOk x then .absent ea
        else
          let flat := nbits x 15 42 * 2 ^ 15 + fr * 2 ^ 15
          match s.unitWalk (unitOf b) q flat acc with
          | .absent t => .absent (flat / t.size * t.size)
          | .invalid | .denied => .bad flat
          | .ok p => .ok ⟨flat, p, nbits x 5 5, nbits x 10 5⟩

/-- A frame of a tile (R379 step 2): where the translation cached differs from the tables, the old one or the new one, by a
free choice (R377; log entry 15). -/
def State.tileFind (s : State) (q b id tile fr : Nat) (acc : Acc) : TileRes :=
  match if (s.part q).xlctrl.getLsbD 0 then kget? (tileKey id tile fr) (s.part q).tiles else none with
  | none => s.tileWalk q b id tile fr acc
  | some e =>
    let fresh := s.tileWalk q b id tile fr acc
    if fresh = .ok e || !Config.useOld s.now s.free (unitOf b) (tileKey id tile fr) then fresh
    else if e.page.allows acc then .ok e else .bad e.flat

/-- Keep a tile's translation, and record the tensor as an owner of its frame (R379, R382). -/
def State.tileKeep (s : State) (q id tile fr : Nat) (e : TileEnt) : State :=
  let k := tileKey id tile fr
  let s := if (kget? k (s.part q).tiles).isSome then s else s.modPart q fun p => { p with tiles := kset k e p.tiles }
  let l := e.page.loc e.flat
  if ownerAdd (s.ownerEntry q l) id = s.ownerEntry q l then s else s.recordOwner q id l

/-- How a byte of a tensor is found. -/
inductive BRes
  | ok (l : PLoc) (pte : Nat)
  | absent (addr : Nat)
  | bad (addr : Nat)
  | poison (addr : Nat)
  deriving DecidableEq, Repr

/-- Who accesses: partition, brick and task. -/
structure Who where
  q : Nat
  b : Nat
  uid : Nat
  deriving DecidableEq, Repr

/-- The physical place of a byte of a tensor, for an agent of a brick and a task. -/
def State.tAt (s : State) (w : Who) (d : Desc) (x : TLoc) (acc : Acc) : BRes :=
  match x with
  | .acc off => .ok (accAt w.uid d.base off) 0
  | .spad off =>
    match s.spadLoc w.b (d.base + off) with
    | some (some l) => .ok l 0
    | _ => .bad (d.base + off)
  | .tile t fr off =>
    match s.tileFind w.q w.b d.id t fr acc with
    | .ok e => .ok ⟨(e.page.loc e.flat).sp, (e.page.loc e.flat).a + off⟩ e.page.pte
    | .absent a => .absent a
    | .bad a => .bad a
    | .poison a => .poison a

/-- Keep the translation a byte used. -/
def State.tKeep (s : State) (w : Who) (d : Desc) (x : TLoc) (acc : Acc) : State :=
  match x with
  | .tile t fr _ => match s.tileFind w.q w.b d.id t fr acc with
    | .ok e => s.tileKeep w.q d.id t fr e
    | _ => s
  | _ => s

/-- n bytes at a place as an engine of a die reads them (R269's relaxed reads; log entry 6); a dying or dead page reads
zero (R384). -/
def State.engRead (s : State) (die : Nat) (l : PLoc) (pte n : Nat) : List Byte :=
  if !s.dying pte then (s.viewRead die 0 l n).1 else List.replicate n 0

/-- A byte of a tensor, 0 where it cannot be reached. -/
def State.tByte (s : State) (w : Who) (d : Desc) (x : TLoc) : Nat :=
  match s.tAt w d x .read with
  | .ok l pte => leNat (s.engRead (dieOfBrick w.b) l pte 1)
  | _ => 0

/-- Whether a byte of a tensor lies in a poisoned word (R393). -/
def State.tPoison (s : State) (w : Who) (d : Desc) (x : TLoc) (n : Nat) : Bool :=
  match s.tAt w d x .read with
  | .ok l pte => !s.dying pte && s.readPoison (dieOfBrick w.b) 0 l n
  | .poison _ => true
  | _ => false

/-! Element values. -/

/-- The stored planes lo to hi of an element as a pattern, plane p at bit p; the fill value outside the tensor (R119). -/
def State.patAt (s : State) (w : Who) (d : Desc) (r c lo hi : Nat) : Nat :=
  ((List.range (hi + 1 - lo)).map fun i =>
    let p := lo + i
    let bit := if d.has r c then (s.tByte w d (d.planeAt r c p)).testBit (c % 8) else intFmt d.fmt && d.fill.testBit p
    if bit then 2 ^ p else 0).sum

/-- The exponent byte of an element's group; 0 outside the tensor (R87). -/
def State.expAt (s : State) (w : Who) (d : Desc) (r c : Nat) : Nat :=
  if d.has r c then s.tByte w d (d.sideAt r c) else 0

/-- The fill pattern of an element-major tensor (R119). -/
def Desc.fillPat (d : Desc) : Nat :=
  match d.fmt with
  | 9 => (fp64.ofFV .rne (fp32.val d.fill)).1
  | 10 => d.fill % 2 ^ 16
  | _ => d.fill

/-- The pattern of an element of an element-major tensor or alias. -/
def State.elemPat (s : State) (w : Who) (d : Desc) (r c : Nat) : Nat :=
  if !d.has r c then d.fillPat
  else match s.tAt w d (d.elemAt r c) .read with
  | .ok l pte => leNat (s.engRead (dieOfBrick w.b) l pte d.esize)
  | _ => 0

/-- The scale-table index of an element, where a table stands and holds it (R87). -/
def Desc.scaleIndex (d : Desc) (r c : Nat) : Option Nat :=
  let across := cdiv d.cols 128
  let i := (if d.kmajor then r / 128 else r) * across + c / 128
  let n := (if d.kmajor then cdiv d.rows 128 else d.rows) * across
  if d.scale = 0 || n ≤ i then none else some i

/-- The address of an element's scale entry, at any alignment of the table (log entry 32). -/
def Desc.scaleAddr (d : Desc) (r c : Nat) : Option Nat := (d.scaleIndex r c).map fun i => d.scale + 8 * i

/-- The scale and the zero point of an element: 1.0 and 0 without an entry (R85 to R87). -/
def State.scaleOf (s : State) (w : Who) (d : Desc) (r c : Nat) : Nat × Nat :=
  match d.scaleAddr r c with
  | none => (0x3F800000, 0)
  | some a =>
    match s.readFlat w.q w.b 0 a 8 with
    | some bs => (field bs 0 4, if d.fmt = 2 then field bs 4 2 % 2 ^ d.w else 0)
    | none => (0x3F800000, 0)

/-! Trim tags (R126 to R129). -/

/-- A tag read: 17 to 30 as 0x1F. -/
def tagRead (t : Nat) : Nat := if t ≤ 16 then t else 0x1F

/-- The smallest origin of the block that holds an element. -/
def Desc.blkRow (d : Desc) (r : Nat) : Nat := r / d.blkRows * d.blkRows
def Desc.blkCol (d : Desc) (c : Nat) : Nat := c / d.blkCols * d.blkCols

/-- The tag of the block that holds an element. -/
def State.tagAt (s : State) (w : Who) (d : Desc) (r c : Nat) : Nat :=
  if d.tiled then
    match s.tileFind w.q w.b d.id (d.tileOf r c) 0 .any with
    | .ok e => tagRead (if d.half r c = 0 then e.tag0 else e.tag1)
    | _ => 0x1F
  else if d.loc = 1 then
    match s.spadLoc w.b (d.base + d.blkOff (d.blkIndex r c)) with
    | some (some l) =>
      tagRead (kget (l.a % Config.poolBytes / 1024) 0x1F (s.brick (l.a / Config.poolBytes)).tags).toNat
    | _ => 0x1F
  else 0x1F

/-- Write the tag of the block that holds an element: the tag array, or the cached tile and its entry (R128, R379); no
permission of the tile's own page bars it. -/
def State.setTag (s : State) (w : Who) (d : Desc) (r c tag : Nat) : State :=
  if d.tiled then
    let half := d.half r c
    match s.tileFind w.q w.b d.id (d.tileOf r c) 0 .any, s.dirFind (unitOf w.b) w.q d.id with
    | .ok e, .ok dir =>
      let e := if half = 0 then { e with tag0 := tag } else { e with tag1 := tag }
      let s := s.modPart w.q fun p =>
        let k := tileKey d.id (d.tileOf r c) 0
        if (kget? k p.tiles).isSome then { p with tiles := kset k e p.tiles } else p
      let ea := dir.table + 8 * d.tileOf r c
      match s.walk w.q ea .any with
      | .ok t =>
        let s := s.drainLines (t.loc ea) 8 fun _ => false
        let x := leNat (s.homeRead (t.loc ea) 8)
        if s.poisoned (t.loc ea) 8 then s
        else s.homeWrite (t.loc ea) (leBytes 8 (hput x (if half = 0 then 5 else 10) 5 tag))
      | _ => s
    | _, _ => s
  else if d.loc = 1 then
    match s.spadLoc w.b (d.base + d.blkOff (d.blkIndex r c)) with
    | some (some l) =>
      let k := l.a % Config.poolBytes / 1024
      s.modBrick (l.a / Config.poolBytes) fun b =>
        { b with tags := if tag = 0x1F then kdel k b.tags else kset k (BitVec.ofNat 5 tag) b.tags }
    | _ => s
  else s

/-- Every element position of the block that starts at a row and column. -/
def Desc.blkCells (d : Desc) (r0 c0 : Nat) : List (Nat × Nat) :=
  (List.range d.blkRows).flatMap fun i => (List.range d.blkCols).map fun j => (r0 + i, c0 + j)

/-- w' of one integer pattern (R127's first three rows), z its zero point. -/
def trimNeed (fmt w x z : Nat) : Nat :=
  match fmt with
  | 0 => if w ≤ bitlen x then w else bitlen x + 1
  | 1 => max 1 (bitlen x)
  | _ => max (bitlen x) (bitlen z) + 1

/-- w' of a shared-exponent element's magnitude M × 4^ρ (R127). -/
def trimNeedBfq (m pat : Nat) : Nat :=
  max 1 (bitlen (pat % 2 ^ m * if pat.testBit (m + 1) then 4 else 1))

/-- w' of the block that starts at a row and column, from its elements and fill values (R127). -/
def State.trimOf (s : State) (w : Who) (d : Desc) (r0 c0 : Nat) : Nat :=
  ((d.blkCells r0 c0).map fun (r, c) =>
    let x := s.patAt w d r c 0 (d.stored - 1)
    match bfqM d.fmt with
    | some m => trimNeedBfq m x
    | none => trimNeed d.fmt d.w x (if d.fmt = 2 then (s.scaleOf w d r c).2 else 0)).foldl max 1

/-- Whether some element of the block cannot be read back (R128). -/
def State.blkPoison (s : State) (w : Who) (d : Desc) (r0 c0 : Nat) : Bool :=
  (d.blkCells r0 c0).any fun (r, c) => d.has r c &&
    ((List.range d.stored).any (fun p => s.tPoison w d (d.planeAt r c p) 1)
      || ((bfqM d.fmt).isSome && s.tPoison w d (d.sideAt r c) 1))

/-- Recompute a block's tag from its contents (R127, R266). -/
def State.retag (s : State) (w : Who) (d : Desc) (r0 c0 : Nat) : State :=
  s.setTag w d r0 c0 (if s.blkPoison w d r0 c0 then 0x1F else s.trimOf w d r0 c0 - 1)

/-- The blocks a region touches, as their first elements, in ascending index order. -/
def Desc.blocksOf (d : Desc) (row0 col0 rows cols : Nat) : List (Nat × Nat) :=
  let rs := (List.range ((row0 + rows - 1) / d.blkRows + 1 - row0 / d.blkRows)).map fun i => (row0 / d.blkRows + i) * d.blkRows
  let cs := (List.range ((col0 + cols - 1) / d.blkCols + 1 - col0 / d.blkCols)).map fun i => (col0 / d.blkCols + i) * d.blkCols
  rs.flatMap fun r => cs.map fun c => (r, c)

/-- Whether a region covers the block that starts at a row and column whole. -/
def Desc.coversBlk (d : Desc) (row0 col0 rows cols r c : Nat) : Bool :=
  row0 ≤ r && r + d.blkRows ≤ row0 + rows && col0 ≤ c && c + d.blkCols ≤ col0 + cols

/-- The tag of a block after a write that every stored plane took part in: recomputed, or the larger of that and the old
tag where only part of the block was written (R128's second row). -/
def State.retagWritten (s : State) (w : Who) (d : Desc) (r c old : Nat) (whole : Bool) : State :=
  let new := if s.blkPoison w d r c then 0x1F else s.trimOf w d r c - 1
  let tag := if whole then new else if old = 0x1F || new = 0x1F then 0x1F else max new old
  s.setTag w d r c tag

/-- Every KiB of a scratchpad view's blocks, as offsets from the base. -/
def View.spadRows (v : View) : List Nat :=
  (v.d.blocksOf v.row0 v.col0 v.rows v.cols).flatMap fun (r, c) =>
    (List.range v.d.blkKiB).map fun i => v.d.blkOff (v.d.blkIndex r c) + i * 1024

/-- The first byte address of a scratchpad view's blocks that no scratchpad holds (R112). -/
def State.spadHole (s : State) (b : Nat) (v : View) : Option Nat :=
  (v.spadRows.find? fun o => match s.spadLoc b (v.d.base + o) with
    | some (some _) => false
    | _ => true).map fun o => v.d.base + o

end Sys2Proof.Machine
end

