-- ==== Sys2Proof/Machine/EngineOps.lean ====
section
/-!
DEFINITION. What the engines share (11 R250, R251, R269 to R273; 18 R380, R381, R390): when a released command may issue,
an engine's writes, in-flight counts, freezing, failing, and finishing on a timeline.
-/

namespace Sys2Proof.Machine

/-! Timelines (R135). -/

/-- The value after the finished numbers above it (R135). -/
def advance (fin : List Nat) : Nat → Nat → Nat
  | 0, v => v
  | n + 1, v => if fin.contains (v + 1) then advance fin n (v + 1) else v

/-- A number finishes on a timeline; a failure keeps its record's address (R135, R273). -/
def Timeline.finish (x : Timeline) (num : Nat) (failAt : Option Nat) (allFill : Bool) : Timeline :=
  let fin := num :: x.fin
  let v := advance fin fin.length x.val
  { x with
    val := v
    fin := fin.filter fun n => v < n
    fails := match failAt with
      | some a => x.fails ++ [(num, a)]
      | none => x.fails
    allFill := if allFill then x.allFill ++ [num] else x.allFill }

/-- A number finishes on a timeline of a task. -/
def State.tlFinish (s : State) (uid tl num : Nat) (failAt : Option Nat) (allFill : Bool) : State :=
  s.modTask uid fun t => t.setTl tl ((t.tl tl).finish num failAt allFill)

/-! Engine accesses. -/

/-- For whom a command acts. -/
def Cmd.who (c : Cmd) : Who := ⟨c.part, c.brick, c.uid⟩

/-- Count an access of a command to device DRAM, at its first translation of a 64 KiB part (R381). -/
def State.fly (s : State) (id : Nat) (l : PLoc) : State :=
  match l.sp, s.cmd? id with
  | .dram, some c =>
    let part := l.a / 2 ^ 16 * 2 ^ 16
    if c.flights.contains part then s else (s.setCmd id { c with flights := part :: c.flights }).flightUp part
  | _, _ => s

/-- Lower the counts a command raised. -/
def State.land (s : State) (parts : List Nat) : State := parts.foldl (fun s a => s.flightDown a) s

/-- Of the parts that a command has in flight, those that none of its remaining accesses is to have seen its last one
(R381). -/
def State.landBut (s : State) (id : Nat) (keep : List Nat) : State :=
  match s.cmd? id with
  | none => s
  | some c =>
    (s.setCmd id { c with flights := c.flights.filter fun a => keep.contains a }).land
      (c.flights.filter fun a => !keep.contains a)

/-- Note n bytes that a command writes at a home: a word that its consecutive writes cover whole loses its poison (R393). -/
def State.noteRun (s : State) (id : Nat) (l : PLoc) (n : Nat) : State :=
  match s.cmd? id with
  | none => s
  | some c =>
    let (a, k) := match c.run with
      | some (r, k) => if r.sp == l.sp && r.a + k == l.a then (r, k + n) else (l, n)
      | none => (l, n)
    let s := s.setCmd id { c with run := some (a, k) }
    if (s.bad l.sp).isEmpty then s
    else s.setBad l.sp ((s.bad l.sp).filter fun w =>
      !(overlaps (8 * w) 8 l.a n && a.a ≤ 8 * w && 8 * w + 8 ≤ a.a + k))

/-- Of some pending writes, those in a die's cache up to the last one that is named. -/
def upToLast (die : Nat) (ids : List Nat) (ws : List Write) : List Write :=
  (ws.foldr (fun w (acc : List Write × Bool) =>
    if w.cached && w.die == die && (acc.2 || ids.contains w.id) then (w :: acc.1, true) else acc) ([], false)).1

/-- An engine's write (R8, R271): at .die it enters the die cache, at .dev it goes to its home. Writes outside DRAM go
to their homes at once. The write is counted in the command's trackers; a stamp or a control word is a release at .die
of the command's payload, which its die's cache then holds (R132, R134): deps are the writes it must not pass. One into host
memory, which every die reads, finds them at their homes. -/
def State.engWrite (s : State) (c : Cmd) (dev : Bool) (l : PLoc) (pte : Nat) (bs : List Byte)
    (rel : Option (List Nat) := none) : State :=
  let die := dieOfBrick c.brick
  if l.sp != .dram || dev then
    let s := if l.sp == .host then s.performAll (upToLast die (rel.getD []) s.writes) else s
    (s.writeNow l bs pte).noteRun c.id l bs.length
  else
    let s := s.drainLines l bs.length fun d => d == die
    let more : Bool := rel.isNone && match s.writes.getLast? with
      | some w => w.cmd == c.id && w.cached && w.pte == pte && w.rel.isNone && w.loc.sp == .dram
          && w.loc.a + w.bytes.length == l.a && l.a % 128 != 0
      | none => false
    if more then
      { s.wakeMem l bs.length with writes := s.writes.dropLast ++ (match s.writes.getLast? with
          | some w => [{ w with bytes := w.bytes ++ bs }]
          | none => []) }
    else
      let (id, s) := s.newId
      s.enterCache { id := id, uid := c.uid, ord := c.ord, die := die, brick := c.brick, loc := l, bytes := bs,
                     cached := true, cmd := c.id, rel := rel.map fun _ => .die, deps := rel.getD [], flat := 0, pte := pte,
                     trk := c.trk, part := c.part, num := (c.tl, c.num) }

/-- The writes of a command that its die's cache holds. -/
def State.payload (s : State) (id : Nat) : List Nat := (s.writes.filter fun w => w.cmd == id && w.cached).map (·.id)

/-! Release (R271). -/

/-- Whether work is older than a released command, a fence there covering it (R271). -/
def Cmd.covers (c : Cmd) (ord : Nat) (trk : List Nat) (own : Bool) : Bool :=
  let older := ord < c.ord || (own && ord == c.ord)
  match c.relRanges with
  | none => older
  | some rs => rs.any fun r => match r with
    | none => older
    | some (k, a) => ord ≤ a || (older && trk.contains k)

/-- Whether what a released command waits for has performed (R271). -/
def State.relIssued (s : State) (c : Cmd) : Bool :=
  match c.rel, s.task? c.uid with
  | some sc, some t =>
    s.writes.all (fun w => w.uid != c.uid || !c.covers w.ord w.trk (w.cmd == 0) || w.performedAt sc)
      && t.seen.all (fun r => !c.covers r.ord r.trk false || s.writesPerformed [r.wid] sc)
      && s.homeOps.all (fun h => h.uid != c.uid || !c.covers h.ord h.trk false)
      && s.dies.all (fun d => d.2.gq.all fun m => m.uid != c.uid || !c.covers m.ord [] false)
      && s.cmds.all (fun x => x.2.uid != c.uid || !c.covers x.2.ord x.2.trk false)
      && s.bricks.all fun b => b.2.pma.all (fun o => o.uid != c.uid || !c.covers o.ord o.trk false)
        && (match b.2.run with
          | some r => r.op.uid != c.uid || !c.covers r.op.ord r.op.trk false
          | none => true)
  | _, _ => true

/-! Failing and finishing (R272). -/

/-- The identity a fault record of a command carries (R387). -/
def Cmd.rec' (c : Cmd) (f : FailRec) : FaultRec :=
  { cause := f.cause, reason := f.reason, source := 1, graph := c.graph, blk := c.blk, addr := f.addr, task := c.taskId,
    ctxId := c.ctxId, engine := c.tl + 1 + 16 * (if 3 ≤ c.tl && c.tl ≤ 5 then c.pier else 0), cmd := c.num, item := f.item,
    resume := f.resume }

/-- Note a command's failure; the first one is the one reported. -/
def Cmd.failed (c : Cmd) (f : FailRec) : Cmd := { c with fail := c.fail <|> some f, failCount := c.failCount + 1 }

/-- Raise a residency request for a command's port (R380, R390): it freezes, or it is answered fail at once (R389). -/
def State.freeze (s : State) (id addr item : Nat) : State :=
  match s.cmd? id with
  | none => s
  | some c =>
    let state := c.wptr % 2 ^ 40 + 2 ^ 63
    let r := c.rec' ⟨7, 0, item, addr, state⟩
    match s.request c.part { r with flags := 2 } (.cmd id addr item) with
    | (s, .waiting n) => s.setCmd id { c with frozen := some n }
    | (s, .failed) =>
      s.setCmd id { c.failed ⟨7, 0, item, addr, state⟩ with abort := true, stopped := true, recBad := true }

/-- Drop one range that LEASE added, once the task's accesses to it have performed (R182): its writes there, what it has read,
and its operations at a home, engine commands and tl7 instructions, wherever they act. -/
def State.applyDrop (s : State) (uid : Nat) (r : Nat × Nat) : State :=
  match s.task? uid with
  | none => s
  | some t =>
    if !t.added.contains r || s.cmds.any (fun c => c.2.uid == uid)
        || s.writes.any (fun w => w.uid == uid && overlaps w.flat w.bytes.length r.1 r.2)
        || s.homeOps.any (fun h => h.uid == uid)
        || s.bricks.any (fun b => b.2.pma.any (fun o => o.uid == uid) || b.2.run.any fun x => x.op.uid == uid)
        || t.seen.any (fun x => s.writes.any fun w => w.id == x.wid) then s
    else
      let gone := (t.addPins.find? fun x => x.1 == r.1 && x.2.1 == r.2).map fun x => x.2.2
      let s := (gone.getD []).foldl (fun s p => s.unpinPage p.phys p.size) s
      s.setTask uid { t with added := t.added.erase r, drops := t.drops.erase r,
                             addPins := t.addPins.eraseP fun x => x.1 == r.1 && x.2.1 == r.2 }

/-- Drop every range whose drop waits and may be done. -/
def State.applyDrops (s : State) (uid : Nat) : State :=
  match s.task? uid with
  | none => s
  | some t => t.drops.foldl (fun s r => s.applyDrop uid r) s

/-- A command finishes (R135, R272): a failure writes its fault record, one of a network command is counted (R428), the
timeline advances, the channel goes on. -/
def State.finishCmd (s : State) (c : Cmd) : State :=
  let (s, at?) := match c.fail with
    | some f => let (s, a) := s.report c.part (c.rec' f); (s, some a)
    | none => (s, none)
  let s := if c.tl = 6 && c.fail.isSome then
      s.modPart c.part fun p => { p with netFailed := min (2 ^ 32 - 1) (p.netFailed + 1) }
    else s
  let s := s.land c.flights
  let s := s.tlFinish c.uid c.tl c.num at? c.allFill
  let s := s.modTask c.uid fun t => t.setTl c.tl { t.tl c.tl with last := c.num, lastPtr := c.wptr }
  let s := s.modBrick c.brick fun b =>
    { b with chan0 := b.chan0.filter (· != c.id), chan1 := b.chan1.filter (· != c.id) }
  { s with cmds := kdel c.id s.cmds }.applyDrops c.uid

end Sys2Proof.Machine
end

