-- ==== Sys2Proof/Machine/Tile.lean ====
section
/-!
DEFINITION. The TILE family at firing (11 R252 to R268): handles, and the checks of the matrix-array instructions, whose
work leaves the brick at commit (R251) and is done in Machine/Pma.lean.
-/

namespace Sys2Proof.Machine

/-- HANDLE_INVALID with its item: a handle register, or 0xF for an accumulator (R253). -/
def badItem (s : State) (x : Nat) : Fire := .trap s 0x10 (BitVec.ofNat 64 x)

/-- Write an h register in stream order (R57). -/
def State.setH (s : State) (f : Focus) (r : Nat) (x : HandleVal) : State :=
  s.modBlk f.ctx f.blk fun b => { b with hs := b.hs ++ [(f.slot, r, x)] }

/-! Handles (R254 to R256). -/

/-- R254: the descriptor's full-extent view. -/
def execHdef (pr : Pr) (hd : BitVec 4) (s : State) : Res :=
  fireG (.hdef pr hd) (fun f ops s => match s.load f (opw ops 0) 32 .none with
    | .wait => .wait
    | .trap s c x => .trap s c x
    | .bytes bs s =>
      let x := leNat bs
      if (Desc.ofNat x).ok then .done (s.setH f hd.toNat (BitVec.ofNat 512 (handleOf x))) [] else badItem s hd.toNat) s

/-- A handle with one field replaced (R255). -/
def hsetVal (k : HField) (x v : Nat) : Nat :=
  match k with
  | .row0 => hput x 256 32 (nbits v 0 32)
  | .col0 => hput x 288 32 (nbits v 0 32)
  | .rows => hput x 320 16 (nbits v 0 16)
  | .cols => hput x 336 16 (nbits v 0 16)
  | .window => hput (hput x 352 4 (nbits v 0 4)) 356 4 (nbits v 4 4)
  | .trim => hput x 360 1 (nbits v 0 1)
  | .shape => hput (hput x 320 16 (nbits v 0 16)) 336 16 (nbits v 16 16)

/-- Change a handle: hs must be usable, and the result must keep its counts and window legal (R255). -/
def fireHandle (i : Instr) (hd hs : BitVec 4) (g : List Tok → Nat → Nat) (s : State) : Res :=
  fireG i (fun f ops s => match (s.ctx f.ctx).streamH f.blk hs.toNat with
    | none => .wait
    | some h =>
      if !(View.of h).usable then badItem s hs.toNat
      else
        let x := BitVec.ofNat 512 (handleStatus (g ops h.toNat))
        let v := View.of x
        if v.rows = 0 || v.cols = 0 || !v.windowOk then badItem s hd.toNat else .done (s.setH f hd.toNat x) []) s

/-- R255. -/
def execHset (pr : Pr) (hd hs : BitVec 4) (k : HField) (s : State) : Res :=
  fireHandle (.hset pr hd hs k) hd hs (fun ops x => hsetVal k x (opw ops 0).toNat) s
/-- R255. -/
def execHadv (pr : Pr) (hd hs : BitVec 4) (s : State) : Res :=
  fireHandle (.hadv pr hd hs) hd hs (fun ops x =>
    hput (hput x 256 32 (nbits x 256 32 + wbits (opw ops 0) 0 32)) 288 32 (nbits x 288 32 + wbits (opw ops 1) 0 32)) s

/-- The field HGET sends (R256). -/
def hgetVal (k : HGetF) (x : Nat) : Nat :=
  match k with
  | .row0 => nbits x 256 32
  | .col0 => nbits x 288 32
  | .shape => nbits x 320 16 + 2 ^ 16 * nbits x 336 16
  | .window => nbits x 352 9
  | .status => nbits x 368 3
  | .d0 => nbits x 0 64
  | .d1 => nbits x 64 64
  | .d2 => nbits x 128 64
  | .d3 => nbits x 192 64

/-- R256: any handle, no trap. -/
def execHget (pr : Pr) (hs : BitVec 4) (k : HGetF) (t1 t0 : Target) (s : State) : Res :=
  fireG (.hget pr hs k t1 t0) (fun f _ s => match (s.ctx f.ctx).streamH f.blk hs.toNat with
    | none => .wait
    | some h => .done s (both (BitVec.ofNat 64 (hgetVal k h.toNat)))) s

/-! Checks of the matrix-array instructions. -/

/-- Whether an accumulator may be named in a mode (R114). -/
def accOk (mode : AccMode) (acc nacc : Nat) : Bool :=
  acc < nacc && (mode != .int64 || (acc % 2 == 0 && acc + 1 < nacc))

/-- The newest number held on a timeline by fired instructions, up to the k-th block (R262, R274). -/
def State.newestHeld (s : State) (c k tl : Nat) (t : Task) : Nat :=
  (t.tl tl).newest + (((s.ctx c).blks.take (k + 1)).map fun b => b.tlFired tl 128).sum

/-- Whether a view can be a PMA operand (R260, R83). -/
def View.operand (v : View) (kmajor : Bool) : Bool :=
  v.usable && v.d.loc == 1 && v.inside && v.d.kmajor == kmajor && !v.d.isElem

/-- The A rules of R260. -/
def aOk (v : View) : Bool :=
  v.operand false && (v.rows == 64 || v.rows == 128) && v.cols % 128 == 0 && 128 ≤ v.cols && v.cols ≤ 1024
    && v.row0 % 64 == 0 && v.col0 % 128 == 0
/-- The B rules of R260 for a depth K. -/
def bOk (v : View) (k : Nat) : Bool :=
  v.operand true && v.rows == k && (v.cols == 64 || v.cols == 128) && v.row0 % 128 == 0 && v.col0 % 64 == 0

/-- Whether two operand formats pair, and the mode admits them (R83, R91). -/
def pairOk (mode : AccMode) (fa fb : Nat) : Bool :=
  let qa := (bfqM fa).isSome
  qa == (bfqM fb).isSome && (!qa || mode == .fp32)

/-- Elements whose scale entries an A operand, or a B operand, reads (R87). -/
def View.scaleCells (v : View) : List (Nat × Nat) :=
  if v.d.kmajor then
    (List.range (cdiv v.rows 128)).flatMap fun k => [(v.row0 + 128 * k, v.col0), (v.row0 + 128 * k, v.col0 + v.cols - 1)]
  else (List.range v.rows).flatMap fun i => (List.range (cdiv v.cols 128)).map fun k => (v.row0 + i, v.col0 + 128 * k)

/-- Whether an instruction in a mode reads scale-table entries of a view (R85, R91). -/
def View.readsScales (v : View) (mode : AccMode) : Bool :=
  v.d.fmt == 2 || (mode == .fp32 && intFmt v.d.fmt)

/-- The first scale entry outside the lease, among the entries of some elements. -/
def scaleOutside (t : Task) (d : Desc) (cells : List (Nat × Nat)) : Option Nat :=
  (cells.filterMap fun x => d.scaleAddr x.1 x.2).find? fun a => !t.inLease a 8

/-- Leave a tl7 instruction for commit, or raise TRANSLATION for a scratchpad byte its views name and no scratchpad holds. -/
def State.leaveSpad (s : State) (f : Focus) (vs : List View) (k : PmaKind) : Fire :=
  match vs.findSome? fun v => s.spadHole (brickOfCtx f.ctx) v with
  | some a => .trap s 7 (BitVec.ofNat 64 a)
  | none => .numbered (s.eff f (.pma k))

/-- The same, with the scale entries the views' elements read checked first (R260). -/
def State.leavePma (s : State) (f : Focus) (t : Task) (mode : AccMode) (vs : List View) (k : PmaKind) : Fire :=
  match vs.findSome? fun v => if v.readsScales mode then scaleOutside t v.d v.scaleCells else none with
  | some a => .trap s 6 (BitVec.ofNat 64 a)
  | none => s.leaveSpad f vs k

/-- R259. -/
def execMzero (pr : Pr) (mode : AccMode) (acc : BitVec 4) (t1 t0 : Target) (s : State) : Res :=
  fireG (.mzero pr mode acc t1 t0) (fun f _ s =>
    if accOk mode acc.toNat (naccOf (s.ctx f.ctx).poolsplit) then .numbered (s.eff f (.pma (.mzero mode acc.toNat)))
    else badItem s 0xF) s

/-- Whether a copy number may feed an operand (R262). -/
def State.copyOk (s : State) (f : Focus) (t : Task) (chan : Bool) (n : Nat) : Bool :=
  n != 0 && n ≤ s.newestHeld f.ctx f.blk chan.toNat t

/-- R260 to R262. -/
def execMma (pr : Pr) (mode : AccMode) (stream : Bool) (ha hb acc : BitVec 4) (sideB chan : Bool) (t1 t0 : Target)
    (s : State) : Res :=
  fireG (.mma pr mode stream ha hb acc sideB chan t1 t0) (fun f ops s =>
    let x := s.ctx f.ctx
    match s.taskOf f.ctx, x.streamH f.blk ha.toNat, x.streamH f.blk hb.toNat with
    | some t, some a, some b =>
      let va := View.of a
      let vb := View.of b
      let n := (opw ops 0).toNat
      if !aOk va then badItem s ha.toNat
      else if !bOk vb va.cols || !pairOk mode va.d.fmt vb.d.fmt then badItem s hb.toNat
      else if !accOk mode acc.toNat (naccOf x.poolsplit) then badItem s 0xF
      else if stream && !s.copyOk f t chan n then badItem s 0xF
      else s.leavePma f t mode [va, vb] (.mma mode a b acc.toNat (if stream then some (sideB, chan, n) else none))
    | _, _, _ => .wait) s

/-- R263. -/
def execMmac (pr : Pr) (mode : AccMode) (stream : Bool) (src hb acc : BitVec 4) (chan trim : Bool) (fmt : BitVec 5)
    (w : BitVec 4) (t1 t0 : Target) (s : State) : Res :=
  fireG (.mmac pr mode stream src hb acc chan trim fmt w t1 t0) (fun f ops s =>
    let x := s.ctx f.ctx
    match s.taskOf f.ctx, x.streamH f.blk hb.toNat with
    | some t, some b =>
      let vb := View.of b
      let nacc := naccOf x.poolsplit
      let n := (opw ops 2).toNat
      if !bOk vb 128 || !pairOk mode fmt.toNat vb.d.fmt then badItem s hb.toNat
      else if !accOk mode acc.toNat nacc || nacc ≤ src.toNat || src == acc
          || (mode == .int64 && src.toNat == acc.toNat + 1) then badItem s 0xF
      else if stream && !s.copyOk f t chan n then badItem s 0xF
      else s.leavePma f t mode [vb] (.mmac mode src.toNat acc.toNat b (if stream then some (chan, n) else none) trim
        fmt.toNat (w.toNat + 1) ((opw ops 0).setWidth 32) ((opw ops 1).setWidth 32) (wbits (opw ops 1) 32 16))
    | _, _ => .wait) s

/-- Whether a view can be MCVT's destination (R264). -/
def mcvtOk (v : View) : Bool :=
  v.usable && v.d.loc == 1 && v.inside && !v.d.isElem && v.rows ≤ 128 && v.cols ≤ 128
    && v.lo == 0 && v.hi == v.d.stored - 1
    && ((bfqM v.d.fmt).isNone || (if v.d.kmajor then v.row0 % 32 == 0 && v.rows % 32 == 0
      else v.col0 % 32 == 0 && v.cols % 32 == 0))

/-- Every element of a view, in tensor coordinates. -/
def View.cells (v : View) : List (Nat × Nat) :=
  (List.range v.rows).flatMap fun i => (List.range v.cols).map fun j => (v.row0 + i, v.col0 + j)

/-- R264. -/
def execMcvt (pr : Pr) (hd acc : BitVec 4) (t1 t0 : Target) (s : State) : Res :=
  fireG (.mcvt pr hd acc t1 t0) (fun f ops s =>
    let x := s.ctx f.ctx
    match s.taskOf f.ctx, x.streamH f.blk hd.toNat with
    | some t, some h =>
      let v := View.of h
      if !mcvtOk v then badItem s hd.toNat
      else if naccOf x.poolsplit ≤ acc.toNat then badItem s 0xF
      else match if v.d.fmt = 2 then scaleOutside t v.d v.cells else none with
        | some a => .trap s 6 (BitVec.ofNat 64 a)
        | none => s.leaveSpad f [v] (.mcvt h acc.toNat ((opw ops 0).setWidth 32))
    | _, _ => .wait) s

/-- R265. -/
def execMadda (pr : Pr) (src acc : BitVec 4) (t1 t0 : Target) (s : State) : Res :=
  fireG (.madda pr src acc t1 t0) (fun f _ s =>
    let nacc := naccOf (s.ctx f.ctx).poolsplit
    if nacc ≤ src.toNat || nacc ≤ acc.toNat then badItem s 0xF
    else .numbered (s.eff f (.pma (.madda src.toNat acc.toNat)))) s

/-- R266. -/
def execPtrim (pr : Pr) (h : BitVec 4) (t1 t0 : Target) (s : State) : Res :=
  fireG (.ptrim pr h t1 t0) (fun f _ s => match s.taskOf f.ctx, (s.ctx f.ctx).streamH f.blk h.toNat with
    | some t, some x =>
      let v := View.of x
      if !v.usable then badItem s h.toNat
      else if v.d.tiled && !t.tensors.contains v.d.id then .trap s 6 (BitVec.ofNat 64 v.d.base)
      else .numbered (s.eff f (.pma (.ptrim x)))
    | _, _ => .wait) s

/-- PXPOSE's element size in bytes (R252). -/
def pxBytes : PxSize → Nat
  | .e1 => 1 | .e2 => 2 | .e4 => 4

/-- The address of array element (i, j) (R266). -/
def pxAddr (base : Nat) (pitch : Word) (e i j : Nat) : Word :=
  BitVec.ofNat 64 base + BitVec.ofNat 64 i * pitch + BitVec.ofNat 64 (j * e)

/-- The first trap of the array's rows (R189, R266). -/
def State.pxTrap (s : State) (f : Focus) (t : Task) (base : Nat) (pitch : Word) (e rows cols : Nat) (acc : Acc) :
    Option (Nat × Word) :=
  (List.range rows).findSome? fun i => s.checkRange t (brickOfCtx f.ctx) (pxAddr base pitch e i 0) (cols * e) e acc

/-- R266. -/
def execPxpose (pr : Pr) (h : BitVec 4) (e : PxSize) (unpack : Bool) (t1 t0 : Target) (s : State) : Res :=
  fireG (.pxpose pr h e unpack t1 t0) (fun f ops s => match s.taskOf f.ctx, (s.ctx f.ctx).streamH f.blk h.toNat with
    | some t, some x =>
      let v := View.of x
      let n := pxBytes e
      if !(v.usable && v.d.loc == 1 && intFmt v.d.fmt && v.inside) || n < cdiv v.d.w 8 then badItem s h.toNat
      else match s.pxTrap f t (opw ops 0).toNat (opw ops 1) n v.rows v.cols (if unpack then .write else .read) with
        | some (c, a) => .trap s c a
        | none => s.leaveSpad f [v] (.pxpose x n unpack (opw ops 0).toNat (opw ops 1))
    | _, _ => .wait) s

/-- Whether some tl7 instruction of an older block of a context has not completed (R267). -/
def State.tl7Open (s : State) (f : Focus) (t : Task) : Bool :=
  s.pmaBusy (brickOfCtx f.ctx) t.uid
    || ((s.ctx f.ctx).olderBlks f.blk).any fun b => b.members.any fun (m, j) =>
      timelineOf j == some 7 && (match (b.slot m).st with
        | .nulled | .off => false
        | _ => true)

/-- R267; what the context reads after it sees the PMA's writes (R258). -/
def execMstat (pr : Pr) (acc : BitVec 4) (t1 t0 : Target) (s : State) : Res :=
  fireG (.mstat pr acc t1 t0) (fun f _ s => match s.taskOf f.ctx with
    | none => .wait
    | some t =>
      if naccOf (s.ctx f.ctx).poolsplit ≤ acc.toNat then badItem s 0xF
      else if s.tl7Open f t then .wait
      else
        let (n, saved, w) := t.mstat
        .done (s.squashAfter f.ctx f.blk) [.s (BitVec.ofNat 64 (n % 2 ^ 32 + 2 ^ 32 * saved)),
                 .s (BitVec.ofNat 64 (w % 2 ^ 32 + 2 ^ 32 * (t.ovfOf acc.toNat).toNat
                   + 2 ^ 33 * modeCode (t.modeOf acc.toNat)))]) s

end Sys2Proof.Machine
end

