-- ==== Sys2Proof/Machine/Engine.lean ====
section
/-!
DEFINITION. The ENG family at firing (11 R269 to R274): the checks of R270, footprints (R271), and the instructions that
read timelines and write pointers. A command leaves the brick at commit (R251).
-/

namespace Sys2Proof.Machine

/-- Whether the page of a named address forbids an access (R189, R376); one not resident is asked for when the engine gets
there (R380). -/
def State.pageBars (s : State) (b q fa : Nat) (acc : Acc) : Bool :=
  match s.unitWalk (unitOf b) q fa acc with
  | .ok _ | .absent _ => false
  | .invalid | .denied => true

/-- The checks of R189 on an address that a command names, and on the n bytes from it: window, alignment, lease, and the page
of the address (log entry 36). -/
def State.engCheck (s : State) (f : Focus) (t : Task) (a : Word) (n size : Nat) (acc : Acc) : Option (Nat × Word) :=
  let b := brickOfCtx f.ctx
  let fa := a.toNat
  if 2 ^ 57 < fa + n || 2 ^ 57 ≤ fa then some (7, a)
  else match s.spadLoc b fa with
  | some none => some (7, a)
  | some (some l) =>
    if fa % size != 0 then some (5, a)
    else if n != 0 && (Config.poolBytes < l.a % Config.poolBytes + n || (s.spadLoc b (fa + n - 1)).all Option.isNone) then
      some (7, a)
    else none
  | none =>
    if fa % size != 0 then some (5, a)
    else if !t.inLease fa n then some (6, a)
    else if s.pageBars b t.part fa acc then some (7, a)
    else none

/-- The first trap of several checks. -/
def firstTrap : List (Option (Nat × Word)) → Option (Nat × Word)
  | [] => none
  | x :: xs => x <|> firstTrap xs

/-- Leave a command for commit (R251), or raise its trap. -/
def State.leave (s : State) (f : Focus) (trap : Option (Nat × Word)) (tl : Nat) (k : CmdKind) (rel : Option Scope) : Fire :=
  match trap with
  | some (c, a) => .trap s c a
  | none => .numbered (s.eff f (.cmd tl k rel))

/-- Fire a command whose checks need the task only. -/
def fireCmd (i : Instr) (tl : Nat) (rel : Option Scope) (trap : State → Focus → Task → List Tok → Option (Nat × Word))
    (k : List Tok → CmdKind) (s : State) : Res :=
  fireG i (fun f ops s => match s.taskOf f.ctx with
    | none => .wait
    | some t => s.leave f (trap s f t ops) tl (k ops) rel) s

/-- Whether a handle is usable apart from its plane window (R270: the window of hd is ignored). -/
def View.usableHd (v : View) : Bool := v.valid && !v.reserved && fmtOk v.d.fmt v.d.wf

/-- The traps of an XCOPY's handles (R270, R114). -/
def copyTrap (t : Task) (nacc : Nat) (hd hs : BitVec 4) (vd vs : View) : Option (Nat × Word) :=
  let bad (r : BitVec 4) : Option (Nat × Word) := some (0x10, BitVec.ofNat 64 r.toNat)
  if !vs.usable then bad hs
  else if !vd.usableHd || vs.rows != vd.rows || vs.cols != vd.cols || vs.d.fmt != vd.d.fmt || vs.d.wf != vd.d.wf then bad hd
  else if vs.d.loc == 2 && nacc ≤ vs.d.base then bad hs
  else if vd.d.loc == 2 && nacc ≤ vd.d.base then bad hd
  else if vs.d.tiled && !t.tensors.contains vs.d.id then some (6, BitVec.ofNat 64 vs.d.base)
  else if vd.d.tiled && !t.tensors.contains vd.d.id then some (6, BitVec.ofNat 64 vd.d.base)
  else none

/-- R270, R275: a tile copy. -/
def execXcopy (pr : Pr) (rel : Option Scope) (hd hs : BitVec 4) (chan stamp : Bool) (t1 t0 : Target) (s : State) : Res :=
  fireG (.xcopy pr rel hd hs chan stamp t1 t0) (fun f ops s =>
    let x := s.ctx f.ctx
    match s.taskOf f.ctx, x.streamH f.blk hd.toNat, x.streamH f.blk hs.toNat with
    | some t, some d, some h =>
      let st := if stamp then s.engCheck f t (opw ops 0) 8 8 .write else none
      s.leave f (st <|> copyTrap t (naccOf x.poolsplit) hd hs (View.of d) (View.of h)) chan.toNat
        (.copy d h (if stamp then some (opw ops 0).toNat else none)) rel
    | _, _, _ => .wait) s

/-- Where XCOPYF's stamp goes (R276). -/
def stampAfter (dst len : Nat) : Nat := alignUp (dst + len) 8

/-- R270, R276: a flat copy. -/
def execXcopyf (pr : Pr) (rel : Option Scope) (chan stamp : Bool) (t1 t0 : Target) (s : State) : Res :=
  fireCmd (.xcopyf pr rel chan stamp t1 t0) chan.toNat rel
    (fun s f t ops =>
      let n := (opw ops 2).toNat
      let at' := BitVec.ofNat 64 (stampAfter (opw ops 1).toNat n)
      firstTrap [s.engCheck f t (opw ops 0) 1 1 .read, s.engCheck f t (opw ops 1) 1 1 .write,
        if n = 0 || 2 ^ 32 < n then some (7, opw ops 1) else none,
        s.engCheck f t (opw ops 0) n 1 .read, s.engCheck f t (opw ops 1) n 1 .write,
        if stamp then s.engCheck f t at' 8 8 .write else none])
    (fun ops =>
      let dst := (opw ops 1).toNat
      let n := (opw ops 2).toNat
      .copyf (opw ops 0).toNat dst n (if stamp then some (stampAfter dst n) else none)) s

/-- R270, R277: a chain. -/
def execXchain (pr : Pr) (rel : Option Scope) (chan : Bool) (t1 t0 : Target) (s : State) : Res :=
  fireCmd (.xchain pr rel chan t1 t0) chan.toNat rel (fun s f t ops => s.engCheck f t (opw ops 0) 64 64 .read)
    (fun ops => .chain (opw ops 0).toNat) s

/-- Element size of a gather or scatter (R269). -/
def gathSize (lg : BitVec 3) : Nat := 4 * 2 ^ lg.toNat

/-- The traps of XGATH and XSCAT (R270); whether the table's entries lie inside the lease is checked for each item (R278). -/
def gathTrap (lg : BitVec 3) (cnt : BitVec 16) (acc : Acc) (s : State) (f : Focus) (t : Task) (ops : List Tok) :
    Option (Nat × Word) :=
  let n := cnt.toNat + 1
  let e := gathSize lg
  let base := opw ops 0
  let hole := 2 ^ 57 ≤ base.toNat || s.spadLoc (brickOfCtx f.ctx) base.toNat == some none
  firstTrap [if hole then some (7, base) else if base.toNat % e != 0 then some (5, base) else none,
    s.engCheck f t (opw ops 1) (4 * n) 4 .read, s.engCheck f t (opw ops 2) (e * n) e acc]

/-- R270, R278: gather. -/
def execXgath (pr : Pr) (rel : Option Scope) (lg : BitVec 3) (cnt : BitVec 16) (t1 t0 : Target) (s : State) : Res :=
  fireCmd (.xgath pr rel lg cnt t1 t0) 2 rel (gathTrap lg cnt .write)
    (fun ops => .gath (opw ops 0).toNat (opw ops 1).toNat (opw ops 2).toNat (gathSize lg) (cnt.toNat + 1)) s
/-- R270, R278: scatter. -/
def execXscat (pr : Pr) (rel : Option Scope) (lg : BitVec 3) (cnt : BitVec 16) (t1 t0 : Target) (s : State) : Res :=
  fireCmd (.xscat pr rel lg cnt t1 t0) 2 rel (gathTrap lg cnt .read)
    (fun ops => .scat (opw ops 0).toNat (opw ops 1).toNat (opw ops 2).toNat (gathSize lg) (cnt.toNat + 1)) s

/-- The check of a parameter block of n bytes (R270). -/
def blockTrap (n : Nat) (s : State) (f : Focus) (t : Task) (ops : List Tok) : Option (Nat × Word) :=
  s.engCheck f t (opw ops 0) n 64 .read

/-- R270, R332: its block is 192 bytes. -/
def execXred (pr : Pr) (rel : Option Scope) (t1 t0 : Target) (s : State) : Res :=
  fireCmd (.xred pr rel t1 t0) 3 rel (blockTrap 192) (fun ops => .xred (opw ops 0).toNat) s
/-- R270, R335: its block is 64 bytes. -/
def execXired (pr : Pr) (rel : Option Scope) (t1 t0 : Target) (s : State) : Res :=
  fireCmd (.xired pr rel t1 t0) 4 rel (blockTrap 64) (fun ops => .xired (opw ops 0).toNat) s
/-- R270, R340: its block is 128 bytes. -/
def execXpkl (pr : Pr) (rel : Option Scope) (t1 t0 : Target) (s : State) : Res :=
  fireCmd (.xpkl pr rel t1 t0) 5 rel (blockTrap 128) (fun ops => .xpkl (opw ops 0).toNat) s

/-- The local range of a network record (R280): 8 bytes for NAMO. -/
def netLocal (amo : Bool) (bs : List Byte) : Nat × Nat := (field bs 0 8, if amo then 8 else field bs 16 4)

/-- Fire a network command (R270): the record is read as a load, and its local range must lie inside the lease. -/
def fireNet (i : Instr) (amo : Bool) (rel : Option Scope) (k : Nat → CmdKind) (s : State) : Res :=
  fireG i (fun f ops s => match s.taskOf f.ctx with
    | none => .wait
    | some t =>
      let a := opw ops 0
      match s.engCheck f t a 64 64 .read with
      | some (c, w) => .trap s c w
      | none => match s.load f a 64 .none with
        | .wait => .wait
        | .trap s c w => .trap s c w
        | .bytes bs s =>
          let (l, n) := netLocal amo bs
          if n != 0 && !t.inLease l n then .trap s 6 (BitVec.ofNat 64 l)
          else s.leave f none 6 (k a.toNat) rel) s

/-- R281. -/
def execNput (pr : Pr) (rel : Option Scope) (t1 t0 : Target) (s : State) : Res :=
  fireNet (.nput pr rel t1 t0) false rel .nput s
/-- R281. -/
def execNget (pr : Pr) (rel : Option Scope) (t1 t0 : Target) (s : State) : Res :=
  fireNet (.nget pr rel t1 t0) false rel .nget s
/-- R281. -/
def execNamo (pr : Pr) (rel : Option Scope) (t1 t0 : Target) (s : State) : Res :=
  fireNet (.namo pr rel t1 t0) true rel .namo s

/-- R270, R282: discard. -/
def execXdisc (pr : Pr) (rel : Option Scope) (chan : Bool) (t1 t0 : Target) (s : State) : Res :=
  fireCmd (.xdisc pr rel chan t1 t0) chan.toNat rel
    (fun s f t ops =>
      let b := opw ops 0
      let n := (opw ops 1).toNat
      firstTrap [s.engCheck f t b 1 1 .write,
        if b.toNat % 2 ^ 16 != 0 || n % 2 ^ 16 != 0 then some (5, b) else none,
        if n = 0 || 2 ^ 40 < n then some (7, b) else none,
        s.engCheck f t b n (2 ^ 16) .write])
    (fun ops => .disc (opw ops 0).toNat (opw ops 1).toNat) s

/-! Reading timelines (R273, R274). -/

/-- The write pointer and number of R274. -/
def State.pointerOf (s : State) (t : Task) (ch : Nat) : Nat × Nat :=
  let mine := s.cmds.filterMap fun x => if x.2.uid == t.uid && x.2.tl == ch then some x.2 else none
  match mine.foldl (fun acc c => match acc with
      | none => some c
      | some d => if c.num < d.num then some c else some d) (none : Option Cmd) with
  | some c => (c.wptr, c.num)
  | none => ((t.tl ch).lastPtr, (t.tl ch).last)

/-- R274: pointer to T0, number to T1. -/
def execXwptr (pr : Pr) (chan : Bool) (t1 t0 : Target) (s : State) : Res :=
  fireG (.xwptr pr chan t1 t0) (fun f _ s => match s.taskOf f.ctx with
    | none => .wait
    | some t =>
      let (p, n) := s.pointerOf t chan.toNat
      .done s [.s (BitVec.ofNat 64 p), .s (BitVec.ofNat 64 n)]) s

/-- R274: the value to T0, the newest number held to T1. -/
def execRdtl (pr : Pr) (tl : BitVec 3) (t1 t0 : Target) (s : State) : Res :=
  fireG (.rdtl pr tl t1 t0) (fun f _ s => match s.taskOf f.ctx with
    | none => .wait
    | some t => .done s [.s (BitVec.ofNat 64 (t.tl tl.toNat).val), .s (BitVec.ofNat 64 (s.newestHeld f.ctx f.blk tl.toNat t))]) s

/-- The lowest failed command at or below n, with its record's address. -/
def lowestFail (fs : List (Nat × Nat)) : Option (Nat × Nat) :=
  fs.foldl (fun acc x => match acc with
    | none => some x
    | some y => if x.1 < y.1 then some x else some y) none

/-- The status token of a timeline at n (R273). -/
def statusToken (x : Timeline) (n : Nat) : Word :=
  let fs := x.fails.filter fun e => e.1 ≤ n
  BitVec.ofNat 64 (2 ^ 32 * (((lowestFail fs).map (·.1)).getD 0 % 2 ^ 32) + 2 ^ 8 * min 255 fs.length
    + 2 * (x.allFill.contains n).toNat + (!fs.isEmpty).toNat)

/-- Whether every timeline instruction of the older blocks has fired, been nullified or been predicated off. -/
def State.olderFixed (s : State) (f : Focus) (tl : Nat) : Bool :=
  ((s.ctx f.ctx).olderBlks f.blk).all fun b => b.tlFixed tl 128

/-- The newest number held on a timeline by instructions of older blocks. -/
def State.heldBefore (s : State) (f : Focus) (tl : Nat) (t : Task) : Nat :=
  (t.tl tl).newest + (((s.ctx f.ctx).blks.take f.blk).map fun b => b.tlFired tl 128).sum

/-- Whether what a WAITT waits for has come (R273): the timeline's value, and the writes that its commands up to a number still
have on their way. -/
def State.waittDone (s : State) (t : Task) (sc : Scope) (tl n : Nat) : Bool :=
  n ≤ (t.tl tl).val && s.writes.all fun w =>
    w.uid != t.uid || w.cmd == 0 || w.num.1 != tl || n < w.num.2 || w.performedAt sc

/-- R273, R296: it completes once the writes it acquires, those of the timeline's commands up to its number, have performed at
its scope. -/
def execWaitt (pr : Pr) (sc : Scope) (trapErr : Bool) (tl : BitVec 3) (t1 t0 : Target) (s : State) : Res :=
  fireG (.waitt pr sc trapErr tl t1 t0) (fun f ops s => match s.taskOf f.ctx with
    | none => .wait
    | some t =>
      let n := (opw ops 0).toNat
      let x := t.tl tl.toNat
      if n = 0 then .done (s.afterWait f) (both 0)
      else
        let nocmd := s.heldBefore f tl.toNat t < n
        if nocmd && !s.olderFixed f tl.toNat then .wait
        else if !nocmd && !s.waittDone t sc tl.toNat n then .wait
        else
          let tok := statusToken x n + (if nocmd then 4 else 0)
          match trapErr, lowestFail (x.fails.filter fun e => e.1 ≤ n) with
          | true, some (_, a) => .trap s 0x0E (BitVec.ofNat 64 a)
          | _, _ => .done (s.afterWait f) (both tok)) s

/-! Footprints (R271). -/

/-- The ranges of a command's footprint: none where it counts as outside every range. -/
def CmdKind.footprint (s : State) (q b uid : Nat) : CmdKind → Option (List Range)
  | .copy hd hs st =>
    let id (h : HandleVal) : Range := .tensor (View.of h).d.id
    some ([id hs, id hd] ++ (match st with
      | some a => [.flat a 8]
      | none => []))
  | .copyf src dst n st => some ([.flat src n, .flat dst n] ++ (match st with
      | some a => [.flat a 8]
      | none => []))
  | .disc base n => some [.flat base n]
  | .nput p | .nget p =>
    let bs := (s.readFlat q b uid p 64).getD []
    some [.flat p 64, .flat (field bs 0 8) (field bs 16 4)]
  | .namo p =>
    let bs := (s.readFlat q b uid p 64).getD []
    some [.flat p 64, .flat (field bs 0 8) 8]
  | _ => none

/-- The armed trackers that count a footprint (R205). -/
def State.trkFoot (s : State) (t : Task) (b : Nat) (foot : Option (List Range)) : List Nat :=
  match foot with
  | none => []
  | some rs => (rs.flatMap fun r => match r with
    | .tensor i => t.trkTensor i
    | .flat a n => s.trkRange t b a n).dedup

/-- What a release naming a footprint would wait on (R207, R271). -/
def relRangesOf (t : Task) (trs : KMap Tracker) (ord : Nat) (foot : Option (List Range)) :
    Option (List (Option (Nat × Nat))) :=
  foot.map fun rs => rs.map fun r => (keepsTracker trs r).bind fun k =>
    (kget? k t.trackers).bind fun x => if x.arm < ord then some (k, x.arm) else none

end Sys2Proof.Machine
end

