-- ==== Sys2Proof/Machine/FloatScalar.lean ====
section
/-!
DEFINITION. Scalar floating point (08 R163, R165 to R168; encodings R143, R144).
-/

namespace Sys2Proof.Machine

/-- The format the width bit selects. -/
def fmtOf (d : Bool) : FFmt := if d then fp64 else fp32

/-- The mode an instruction of the k-th block rounds in (R98): none while FPMODE at entry is not known. -/
def Ctx.modeAt (x : Ctx) (k : Nat) (rm : Rm) : Option Rm :=
  match rm with
  | .dyn => (x.entryMode k).map fpmodeRm
  | r => some r

/-- Operand patterns in a format: an FP32 operand is the low 32 bits (R152). -/
def fpOps (f : FFmt) (ops : List Tok) : List Nat :=
  (List.range 3).map fun k => (opw ops k).toNat % 2 ^ f.width

/-- Fire a floating-point instruction: val gives the pattern and the flags in a rounding mode. -/
def fireFp (i : Instr) (rm : Rm) (val : Rm → List Tok → Nat × FFlags) (s : State) : Res :=
  fireG i (fun f ops s => match (s.ctx f.ctx).modeAt f.blk rm with
    | none => .wait
    | some m => .done (s.flag f (val m ops).2) (both (BitVec.ofNat 64 (val m ops).1))) s

/-- An operation of two operands in the format of the width bit. -/
def fp2 (d : Bool) (op : FFmt → Nat → Nat → Nat × FFlags) (ops : List Tok) : Nat × FFlags :=
  let x := fpOps (fmtOf d) ops
  op (fmtOf d) (lget x 0 0) (lget x 1 0)

def execFadd (pr : Pr) (d : Bool) (rm : Rm) (t1 t0 : Target) (s : State) : Res :=
  fireFp (.fadd pr d rm t1 t0) rm (fun m => fp2 d fun f => f.add m) s
def execFsub (pr : Pr) (d : Bool) (rm : Rm) (t1 t0 : Target) (s : State) : Res :=
  fireFp (.fsub pr d rm t1 t0) rm (fun m => fp2 d fun f => f.sub m) s
def execFmul (pr : Pr) (d : Bool) (rm : Rm) (t1 t0 : Target) (s : State) : Res :=
  fireFp (.fmul pr d rm t1 t0) rm (fun m => fp2 d fun f => f.mul m) s
def execFdiv (pr : Pr) (d : Bool) (rm : Rm) (t1 t0 : Target) (s : State) : Res :=
  fireFp (.fdiv pr d rm t1 t0) rm (fun m => fp2 d fun f => f.div m) s
def execFsqrt (pr : Pr) (d : Bool) (rm : Rm) (t1 t0 : Target) (s : State) : Res :=
  fireFp (.fsqrt pr d rm t1 t0) rm (fun m => fp2 d fun f x _ => f.sqrt m x) s
def execFma (pr : Pr) (d : Bool) (rm : Rm) (t1 t0 : Target) (s : State) : Res :=
  fireFp (.fma pr d rm t1 t0) rm (fun m ops => fp2 d (fun f x y => f.fma m x y (lget (fpOps f ops) 2 0)) ops) s
def execFmin (pr : Pr) (d : Bool) (t1 t0 : Target) (s : State) : Res :=
  fireFp (.fmin pr d t1 t0) .rne (fun _ => fp2 d fun f => f.minmax false) s
def execFmax (pr : Pr) (d : Bool) (t1 t0 : Target) (s : State) : Res :=
  fireFp (.fmax pr d t1 t0) .rne (fun _ => fp2 d fun f => f.minmax true) s

/-! Conversions (R144, R166). -/

/-- Whether a conversion code rounds by FPMODE; codes 0x18 to 0x1F round toward zero (R144). -/
def fcvtRm (c : Nat) : Rm :=
  if 0x18 ≤ c then .rtz
  else if c = 0x00 || c = 0x03 || c = 0x0B || c = 0x0C then .rne else .dyn

/-- FP to integer of n bits: s results are sign-extended, n results zero-extended (R166). -/
def fpInt64 (f : FFmt) (m : Rm) (n : Nat) (signed : Bool) (x : Nat) : Nat × FFlags :=
  let r := fpToInt (f.val (x % 2 ^ f.width)) m n signed
  (if signed then ofInt 64 (asInt n r.1) else r.1, r.2)

/-- The conversion of a code (R144). -/
def fcvtVal (c : Nat) (m : Rm) (x : Nat) : Nat × FFlags :=
  let from' (f : FFmt) : FV := f.val (x % 2 ^ f.width)
  match c with
  | 0x00 => fp64.ofFV m (from' fp32)
  | 0x01 => fp32.ofFV m (from' fp64)
  | 0x02 => bf16.ofFV m (from' fp32)
  | 0x03 => fp32.ofFV m (from' bf16)
  | 0x04 => bf16.ofFV m (from' fp64)
  | 0x05 => fp32.ofInt m (asInt 64 x)
  | 0x06 => fp32.ofInt m (x % 2 ^ 64 : Nat)
  | 0x07 => fp64.ofInt m (asInt 64 x)
  | 0x08 => fp64.ofInt m (x % 2 ^ 64 : Nat)
  | 0x09 => fp32.ofInt m (asInt 32 x)
  | 0x0A => fp32.ofInt m (x % 2 ^ 32 : Nat)
  | 0x0B => fp64.ofInt m (asInt 32 x)
  | 0x0C => fp64.ofInt m (x % 2 ^ 32 : Nat)
  | 0x10 | 0x18 => fpInt64 fp32 m 64 true x
  | 0x11 | 0x19 => fpInt64 fp32 m 64 false x
  | 0x12 | 0x1A => fpInt64 fp64 m 64 true x
  | 0x13 | 0x1B => fpInt64 fp64 m 64 false x
  | 0x14 | 0x1C => fpInt64 fp32 m 32 true x
  | 0x15 | 0x1D => fpInt64 fp32 m 32 false x
  | 0x16 | 0x1E => fpInt64 fp64 m 32 true x
  | _ => fpInt64 fp64 m 32 false x

def execFcvt (pr : Pr) (code : BitVec 5) (t1 t0 : Target) (s : State) : Res :=
  fireFp (.fcvt pr code t1 t0) (fcvtRm code.toNat) (fun m ops => fcvtVal code.toNat m (opw ops 0).toNat) s

/-- FCLASS: one bit of the mask; a signalling NaN raises NV (R167). -/
def execFclass (pr : Pr) (d : Bool) (t1 t0 : Target) (s : State) : Res :=
  fireFp (.fclass pr d t1 t0) .rne (fun _ => fp2 d fun f x _ => (f.fclass x, flagIf flagNV (f.val x).snan)) s

/-- FSGN (R168). -/
def fsgnVal (k : SgnKind) (f : FFmt) (x y : Nat) : Nat × FFlags :=
  let v := f.val x
  let mag := x % f.signW
  let sx := x.testBit (f.ew + f.fw)
  let sy := y.testBit (f.ew + f.fw)
  let neg := match k with
    | .copysign => sy | .negsign => !sy | .xorsign => sx != sy | .abs => false | .neg => !sx
  if v.isNan then (f.qnan, flagIf flagNV v.snan) else (mag + f.zeroS neg, 0)

def execFsgn (pr : Pr) (d : Bool) (k : SgnKind) (t1 t0 : Target) (s : State) : Res :=
  fireFp (.fsgn pr d k t1 t0) .rne (fun _ => fp2 d fun f => fsgnVal k f) s

/-- FCMP (R163). -/
def fcmpVal (c : FCond) (f : FFmt) (x y : Nat) : Nat × FFlags :=
  let a := f.val x
  let b := f.val y
  let nan := a.isNan || b.isNan
  let o := cmpFV false a b
  let r : Bool := match c with
    | .eq => !nan && o == Ordering.eq
    | .lt => !nan && o == Ordering.lt
    | .le => !nan && o != Ordering.gt
    | .un => nan
    | .ne => nan || o != Ordering.eq
  let quietNv : Bool := match c with
    | .lt | .le => nan
    | _ => false
  (r.toNat, flagIf flagNV (a.snan || b.snan || quietNv))

def execFcmp (pr : Pr) (c : FCond) (d : Bool) (t1 t0 : Target) (s : State) : Res :=
  fireFp (.fcmp pr c d t1 t0) .rne (fun _ => fp2 d fun f => fcmpVal c f) s

end Sys2Proof.Machine
end

