-- ==== Sys2Proof/Machine/Sync.lean ====
section
/-!
DEFINITION. Fences, range fences, FWAIT, MWAIT (09 R199 to R208) and barriers (R217 to R220), with the steps at the
barrier's home and the notices it sends (19 R413).
-/

namespace Sys2Proof.Machine

/-! Fences. -/

/-- A fence token (R199). -/
def fenceToken (n : Nat) : Word := BitVec.ofNat 64 (0xFE * 2 ^ 56 + n)

/-- The number of a fence token, none for another value (R202). -/
def fenceNum (x : Word) : Option Nat :=
  if wbits x 56 8 = 0xFE && wbits x 32 24 = 0 && wbits x 0 32 != 0 then some (wbits x 0 32) else none

/-- Record a fence of the focused block and send its token (R199, R200). -/
def State.addFence (s : State) (f : Focus) (b : Blk) (t : Task) (sc : Scope) (k : FenceKind)
    (ranges : Option (List (Option (Nat × Nat)))) : Fire :=
  let n := (b.slot f.slot).num
  let s := s.modTask t.uid fun t => { t with fences := t.fences ++ [⟨n, b.ord, sc, k, ranges, false⟩] }
  .done s (both (fenceToken n))

/-- R201: sends its fence token at once. -/
def execFence (pr : Pr) (sc : Scope) (k : FenceKind) (t1 t0 : Target) (s : State) : Res :=
  fireG (.fence pr sc k t1 t0) (fun f _ s => match s.taskOf f.ctx, s.blk? f.ctx f.blk with
    | some t, some b => s.addFence f b t sc k none
    | _, _ => .wait) s

/-- What checking a FENCER's ranges leads to (R203). -/
inductive Ranges
  | wait
  | bad (cause : Nat) (info : Word)
  | ok (rs : List NamedRange)

/-- The stored extent of a scratchpad tensor (R204): whole KiB, inside which the bank swizzle of R116 moves bytes. -/
def State.extentOf (s : State) (b : Nat) (d : Desc) : Option (Nat × Nat) :=
  if d.loc = 1 then
    match s.spadLoc b d.base with
    | some (some l) =>
      let n := if d.isElem then alignUp (d.rows * alignUp (d.cols * d.esize) 16) 1024
        else cdiv d.rows d.blkRows * cdiv d.cols d.blkCols * d.blkKiB * 1024
      some (l.a, n)
    | _ => none
  else none

/-- The ranges a FENCER names, handles first, checked (R203, R206). -/
def State.namedRanges (s : State) (f : Focus) (hm : BitVec 16) (flat : Bool) (ops : List Tok) : Ranges :=
  let hs := (bitsOf 16 hm.toNat).foldl (fun acc r => match acc with
    | .ok rs => match (s.ctx f.ctx).streamH f.blk r with
      | none => Ranges.wait
      | some h =>
        let v := View.of h
        if v.usable then .ok (rs ++ [(r, .tensor v.d.id, s.extentOf (brickOfCtx f.ctx) v.d)])
        else .bad 0x10 (BitVec.ofNat 64 r)
    | x => x) (Ranges.ok [])
  match hs with
  | .ok rs =>
    if !flat then .ok rs
    else
      let base := (opw ops 0).toNat
      let len := (opw ops 1).toNat
      if len = 0 || 2 ^ 40 < len || 2 ^ 57 < base + len then .bad 7 (opw ops 0)
      else .ok (rs ++ [(16, .flat base len, none)])
  | x => x

/-- R203, R207: a range fence, once every older block has committed, so that the arms before it are known. -/
def execFencer (pr : Pr) (sc : Scope) (k : FenceKind) (hm : BitVec 16) (flat : Bool) (t1 t0 : Target) (s : State) : Res :=
  fireG (.fencer pr sc k hm flat t1 t0) (fun f ops s => match s.taskOf f.ctx, s.blk? f.ctx f.blk with
    | some t, some b =>
      match s.namedRanges f hm flat ops with
      | .wait => .wait
      | .bad c x => .trap s c x
      | .ok rs =>
        if !f.oldest then .wait
        else
          let trs := s.freeTrackers t
          s.addFence f b t sc k (some (rs.map fun r => (keepsTracker trs r.2.1).bind fun k =>
            (kget? k trs).bind fun x => if x.arm < b.ord then some (k, x.arm) else none))
    | _, _ => .wait) s

/-- A mask of result bits (R206). -/
def maskOf (bits : List Nat) : Word := bits.foldl (fun x i => x ||| (1 <<< i)) 0

/-- R206: takes effect at commit; the result says what will be armed. -/
def execFencerArm (pr : Pr) (hm : BitVec 16) (flat : Bool) (t1 t0 : Target) (s : State) : Res :=
  fireG (.fencerArm pr hm flat t1 t0) (fun f ops s => match s.taskOf f.ctx with
    | none => .wait
    | some t =>
      match s.namedRanges f hm flat ops with
      | .wait => .wait
      | .bad c x => .trap s c x
      | .ok rs => .done (s.eff f (.arm rs)) (both (maskOf (armAll 0 rs (s.freeTrackers t)).2))) s

/-- R206: takes effect at commit; the result says what will be taken out of use. -/
def execFencerDisarm (pr : Pr) (hm : BitVec 16) (flat : Bool) (t1 t0 : Target) (s : State) : Res :=
  fireG (.fencerDisarm pr hm flat t1 t0) (fun f ops s => match s.taskOf f.ctx with
    | none => .wait
    | some t =>
      match s.namedRanges f hm flat ops with
      | .wait => .wait
      | .bad c x => .trap s c x
      | .ok rs => .done (s.eff f (.disarm rs)) (both (maskOf ((rs.filter fun r =>
          (ownTracker (s.freeTrackers t) r.2.1).isSome).map (·.1))))) s

/-- R202: waits until the fence has performed; 1 at once for a value that is no token of this task. -/
def execFwait (pr : Pr) (t1 t0 : Target) (s : State) : Res :=
  fireG (.fwait pr t1 t0) (fun f ops s => match s.taskOf f.ctx with
    | none => .wait
    | some t =>
      match fenceNum (opw ops 0) with
      | none => .done s (both 1)
      | some n =>
        if t.fenceNewest < n then .done s (both 1)
        else if t.fences.any fun r => r.num == n && r.done then .done (s.afterWait f) (both 0)
        else .wait) s

/-- FENCE_PERFORM (R200, R207, R233): the fence of a number performs when its covered work has. -/
def execFencePerform (uid n : Nat) (s : State) : Res :=
  match s.task? uid with
  | none => .next s
  | some t => .next (s.setTask uid { t with fences := t.fences.map fun r =>
      if r.num = n && !r.done && s.fenceReady t r then { r with done := true } else r })

/-! MWAIT (R208). -/

/-- Whether a value satisfies a condition (R208). -/
def mcondHolds (c : MCond) (v x : Word) : Bool :=
  match c with
  | .ne => v != x
  | .ge => x.ule v

/-- One read of an MWAIT: it completes, as an acquire at its scope, or goes on watching. -/
def State.mwaitRead (s : State) (f : Focus) (ops : List Tok) (c : MCond) (sc : Scope) : Fire :=
  match s.load f (opw ops 0) 8 .none with
  | .wait => .wait
  | .trap s c x => .trap s c x
  | .bytes bs t =>
    if mcondHolds c (leWord bs) (opw ops 1) then
      let (o, t) := t.acquire f sc
      .done (if o then t.afterWait f else t) (both (leWord bs))
    else .busy s

def execMwait (pr : Pr) (sc : Scope) (c : MCond) (t1 t0 : Target) (s : State) : Res :=
  fireG (.mwait pr sc c t1 t0) (fun f ops s => s.mwaitRead f ops c sc) s

/-- A watching MWAIT reads again. -/
def State.mwaitAgain (s : State) (f : Focus) (b : Blk) (i : Instr) : State :=
  match i with
  | .mwait _ sc c _ _ =>
    match s.mwaitRead f ((b.slot f.slot).ops i) c sc with
    | .done s toks => s.finish f i toks
    | .trap s c x => s.busyTrap f c x
    | _ => s
  | _ => s

def isMwait : Instr → Bool
  | .mwait .. => true
  | _ => false

/-- MONITOR_WRITE (R208): a write to the monitored word makes an MWAIT read again. -/
def execMonitorWrite (ctx slot : Nat) (s : State) : Res :=
  match s.findBusy ctx slot isMwait with
  | some (f, b, i) => .next (s.mwaitAgain f b i)
  | none => .next s

/-- MONITOR_POLL (R208): an MWAIT on host memory reads again. -/
def execMonitorPoll (ctx slot : Nat) (s : State) : Res :=
  match s.findBusy ctx slot isMwait, s.taskOf ctx with
  | some (f, b, i), some t =>
    match s.check t (brickOfCtx ctx) (opw ((b.slot slot).ops i) 0) 8 .read with
    | (.ok l _, s') => if l.sp == .host then .next (s'.mwaitAgain f b i) else .next s
    | _ => .next s
  | _, _ => .next s

/-! Barriers (R217 to R220). -/

/-- A barrier record read from its 64 bytes (R217). -/
structure BarRec where
  phase : Nat
  expected : Nat
  arrived : Nat
  hist : List Nat
  ok : Bool
  deriving DecidableEq, Repr

def BarRec.of (bs : List Byte) : BarRec :=
  let hist := (List.range 4).map fun i => field bs (16 + 2 * i) 2
  { phase := field bs 0 8, expected := field bs 8 4, arrived := field bs 12 4, hist := hist,
    ok := field bs 8 4 != 0 && hist.all (fun h => nbits h 13 3 == 0 && nbits h 0 5 == 0) && field bs 24 40 == 0 }

/-- The first 24 bytes of a record. -/
def BarRec.bytes (r : BarRec) : List Byte :=
  leBytes 8 r.phase ++ leBytes 4 r.expected ++ leBytes 4 r.arrived ++ r.hist.flatMap (leBytes 2)

/-- The checked read of a record for the focused slot: misuse has cause 0x13 (R220). A record in host memory, which is no
barrier's home, is an ATOMIC_TARGET (log entry 74). -/
def State.readRec (s : State) (f : Focus) (t : Task) (a : Word) (acc : Acc) (cause : Nat) : Got :=
  match (s.check t (brickOfCtx f.ctx) a 64 acc).1.recast cause with
  | .bad c x => .trap s c x
  | .ok l _ =>
    if l.sp == .host then .trap s 8 a
    else s.load f a 64 .none

/-- R218: the phase at once, the arrival at commit. -/
def execBara (pr : Pr) (sc : Scope) (t1 t0 : Target) (s : State) : Res :=
  fireG (.bara pr sc t1 t0) (fun f ops s => match s.taskOf f.ctx with
    | none => .wait
    | some t =>
      let a := opw ops 0
      match s.readRec f t a .write 0x13 with
      | .wait => .wait
      | .trap s c x => .trap s c x
      | .bytes bs s =>
        let r := BarRec.of bs
        if r.ok then .done (s.eff f (.arrive a.toNat sc)) (both (BitVec.ofNat 64 r.phase)) else .trap s 0x13 a) s

/-- R219: completes on a phase above the token. -/
def execBarw (pr : Pr) (sc : Scope) (t1 t0 : Target) (s : State) : Res :=
  fireG (.barw pr sc t1 t0) (fun f ops s => match s.taskOf f.ctx with
    | none => .wait
    | some t =>
      let a := opw ops 0
      match s.readRec f t a .read 0x13 with
      | .wait => .wait
      | .trap s c x => .trap s c x
      | .bytes bs s =>
        let r := BarRec.of bs
        if !r.ok then .trap s 0x13 a
        else if (opw ops 1).toNat < r.phase then
          let (o, s) := s.acquire f sc
          .done (if o then s.afterWait f else s) (both (BitVec.ofNat 64 r.phase))
        else .wait) s

/-! Operations at a home (R137, R218, R298). -/

/-- The header or record place of a home operation, and its flat address. -/
def HomeKind.loc : HomeKind → PLoc
  | .arrive _ l _ | .qinit _ l _ _ | .qfill _ l _ _ _ => l
def HomeKind.addr : HomeKind → Nat
  | .arrive a _ _ | .qinit a _ _ _ | .qfill a _ _ _ _ => a

/-- Whether a home operation may act: the writes to its bytes that its brick sees, and the task's earlier operations on
them, have reached the home (R288). -/
def State.homeQuiet (s : State) (h : HomeOp) : Bool :=
  h.spans.all fun p => (s.pendingAt (dieOfBrick h.brick) h.uid p.1 p.2).isEmpty
    && (s.homeOps.takeWhile fun x => x.id != h.id).all fun x => x.uid != h.uid || !x.spans.any fun y => hits y p.1 p.2

/-- The device address of the leaf entry of the page a home operation acts on (R384). -/
def State.homePte (s : State) (h : HomeOp) : Nat := s.flatPte h.part h.brick h.kind.addr .write

/-- n bytes at the home for a home operation, after the writes to them that die caches hold (R298); a dying or dead page
reads zero (R384). -/
def State.homeSee (s : State) (h : HomeOp) (n : Nat) : List Byte × State :=
  let s := s.drainLines h.kind.loc n fun _ => false
  (if s.dying (s.homePte h) then List.replicate n 0 else s.homeRead h.kind.loc n, s)

/-- A home operation that cannot act is reported, and the sender's graph takes its error bit (R137, R220). A poisoned word of
the record, the header or the full bits is reported as UNCORRECTABLE_MEMORY, and nothing changes (log entry 75). -/
def State.homeFail (s : State) (h : HomeOp) (cause addr item : Nat) : State :=
  let s := (s.report h.part { cause := cause, source := 3, graph := h.graph, blk := h.blk, addr := addr, task := h.taskId,
                              ctxId := h.ctxId, item := item }).1
  s.graphError h.part h.graph

/-! Boost notices of a barrier's home (R413). -/

/-- The barrier's key in the home's notes. -/
def barKey (l : PLoc) : Nat := 2 * l.a + (l.sp == .spad).toNat

/-- The course a history entry names (R217). -/
def histCourse (h : Nat) : Nat := nbits h 9 4 * 10 + nbits h 5 4
/-- The history entry of a course (R217). -/
def courseHist (c : Nat) : Nat := c / 10 * 2 ^ 9 + c % 10 * 2 ^ 5

/-- Grants and notices of a barrier's earlier phases end (R413). -/
def Course.endPhase (c : Course) (key phase : Nat) : Course :=
  let gs := c.grants.filter fun g => !(g.1 == key && g.2.1 < phase)
  let es := c.earlies.filter fun g => !(g.1 == key && g.2.1 < phase)
  { c with grants := gs, earlies := es, notices := c.notices.filter fun n => !(n.2.1 == key && n.2.2 < phase),
           boost := c.boost && !gs.isEmpty, early := c.early && !es.isEmpty }

/-- Note an arrival of a course in a phase, and send the notices where the phase completes (R413). -/
def State.noteArrival (s : State) (q : Nat) (l : PLoc) (course phase : Nat) (completed : Bool) (hist : List Nat) : State :=
  let key := barKey l
  let s := if completed then { s with courses := s.courses.map fun x => (x.1, x.2.endPhase key phase) } else s
  if !(s.part q).pwrctl.getLsbD 1 then s
  else
    let note := kget key ⟨q, l.sp, []⟩ s.bars
    let here := (kget phase [] note.courses).filter (· != course) ++ [course]
    if !completed then { s with bars := kset key { note with courses := kset phase here note.courses } s.bars }
    else
      let named := (List.range (min 3 phase + 1)).map fun i => histCourse (lget hist ((phase - i) % 4) 0)
      let mine (c : Nat) : Bool := l.sp != .spad || c / 10 == l.a / Config.poolBytes / 80
      let grant := (named.filter fun c => 2 ≤ named.count c && mine c).dedup
      let early := here.filter fun c => !grant.contains c && (s.course c).grants.isEmpty && c != course && mine c
      let s := { s with bars := kset key { note with courses := kdel phase note.courses } s.bars }
      let s := grant.foldl (fun s c => s.modCourse c fun x => { x with notices := x.notices ++ [(true, key, phase)] }) s
      early.foldl (fun s c => s.modCourse c fun x => { x with notices := x.notices ++ [(false, key, phase)] }) s

/-- A phase that advances wakes the tasks whose BARW waits at the barrier (R36). -/
def State.wakeBar (s : State) (l : PLoc) : State :=
  if s.tasks.any fun t => t.2.wake == .bar l then
    { s with tasks := s.tasks.map fun t => if t.2.wake == .bar l then (t.1, { t.2 with wake := .now }) else t }
  else s

/-- BARRIER_ARRIVAL (R218, R220): an arrival is applied at the home once what it releases has performed at its scope. -/
def execBarrierArrival (id : Nat) (s : State) : Res :=
  match s.homeOps.find? fun h => h.id == id with
  | none => .next s
  | some h =>
    match h.kind with
    | .arrive addr l sc =>
      if !s.depsDone h.deps .dev || !s.homeQuiet h then .next s
      else
        let s := { s with homeOps := s.homeOps.filter fun x => x.id != id }
        let (bs, s) := s.homeSee h 64
        let r := BarRec.of bs
        if s.poisoned l 64 && !s.dying (s.homePte h) then .next ((s.homeFail h 0x0F addr 0).applyDrops h.uid)
        else if !r.ok then .next ((s.homeFail h 0x13 addr 0).applyDrops h.uid)
        else
          let course := courseOfBrick h.brick
          let full := r.arrived + 1 = r.expected
          let hist := if full then r.hist.set (r.phase % 4) (courseHist course) else r.hist
          let r' := { r with arrived := if full then 0 else (r.arrived + 1) % 2 ^ 32,
                             phase := if full then (r.phase + 1) % 2 ^ 64 else r.phase, hist := hist }
          let s := if full then s.wakeBar l else s
          let heads := s.headsAt l 8
          let s := s.homeApply l r'.bytes (s.homePte h)
          let s := match heads with
            | some hs => s.setHeads l 8 (hs ++ [(h.brick, sc)])
            | none => s
          .next ((s.noteArrival h.part l course r.phase full hist).applyDrops h.uid)
    | _ => .next s

end Sys2Proof.Machine
end

