-- ==== Sys2Proof/Machine/Rings.lean ====
section
/-!
DEFINITION. Reorder rings (06 R136 to R138, 09 R221 to R225), and the steps at the ring's home.
-/

namespace Sys2Proof.Machine

/-- Whether a ring operation of the task itself on a header is still on its way, or noted by an older block in flight
(R288: a later read does not overtake it). -/
def State.ringPending (s : State) (f : Focus) (t : Task) (a : Nat) : Bool :=
  s.homeOps.any (fun h => h.uid == t.uid && (match h.kind with
    | .qinit x .. | .qfill x .. => x == a
    | .arrive .. => false))
    || ((s.ctx f.ctx).olderBlks f.blk).any fun b =>
      b.effs.any (fun e => match e.2 with
        | .qinit x .. | .qfill x .. => x == a
        | _ => false)
      || b.members.any fun (m, j) => (match j with
        | .qinit .. | .qfill .. => true
        | _ => false) && !(b.slot m).st.resolved

/-- A flat byte as the ring home reads it, none where it has no place. -/
def State.ringRead (s : State) (w : Who) (fa n : Nat) : Option (List Byte) :=
  (s.flatLoc w.q w.b fa .read).map fun l => (s.drainLines l n fun _ => false).homeRead l n

/-- The poisoned word, if any, that reading the full bit of entry t meets, as an address (R393). -/
def State.ringBitBad (s : State) (w : Who) (r : RingHdr) (t : Nat) : Option Nat := s.flatPoison w.q w.b 0 (r.bit t).1 1

/-- Whether entry t's full bit is set. A full-bit array that has no translation shows every entry as empty (log entry 73). -/
def State.ringFull (s : State) (w : Who) (r : RingHdr) (t : Nat) : Bool :=
  match s.ringRead w (r.bit t).1 1 with
  | some bs => (leNat bs).testBit (r.bit t).2
  | none => false

/-- Set or clear entry t's full bit; one that may not be written stays (log entry 73). -/
def State.ringMark (s : State) (w : Who) (r : RingHdr) (t : Nat) (full : Bool) : State :=
  match s.ringRead w (r.bit t).1 1 with
  | some bs => s.writeFlat w.q w.b (r.bit t).1 [BitVec.ofNat 8 (hput (leNat bs) (r.bit t).2 1 full.toNat)]
  | none => s

/-- What reading a ring header for the focused slot gives. -/
inductive GotRing
  | wait
  | trap (s : State) (cause : Nat) (info : Word)
  | ok (r : RingHdr) (w : Who) (l : PLoc) (pte : Nat) (s : State)

/-- Read and check a header at its home (R137): misuse has cause 0x12. The writes that any die cache holds to it reach the
home first, so that none falls between the read and what the operation writes (R298). A header in host memory, which is the
home of no ring, is an ATOMIC_TARGET (log entry 74). -/
def State.ringHdr (s : State) (f : Focus) (a : Word) (acc : Acc) : GotRing :=
  match s.taskOf f.ctx with
  | none => .wait
  | some t =>
    match (s.check t (brickOfCtx f.ctx) a 64 acc).1.recast 0x12 with
    | .bad c x => .trap s c x
    | .ok l pte =>
      if l.sp == .host then .trap s 8 a
      else if s.ringPending f t a.toNat then .wait
      else match s.load f a 64 .none with
        | .wait => .wait
        | .trap s c x => .trap s c x
        | .bytes _ s =>
          if !(s.pendingAt (dieOfCtx f.ctx) t.uid l 64).isEmpty then .wait
          else
            let s := s.drainLines l 64 fun _ => false
            let r := RingHdr.of (if s.dying pte then List.replicate 64 0 else s.homeRead l 64)
            if r.ok then .ok r ⟨t.part, brickOfCtx f.ctx, t.uid⟩ l pte s else .trap s 0x12 a

/-- Perform a ring's irrevocable instruction in the focused block, once nothing stands in its way (R31, R32): younger blocks
that have read the header's bytes are discarded. -/
def State.pinning (s : State) (f : Focus) (i : Instr) (l : PLoc) (act : State → Fire) : Fire :=
  match s.blk? f.ctx f.blk, s.taskOf f.ctx with
  | some b, some t =>
    if s.mayGo f b i t then
      act ((s.modBlk f.ctx f.blk fun b => { b with pinned := true }).squashReaders f.ctx f.blk l 64)
    else .wait
  | _, _ => .wait

/-- R222: a ticket, once its block is oldest and the ring has room. -/
def execQtkt (pr : Pr) (t1 t0 : Target) (s : State) : Res :=
  fireG (.qtkt pr t1 t0) (fun f ops s => match s.ringHdr f (opw ops 0) .write with
    | .wait => .wait
    | .trap s c x => .trap s c x
    | .ok r _ l pte s =>
      if !f.oldest || r.cap ≤ r.occ then .wait
      else s.pinning f (.qtkt pr t1 t0) l fun s =>
        .done (s.writeNow l (leBytes 8 (r.ticket + 1)) pte) (both (BitVec.ofNat 64 r.ticket))) s

/-- R223: leaves the brick at commit; a 32-byte source is checked when QFILL fires. -/
def execQfill (pr : Pr) (s : State) : Res :=
  fireG (.qfill pr) (fun f ops s =>
    match s.taskOf f.ctx, s.ringHdr f (opw ops 0) .write with
    | some t, .ok r _ _ _ s =>
      let go := Fire.done (s.eff f (.qfill (opw ops 0).toNat (opw ops 1) (opw ops 2))) []
      if !r.big then go
      else match s.checkRange t (brickOfCtx f.ctx) (opw ops 2) 32 8 .read with
        | some (c, x) => .trap s c x
        | none => go
    | _, .trap s c x => .trap s c x
    | _, _ => .wait) s

/-- R224: waits for a full head entry, then takes it once its block is oldest. -/
def execQpop (pr : Pr) (t1 t0 : Target) (s : State) : Res :=
  fireG (.qpop pr t1 t0) (fun f ops s => match s.ringHdr f (opw ops 0) .write with
    | .wait => .wait
    | .trap s c x => .trap s c x
    | .ok r w l pte s =>
      match s.ringBitBad w r r.head with
      | some p => .trap s 0x0F (BitVec.ofNat 64 p)
      | none =>
        if !f.oldest || !s.ringFull w r r.head then .wait
        else
          let e := r.entry (opw ops 0).toNat r.head
          let take (x : Word) : Fire := s.pinning f (.qpop pr t1 t0) l fun s =>
            .done ((s.ringMark w r r.head false).writeNow ⟨l.sp, l.a + 8⟩ (leBytes 8 (r.head + 1)) pte)
              [.s x, .s (BitVec.ofNat 64 r.head)]
          match s.ringRead w e 8, s.flatPoison w.q w.b 0 e 8 with
          | some bs, none => take (if r.big then BitVec.ofNat 64 e else leWord bs)
          | some _, some p => if r.big then take (BitVec.ofNat 64 e) else .trap s 0x0F (BitVec.ofNat 64 p)
          | none, _ => .trap s 7 (BitVec.ofNat 64 e)) s

/-- R225: the head entry and 1, or 0 and 0. -/
def execQpeek (pr : Pr) (t1 t0 : Target) (s : State) : Res :=
  fireG (.qpeek pr t1 t0) (fun f ops s => match s.ringHdr f (opw ops 0) .read with
    | .wait => .wait
    | .trap s c x => .trap s c x
    | .ok r w _ _ s =>
      match s.ringBitBad w r r.head with
      | some p => .trap s 0x0F (BitVec.ofNat 64 p)
      | none =>
        if !s.ringFull w r r.head then .done s (both 0)
        else
          let e := r.entry (opw ops 0).toNat r.head
          if r.big then .done s [.s (BitVec.ofNat 64 e), .s 1]
          else match s.ringRead w e 8, s.flatPoison w.q w.b 0 e 8 with
            | some bs, none => .done s [.s (leWord bs), .s 1]
            | some _, some p => .trap s 0x0F (BitVec.ofNat 64 p)
            | none, _ => .trap s 7 (BitVec.ofNat 64 e)) s

/-- R225: ticket − head and head. -/
def execQocc (pr : Pr) (t1 t0 : Target) (s : State) : Res :=
  fireG (.qocc pr t1 t0) (fun f ops s => match s.ringHdr f (opw ops 0) .read with
    | .wait => .wait
    | .trap s c x => .trap s c x
    | .ok r _ _ _ s => .done s [.s (BitVec.ofNat 64 r.occ), .s (BitVec.ofNat 64 r.head)]) s

/-- R221: leaves the brick at commit. -/
def execQinit (pr : Pr) (lg : BitVec 5) (s : State) : Res :=
  fireG (.qinit pr lg) (fun f ops s => match s.taskOf f.ctx with
    | none => .wait
    | some t =>
      let a := opw ops 0
      let x := opw ops 1
      let arr := x &&& ~~~7
      match (s.check t (brickOfCtx f.ctx) a 64 .write).1.recast 0x12 with
      | .bad c y => .trap s c y
      | .ok l _ =>
        if l.sp == .host then .trap s 8 a
        else if wbits x 1 2 != 0 then .trap s 0x12 a
        else match s.checkRange t (brickOfCtx f.ctx) arr (ringArray (2 ^ lg.toNat)) 1 .write with
          | some (c, y) => .trap s c y
          | none => .done (s.eff f (.qinit a.toNat lg.toNat x)) []) s

/-- QINIT_HOME (R221): the header and the full bits in one step. -/
def execQinitHome (id : Nat) (s : State) : Res :=
  match s.homeOps.find? fun h => h.id == id with
  | none => .next s
  | some h =>
    match h.kind with
    | .qinit _ l lg x =>
      if !s.homeQuiet h then .next s
      else
        let pte := s.homePte h
        let s := { s with homeOps := s.homeOps.filter fun y => y.id != id }
        let arr := (x &&& ~~~7).toNat
        let s := s.writeNow l (leBytes 16 0 ++ leBytes 8 arr ++ leBytes 4 (2 ^ lg) ++ leBytes 1 (wbits x 0 1)) pte
        .next ((s.writeFlat h.part h.brick arr (List.replicate (ringArray (2 ^ lg)) 0)).applyDrops h.uid)
    | _ => .next s

/-- QFILL_HOME (R137, R223): the entry, then its full bit; a misused ticket or header is reported and changes nothing. -/
def execQfillHome (id : Nat) (s : State) : Res :=
  match s.homeOps.find? fun h => h.id == id with
  | none => .next s
  | some h =>
    match h.kind with
    | .qfill addr l tk _ data =>
      if !s.homeQuiet h then .next s
      else
        let s := { s with homeOps := s.homeOps.filter fun y => y.id != id }
        let w : Who := ⟨h.part, h.brick, h.uid⟩
        let (bs, s) := s.homeSee h 64
        let r := RingHdr.of bs
        let t := tk.toNat
        let bad := if s.poisoned l 64 && !s.dying (s.homePte h) then some addr else if r.ok then s.ringBitBad w r t else none
        match bad with
        | some p => .next ((s.homeFail h 0x0F p t).applyDrops h.uid)
        | none =>
          if r.ok && r.head ≤ t && t < r.ticket && !s.ringFull w r t then
            let s := s.writeFlat w.q w.b (r.entry addr t) (data.take r.esize)
            .next ((s.ringMark w r t true).applyDrops h.uid)
          else .next ((s.homeFail h 0x12 addr t).applyDrops h.uid)
    | _ => .next s

end Sys2Proof.Machine
end

