-- ==== Sys2Proof/Machine/Sys.lean ====
section
/-!
DEFINITION. The SYS family at firing (08 R175 to R186); what an instruction leaves for its block's commit is noted with
the block.
-/

namespace Sys2Proof.Machine

/-- Registers only a privileged context reads or writes (R177). -/
def ctlPrivileged (r : Nat) : Bool := 0x100 ≤ r

/-- The value a control register reads in the k-th block of a context (R177, R178): TILEROOT as at the block's entry. -/
def State.ctlValue (s : State) (c k r : Nat) : Word :=
  let x := s.ctx c
  let b := brickOfCtx c
  let q := (s.partOfBrick b).getD 0
  let co := s.course (courseOfBrick b)
  match r with
  | 0x000 => BitVec.ofNat 64 (s.cycle b)
  | 0x001 => BitVec.ofNat 64 ((s.taskOf c).map (·.frame) |>.getD 0)
  | 0x002 => BitVec.ofNat 64 (ctxIdOf c)
  | 0x010 => x.poolsplit
  | 0x011 => x.fpmode
  | 0x020 => x.mxstall + BitVec.ofNat 64 (s.stallNow c)
  | 0x021 => x.mxissue
  | 0x022 => BitVec.ofNat 64 ((s.brick b).bucket / 256 + 2 ^ 8 * x.held)
  | 0x024 => x.bankconf
  | 0x025 => x.trimsave
  | 0x100 => x.trapvec
  | 0x101 => x.trapcause
  | 0x102 => x.trapinfo
  | 0x103 => x.savearea
  | 0x110 => BitVec.ofNat 64 q
  | 0x111 => ((s.blk? c k).map (·.tileroot)).getD 0
  | 0x200 => co.vf
  | 0x201 => BitVec.ofNat 64 (co.cur + 2 ^ 4 * co.req + 2 ^ 8 * (if co.status != 0 then co.status else (co.cur != co.target).toNat))
  | 0x202 => zext co.therm
  | 0x203 => co.curlim
  | 0x204 => boolTok co.boost
  | 0x205 => zext co.stall
  | _ => 0

/-- TRAPINFO of PRIVILEGE: the subop, and the register or zero (R187). -/
def privInfo (subop reg : Nat) : Word := BitVec.ofNat 64 (subop + 2 ^ 8 * reg)

/-- Registers whose value at entry needs every older block to have committed (R178). -/
def ctlNeedsOldest (r : Nat) : Bool := ctlWritable r || ctlPrivileged r

/-- CTLRD (R178): a written or privileged register is read once the block is oldest. -/
def execCtlrd (pr : Pr) (reg : BitVec 12) (t1 t0 : Target) (s : State) : Res :=
  fireG (.ctlrd pr reg t1 t0) (fun f _ s =>
    let r := reg.toNat
    if ctlNeedsOldest r && !f.oldest then .wait
    else if ctlPrivileged r && !(s.ctx f.ctx).priv then .trap s 0x0C (privInfo 0x00 r)
    else .done s (both (s.ctlValue f.ctx f.blk r))) s

/-- A control write noted for commit (R179). -/
def fireCtl (i : Instr) (op : Nat) (reg : BitVec 12) (s : State) : Res :=
  fireG i (fun f ops s =>
    let r := reg.toNat
    if ctlPrivileged r && !f.oldest then .wait
    else if ctlPrivileged r && !(s.ctx f.ctx).priv then .trap s 0x0C (privInfo op r)
    else .done (s.eff f (.ctl op r (opw ops 0))) []) s

def execCtlwr (pr : Pr) (reg : BitVec 12) (s : State) : Res := fireCtl (.ctlwr pr reg) 1 reg s
def execCtlset (pr : Pr) (reg : BitVec 12) (s : State) : Res := fireCtl (.ctlset pr reg) 2 reg s
def execCtlclr (pr : Pr) (reg : BitVec 12) (s : State) : Res := fireCtl (.ctlclr pr reg) 3 reg s

/-- Fire a privileged instruction: it waits until its block is oldest, and raises PRIVILEGE in a user context (R150). -/
def firePriv (i : Instr) (subop : Nat) (act : Focus → List Tok → State → Fire) (s : State) : Res :=
  fireG i (fun f ops s =>
    if !f.oldest then .wait
    else if !(s.ctx f.ctx).priv then .trap s 0x0C (privInfo subop 0)
    else act f ops s) s

/-- R176: noted for commit. -/
def execEret (pr : Pr) (s : State) : Res := firePriv (.eret pr) 0x04 (fun f _ s => .done (s.eff f .eret) []) s

/-- R180: the record of the context at entry to the block, held for commit; it waits for the context's tl7 instructions (R258).
A poisoned accumulator raises UNCORRECTABLE_MEMORY, with TRAPINFO 0: it has no address (log entry 47). -/
def execCtxsv (pr : Pr) (t1 t0 : Target) (s : State) : Res :=
  firePriv (.ctxsv pr t1 t0) 0x05 (fun f ops s =>
    let x := s.ctx f.ctx
    let a := opw ops 0
    match s.taskOf f.ctx, s.blk? f.ctx f.blk with
    | some t, some b =>
      let k := fullMasks (naccOf x.poolsplit)
      if a.toNat % 64 != 0 then .trap s 5 a
      else match s.checkRange t (brickOfCtx f.ctx) a k.size 1 .write with
        | some (c, w) => .trap s c w
        | none =>
          if s.pmaBusy (brickOfCtx f.ctx) t.uid then .wait
          else if s.accBad t.uid k then .trap s 0x0F 0
          else
            let mine := (x.blks.map fun b => (b.members.filter fun m => takesFence m.2).length).sum
            let y := x.atEntry
            let bs := s.saveRecord { t.atEntry x.entry with fenceNewest := t.fenceNewest - mine } y y.regs y.fpmode k true b.addr
            .done (s.eff f (.ctxsv a.toNat bs)) (both (BitVec.ofNat 64 bs.length))
    | _, _ => .wait) s

/-- R180: the record is read when CTXLD fires and replaces the registers at commit. -/
def execCtxld (pr : Pr) (s : State) : Res :=
  firePriv (.ctxld pr) 0x06 (fun f ops s =>
    let x := s.ctx f.ctx
    let a := opw ops 0
    let br := brickOfCtx f.ctx
    match s.taskOf f.ctx with
    | none => .wait
    | some t =>
      if a.toNat % 64 != 0 then .trap s 5 a
      else match s.checkRange t br a 512 1 .read with
        | some (c, w) => .trap s c w
        | none =>
          match s.readFlat t.part br t.uid a.toNat 512 with
          | none => .trap s 7 a
          | some fixed =>
            let n := (masksOf fixed).size
            if naccOf x.poolsplit < recordNa fixed then .trap s 0x10 0xF
            else match s.checkRange t br a n 1 .read with
              | some (c, w) => .trap s c w
              | none =>
                match s.flatPoison t.part br t.uid a.toNat n, s.readFlat t.part br t.uid a.toNat n with
                | some p, _ => .trap s 0x0F (BitVec.ofNat 64 p)
                | none, some bs => .done (s.eff f (.ctxld bs)) []
                | none, none => .trap s 7 a) s

/-- R181: leaves the brick at commit. -/
def execTtinv (pr : Pr) (k : InvKind) (s : State) : Res :=
  firePriv (.ttinv pr k) 0x07 (fun f ops s => .done (s.eff f (.ttinv k (opw ops 0))) []) s

/-- A LEASE length (R182). -/
def leaseLenOk (n : Word) : Bool := n != 0 && n.toNat ≤ 2 ^ 40

/-- R182: added at commit; a length of 0 or above 2^40 raises TRANSLATION. -/
def execLeaseAdd (pr : Pr) (s : State) : Res :=
  firePriv (.leaseAdd pr) 0x08 (fun f ops s =>
    if leaseLenOk (opw ops 1) then .done (s.eff f (.leaseAdd (opw ops 0).toNat (opw ops 1).toNat)) []
    else .trap s 7 (opw ops 0)) s
/-- R182: dropped at commit. -/
def execLeaseDrop (pr : Pr) (s : State) : Res :=
  firePriv (.leaseDrop pr) 0x08 (fun f ops s =>
    if leaseLenOk (opw ops 1) then .done (s.eff f (.leaseDrop (opw ops 0).toNat (opw ops 1).toNat)) []
    else .trap s 7 (opw ops 0)) s

/-- R183: n tokens move at once from the bucket to the context, or none do. -/
def execPtok (pr : Pr) (t1 t0 : Target) (s : State) : Res :=
  fireG (.ptok pr t1 t0) (fun f ops s =>
    let n := (opw ops 0).toNat
    let b := brickOfCtx f.ctx
    if 1 ≤ n && n ≤ 64 && 256 * n ≤ (s.brick b).bucket && (s.ctx f.ctx).held + n ≤ 64 then
      let s := s.modBrick b fun x => { x with bucket := x.bucket - 256 * n }
      let s := s.modCtx f.ctx fun x => { x with held := x.held + n }
      .done (s.modBlk f.ctx f.blk fun k => { k with grants := kset f.slot n k.grants }) (both 1)
    else .done s (both 0)) s

/-- R184: no architectural effect. -/
def execHint (pr : Pr) (k : HintKind) (s : State) : Res := fireG (.hint pr k) (fun _ _ s => .done s []) s

/-- R150, R433, R434: needs the partition's debug policy; the halt follows the block's commit. -/
def execHaltd (pr : Pr) (code : BitVec 8) (s : State) : Res :=
  fireG (.haltd pr code) (fun f _ s =>
    if (s.part ((s.partOfBrick (brickOfCtx f.ctx)).getD 0)).debugOn then .done (s.eff f (.haltd code.toNat)) []
    else .trap s 0x0C (privInfo 0x0B 0)) s

/-- R185: CYCLE to T0, device time to T1. -/
def execCycrd (pr : Pr) (t1 t0 : Target) (s : State) : Res :=
  fireG (.cycrd pr t1 t0) (fun f _ s =>
    .done s [.s (BitVec.ofNat 64 (s.cycle (brickOfCtx f.ctx))), .s (BitVec.ofNat 64 s.now)]) s

/-- R186: takes effect at commit. -/
def execIdle (pr : Pr) (s : State) : Res :=
  firePriv (.idle pr) 0x0D (fun f ops s => .done (s.eff f (.idle (wbits (opw ops 0) 0 32))) []) s

end Sys2Proof.Machine
end

