-- ==== Sys2Proof/Machine/Frames.lean ====
section
/-!
DEFINITION. Task classes and frames (02 R15 to R20; 17 R351 to R355): reading a class, reserving, allocating and freeing
a frame, applying a token, and the firing of a complete frame.
-/

namespace Sys2Proof.Machine

/-! Classes (R15, R16). -/

/-- What reading a class descriptor gives. -/
inductive ClassRes
  | ok (c : ClassDesc)
  | rejected
  | unread (cause : Nat)
  deriving DecidableEq, Repr

/-- Whether a continuation word obeys R37. -/
def contOk (w : Word) : Bool := wbits w 25 39 == 0 && wbits w 23 2 != 3

/-- Parse a descriptor's 64 bytes (R15); none where R16 rejects it, with the largest accumulator allocation given. An address
that is not 64-byte aligned, which R16 does not list, is rejected like the listed cases (log entry 31). -/
def parseClass (addr maxAcc : Nat) (bs : List Byte) : Option ClassDesc :=
  let n := field bs 20 1
  let kw := field bs 22 2
  let kinds := (List.range (min n 8)).map fun i => nbits kw (2 * i) 2
  let counts := [field bs 28 2, field bs 30 2]
  let nc := (kinds.filter (· == 2)).length
  let flags := field bs 27 1
  let cont := BitVec.ofNat 64 (field bs 48 8)
  if n = 0 || 8 < n || kinds.contains 3 || kw / 2 ^ (2 * n) != 0 || 2 < nc || (counts.take nc).contains 0
      || 3 < field bs 24 1 || 3 < field bs 25 1 || !contOk cont || maxAcc < field bs 26 1 || field bs 0 8 % 16 != 0
      || field bs 40 8 % 8 != 0 || field bs 21 1 != 0 || nbits flags 2 6 != 0 || field bs 56 8 != 0 || addr % 64 != 0 then
    none
  else
    some { addr := addr, entry := field bs 0 8, spill := field bs 8 8, spillSize := field bs 16 4, kinds := kinds,
           prio := field bs 24 1, placement := field bs 25 1, accUnits := field bs 26 1, noSteal := flags.testBit 0,
           longWait := flags.testBit 1, counts := counts, lease := field bs 32 8, stamp := field bs 40 8, cont := cont }

/-- The largest accumulator allocation of the bricks of a die (R16). -/
def State.maxAcc (s : State) (die : Nat) : Nat :=
  ((List.range 80).map fun i => (s.brick (80 * die + i)).accu).foldl max 0

/-- The distributor of a die reads a class (R16). One on a page that is mapped and not resident counts as one that cannot be
read for want of a translation (log entry 51). -/
def State.readClass (s : State) (q die addr : Nat) : ClassRes :=
  if 2 ^ 57 ≤ addr then .unread 7
  else match s.flatPoison q (dieAgent die) 0 addr 64, s.readFlat q (dieAgent die) 0 addr 64 with
  | none, some bs => match parseClass addr (s.maxAcc die) bs with
    | some c => .ok c
    | none => .rejected
  | some _, some _ => .unread 0x0F
  | _, none => .unread 7

/-! Slots (R15, R17). -/

/-- Initial slots of a class (R15, R17). -/
def initSlots : List Nat → List Nat → List FSlot
  | [], _ => []
  | 0 :: ks, cs => .scalar none :: initSlots ks cs
  | 1 :: ks, cs => .handle none :: initSlots ks cs
  | _ :: ks, cs => .counter (cs.headD 0) :: initSlots ks cs.tail

/-! Reservation (R353, R354). -/

/-- The reservations of the uncommitted blocks of a die. -/
def State.resvOf (s : State) (die : Nat) : List Resv :=
  (s.ctxs.flatMap fun c => c.2.blks.flatMap fun b => b.resv).filter fun r => r.die == die

/-- A free index of a die, from a start that no rule fixes (R352; log entry 7). -/
def freeIndex (taken : Nat → Bool) (start : Nat) : Nat → Option Nat
  | 0 => none
  | n + 1 => if taken (start % 65536) then freeIndex taken (start + 1) n else some (start % 65536)

/-- Take an index of a die (R352). -/
def State.takeIndex (s : State) (die : Nat) : Option Nat × State :=
  let (start, s) := s.drawNat
  let rs := s.resvOf die
  (freeIndex (fun i => (kget? i (s.die die).frames).isSome || rs.any fun r => r.idx == i) start 65536, s)

/-- The pool records in use on a die, those the tag store caches among them. -/
def State.poolUsed (s : State) (die : Nat) : List Nat :=
  ((s.die die).frames.filterMap fun f => f.2.place.poolRec) ++ (s.resvOf die).filterMap fun r => r.place.poolRec

/-- The lowest number below n outside a list. -/
def lowestFree (used : List Nat) (from_ : Nat) : Nat → Option Nat
  | 0 => none
  | n + 1 => if used.contains from_ then lowestFree used (from_ + 1) n else some from_

/-- A free pool record of a die. -/
def State.freePool (s : State) (die : Nat) : Option Nat := lowestFree (s.poolUsed die) 0 (s.die die).poolSize

/-- The lowest spill record of an area whose VALID bit is 0 (R353). -/
def State.freeSpill (s : State) (q b area : Nat) (r : Nat) : Nat → Option Nat
  | 0 => none
  | n + 1 =>
    match s.readFlat q b 0 (area + 576 * r + 24) 4 with
    | some bs => if (leNat bs).testBit 31 then s.freeSpill q b area (r + 1) n else some r
    | none => none

/-- Reserve an index and a record for a spawn of a task (R353): none where R354 makes it fail. -/
def State.reserve (s : State) (die slot : Nat) (t : Task) : Option Resv × State :=
  match s.takeIndex die with
  | (none, s) => (none, s)
  | (some idx, s) =>
    match s.freePool die with
    | some r => (some ⟨slot, die, idx, .tag r⟩, s)
    | none =>
      if t.cls.spill = 0 then (none, s)
      else match s.freeSpill t.part (dieAgent die) t.cls.spill 0 t.cls.spillSize with
      | some r =>
        let w := leBytes 4 (2 ^ 31 + die * 2 ^ 16 + idx)
        (some ⟨slot, die, idx, .spill t.cls.spill r⟩, s.writeFlat t.part (dieAgent die) (t.cls.spill + 576 * r + 24) w)
      | none => (none, s)

/-! Frames (R17 to R20). -/

/-- A new frame of a class. -/
def newFrame (cls : ClassDesc) (graph cont : Word) (place : FramePlace) (seq part origin : Nat) : Frame :=
  { cls := cls, graph := graph, cont := cont, slots := initSlots cls.kinds cls.counts, override := none, place := place,
    seq := seq, launch := none, origin := origin, part := part, deps := [] }

/-- A task's record when its frame fires (R20). -/
def taskOfFrame (uid die idx : Nat) (f : Frame) (near : Option Nat) (now : Nat) : Task :=
  { uid := uid, part := f.part, die := die, cls := f.cls, graph := f.graph, cont := f.cont, frame := die * 2 ^ 16 + idx,
    slots := f.slots, launch := f.launch, origin := f.origin, near := near, prio := f.override.getD f.cls.prio,
    phase := .firing none, readyAt := now, passed := 0, brick := f.origin, lease := [], pins := [], tensors := [],
    added := [], addPins := [], drops := [], tls := List.replicate 8 Timeline.zero, fenceNewest := 0, fences := [], seen := [], trackers := [],
    ords := 0, save := none, saved := false, wake := .now, wokeAt := now, accUnits := 0, accMode := [], accOvf := [],
    mstat := (0, 0, 0), copies := [], mute := false, torn := false, deps := [] }

/-- A frame that is complete fires (R20): its slots go to a task and its index is freed. The task waits for the writes
that a release of its own covers. -/
def State.fireIfFull (s : State) (die idx : Nat) (near : Option Nat) (deps : List Nat) : State :=
  match kget? idx (s.die die).frames with
  | none => s
  | some f =>
    if !f.slots.all FSlot.full then s
    else
      let (uid, s) := s.newUid
      (s.freeFrame die idx).setTask uid { taskOfFrame uid die idx f near s.now with deps := deps }

/-! Tokens (R18, R19). -/

/-- A slot after a token, none where R18 rejects it. -/
def FSlot.apply (x : FSlot) (k : MsgKind) : Option FSlot :=
  match x, k with
  | .scalar none, .fill _ v => some (.scalar (some v))
  | .handle none, .fillh _ v => some (.handle (some v))
  | .counter (c + 1), .dec _ => some (.counter c)
  | _, _ => none

/-- The slot a message names, its mode code and its value's low 64 bits (R19, R37). -/
def MsgKind.slot : MsgKind → Nat
  | .fill n _ | .fillh n _ | .dec n => n
  | .kill => 0
def MsgKind.mode : MsgKind → Nat
  | .dec _ => 2
  | .kill => 0
  | _ => 1
def MsgKind.low : MsgKind → Nat
  | .fill _ v => v.toNat
  | .fillh _ v => v.toNat % 2 ^ 64
  | _ => 0

/-- Report a rejected token (R19). -/
def State.rejectToken (s : State) (q : Nat) (m : Msg) : State :=
  let s := s.graphError q m.graph
  (s.report q { cause := 3, source := 2, graph := m.graph, addr := m.kind.low, task := m.taskId, ctxId := m.ctxId,
                cmd := m.kind.mode * 2 ^ 23 + m.kind.slot * 2 ^ 20 + m.frame }).1

/-- Apply a token to its frame (R18): the frame may fire. -/
def State.applyToken (s : State) (q die : Nat) (m : Msg) : State :=
  if s.tearing die m.graph then s
  else
    let idx := m.frame % 2 ^ 16
    let here := m.frame / 2 ^ 16 == die
    match if here then kget? idx (s.die die).frames else none with
    | none => s.rejectToken q m
    | some f =>
      if s.recordBad die f then (s.frameFail die idx f).rejectToken q m
      else if f.graph != m.graph then s.rejectToken q m
      else match (f.slots[m.kind.slot]?).bind fun x => x.apply m.kind with
        | none => s.rejectToken q m
        | some x =>
          let s := s.putFrame die idx { f with slots := f.slots.set m.kind.slot x }
          s.fireIfFull die idx (some m.brick) []

/-- Apply a kill (R216): the frame is freed, or nothing changes. -/
def State.applyKill (s : State) (die : Nat) (m : Msg) : State :=
  let idx := m.frame % 2 ^ 16
  match if m.frame / 2 ^ 16 == die then kget? idx (s.die die).frames else none with
  | some f => if f.graph == m.graph then (s.freeFrame die idx).sweepGraphs f.part else s
  | none => s

/-- The die a message goes to: its frame's die, or the sender's where that is outside the partition (R18, R216). -/
def State.msgDie (s : State) (q frame sender : Nat) : Nat :=
  let d := frame / 2 ^ 16
  if d < 16 && (s.pier (pierOfDie d)).owner == some q then d else sender

/-- Send a message to a distributor. -/
def State.sendMsg (s : State) (q : Nat) (m : Msg) : State :=
  s.modDie (s.msgDie q m.frame (dieOfBrick m.brick)) fun d => { d with inbox := d.inbox ++ [m] }

end Sys2Proof.Machine
end

