-- ==== Sys2Proof/Machine/Tasks.lean ====
section
/-!
DEFINITION. Spawning and tokens (09 R210 to R216), and the retry of a failed reservation.
-/

namespace Sys2Proof.Machine

/-- Whether a class descriptor can be read as the spawner's older blocks left it: their stores are known, and those that
reach the descriptor have performed (R210). -/
def State.classSettled (s : State) (f : Focus) (t : Task) (a : Nat) : Bool :=
  let x := s.ctx f.ctx
  let l := s.flatLoc t.part (brickOfCtx f.ctx) a .read
  x.storesKnown f.blk && match l with
    | none => true
    | some l =>
      (x.olderBlks f.blk).all (fun b => b.stores.all fun w =>
          w.performed.isSome || w.loc.sp != l.sp || !overlaps w.loc.a w.bytes.length l.a 64)
        && (s.pendingAt (dieOfCtx f.ctx) t.uid l 64).isEmpty

/-- ILLEGAL_INSTR for a class (R16, R212): a code and the descriptor address shifted right by 6. -/
def classInfo (code : Nat) (a : Word) : Word := BitVec.ofNat 64 (code + a.toNat / 64 * 2 ^ 8)

/-- The number of scalar slots of a class. -/
def ClassDesc.scalars (c : ClassDesc) : Nat := (c.kinds.filter (· == 0)).length

/-- What a spawn of a class with given fills comes to once its class is read (R211, R212). -/
inductive Spawn
  | bad (cause : Nat) (info : Word)
  | full (s : State)
  | ok (s : State) (id : Nat)

/-- Check a class and reserve a frame of it (R211, R212). -/
def State.spawn (s : State) (f : Focus) (t : Task) (a : Word) (cont : Option Word) (fills : List Word) (fork : Bool) :
    Spawn :=
  let die := dieOfCtx f.ctx
  match s.readClass t.part die a.toNat with
  | .unread c => .bad c a
  | .rejected => .bad 2 (classInfo 1 a)
  | .ok cls =>
    if !contOk (cont.getD 0) then .bad 2 2
    else if cls.scalars < fills.length then .bad 2 (classInfo 3 a)
    else match s.reserve die f.slot t with
    | (none, s) => .full s
    | (some r, s) =>
      let s := s.modBlk f.ctx f.blk fun b => { b with resv := b.resv ++ [r] }
      .ok (s.eff f (.spawn r cls (cont.getD cls.cont) fills fork)) (die * 2 ^ 16 + r.idx)

/-- Fire a spawn: a reservation that fails is tried again once the block is oldest (R211); a graph under teardown reserves
nothing and sends null (R372). -/
def fireSpawn (i : Instr) (cont : List Tok → Option Word) (fills : List Tok → List Word) (fork : Bool) (s : State) : Res :=
  fireG i (fun f ops s => match s.taskOf f.ctx with
    | none => .wait
    | some t =>
      if s.tearing (dieOfCtx f.ctx) t.graph then .done s [.null, .null]
      else if !(s.die (dieOfCtx f.ctx)).ctrl.getLsbD 0 || !s.classSettled f t (opw ops 0).toNat then .wait
      else match s.spawn f t (opw ops 0) (cont ops) (fills ops) fork with
      | .bad c x => .trap s c x
      | .full s => .busy s
      | .ok s id => .done s (both (BitVec.ofNat 64 id))) s

/-- The continuation word TSPAWN supplies, and TFORK's fills. -/
def spawnCont (c : Bool) (ops : List Tok) : Option Word := if c then some (opw ops 1) else none
def forkFills (n : Nat) (ops : List Tok) : List Word := (List.range n).map fun i => opw ops (i + 1)

/-- R211. -/
def execTspawn (pr : Pr) (cont : Bool) (t1 t0 : Target) (s : State) : Res :=
  fireSpawn (.tspawn pr cont t1 t0) (spawnCont cont) (fun _ => []) false s
/-- R212. -/
def execTfork (pr : Pr) (n : BitVec 2) (t1 t0 : Target) (s : State) : Res :=
  fireSpawn (.tfork pr n t1 t0) (fun _ => none) (forkFills n.toNat) true s

/-- The continuation, the fills and the kind of a spawn from its instruction. -/
def spawnShape (i : Instr) (ops : List Tok) : Option (Option Word × List Word × Bool) :=
  match i with
  | .tspawn _ c _ _ => some (spawnCont c ops, [], false)
  | .tfork _ n _ _ => some (none, forkFills n.toNat ops, true)
  | _ => none

/-- SPAWN_RETRY (R211, R354): the first spawn of the oldest block that waits for a frame tries again; it raises SPAWN_FULL
where that fails too. -/
def execSpawnRetry (ctx : Nat) (s : State) : Res :=
  match s.blk? ctx 0, s.taskOf ctx with
  | some b, some t =>
    match b.members.find? fun m => (b.slot m.1).st == .busy && (spawnShape m.2 []).isSome with
    | none => .next s
    | some (n, i) =>
      let f : Focus := ⟨ctx, 0, n, false⟩
      let ops := (b.slot n).ops i
      match b.firm, spawnShape i ops with
      | none, some (cont, fills, fork) =>
        if s.tearing (dieOfCtx ctx) t.graph then .next (s.finish f i [.null, .null])
        else if !(s.die (dieOfCtx ctx)).ctrl.getLsbD 0 then .next s
        else match s.spawn f t (opw ops 0) cont fills fork with
        | .bad c x => .next (s.busyTrap f c x)
        | .full s => .next (s.busyTrap f 0x0A (opw ops 0))
        | .ok s id => .next (s.finish f i (both (BitVec.ofNat 64 id)))
      | _, _ => .next s
  | _, _ => .next s

/-- R213: the token leaves at commit. -/
def execTsend (pr : Pr) (slot : BitVec 3) (dec : Bool) (s : State) : Res :=
  fireG (.tsend pr slot dec) (fun f ops s =>
    .done (s.eff f (.send (wbits (opw ops 0) 0 20) slot.toNat dec (if dec then 0 else opw ops 1))) []) s

/-- R214: the handle as it stands in stream order; it leaves at commit. -/
def execTsendh (pr : Pr) (h : BitVec 4) (slot : BitVec 3) (s : State) : Res :=
  fireG (.tsendh pr h slot) (fun f ops s => match (s.ctx f.ctx).streamH f.blk h.toNat with
    | none => .wait
    | some x => .done (s.eff f (.sendh (wbits (opw ops 0) 0 20) slot.toNat x)) []) s

/-- R215. -/
def execTself (pr : Pr) (k : SelfSel) (t1 t0 : Target) (s : State) : Res :=
  fireG (.tself pr k t1 t0) (fun f _ s => match s.taskOf f.ctx with
    | none => .wait
    | some t => .done s (both (match k with
      | .frame => BitVec.ofNat 64 t.frame
      | .cls => BitVec.ofNat 64 t.cls.addr
      | .graph => t.graph))) s

/-- R216: the kill leaves at commit. -/
def execTkill (pr : Pr) (s : State) : Res :=
  fireG (.tkill pr) (fun f ops s => .done (s.eff f (.kill (wbits (opw ops 0) 0 20))) []) s

/-- The n-th message on its way to a die's distributor, and the inbox without it. -/
def State.message (s : State) (die n : Nat) : Option Msg := (s.die die).inbox[n]?
def State.dropMessage (s : State) (die n : Nat) : State :=
  s.modDie die fun d => { d with inbox := d.inbox.eraseIdx n }

/-- A token arrives for a frame of a graph on a die: the graph's contexts there end their IDLE (R186). -/
def State.wakeIdle (s : State) (die : Nat) (g : Word) : State :=
  { s with ctxs := s.ctxs.map fun (c, x) =>
      (c, if x.idle.isSome && dieOfCtx c == die && (s.task? x.uid).any (fun t => t.graph == g) then { x with idle := none }
          else x) }

/-- The writes that must have performed before a message takes effect: those its own release covers, and those of the
allocation of the frame it names (R210). -/
def State.msgDeps (s : State) (die : Nat) (m : Msg) : List Nat :=
  m.deps ++ (match kget? (m.frame % 2 ^ 16) (s.die die).frames with
    | some f => if m.frame / 2 ^ 16 = die then f.deps else []
    | none => [])

/-- The frame a message names and its pool record, where the tag store does not hold it (R352). -/
def State.untagged (s : State) (die : Nat) (m : Msg) : Option (Nat × Nat × Frame) :=
  if m.frame / 2 ^ 16 = die then
    (kget? (m.frame % 2 ^ 16) (s.die die).frames).bind fun f => match f.place with
      | .pool r => some (m.frame % 2 ^ 16, r, f)
      | .tag _ | .spill .. => none
  else none

/-- TOKEN_APPLY (R18 to R20): a token whose release has performed arrives and is applied or rejected. One for a record that
is not in the tag store waits while the record is fetched (R352). -/
def execTokenApply (die n : Nat) (s : State) : Res :=
  match s.message die n, (s.pier (pierOfDie die)).owner with
  | some m, some q =>
    if m.kind = .kill || !s.depsDone (s.msgDeps die m) .dev then .next s
    else
      match s.untagged die m with
      | some (idx, r, f) => .next (s.fetchTag die idx r f)
      | none =>
      .next (((s.dropMessage die n).applyToken q die m).wakeIdle die m.graph)
  | _, _ => .next s

/-- TKILL_APPLY (R216): a kill arrives and is applied. -/
def execTkillApply (die n : Nat) (s : State) : Res :=
  match s.message die n with
  | some m => if m.kind = .kill then .next ((s.dropMessage die n).applyKill die m) else .next s
  | none => .next s

end Sys2Proof.Machine
end

