-- ==== Sys2Proof/Machine/Approx.lean ====
section
/-!
DEFINITION. The approximate functions of 05 R103: exact cases, and within the function's bound a value that no rule fixes
(Config.approxPick, log entry 8), one per operand.
-/

namespace Sys2Proof.Machine

/-- The functions of R103. -/
inductive Fn | rcp | rsq | exp2 | log2
  deriving DecidableEq, Repr

/-- Their bounds in ulps (R103). -/
def Fn.bound : Fn → Nat
  | .rcp | .rsq => 1
  | .exp2 | .log2 => 2

/-- Their numbers for the free choice. -/
def Fn.code : Fn → Nat
  | .rcp => 0 | .rsq => 1 | .exp2 => 2 | .log2 => 3

/-- A number known to lie from lo × 2^e to hi × 2^e, with its sign. -/
structure Encl where
  neg : Bool
  lo : Nat
  hi : Nat
  e : Int
  deriving DecidableEq, Repr

/-- m × 2^e in units of 2^q, q at or below e. -/
def scaled (m : Nat) (e q : Int) : Int := (m * 2 ^ (e - q).toNat : Nat)

/-- Whether a finite value of a format lies within k ulps of every number of an enclosure. -/
def Encl.near (y : Encl) (f : FFmt) (k : Nat) (p : FV) : Bool :=
  match p with
  | .nan _ | .inf _ => false
  | p =>
    let u : Int := if y.lo = 0 then f.qmin else max ((Nat.log2 y.lo : Int) + y.e - f.fw) f.qmin
    let (m, ep) := p.mag
    let q := min (min y.e u) (if m = 0 then u else ep)
    let v := scaled m (if m = 0 then q else ep) q
    let v := if p.neg != y.neg then -v else v
    let w := (k : Int) * scaled 1 u q
    scaled y.hi y.e q - w ≤ v && v ≤ scaled y.lo y.e q + w

/-- The value of an enclosure rounded to nearest. -/
def Encl.nearest (y : Encl) (f : FFmt) : Nat :=
  if y.lo = 0 then f.zeroS y.neg else (f.round .rne y.neg y.lo y.e (y.hi != y.lo)).1

/-- Fixed-point precision of the enclosures. -/
def fixBits : Nat := 320

/-- 2^(2^-k) for k = 1, 2, …, times the bits of a fraction below 1 given from the top: a lower bound in fixed point. -/
def expBits (acc root : Nat) : List Bool → Nat
  | [] => acc
  | b :: bs => expBits (if b then acc * root / 2 ^ fixBits else acc) (isqrt (root * 2 ^ fixBits)) bs

/-- An enclosure of 2^x for a finite x = (-1)^neg × m × 2^e, clamped far below the least quantum. -/
def exp2Encl (f : FFmt) (neg : Bool) (m : Nat) (e : Int) : Encl :=
  -- x as a fixed-point number with 128 fraction bits, rounded down
  let x : Int := if 0 ≤ e + 128 then (m * 2 ^ (e + 128).toNat : Nat) else (m / 2 ^ (-(e + 128)).toNat : Nat)
  let x : Int := if neg then -x - (if 0 ≤ e + 128 || m % 2 ^ (-(e + 128)).toNat = 0 then 0 else 1) else x
  let n := x / 2 ^ 128
  let fr := (x % 2 ^ 128).toNat
  if n < f.qmin - 4 then ⟨false, 0, 1, f.qmin - 2⟩
  else
    let bits := (List.range 128).map fun i => fr.testBit (127 - i)
    let y := expBits (2 ^ fixBits) (isqrt (2 * 2 ^ (2 * fixBits))) bits
    ⟨false, y, y + 2 ^ (fixBits - 120), n - fixBits⟩

/-- The fraction bits of log2 of a fixed-point number from 1 to 2, by squaring; n bits from the top. -/
def logBits (y : Nat) : Nat → Nat → Nat
  | 0, acc => acc
  | n + 1, acc =>
    let sq := y * y / 2 ^ fixBits
    if 2 ^ (fixBits + 1) ≤ sq then logBits (sq / 2) n (2 * acc + 1) else logBits sq n (2 * acc)

/-- An enclosure of log2 of m × 2^e. -/
def log2Encl (m : Nat) (e : Int) : Encl :=
  let k := Nat.log2 m
  let fr := logBits (m * 2 ^ fixBits / 2 ^ k) 140 0
  let lo : Int := ((k : Int) + e) * 2 ^ 140 + fr
  if 0 ≤ lo then ⟨false, lo.toNat, lo.toNat + 2, -140⟩ else ⟨true, (-(lo + 2)).toNat, (-lo).toNat, -140⟩

/-- An enclosure of 1 ÷ (m × 2^e). -/
def rcpEncl (neg : Bool) (m : Nat) (e : Int) : Encl :=
  let n := fixBits + bitlen m
  let q := 2 ^ n / m
  ⟨neg, q, if 2 ^ n % m = 0 then q else q + 1, -e - n⟩

/-- An enclosure of 1 ÷ √(m × 2^e). -/
def rsqEncl (m : Nat) (e : Int) : Encl :=
  let (m, e) := if e % 2 = 0 then (m, e) else (2 * m, e - 1)
  let n := fixBits + bitlen m
  let q := isqrt (2 ^ (2 * n) / m)
  ⟨false, q, if q * q * m = 2 ^ (2 * n) then q else q + 1, -(e / 2) - n⟩

/-- A value inside a function's bound: the free choice where it lies inside, else the nearest. -/
def Fn.pick (fn : Fn) (f : FFmt) (x : Nat) (y : Encl) : Nat :=
  let p := (Config.approxPick (fn.code + 4 * f.fw) (BitVec.ofNat 64 x)).toNat % 2 ^ f.width
  if y.near f fn.bound (f.val p) then p else y.nearest f

/-- Whether a positive number m × 2^e is a power of two, and of which exponent. -/
def pow2Of (m : Nat) (e : Int) : Option Int := if 2 ^ Nat.log2 m = m then some ((Nat.log2 m : Int) + e) else none

/-- An approximate function in FP32 or FP64 (R103): the pattern and the flags. -/
def Fn.eval (fn : Fn) (f : FFmt) (x : Nat) : Nat × FFlags :=
  match f.val x with
  | .nan s => f.nanRes s
  | .zero n =>
    match fn with
    | .rcp | .rsq => (f.infS n, flagDZ)
    | .exp2 => ((f.ofInt .rne 1).1, 0)
    | .log2 => (f.infS true, flagDZ)
  | .inf n =>
    match fn with
    | .rcp => (f.zeroS n, 0)
    | .rsq | .log2 => if n then f.nanRes true else (if fn = .rsq then f.zeroS false else f.infS false, 0)
    | .exp2 => (if n then f.zeroS false else f.infS false, 0)
  | .fin n m e =>
    match fn with
    | .rcp => (if !n && pow2Of m e = some 0 then (f.ofInt .rne 1).1 else fn.pick f x (rcpEncl n m e), 0)
    | .rsq =>
      if n then f.nanRes true
      else if pow2Of m e = some 0 then ((f.ofInt .rne 1).1, 0)
      else (fn.pick f x (rsqEncl m e), 0)
    | .exp2 =>
      let k := (FV.fin n m e).toIntRm .rtz
      if !k.2 then
        -- an integer exponent
        if k.1 ≥ f.bias + 1 then (f.infS false, flagOF)
        else if k.1 < f.qmin - 4 then (fn.pick f x ⟨false, 0, 1, f.qmin - 2⟩, 0)
        else if k.1 < f.qmin then (fn.pick f x ⟨false, 1, 1, k.1⟩, 0)
        else ((f.round .rne false 1 k.1 false).1, 0)
      else if k.1 ≥ f.bias + 1 then (f.infS false, flagOF)
      else
        let r := fn.pick f x (exp2Encl f n m e)
        (r, flagIf flagOF (r == f.inf))
    | .log2 =>
      if n then f.nanRes true
      else match pow2Of m e with
      | some k => ((f.ofInt .rne k).1, 0)
      | none => (fn.pick f x (log2Encl m e), 0)

/-- A BF16 lane: evaluated as FP32, then rounded to BF16 (R103). -/
def Fn.evalBf (fn : Fn) (x : Nat) : Nat × FFlags :=
  let (r, fl) := fn.eval fp32 (x % 2 ^ 16 * 2 ^ 16)
  let (b, _) := bf16.ofFV .rne (fp32.val r)
  (b, fl ||| flagIf flagOF (fn == .exp2 && b == bf16.inf && r != fp32.inf))

end Sys2Proof.Machine
end

