-- ==== Sys2Proof/Machine/Vector.lean ====
section
/-!
DEFINITION. Vector instructions (10 R226 to R249): lanes, masks and flags once, then one meaning per instruction.
-/

namespace Sys2Proof

/-! Element types (R70, R229). -/

/-- Element width in bits. -/
def ElemTy.bits (ty : ElemTy) : Nat := 8 * ty.bytes
/-- The format of a floating-point type. -/
def ElemTy.fmt : ElemTy → Option Machine.FFmt
  | .f32 => some Machine.fp32 | .f64 => some Machine.fp64 | .bf16 => some Machine.bf16 | _ => none
/-- Whether integer lanes compare unsigned (R236). -/
def ElemTy.isN (ty : ElemTy) : Bool := ty == .n32
/-- The value of an integer lane. -/
def ElemTy.int (ty : ElemTy) (x : Nat) : Int := if ty.isN then (x % 2 ^ ty.bits : Nat) else Machine.asInt ty.bits x

/-- A lane as a token: s types sign-extended, the others with zeros above (R247). -/
def ElemTy.token (ty : ElemTy) (x : Nat) : Word :=
  match ty.fmt with
  | some _ => BitVec.ofNat 64 (x % 2 ^ ty.bits)
  | none => BitVec.ofInt 64 (ty.int x)

end Sys2Proof

namespace Sys2Proof.Machine

/-- The lanes of a register value. -/
def lanesOf (ty : ElemTy) (v : VecVal) : List Nat := (List.range ty.lanes).map fun i => laneOf v ty.bytes i

/-! Stream registers. -/

/-- Write a v or m register in stream order (R57); m0 discards. -/
def State.setV (s : State) (f : Focus) (r : Nat) (x : VecVal) : State :=
  s.modBlk f.ctx f.blk fun b => { b with vs := b.vs ++ [(f.slot, r, x)] }
def State.setM (s : State) (f : Focus) (r : Nat) (x : MaskVal) : State :=
  if r = 0 then s else s.modBlk f.ctx f.blk fun b => { b with ms := b.ms ++ [(f.slot, r, x)] }

/-- Read several v registers in stream order: none while some write has not resolved. -/
def Ctx.streamVs (x : Ctx) (k : Nat) : List Nat → Option (List VecVal)
  | [] => some []
  | r :: rs =>
    match x.streamV k r, x.streamVs k rs with
    | some v, some vs => some (v :: vs)
    | _, _ => none

/-- Whether lane i is active (R229). -/
def active (m : MaskVal) (i : Nat) : Bool := m.toNat.testBit i

/-- What a lane-wise operation gives for one lane: its pattern and flags. -/
abbrev LaneOp := Rm → Nat → List Nat → Nat → Nat × FFlags

/-- Lane-wise results over active lanes, with their flags; inactive lanes keep the old value (R229). -/
def laneWise (ty : ElemTy) (m : MaskVal) (rm : Rm) (op : LaneOp) (srcs : List (List Nat)) (old : List Nat) :
    List Nat × FFlags :=
  let rs := (List.range ty.lanes).map fun i =>
    let o := lget old i 0
    if active m i then op rm i (srcs.map fun l => lget l i 0) o else (o, (0 : FFlags))
  (rs.map (·.1), rs.foldl (fun a r => a ||| r.2) 0)

/-- Fire a lane-wise instruction: sources, the destination's old lanes, the mask, the mode at entry (R230). -/
def fireLanes (i : Instr) (ty : ElemTy) (m : BitVec 3) (vd : BitVec 5) (srcs : List (BitVec 5)) (op : List Tok → LaneOp)
    (s : State) : Res :=
  fireG i (fun f ops s =>
    let x := s.ctx f.ctx
    match x.streamVs f.blk (srcs.map (·.toNat)), x.streamV f.blk vd.toNat, x.streamM f.blk m.toNat, x.modeAt f.blk .dyn with
    | some vs, some old, some mk, some rm =>
      let (ls, fl) := laneWise ty mk rm (op ops) (vs.map (lanesOf ty)) (lanesOf ty old)
      .done ((s.setV f vd.toNat (ofLanes ty.bytes ls)).flag f fl) []
    | _, _, _, _ => .wait) s

/-! Memory (R231, R234). -/

/-- The address of lane i (R234). -/
inductive LaneAddr
  | unit (base : Word)
  | stride (base step : Word)
  | index (base : Word) (ix : List Nat)

def LaneAddr.at (a : LaneAddr) (ty : ElemTy) (i : Nat) : Word :=
  match a with
  | .unit b => b + BitVec.ofNat 64 (i * ty.bytes)
  | .stride b st => b + BitVec.ofNat 64 i * st
  | .index b ix => b + BitVec.ofInt 64 (asInt ty.bits (lget ix i 0) * ty.bytes)

/-- The first failing check of the lanes' addresses, in ascending order (R231). -/
def checkLanes (t : Task) (b : Nat) (ty : ElemTy) (a : LaneAddr) (acc : Acc) : List Nat → State → Option (Nat × Word) × State
  | [], s => (none, s)
  | i :: is, s =>
    match s.check t b (a.at ty i) ty.bytes acc with
    | (.bad c w, s) => (some (c, w), s)
    | (.ok .., s) => checkLanes t b ty a acc is s

/-- Read the active lanes in ascending order (R231). -/
def loadLanes (f : Focus) (ty : ElemTy) (a : LaneAddr) : List Nat → List Nat → State → Got × List Nat
  | [], ls, s => (.bytes [] s, ls)
  | i :: is, ls, s =>
    match s.load f (a.at ty i) ty.bytes (.vec f.slot) with
    | .bytes bs s => loadLanes f ty a is (ls.set i (leNat bs)) s
    | x => (x, ls)

/-- The active lanes of a mask. -/
def activeLanes (ty : ElemTy) (m : MaskVal) : List Nat := (List.range ty.lanes).filter (active m)

/-- Fire a vector load. -/
def fireVload (i : Instr) (ty : ElemTy) (m : BitVec 3) (vd : BitVec 5) (ixs : List (BitVec 5))
    (addr : List Tok → List (List Nat) → LaneAddr) (s : State) : Res :=
  fireG i (fun f ops s =>
    let x := s.ctx f.ctx
    match s.taskOf f.ctx, x.streamVs f.blk (ixs.map (·.toNat)), x.streamV f.blk vd.toNat, x.streamM f.blk m.toNat with
    | some t, some vs, some old, some mk =>
      let a := addr ops (vs.map (lanesOf ty))
      match checkLanes t (brickOfCtx f.ctx) ty a .read (activeLanes ty mk) s with
      | (some (c, w), s) => .trap s c w
      | (none, s) =>
        match loadLanes f ty a (activeLanes ty mk) (lanesOf ty old) s with
        | (.wait, _) => .wait
        | (.trap s c w, _) => .trap s c w
        | (.bytes _ s, ls) => .done (s.setV f vd.toNat (ofLanes ty.bytes ls)) []
    | _, _, _, _ => .wait) s

/-- Check and hold the stores of the active lanes in ascending order (R231); the first failing lane gives the trap. -/
def storeLanes (f : Focus) (t : Task) (ty : ElemTy) (a : LaneAddr) (data : List Nat) : List Nat → State → Fire
  | [], s => .done s []
  | i :: is, s =>
    match s.check t (brickOfCtx f.ctx) (a.at ty i) ty.bytes .write with
    | (.bad c w, s) => .trap s c w
    | (.ok l pte, s) =>
      storeLanes f t ty a data is
        (s.hold f ⟨none, f.slot, l, leBytes ty.bytes (lget data i 0), none, (a.at ty i).toNat, pte, none⟩)

/-- Fire a vector store. -/
def fireVstore (i : Instr) (ty : ElemTy) (m : BitVec 3) (va : BitVec 5) (ixs : List (BitVec 5))
    (addr : List Tok → List (List Nat) → LaneAddr) (s : State) : Res :=
  fireG i (fun f ops s =>
    let x := s.ctx f.ctx
    match s.taskOf f.ctx, x.streamV f.blk va.toNat, x.streamVs f.blk (ixs.map (·.toNat)), x.streamM f.blk m.toNat with
    | some t, some d, some vs, some mk =>
      match storeLanes f t ty (addr ops (vs.map (lanesOf ty))) (lanesOf ty d) (activeLanes ty mk) s with
      | .trap s' c w => .trap (s'.modBlk f.ctx f.blk fun b => { b with stores := b.stores.filter fun x => x.slot != f.slot }) c w
      | r => r
    | _, _, _, _ => .wait) s

/-- The three address forms from operands and index lanes. -/
def unitAddr (ops : List Tok) (_ : List (List Nat)) : LaneAddr := .unit (opw ops 0)
def strideAddr (ops : List Tok) (_ : List (List Nat)) : LaneAddr := .stride (opw ops 0) (opw ops 1)
def indexAddr (ops : List Tok) (ix : List (List Nat)) : LaneAddr := .index (opw ops 0) (ix.headD [])

def execVld (pr : Pr) (ty : ElemTy) (m : BitVec 3) (vd : BitVec 5) (s : State) : Res :=
  fireVload (.vld pr ty m vd) ty m vd [] unitAddr s
def execVlds (pr : Pr) (ty : ElemTy) (m : BitVec 3) (vd : BitVec 5) (s : State) : Res :=
  fireVload (.vlds pr ty m vd) ty m vd [] strideAddr s
def execVldx (pr : Pr) (ty : ElemTy) (m : BitVec 3) (vd vb : BitVec 5) (s : State) : Res :=
  fireVload (.vldx pr ty m vd vb) ty m vd [vb] indexAddr s
def execVst (pr : Pr) (ty : ElemTy) (m : BitVec 3) (va : BitVec 5) (s : State) : Res :=
  fireVstore (.vst pr ty m va) ty m va [] unitAddr s
def execVsts (pr : Pr) (ty : ElemTy) (m : BitVec 3) (va : BitVec 5) (s : State) : Res :=
  fireVstore (.vsts pr ty m va) ty m va [] strideAddr s
def execVstx (pr : Pr) (ty : ElemTy) (m : BitVec 3) (va vb : BitVec 5) (s : State) : Res :=
  fireVstore (.vstx pr ty m va vb) ty m va [vb] indexAddr s

/-! Moves and arithmetic (R235 to R237). -/

/-- A lane operation without flags. -/
def plainOp (op : Nat → List Nat → Nat) : LaneOp := fun _ i xs _ => (op i xs, 0)
/-- First and second source lanes. -/
def la (xs : List Nat) : Nat := lget xs 0 0
def lb (xs : List Nat) : Nat := lget xs 1 0

def execVbcst (pr : Pr) (ty : ElemTy) (m : BitVec 3) (vd : BitVec 5) (s : State) : Res :=
  fireLanes (.vbcst pr ty m vd) ty m vd [] (fun ops => plainOp fun _ _ => (opw ops 0).toNat % 2 ^ ty.bits) s
def execVmov (pr : Pr) (ty : ElemTy) (m : BitVec 3) (vd va : BitVec 5) (s : State) : Res :=
  fireLanes (.vmov pr ty m vd va) ty m vd [va] (fun _ => plainOp fun _ xs => la xs) s

/-- A two-source operation: the floating-point form in the mode, or the integer form at the lane's width (R236). -/
def arith2 (ty : ElemTy) (fop : FFmt → Rm → Nat → Nat → Nat × FFlags) (iop : (n : Nat) → BitVec n → BitVec n → BitVec n) :
    LaneOp := fun rm _ xs _ =>
  match ty.fmt with
  | some f => fop f rm (la xs) (lb xs)
  | none => ((iop ty.bits (BitVec.ofNat _ (la xs)) (BitVec.ofNat _ (lb xs))).toNat, 0)

def execVadd (pr : Pr) (ty : ElemTy) (m : BitVec 3) (vd va vb : BitVec 5) (s : State) : Res :=
  fireLanes (.vadd pr ty m vd va vb) ty m vd [va, vb] (fun _ => arith2 ty FFmt.add opAdd) s
def execVsub (pr : Pr) (ty : ElemTy) (m : BitVec 3) (vd va vb : BitVec 5) (s : State) : Res :=
  fireLanes (.vsub pr ty m vd va vb) ty m vd [va, vb] (fun _ => arith2 ty FFmt.sub opSub) s
def execVmul (pr : Pr) (ty : ElemTy) (m : BitVec 3) (vd va vb : BitVec 5) (s : State) : Res :=
  fireLanes (.vmul pr ty m vd va vb) ty m vd [va, vb] (fun _ => arith2 ty FFmt.mul opMul) s

/-- va × vb + vd with one rounding (R236). -/
def fmaLane (ty : ElemTy) : LaneOp := fun rm _ xs old =>
  match ty.fmt with
  | some f => f.fma rm (la xs) (lb xs) old
  | none => (old, 0)
def execVfma (pr : Pr) (ty : ElemTy) (m : BitVec 3) (vd va vb : BitVec 5) (s : State) : Res :=
  fireLanes (.vfma pr ty m vd va vb) ty m vd [va, vb] (fun _ => fmaLane ty) s

def execVdiv (pr : Pr) (ty : ElemTy) (m : BitVec 3) (vd va vb : BitVec 5) (s : State) : Res :=
  fireLanes (.vdiv pr ty m vd va vb) ty m vd [va, vb] (fun _ => arith2 ty FFmt.div (opDiv ty.isN)) s
def execVmin (pr : Pr) (ty : ElemTy) (m : BitVec 3) (vd va vb : BitVec 5) (s : State) : Res :=
  fireLanes (.vmin pr ty m vd va vb) ty m vd [va, vb] (fun _ => arith2 ty (fun f _ => f.minmax false) (opMin ty.isN)) s
def execVmax (pr : Pr) (ty : ElemTy) (m : BitVec 3) (vd va vb : BitVec 5) (s : State) : Res :=
  fireLanes (.vmax pr ty m vd va vb) ty m vd [va, vb] (fun _ => arith2 ty (fun f _ => f.minmax true) (opMax ty.isN)) s

/-- A sign operation of FSGN on lanes, or an integer operation (R236). -/
def sign1 (ty : ElemTy) (k : SgnKind) (iop : (n : Nat) → BitVec n → BitVec n) : LaneOp := fun _ _ xs _ =>
  match ty.fmt with
  | some f => fsgnVal k f (la xs) 0
  | none => ((iop ty.bits (BitVec.ofNat _ (la xs))).toNat, 0)
def opAbs (n : Nat) (a : BitVec n) : BitVec n := if a.msb then -a else a
def opNeg (n : Nat) (a : BitVec n) : BitVec n := -a
def execVabs (pr : Pr) (ty : ElemTy) (m : BitVec 3) (vd va : BitVec 5) (s : State) : Res :=
  fireLanes (.vabs pr ty m vd va) ty m vd [va] (fun _ => sign1 ty .abs opAbs) s
def execVneg (pr : Pr) (ty : ElemTy) (m : BitVec 3) (vd va : BitVec 5) (s : State) : Res :=
  fireLanes (.vneg pr ty m vd va) ty m vd [va] (fun _ => sign1 ty .neg opNeg) s

def execVand (pr : Pr) (ty : ElemTy) (m : BitVec 3) (vd va vb : BitVec 5) (s : State) : Res :=
  fireLanes (.vand pr ty m vd va vb) ty m vd [va, vb] (fun _ => plainOp fun _ xs => la xs &&& lb xs) s
def execVor (pr : Pr) (ty : ElemTy) (m : BitVec 3) (vd va vb : BitVec 5) (s : State) : Res :=
  fireLanes (.vor pr ty m vd va vb) ty m vd [va, vb] (fun _ => plainOp fun _ xs => la xs ||| lb xs) s
def execVxor (pr : Pr) (ty : ElemTy) (m : BitVec 3) (vd va vb : BitVec 5) (s : State) : Res :=
  fireLanes (.vxor pr ty m vd va vb) ty m vd [va, vb] (fun _ => plainOp fun _ xs => la xs ^^^ lb xs) s

/-- A shift by aux6, or by vb lane i modulo the width (R237). -/
def shiftLane (ty : ElemTy) (amt : BitVec 6) (op : (n : Nat) → BitVec n → BitVec n → BitVec n) : LaneOp :=
  plainOp fun _ xs =>
    let k := if amt = 0 then lb xs % ty.bits else amt.toNat
    (op ty.bits (BitVec.ofNat _ (la xs)) (BitVec.ofNat _ k)).toNat
def execVshl (pr : Pr) (ty : ElemTy) (m : BitVec 3) (vd va vb : BitVec 5) (amt : BitVec 6) (s : State) : Res :=
  fireLanes (.vshl pr ty m vd va vb amt) ty m vd [va, vb] (fun _ => shiftLane ty amt opShl) s
def execVshr (pr : Pr) (ty : ElemTy) (m : BitVec 3) (vd va vb : BitVec 5) (amt : BitVec 6) (s : State) : Res :=
  fireLanes (.vshr pr ty m vd va vb amt) ty m vd [va, vb] (fun _ => shiftLane ty amt opShr) s
def execVsar (pr : Pr) (ty : ElemTy) (m : BitVec 3) (vd va vb : BitVec 5) (amt : BitVec 6) (s : State) : Res :=
  fireLanes (.vsar pr ty m vd va vb amt) ty m vd [va, vb] (fun _ => shiftLane ty amt opSar) s

/-! Compares and selection (R238, R239). -/

/-- A condition on floating-point lanes: its result and whether NV is raised (R238). -/
def vcondFp (c : VCond) (f : FFmt) (x y : Nat) : Bool × Bool :=
  let a := f.val x
  let b := f.val y
  let quietNv : Bool := match c with
    | .lt | .le | .gt | .ge => true
    | _ => false
  if a.isNan || b.isNan then
    ((match c with
      | .ne | .un => true
      | _ => false), quietNv || a.snan || b.snan)
  else
    let o := cmpFV false a b
    ((match c with
      | .eq => o == .eq
      | .ne => o != .eq
      | .lt => o == .lt
      | .le => o != .gt
      | .gt => o == .gt
      | .ge => o != .lt
      | .un => false), false)

/-- A condition on integer lanes. -/
def vcondInt (c : VCond) (x y : Int) : Bool :=
  match c with
  | .eq => x == y
  | .ne => x != y
  | .lt => x < y
  | .le => x ≤ y
  | .gt => y < x
  | .ge => y ≤ x
  | .un => false

/-- One lane's compare. -/
def vcond (c : VCond) (ty : ElemTy) (x y : Nat) : Bool × Bool :=
  match ty.fmt with
  | some f => vcondFp c f x y
  | none => (vcondInt c (ty.int x) (ty.int y), false)

/-- R238: an m register with a bit for each active lane that meets the condition. -/
def execVcmp (pr : Pr) (ty : ElemTy) (m md : BitVec 3) (va vb : BitVec 5) (c : VCond) (s : State) : Res :=
  fireG (.vcmp pr ty m md va vb c) (fun f _ s =>
    let x := s.ctx f.ctx
    match x.streamV f.blk va.toNat, x.streamV f.blk vb.toNat, x.streamM f.blk m.toNat with
    | some a, some b, some mk =>
      let rs := (activeLanes ty mk).map fun i => (i, vcond c ty (laneOf a ty.bytes i) (laneOf b ty.bytes i))
      let bits := (rs.map fun r => if r.2.1 then 2 ^ r.1 else 0).sum
      .done ((s.setM f md.toNat (BitVec.ofNat 128 bits)).flag f (flagIf flagNV (rs.any fun r => r.2.2))) []
    | _, _, _ => .wait) s

/-- R239: the mask selects, lane by lane. -/
def execVsel (pr : Pr) (ty : ElemTy) (m : BitVec 3) (vd va vb : BitVec 5) (s : State) : Res :=
  fireG (.vsel pr ty m vd va vb) (fun f _ s =>
    let x := s.ctx f.ctx
    match x.streamV f.blk va.toNat, x.streamV f.blk vb.toNat, x.streamM f.blk m.toNat with
    | some a, some b, some mk =>
      let ls := (List.range ty.lanes).map fun i => laneOf (if active mk i then a else b) ty.bytes i
      .done (s.setV f vd.toNat (ofLanes ty.bytes ls)) []
    | _, _, _ => .wait) s

/-! Conversions (R240). -/

/-- Convert one lane from a type to another (R240). -/
def cvtLane (dst src : ElemTy) (rm : Rm) (x : Nat) : Nat × FFlags :=
  match src.fmt, dst.fmt with
  | some fs, some fd => fd.ofFV rm (fs.val x)
  | some fs, none => fpToInt (fs.val x) rm dst.bits (!dst.isN)
  | none, some fd => fd.ofInt rm (src.int x)
  | none, none => (ofInt dst.bits (src.int x), 0)

/-- The source lane that destination lane i takes, none where it is unchanged (R240). -/
def cvtFrom (nd ns h i : Nat) : Option Nat :=
  if nd ≤ ns then some (nd * h + i) else if ns * h ≤ i && i < ns * h + ns then some (i - ns * h) else none

/-- R240. -/
def execVcvt (pr : Pr) (ty : ElemTy) (m : BitVec 3) (vd va : BitVec 5) (src : ElemTy) (part : BitVec 3) (s : State) : Res :=
  fireG (.vcvt pr ty m vd va src part) (fun f _ s =>
    let x := s.ctx f.ctx
    match x.streamV f.blk va.toNat, x.streamV f.blk vd.toNat, x.streamM f.blk m.toNat, x.modeAt f.blk .dyn with
    | some a, some old, some mk, some rm =>
      let op : LaneOp := fun rm i _ o => match cvtFrom ty.lanes src.lanes part.toNat i with
        | some j => cvtLane ty src rm (laneOf a src.bytes j)
        | none => (o, 0)
      let (ls, fl) := laneWise ty mk rm op [] (lanesOf ty old)
      .done ((s.setV f vd.toNat (ofLanes ty.bytes ls)).flag f fl) []
    | _, _, _, _ => .wait) s

/-! Reductions and scans (R241, R242; 05 R104). -/

/-- A value entering a tree: a pattern or nothing, with the flags raised on the way. -/
abbrev RedVal := Option Nat × FFlags

/-- A NaN as the tree passes it on: canonical, NV when it signals (R98). -/
def redNan (f : FFmt) (x : Nat) : Nat × FFlags :=
  if (f.val x).isNan then f.nanRes (f.val x).snan else (x, 0)

/-- ⊕ of R104: w is the width at which integer additions wrap. -/
def redOp (op : RedOp) (ty : ElemTy) (w : Nat) (a b : RedVal) : RedVal :=
  let fl := a.2 ||| b.2
  match a.1, b.1 with
  | some x, some y =>
    match ty.fmt, op with
    | some f, .add => let (r, g) := f.add .rne x y; (some r, fl ||| g)
    | some f, .min => let (r, g) := f.minmax false x y; (some r, fl ||| g)
    | some f, .max => let (r, g) := f.minmax true x y; (some r, fl ||| g)
    | none, .add => (some ((x + y) % 2 ^ w), fl)
    | none, .min => (some (if ty.int x ≤ ty.int y then x else y), fl)
    | none, .max => (some (if ty.int x ≤ ty.int y then y else x), fl)
  | some x, none | none, some x =>
    match ty.fmt with
    | some f => let (r, g) := redNan f x; (some r, fl ||| g)
    | none => (some x, fl)
  | none, none => (none, fl)

/-- What a lane enters as (R104): an inactive one as the identity of add, or absent. -/
def redIn (op : RedOp) (ty : ElemTy) (act : Bool) (x : Nat) : RedVal :=
  if act then (some x, 0)
  else match op, ty.fmt with
    | .add, some f => (some (f.zeroS true), 0)
    | .add, none => (some 0, 0)
    | _, _ => (none, 0)

/-- The result with every lane masked off (R104). -/
def redEmpty (op : RedOp) (ty : ElemTy) : Nat :=
  match op, ty.fmt with
  | .add, _ => 0
  | .min, some f => f.inf
  | .max, some f => f.infS true
  | .min, none => if ty.isN then 2 ^ ty.bits - 1 else 2 ^ (ty.bits - 1) - 1
  | .max, none => if ty.isN then 0 else 2 ^ (ty.bits - 1)

/-- VRED over lanes (R241): the token and the flags. -/
def vredVal (op : RedOp) (ty : ElemTy) (m : MaskVal) (xs : List Nat) : Word × FFlags :=
  let wide := ty.fmt.isNone && op == .add
  let ins := (List.range ty.lanes).map fun i =>
    let x := lget xs i 0
    redIn op ty (active m i) (if wide then ofInt 64 (ty.int x) else x)
  if (activeLanes ty m).isEmpty then (ty.token (redEmpty op ty), 0)
  else
    let r := redTree (redOp op ty 64) (none, 0) 8 ins
    (if wide then BitVec.ofNat 64 (r.1.getD 0) else ty.token (r.1.getD 0), r.2)

def execVred (pr : Pr) (ty : ElemTy) (m : BitVec 3) (va : BitVec 5) (op : RedOp) (t1 t0 : Target) (s : State) : Res :=
  fireG (.vred pr ty m va op t1 t0) (fun f _ s =>
    let x := s.ctx f.ctx
    match x.streamV f.blk va.toNat, x.streamM f.blk m.toNat with
    | some a, some mk =>
      let (r, fl) := vredVal op ty mk (lanesOf ty a)
      .done (s.flag f fl) (both r)
    | _, _ => .wait) s

/-- VSCAN over lanes (R242): the active lanes of the scan, and their flags. Lane 0, which nothing is combined with, gives a
canonical NaN like the others (R98; log entry 32). -/
def vscanVal (op : RedOp) (ty : ElemTy) (m : MaskVal) (xs old : List Nat) : List Nat × FFlags :=
  let ins := (List.range ty.lanes).map fun i => redIn op ty (active m i) (lget xs i 0)
  let out := (scanTree (redOp op ty ty.bits) 8 1 ins).modify 0 fun x => redOp op ty ty.bits x (none, 0)
  laneWise ty m .rne (fun _ i _ o => ((lget out i (none, 0)).1.getD o, (lget out i (none, 0)).2)) [] old

def execVscan (pr : Pr) (ty : ElemTy) (m : BitVec 3) (vd va : BitVec 5) (op : RedOp) (s : State) : Res :=
  fireG (.vscan pr ty m vd va op) (fun f _ s =>
    let x := s.ctx f.ctx
    match x.streamV f.blk va.toNat, x.streamV f.blk vd.toNat, x.streamM f.blk m.toNat with
    | some a, some old, some mk =>
      let (ls, fl) := vscanVal op ty mk (lanesOf ty a) (lanesOf ty old)
      .done ((s.setV f vd.toNat (ofLanes ty.bytes ls)).flag f fl) []
    | _, _, _ => .wait) s

/-- R243: lane i takes va's lane vb[i] modulo n. -/
def execVperm (pr : Pr) (ty : ElemTy) (m : BitVec 3) (vd va vb : BitVec 5) (s : State) : Res :=
  fireG (.vperm pr ty m vd va vb) (fun f _ s =>
    let x := s.ctx f.ctx
    match x.streamV f.blk va.toNat, x.streamV f.blk vb.toNat, x.streamV f.blk vd.toNat, x.streamM f.blk m.toNat with
    | some a, some b, some old, some mk =>
      let ls := (List.range ty.lanes).map fun i =>
        if active mk i then laneOf a ty.bytes (laneOf b ty.bytes i % ty.lanes) else laneOf old ty.bytes i
      .done (s.setV f vd.toNat (ofLanes ty.bytes ls)) []
    | _, _, _, _ => .wait) s

/-! Approximations (R244). -/

/-- An approximate function on lanes (R103, R244). -/
def fnLane (fn : Fn) (ty : ElemTy) : LaneOp := fun _ _ xs _ =>
  match ty with
  | .bf16 => fn.evalBf (la xs)
  | .f64 => fn.eval fp64 (la xs)
  | _ => fn.eval fp32 (la xs)
def execVrcp (pr : Pr) (ty : ElemTy) (m : BitVec 3) (vd va : BitVec 5) (s : State) : Res :=
  fireLanes (.vrcp pr ty m vd va) ty m vd [va] (fun _ => fnLane .rcp ty) s
def execVrsq (pr : Pr) (ty : ElemTy) (m : BitVec 3) (vd va : BitVec 5) (s : State) : Res :=
  fireLanes (.vrsq pr ty m vd va) ty m vd [va] (fun _ => fnLane .rsq ty) s
def execVexp2 (pr : Pr) (ty : ElemTy) (m : BitVec 3) (vd va : BitVec 5) (s : State) : Res :=
  fireLanes (.vexp2 pr ty m vd va) ty m vd [va] (fun _ => fnLane .exp2 ty) s
def execVlog2 (pr : Pr) (ty : ElemTy) (m : BitVec 3) (vd va : BitVec 5) (s : State) : Res :=
  fireLanes (.vlog2 pr ty m vd va) ty m vd [va] (fun _ => fnLane .log2 ty) s

/-! Slices and planes (R245, R246). -/

/-- X of R105 and its flags. -/
def splitX (x : Nat) (emax : Int) : Int × FFlags :=
  let lim : Int := 2 ^ 61 - 1
  let a := fp64.val x
  let tooBig (m : Nat) (e : Int) : Bool := emax + 1 ≤ (Nat.log2 m : Int) + e
  if a.isNan || emax < -1074 || 1023 < emax then (0, flagNV)
  else match a with
  | .inf n => (if n then -lim else lim, flagNV)
  | .fin n m e =>
    if tooBig m e then (if n then -lim else lim, flagNV)
    else
      let (k, ix) := (FV.fin n m (e + (60 - emax))).toIntRm .rne
      -- a magnitude that rounds up to 2^61 stays within the bound of R105
      (if lim < k then lim else if k < -lim then -lim else k, flagIf flagNX ix)
  | _ => (0, 0)

/-- Slice j of X (R106). -/
def sliceOf (x : Int) (j : Nat) : Nat := ofInt 64 x / 2 ^ (16 * j) % 2 ^ 16

/-- R245: slice j of element i goes to s16 lane 16 j + i. -/
def execVsplt (pr : Pr) (m : BitVec 3) (vd va : BitVec 5) (s : State) : Res :=
  fireG (.vsplt pr m vd va) (fun f ops s =>
    let x := s.ctx f.ctx
    match x.streamV f.blk va.toNat, x.streamV f.blk vd.toNat, x.streamM f.blk m.toNat with
    | some a, some old, some mk =>
      let xs := (List.range 16).map fun i => splitX (laneOf a 8 i) (opw ops 0).toInt
      let ls := (List.range 64).map fun k =>
        if active mk (k % 16) then sliceOf (lget xs (k % 16) (0, 0)).1 (k / 16) else laneOf old 2 k
      let fl := (activeLanes .f64 mk).foldl (fun a i => a ||| (lget xs i (0, 0)).2) (0 : FFlags)
      .done ((s.setV f vd.toNat (ofLanes 2 ls)).flag f fl) []
    | _, _, _ => .wait) s

/-- R246: pack lanes into planes, or unpack planes into lanes. -/
def execVplane (pr : Pr) (ty : ElemTy) (m : BitVec 3) (vd va : BitVec 5) (unpack : Bool) (s : State) : Res :=
  fireG (.vplane pr ty m vd va unpack) (fun f _ s =>
    let x := s.ctx f.ctx
    match x.streamV f.blk va.toNat, x.streamV f.blk vd.toNat, x.streamM f.blk m.toNat with
    | some a, some old, some mk =>
      let n := ty.lanes
      let r : VecVal :=
        if unpack then ofLanes ty.bytes ((List.range n).map fun i =>
          if active mk i then ((List.range ty.bits).map fun p => if a.getLsbD (n * p + i) then 2 ^ p else 0).sum
          else laneOf old ty.bytes i)
        else BitVec.ofNat 1024 (((List.range ty.bits).flatMap fun p => (List.range n).map fun i =>
          if active mk i && a.getLsbD (ty.bits * i + p) then 2 ^ (n * p + i) else 0).sum)
      .done (s.setV f vd.toNat r) []
    | _, _, _ => .wait) s

/-! Lanes and masks as scalars (R247, R248). -/

def execVgetl (pr : Pr) (ty : ElemTy) (va : BitVec 5) (t1 t0 : Target) (s : State) : Res :=
  fireG (.vgetl pr ty va t1 t0) (fun f ops s => match (s.ctx f.ctx).streamV f.blk va.toNat with
    | some a => .done s (both (ty.token (laneOf a ty.bytes ((opw ops 0).toNat % ty.lanes))))
    | none => .wait) s
def execVsetl (pr : Pr) (ty : ElemTy) (vd : BitVec 5) (s : State) : Res :=
  fireG (.vsetl pr ty vd) (fun f ops s => match (s.ctx f.ctx).streamV f.blk vd.toNat with
    | some old =>
      let ls := (lanesOf ty old).set ((opw ops 0).toNat % ty.lanes) ((opw ops 1).toNat % 2 ^ ty.bits)
      .done (s.setV f vd.toNat (ofLanes ty.bytes ls)) []
    | none => .wait) s

/-- R248. -/
def execMset (pr : Pr) (k : MsetKind) (md ma mb : BitVec 3) (t1 t0 : Target) (s : State) : Res :=
  fireG (.mset pr k md ma mb t1 t0) (fun f _ s =>
    let x := s.ctx f.ctx
    match x.streamM f.blk ma.toNat, x.streamM f.blk mb.toNat with
    | some a, some b =>
      match k with
      | .and => .done (s.setM f md.toNat (a &&& b)) []
      | .or => .done (s.setM f md.toNat (a ||| b)) []
      | .not => .done (s.setM f md.toNat (~~~a)) []
      | .popc => .done s (both (BitVec.ofNat 64 (popn 128 a.toNat)))
    | _, _ => .wait) s

/-! Accumulator rows (R249). -/

/-- The accumulator a tl7 instruction writes, and whether in INT64 mode (R249); MADDA takes the accumulator's own mode. -/
def accWriter (t : Task) : Instr → Option (Nat × Bool)
  | .mzero _ md a _ _ => some (a.toNat, md == .int64)
  | .mma _ md _ _ _ a _ _ _ _ => some (a.toNat, md == .int64)
  | .mmac _ md _ _ _ a _ _ _ _ _ _ => some (a.toNat, md == .int64)
  | .madda _ _ a _ _ => some (a.toNat, t.modeOf a.toNat == .int64)
  | _ => none

/-- The same for a queued instruction. -/
def PmaKind.writes (t : Task) : PmaKind → Option (Nat × Bool)
  | .mzero md a => some (a, md == .int64)
  | .mma md _ _ a _ => some (a, md == .int64)
  | .mmac md _ a _ _ _ _ _ _ _ _ => some (a, md == .int64)
  | .madda _ a => some (a, t.modeOf a == .int64)
  | _ => none

/-- Whether a write of an accumulator reaches a unit. -/
def reaches (w : Option (Nat × Bool)) (unit : Nat) : Bool :=
  match w with
  | some (a, wide) => a == unit || (wide && a + 1 == unit)
  | none => false

/-- Whether a tl7 instruction of an older block that writes some of these units has not completed, or a VACWR of an older
block to them has not resolved (R249). -/
def State.accPending (s : State) (f : Focus) (t : Task) (units : List Nat) : Bool :=
  let b := s.brick (brickOfCtx f.ctx)
  let queued := b.pma ++ (match b.run with
    | some r => [r.op]
    | none => [])
  queued.any (fun o => o.uid == t.uid && units.any (reaches (o.kind.writes t)))
    || ((s.ctx f.ctx).olderBlks f.blk).any fun k => k.members.any fun (n, j) =>
      (match (k.slot n).st with
        | .nulled | .off => false
        | _ => units.any (reaches (accWriter t j)))
      || (match j with
        | .vacwr _ _ _ _ a _ => !(k.slot n).st.resolved && units.any fun u => u == a.toNat || u == a.toNat + 1
        | _ => false)

/-- The type's accumulator mode (R249). -/
def accModeOf : ElemTy → AccMode
  | .f32 => .fp32
  | .s64 => .int64
  | _ => .int32

/-- The pieces of a lane in its accumulator: places of four bytes, low half first (R114, R249). -/
def accPieces (t : Task) (ty : ElemTy) (acc row q i : Nat) : List PLoc :=
  let col := (if ty = .s64 then 16 else 32) * q + i
  let off := (row * 128 + col) * 4
  if ty = .s64 then [accAt t.uid acc off, accAt t.uid (acc + 1) off] else [accAt t.uid acc off]

/-- Check the accumulator operand of VACRD and VACWR (R249). -/
def accBad (t : Task) (nacc : Nat) (ty : ElemTy) (acc : Nat) (row : Word) : Bool :=
  nacc ≤ acc || (ty == .s64 && nacc ≤ acc + 1) || row.toNat ≥ 128 || t.modeOf acc != accModeOf ty

/-- The units an access names. -/
def accUnitsOf (ty : ElemTy) (acc : Nat) : List Nat := if ty = .s64 then [acc, acc + 1] else [acc]

/-- R249: a row's chunk, as the tl7 instructions of older blocks left it. Reads of younger blocks come after it (R258). A poisoned
word has no address: TRAPINFO is 0 (log entry 47). -/
def execVacrd (pr : Pr) (ty : ElemTy) (m : BitVec 3) (vd : BitVec 5) (acc : BitVec 4) (q : BitVec 6) (s : State) : Res :=
  fireG (.vacrd pr ty m vd acc q) (fun f ops s =>
    let x := s.ctx f.ctx
    match s.taskOf f.ctx, x.streamV f.blk vd.toNat, x.streamM f.blk m.toNat with
    | some t, some old, some mk =>
      if s.accPending f t (accUnitsOf ty acc.toNat) then .wait
      else if accBad t (naccOf x.poolsplit) ty acc.toNat (opw ops 0) then .trap s 0x10 0xF
      else
        let place (i : Nat) : List PLoc := accPieces t ty acc.toNat (opw ops 0).toNat q.toNat i
        if (activeLanes ty mk).any fun i => (place i).any fun l => s.poisoned l 4 then .trap s 0x0F 0
        else
          let ls := (List.range ty.lanes).map fun i =>
            if active mk i then leNat ((place i).flatMap fun l => (s.blockRead f.ctx f.blk t.uid l 4 (.vec f.slot) false 0).1)
            else laneOf old ty.bytes i
          .done ((s.setV f vd.toNat (ofLanes ty.bytes ls)).squashAfter f.ctx f.blk) []
    | _, _, _ => .wait) s

/-- Hold four bytes of an accumulator for commit. -/
def State.holdAcc (s : State) (f : Focus) (l : PLoc) (x : Nat) : State :=
  s.hold f ⟨none, f.slot, l, leBytes 4 x, none, 0, 0, none⟩

/-- R249: the active lanes become part of the accumulator at commit. Reads of younger blocks come after it (R258). -/
def execVacwr (pr : Pr) (ty : ElemTy) (m : BitVec 3) (va : BitVec 5) (acc : BitVec 4) (q : BitVec 6) (s : State) : Res :=
  fireG (.vacwr pr ty m va acc q) (fun f ops s =>
    let x := s.ctx f.ctx
    match s.taskOf f.ctx, x.streamV f.blk va.toNat, x.streamM f.blk m.toNat with
    | some t, some a, some mk =>
      if s.accPending f t (accUnitsOf ty acc.toNat) then .wait
      else if accBad t (naccOf x.poolsplit) ty acc.toNat (opw ops 0) then .trap s 0x10 0xF
      else
        .done (((activeLanes ty mk).foldl (fun s i =>
          let v := laneOf a ty.bytes i
          (List.zip (List.range 2) (accPieces t ty acc.toNat (opw ops 0).toNat q.toNat i)).foldl
            (fun s (h, l) => s.holdAcc f l (v / 2 ^ (32 * h) % 2 ^ 32)) s) s).squashAfter f.ctx f.blk) []
    | _, _, _ => .wait) s

end Sys2Proof.Machine
end

