-- ==== Sys2Proof/Machine/Fires.lean ====
section
/-!
DEFINITION. Whether an instruction is ready to fire (02 R34): it has all it needs, and nothing outside its block holds it
back.
-/

namespace Sys2Proof.Machine

/-- The firing of the focused slot, for the instructions that something outside their block may hold back; the others fire
as soon as their block lets them. -/
def State.tryHeld (i : Instr) (s : State) : Option Res :=
  match i with
  | .gread r t1 t0 => some (execGread r t1 t0 s)
  | .xread k r t1 t0 => some (execXread k r t1 t0 s)
  | .fcmp pr c d t1 t0 => some (execFcmp pr c d t1 t0 s)
  | .fadd pr d rm t1 t0 => some (execFadd pr d rm t1 t0 s)
  | .fsub pr d rm t1 t0 => some (execFsub pr d rm t1 t0 s)
  | .fmul pr d rm t1 t0 => some (execFmul pr d rm t1 t0 s)
  | .fdiv pr d rm t1 t0 => some (execFdiv pr d rm t1 t0 s)
  | .fsqrt pr d rm t1 t0 => some (execFsqrt pr d rm t1 t0 s)
  | .fma pr d rm t1 t0 => some (execFma pr d rm t1 t0 s)
  | .fmin pr d t1 t0 => some (execFmin pr d t1 t0 s)
  | .fmax pr d t1 t0 => some (execFmax pr d t1 t0 s)
  | .fcvt pr code t1 t0 => some (execFcvt pr code t1 t0 s)
  | .fclass pr d t1 t0 => some (execFclass pr d t1 t0 s)
  | .fsgn pr d k t1 t0 => some (execFsgn pr d k t1 t0 s)
  | .ldb pr ls imm t0 => some (execLdb pr ls imm t0 s)
  | .ldbn pr ls imm t0 => some (execLdbn pr ls imm t0 s)
  | .ldh pr ls imm t0 => some (execLdh pr ls imm t0 s)
  | .ldhn pr ls imm t0 => some (execLdhn pr ls imm t0 s)
  | .ldw pr ls imm t0 => some (execLdw pr ls imm t0 s)
  | .ldwn pr ls imm t0 => some (execLdwn pr ls imm t0 s)
  | .ldd pr ls imm t0 => some (execLdd pr ls imm t0 s)
  | .lda pr ls sc d t0 => some (execLda pr ls sc d t0 s)
  | .fence pr sc k t1 t0 => some (execFence pr sc k t1 t0 s)
  | .fencer pr sc k hm flat t1 t0 => some (execFencer pr sc k hm flat t1 t0 s)
  | .fencerArm pr hm flat t1 t0 => some (execFencerArm pr hm flat t1 t0 s)
  | .fencerDisarm pr hm flat t1 t0 => some (execFencerDisarm pr hm flat t1 t0 s)
  | .fwait pr t1 t0 => some (execFwait pr t1 t0 s)
  | .mwait pr sc c t1 t0 => some (execMwait pr sc c t1 t0 s)
  | .tspawn pr cont t1 t0 => some (execTspawn pr cont t1 t0 s)
  | .tsend pr slot dec => some (execTsend pr slot dec s)
  | .tsendh pr h slot => some (execTsendh pr h slot s)
  | .tfork pr n t1 t0 => some (execTfork pr n t1 t0 s)
  | .tself pr k t1 t0 => some (execTself pr k t1 t0 s)
  | .tkill pr => some (execTkill pr s)
  | .bara pr sc t1 t0 => some (execBara pr sc t1 t0 s)
  | .barw pr sc t1 t0 => some (execBarw pr sc t1 t0 s)
  | .qtkt pr t1 t0 => some (execQtkt pr t1 t0 s)
  | .qfill pr => some (execQfill pr s)
  | .qpop pr t1 t0 => some (execQpop pr t1 t0 s)
  | .qpeek pr t1 t0 => some (execQpeek pr t1 t0 s)
  | .qocc pr t1 t0 => some (execQocc pr t1 t0 s)
  | .qinit pr lg => some (execQinit pr lg s)
  | .vld pr ty m vd => some (execVld pr ty m vd s)
  | .vlds pr ty m vd => some (execVlds pr ty m vd s)
  | .vldx pr ty m vd vb => some (execVldx pr ty m vd vb s)
  | .vst pr ty m va => some (execVst pr ty m va s)
  | .vsts pr ty m va => some (execVsts pr ty m va s)
  | .vstx pr ty m va vb => some (execVstx pr ty m va vb s)
  | .vbcst pr ty m vd => some (execVbcst pr ty m vd s)
  | .vmov pr ty m vd va => some (execVmov pr ty m vd va s)
  | .vadd pr ty m vd va vb => some (execVadd pr ty m vd va vb s)
  | .vsub pr ty m vd va vb => some (execVsub pr ty m vd va vb s)
  | .vmul pr ty m vd va vb => some (execVmul pr ty m vd va vb s)
  | .vfma pr ty m vd va vb => some (execVfma pr ty m vd va vb s)
  | .vdiv pr ty m vd va vb => some (execVdiv pr ty m vd va vb s)
  | .vmin pr ty m vd va vb => some (execVmin pr ty m vd va vb s)
  | .vmax pr ty m vd va vb => some (execVmax pr ty m vd va vb s)
  | .vabs pr ty m vd va => some (execVabs pr ty m vd va s)
  | .vneg pr ty m vd va => some (execVneg pr ty m vd va s)
  | .vand pr ty m vd va vb => some (execVand pr ty m vd va vb s)
  | .vor pr ty m vd va vb => some (execVor pr ty m vd va vb s)
  | .vxor pr ty m vd va vb => some (execVxor pr ty m vd va vb s)
  | .vshl pr ty m vd va vb amt => some (execVshl pr ty m vd va vb amt s)
  | .vshr pr ty m vd va vb amt => some (execVshr pr ty m vd va vb amt s)
  | .vsar pr ty m vd va vb amt => some (execVsar pr ty m vd va vb amt s)
  | .vcmp pr ty m md va vb c => some (execVcmp pr ty m md va vb c s)
  | .vsel pr ty m vd va vb => some (execVsel pr ty m vd va vb s)
  | .vcvt pr ty m vd va src part => some (execVcvt pr ty m vd va src part s)
  | .vred pr ty m va op t1 t0 => some (execVred pr ty m va op t1 t0 s)
  | .vscan pr ty m vd va op => some (execVscan pr ty m vd va op s)
  | .vperm pr ty m vd va vb => some (execVperm pr ty m vd va vb s)
  | .vrcp pr ty m vd va => some (execVrcp pr ty m vd va s)
  | .vrsq pr ty m vd va => some (execVrsq pr ty m vd va s)
  | .vexp2 pr ty m vd va => some (execVexp2 pr ty m vd va s)
  | .vlog2 pr ty m vd va => some (execVlog2 pr ty m vd va s)
  | .vsplt pr m vd va => some (execVsplt pr m vd va s)
  | .vgetl pr ty va t1 t0 => some (execVgetl pr ty va t1 t0 s)
  | .vsetl pr ty vd => some (execVsetl pr ty vd s)
  | .mset pr k md ma mb t1 t0 => some (execMset pr k md ma mb t1 t0 s)
  | .vplane pr ty m vd va unpack => some (execVplane pr ty m vd va unpack s)
  | .vacrd pr ty m vd acc q => some (execVacrd pr ty m vd acc q s)
  | .vacwr pr ty m va acc q => some (execVacwr pr ty m va acc q s)
  | .hdef pr hd => some (execHdef pr hd s)
  | .hset pr hd hs f => some (execHset pr hd hs f s)
  | .hadv pr hd hs => some (execHadv pr hd hs s)
  | .hget pr hs f t1 t0 => some (execHget pr hs f t1 t0 s)
  | .mzero pr mode acc t1 t0 => some (execMzero pr mode acc t1 t0 s)
  | .mma pr mode stream ha hb acc sideB chan t1 t0 => some (execMma pr mode stream ha hb acc sideB chan t1 t0 s)
  | .mmac pr mode stream src hb acc chan trim fmt w t1 t0 => some (execMmac pr mode stream src hb acc chan trim fmt w t1 t0 s)
  | .mcvt pr hd acc t1 t0 => some (execMcvt pr hd acc t1 t0 s)
  | .madda pr src acc t1 t0 => some (execMadda pr src acc t1 t0 s)
  | .ptrim pr h t1 t0 => some (execPtrim pr h t1 t0 s)
  | .pxpose pr h e unpack t1 t0 => some (execPxpose pr h e unpack t1 t0 s)
  | .mstat pr acc t1 t0 => some (execMstat pr acc t1 t0 s)
  | .xcopy pr rel hd hs chan stamp t1 t0 => some (execXcopy pr rel hd hs chan stamp t1 t0 s)
  | .xcopyf pr rel chan stamp t1 t0 => some (execXcopyf pr rel chan stamp t1 t0 s)
  | .xchain pr rel chan t1 t0 => some (execXchain pr rel chan t1 t0 s)
  | .xwptr pr chan t1 t0 => some (execXwptr pr chan t1 t0 s)
  | .waitt pr sc trapErr tl t1 t0 => some (execWaitt pr sc trapErr tl t1 t0 s)
  | .rdtl pr tl t1 t0 => some (execRdtl pr tl t1 t0 s)
  | .xgath pr rel lg cnt t1 t0 => some (execXgath pr rel lg cnt t1 t0 s)
  | .xscat pr rel lg cnt t1 t0 => some (execXscat pr rel lg cnt t1 t0 s)
  | .xred pr rel t1 t0 => some (execXred pr rel t1 t0 s)
  | .xired pr rel t1 t0 => some (execXired pr rel t1 t0 s)
  | .xpkl pr rel t1 t0 => some (execXpkl pr rel t1 t0 s)
  | .nput pr rel t1 t0 => some (execNput pr rel t1 t0 s)
  | .nget pr rel t1 t0 => some (execNget pr rel t1 t0 s)
  | .namo pr rel t1 t0 => some (execNamo pr rel t1 t0 s)
  | .xdisc pr rel chan t1 t0 => some (execXdisc pr rel chan t1 t0 s)
  | .ctlrd pr reg t1 t0 => some (execCtlrd pr reg t1 t0 s)
  | .ctlwr pr reg => some (execCtlwr pr reg s)
  | .ctlset pr reg => some (execCtlset pr reg s)
  | .ctlclr pr reg => some (execCtlclr pr reg s)
  | .eret pr => some (execEret pr s)
  | .ctxsv pr t1 t0 => some (execCtxsv pr t1 t0 s)
  | .ctxld pr => some (execCtxld pr s)
  | .ttinv pr k => some (execTtinv pr k s)
  | .leaseAdd pr => some (execLeaseAdd pr s)
  | .leaseDrop pr => some (execLeaseDrop pr s)
  | .ptok pr t1 t0 => some (execPtok pr t1 t0 s)
  | .hint pr k => some (execHint pr k s)
  | .haltd pr code => some (execHaltd pr code s)
  | .cycrd pr t1 t0 => some (execCycrd pr t1 t0 s)
  | .idle pr => some (execIdle pr s)
  | _ => none

/-- What a step may change of a context's blocks when something of them moves. -/
def Ctx.stands (x : Ctx) : List (List SlotSt × List TrapRec) := x.blks.map fun b => (b.slots.map fun y => y.st, b.traps)

/-- Whether an instruction of a context's k-th block is ready to fire or, a watching MWAIT, can complete (R34, R51). -/
def State.canMove (s : State) (c k : Nat) (b : Blk) (n : Nat) (i : Instr) : Bool :=
  let f : Focus := ⟨c, k, n, false⟩
  let moved (t : State) : Bool := (t.ctx c).stands != (s.ctx c).stands
  if (b.slot n).st == .busy then isMwait i && moved (s.mwaitAgain f b i)
  else b.canFire n i && (match (b.slot n).ready i, State.tryHeld i { s with focus := some f } with
    | .go _, some (.next t) => moved t
    | _, _ => true)

end Sys2Proof.Machine
end

