-- ==== Sys2Proof/Machine/Copy.lean ====
section
/-!
DEFINITION. The copy channels (06 R128, R130 to R134; 11 R275 to R277, R282; 18 R384, R390): the delivery order, one
byte at a time, trim tags, stamps, chains and discards.
-/

namespace Sys2Proof.Machine

/-! Delivery order (R130). -/

/-- A piece of the delivery order: bits of one plane, exponents or elements of one row (of one line, for exponents), over
n consecutive columns from c; top where it is of the plane, or the exponents, that each block's bytes begin with. -/
structure CUnit where
  /-- 0 plane, 1 exponents, 2 elements -/
  kind : Nat
  p : Nat
  r : Nat
  c : Nat
  n : Nat
  top : Bool
  deriving DecidableEq, Repr

/-- Bytes of a piece in the destination. -/
def CUnit.bytes (u : CUnit) (d : Desc) : Nat :=
  match u.kind with
  | 0 => (u.c + u.n - 1) / 8 + 1 - u.c / 8
  | 1 => if d.kmajor then (u.r + u.n - 1) / 32 + 1 - u.r / 32 else (u.c + u.n - 1) / 32 + 1 - u.c / 32
  | _ => u.n * d.esize

/-- The grid cells of h rows and w columns that a region touches, cut to the region: first row, rows, first column,
columns, in row-major order. -/
def gridCells (h w r0 c0 r1 c1 : Nat) : List (Nat × Nat × Nat × Nat) :=
  (List.range ((r1 - 1) / h + 1 - r0 / h)).flatMap fun i =>
    let a := max r0 ((r0 / h + i) * h)
    let b := min r1 ((r0 / h + i + 1) * h)
    (List.range ((c1 - 1) / w + 1 - c0 / w)).map fun j =>
      let x := max c0 ((c0 / w + j) * w)
      let y := min c1 ((c0 / w + j + 1) * w)
      (a, b - a, x, y - x)

/-- The pieces of one plane, or the exponents, in a grid cell. -/
def cellUnits (km : Bool) (kind p : Nat) (top : Bool) (x : Nat × Nat × Nat × Nat) : List CUnit :=
  let (r, h, c, w) := x
  if kind = 1 && km then (List.range w).map fun j => ⟨1, p, r, c + j, h, top⟩
  else (List.range h).map fun i => ⟨kind, p, r + i, c, w, top⟩

/-- The delivery order of a tile copy (R130, R131): destination pieces inside the destination tensor. The exponents stand
in the highest frame plane, so they come first (R89). The destination bytes of an element-major DRAM tensor, whose frames stand
in no order, are taken as ascending by tile number and then by row (log entry 32). -/
def tileUnits (hd hs : View) : List CUnit :=
  let d := hd.d
  let r1 := min (hd.row0 + hs.rows) d.rows
  let c1 := min (hd.col0 + hs.cols) d.cols
  if r1 ≤ hd.row0 || c1 ≤ hd.col0 then []
  else if d.isElem then
    let grid := if d.tiled then gridCells 128 128 hd.row0 hd.col0 r1 c1
      else (List.range (r1 - hd.row0)).map fun i => (hd.row0 + i, 1, hd.col0, c1 - hd.col0)
    grid.flatMap (cellUnits false 2 0 false)
  else
    let (h, w) := if d.tiled then (128, 128) else (d.blkRows, d.blkCols)
    let grid := gridCells h w hd.row0 hd.col0 r1 c1
    let side := if (bfqM d.fmt).isSome then grid.flatMap (cellUnits d.kmajor 1 d.stored true) else []
    side ++ (List.range (hs.hi + 1 - hs.lo)).flatMap fun i =>
      let p := hs.hi - i
      grid.flatMap (cellUnits d.kmajor 0 p (p == hs.hi && side.isEmpty))

/-- The piece and the byte in it at a position of the delivery order. -/
def unitAt (d : Desc) : List CUnit → Nat → Option (CUnit × Nat)
  | [], _ => none
  | u :: us, k => if k < u.bytes d then some (u, k) else unitAt d us (k - u.bytes d)

/-- Bytes of a delivery order. -/
def unitBytes (d : Desc) (us : List CUnit) : Nat := (us.map fun u => u.bytes d).sum

/-! One byte. -/

/-- A place some bytes further. -/
def TLoc.plus (x : TLoc) (n : Nat) : TLoc :=
  match x with
  | .tile t f o => .tile t f (o + n)
  | .spad o => .spad (o + n)
  | .acc o => .acc (o + n)

/-- A tile copy under way: destination and source views, the source's window. -/
structure TileJob where
  hd : View
  hs : View
  deriving DecidableEq, Repr

/-- The source element of a destination element. -/
def TileJob.src (j : TileJob) (r c : Nat) : Nat × Nat := (r + j.hs.row0 - j.hd.row0, c + j.hs.col0 - j.hd.col0)

/-- The destination elements that byte k of a piece holds bits of, or speaks for. -/
def CUnit.cells (u : CUnit) (d : Desc) (k : Nat) : List (Nat × Nat) :=
  match u.kind with
  | 0 => ((List.range 8).map fun i => (u.c / 8 + k) * 8 + i).filterMap fun c =>
      if u.c ≤ c && c < u.c + u.n then some (u.r, c) else none
  | 1 =>
    if d.kmajor then ((List.range 32).map fun i => (u.r / 32 + k) * 32 + i).filterMap fun r =>
        if u.r ≤ r && r < u.r + u.n then some (r, u.c) else none
    else ((List.range 32).map fun i => (u.c / 32 + k) * 32 + i).filterMap fun c =>
        if u.c ≤ c && c < u.c + u.n then some (u.r, c) else none
  | _ => [(u.r, u.c + k / d.esize)]

/-- Where the destination byte stands. -/
def CUnit.dst (u : CUnit) (d : Desc) (k : Nat) : TLoc :=
  let (r, c) := (u.cells d k).headD (u.r, u.c)
  match u.kind with
  | 0 => d.planeAt r c u.p
  | 1 => d.sideAt r c
  | _ => (d.elemAt r c).plus (k % d.esize)

/-- Where a source byte of an element stands, for a piece's kind; none outside the source tensor (R131). -/
def TileJob.from' (j : TileJob) (u : CUnit) (k : Nat) (x : Nat × Nat) : Option TLoc :=
  let d := j.hs.d
  let (r, c) := j.src x.1 x.2
  if !d.has r c then none
  else some (match u.kind with
    | 0 => d.planeAt r c u.p
    | 1 => d.sideAt r c
    | _ => (d.elemAt r c).plus (k % d.esize))

/-- What delivering one byte comes to. -/
inductive CRes
  | ok (s : State)
  /-- the source word cannot be read: the byte is left (R272) -/
  | skip (addr : Nat)
  | absent (addr : Nat)
  | bad (addr : Nat)

/-- The first place of a list that cannot be reached, if any. -/
def State.reach (s : State) (w : Who) (d : Desc) (acc : Acc) (xs : List TLoc) : Option BRes :=
  xs.findSome? fun x => match s.tAt w d x acc with
    | .ok .. => none
    | e => some e

/-- The exponents that the elements of a byte's group bring; elements outside the source bring none (R87, R88). -/
def State.exponents (s : State) (w : Who) (d : Desc) (xs : List TLoc) : List Nat := (xs.map fun x => s.tByte w d x).dedup

/-- The destination byte's new value (R131, R275). Where elements of groups with different exponents meet in one group,
the spec gives the exponent no value: it is free (log entry 7). -/
def State.copyVal (s : State) (w : Who) (j : TileJob) (u : CUnit) (k old : Nat) : Nat × State :=
  let d := j.hs.d
  let cells := u.cells j.hd.d k
  match u.kind with
  | 0 => (cells.foldl (fun v x =>
      let bit := match j.from' u k x with
        | some l => (s.tByte w d l).testBit ((j.src x.1 x.2).2 % 8)
        | none => intFmt d.fmt && d.fill.testBit u.p
      hput v (x.2 % 8) 1 bit.toNat) old, s)
  | 1 =>
    match s.exponents w d (cells.filterMap (j.from' u k)) with
    | [] => (0, s)
    | [e] => (e, s)
    | _ => let (n, s) := s.drawNat; (n % 256, s)
  | _ => (match cells.findSome? (j.from' u k) with
    | some l => s.tByte w d l
    | none => nbits d.fillPat (8 * (k % d.esize)) 8, s)

/-! Tags (R128). -/

/-- Whether a destination block is taken whole from one source block, with every stored plane: the first row of R128. -/
def TileJob.whole (j : TileJob) (r c : Nat) : Bool :=
  let d := j.hd.d
  let (r', c') := j.src r c
  d.kmajor == j.hs.d.kmajor && j.hs.lo == 0 && j.hs.hi + 1 == d.stored && d.coversBlk j.hd.row0 j.hd.col0 j.hs.rows j.hs.cols r c
    && r + d.blkRows ≤ d.rows && c + d.blkCols ≤ d.cols && r' % d.blkRows == 0 && c' % d.blkCols == 0 && j.hs.d.has r' c'

/-- Whether the copy writes every stored plane. -/
def TileJob.full (j : TileJob) : Bool := j.hs.lo == 0 && j.hs.hi + 1 == j.hd.d.stored

/-- The tag written before the first byte of a block: the source's, or 0x1F where some planes are not written. -/
def State.openTag (s : State) (w : Who) (j : TileJob) (r c : Nat) : State :=
  let d := j.hd.d
  let (r0, c0) := (d.blkRow r, d.blkCol c)
  if j.whole r0 c0 then
    let (r', c') := j.src r0 c0
    s.setTag w d r0 c0 (s.tagAt w j.hs.d r' c')
  else if j.full then s else s.setTag w d r0 c0 0x1F

/-- Whether some element of a region lies in the block that starts at a row and column. -/
def TileJob.touches (j : TileJob) (r c : Nat) : Bool :=
  let d := j.hd.d
  overlaps r d.blkRows j.hd.row0 (min j.hs.rows (d.rows - j.hd.row0))
    && overlaps c d.blkCols j.hd.col0 (min j.hs.cols (d.cols - j.hd.col0))

/-- The tag of a destination block all of whose bytes have been written (R128): the source's, written before, or the second
row's. -/
def State.closeTag (s : State) (w : Who) (j : TileJob) (r c : Nat) : State :=
  let d := j.hd.d
  if !d.has r c || j.whole r c || !j.full then s
  else
    let whole := j.hd.row0 ≤ r && j.hd.col0 ≤ c && min (r + d.blkRows) d.rows ≤ j.hd.row0 + j.hs.rows
      && min (c + d.blkCols) d.cols ≤ j.hd.col0 + j.hs.cols
    s.retagWritten w d r c (s.tagAt w d r c) whole

/-- The destination blocks of a copy. -/
def TileJob.blocks (j : TileJob) : List (Nat × Nat) := j.hd.d.blocksOf j.hd.row0 j.hd.col0 j.hs.rows j.hs.cols

/-- The tags written after the last byte. -/
def State.closeTags (s : State) (w : Who) (j : TileJob) : State :=
  if j.hd.d.isElem || !j.full then s else j.blocks.foldl (fun s (r, c) => s.closeTag w j r c) s

/-- The bytes of a delivery order, each with its position and the block it belongs to. -/
def bytesOf (d : Desc) : Nat → List CUnit → List (Nat × Nat × Nat)
  | _, [] => []
  | at', u :: us =>
    ((List.range (u.bytes d)).map fun k =>
      let (r, c) := (u.cells d k).headD (u.r, u.c)
      (at' + k, d.blkRow r, d.blkCol c)) ++ bytesOf d (at' + u.bytes d) us

/-- Whether byte k of a piece is the first of its block that the copy writes, no earlier one having been left unwritten. -/
def TileJob.opens (j : TileJob) (u : CUnit) (k pos : Nat) (missed : List Nat) : Bool :=
  let d := j.hd.d
  let (r, c) := (u.cells d k).headD (u.r, u.c)
  !d.isElem && (if missed.isEmpty then u.top && r == max (d.blkRow r) j.hd.row0 && c == max (d.blkCol c) j.hd.col0
    else ((bytesOf d 0 (tileUnits j.hd j.hs)).filter fun x => x.1 < pos && x.2.1 == d.blkRow r && x.2.2 == d.blkCol c).all
      fun x => missed.contains x.1)

/-- The tags after a copy that left bytes unwritten: a block some of whose bytes were written, but not all, is not trimmed
(R128's third row). -/
def State.brokenTags (s : State) (w : Who) (j : TileJob) (upto : Nat) (missed : List Nat) : State :=
  let d := j.hd.d
  if d.isElem then s
  else
    let all := bytesOf d 0 (tileUnits j.hd j.hs)
    let done (p : Nat) : Bool := p < upto && !missed.contains p
    j.blocks.foldl (fun s (r, c) =>
      match all.filter fun x => x.2.1 == r && x.2.2 == c with
      | [] => s
      | mine =>
        if mine.all fun x => done x.1 then s.closeTag w j r c
        else if mine.any fun x => done x.1 then s.setTag w d r c 0x1F
        else s) s

/-! Delivering. -/

/-- Deliver one byte of a tile copy (R130, R131, R275). -/
def State.copyByte (s : State) (c : Cmd) (j : TileJob) (u : CUnit) (k : Nat) : CRes :=
  let w := c.who
  let xs := ((u.cells j.hd.d k).filterMap (j.from' u k)).dedup
  let dst := u.dst j.hd.d k
  match s.reach w j.hs.d .read xs, s.tAt w j.hd.d dst .write with
  | some (.absent a), _ | none, .absent a => .absent a
  | some (.bad a), _ | none, .bad a => .bad a
  | some (.poison a), _ | none, .poison a => .skip a
  | some (.ok _ _), _ => .bad 0
  | none, .ok l pte =>
    let s := xs.foldl (fun s x => match s.tAt w j.hs.d x .read with
      | .ok l _ => (s.tKeep w j.hs.d x .read).fly c.id l
      | _ => s) s
    let s := (s.tKeep w j.hd.d dst .write).fly c.id l
    match xs.find? fun x => s.tPoison w j.hs.d x 1 with
    | some (.tile t f o) => .skip (match s.tileFind w.q w.b j.hs.d.id t f .read with
        | .ok e => e.flat + o
        | _ => 0)
    | some (.spad o) => .skip (j.hs.d.base + o)
    | some (.acc _) => .skip 0
    | none =>
      let at' := (u.cells j.hd.d k).headD (u.r, u.c)
      let s := if j.opens u k c.pos c.missed then s.openTag w j at'.1 at'.2 else s
      let old := leNat (s.engRead (dieOfBrick c.brick) l pte 1)
      let (v, s) := s.copyVal w j u k old
      .ok (s.engWrite c false l pte (leBytes 1 v))

/-- The byte at a flat place: where it stands, or why it cannot be reached (R376). -/
def State.flatByte (s : State) (w : Who) (a : Nat) (acc : Acc) : BRes :=
  match s.spadLoc w.b a with
  | some (some l) => .ok l 0
  | some none => .bad a
  | none => match s.unitWalk (unitOf w.b) w.q a acc with
    | .ok t => .ok (t.loc a) t.pte
    | .absent t => .absent (a / t.size * t.size)
    | .invalid | .denied => .bad a

/-- The unit keeps the translation that an access has used (R377). -/
def State.flatKeep (s : State) (w : Who) (a : Nat) (acc : Acc) : State :=
  if (s.spadLoc w.b a).isSome || (kget? (tlbKey (unitOf w.b) (a / 2 ^ 16)) (s.part w.q).tlb).isSome then s
  else (s.xlate (unitOf w.b) w.q a acc).2

/-- Deliver one byte of a flat copy (R276). -/
def State.flatCopyByte (s : State) (c : Cmd) (src dst : Nat) : CRes :=
  match s.flatByte c.who src .read, s.flatByte c.who dst .write with
  | .absent a, _ => .absent a
  | .bad a, _ => .bad a
  | .poison a, _ => .skip a
  | .ok .., .absent a => .absent a
  | .ok .., .bad a => .bad a
  | .ok .., .poison a => .skip a
  | .ok l p, .ok l' p' =>
    let s := (((s.flatKeep c.who src .read).flatKeep c.who dst .write).fly c.id l).fly c.id l'
    if !s.dying p && s.readPoison (dieOfBrick c.brick) 0 l 1 then .skip src
    else .ok (s.engWrite c false l' p' (s.engRead (dieOfBrick c.brick) l p 1))

/-- What a channel is copying. -/
inductive Job
  | tile (j : TileJob)
  | flat (src dst len : Nat)
  deriving DecidableEq, Repr

/-- Bytes of a job's delivery order. -/
def Job.bytes : Job → Nat
  | .tile j => unitBytes j.hd.d (tileUnits j.hd j.hs)
  | .flat _ _ len => len

/-- Deliver the byte at a position of a job. -/
def State.jobByte (s : State) (c : Cmd) (jb : Job) (k : Nat) : CRes :=
  match jb with
  | .flat src dst _ => s.flatCopyByte c (src + k) (dst + k)
  | .tile j => match unitAt j.hd.d (tileUnits j.hd j.hs) k with
    | some (u, i) => s.copyByte c j u i
    | none => .ok s

/-- A stamp of a job: where, and its value (R132). -/
abbrev Stamp := Option (Nat × Nat)

/-- The item index of a position: byte offset over 8, with the record's ordinal for a chain (R388). -/
def Cmd.itemOf (c : Cmd) (k : Nat) : Nat :=
  match c.kind with
  | .chain _ => k / 8 + 2 ^ 40 * c.recOrd
  | _ => k / 8

/-- Note that the piece of work under way failed (R272). -/
def Cmd.spoil (c : Cmd) (f : FailRec) : Cmd := { c.failed f with stopped := true, recBad := true }

/-- The tags of a job that ends (R128). -/
def State.jobTags (s : State) (c : Cmd) (jb : Job) : State :=
  match jb with
  | .tile j => if jb.bytes ≤ c.pos && c.missed.isEmpty then s.closeTags c.who j else s.brokenTags c.who j c.pos c.missed
  | .flat .. => s

/-- A delivery order from a position on, whole pieces. -/
def unitsFrom (d : Desc) : List CUnit → Nat → List CUnit
  | [], _ => []
  | u :: us, k => if k < u.bytes d then u :: us else unitsFrom d us (k - u.bytes d)

/-- The 64 KiB part of DRAM that a place lies in. -/
def dramPart : BRes → List Nat
  | .ok l _ => if l.sp == .dram then [l.a / 2 ^ 16 * 2 ^ 16] else []
  | _ => []

/-- The parts of DRAM that the bytes of a job from a position on are read from or written to. -/
def State.partsFrom (s : State) (w : Who) (jb : Job) (pos : Nat) : List Nat :=
  match jb with
  | .flat src dst len =>
    ((piecesOf (src + pos) (len - pos)).flatMap fun p => dramPart (s.flatByte w p.1 .read))
      ++ (piecesOf (dst + pos) (len - pos)).flatMap fun p => dramPart (s.flatByte w p.1 .write)
  | .tile j => (unitsFrom j.hd.d (tileUnits j.hd j.hs) pos).flatMap fun u =>
      let last := u.bytes j.hd.d - 1
      ([0, last].flatMap fun k => dramPart (s.tAt w j.hd.d (u.dst j.hd.d k) .write))
        ++ ((u.cells j.hd.d 0).head?.toList ++ (u.cells j.hd.d last).getLast?.toList).flatMap fun x =>
          ([0, last].filterMap fun k => j.from' u k x).flatMap fun l => dramPart (s.tAt w j.hs.d l .read)

/-- Whether a job may be past its last access to some part: a flat copy at the end of a page, a tile copy, in its last
plane, at a new tile. -/
def Job.passes (jb : Job) (pos : Nat) : Bool :=
  match jb with
  | .flat src dst _ => (src + pos) % 2 ^ 16 = 0 || (dst + pos) % 2 ^ 16 = 0
  | .tile j => match unitAt j.hd.d (tileUnits j.hd j.hs) pos with
    | some (u, 0) => (u.kind == 2 || (u.kind == 0 && u.p == j.hs.lo)) && (u.r % 128 == 0 || u.r == j.hd.row0)
    | _ => false

/-- Lower the in-flight counts of the parts that a job has made its last access to (R381). -/
def State.landPassed (s : State) (id : Nat) (jb : Job) : State :=
  match s.cmd? id with
  | none => s
  | some c =>
    if c.flights.isEmpty || !jb.passes c.pos then s
    else
      let keep := s.partsFrom c.who jb c.pos ++ (match c.kind with
        | .chain _ => dramPart (s.flatByte c.who c.recAddr .write)
        | _ => [])
      s.landBut id keep

/-- Deliver up to n bytes of a job, then its tags and its stamp. The answer says whether the job has ended. -/
def State.jobRun (id : Nat) (jb : Job) (stamp : Stamp) : Nat → State → State × Bool
  | 0, s => (s, false)
  | n + 1, s =>
    match s.cmd? id with
    | none => (s, false)
    | some c =>
      if c.abort then (s.jobTags c jb, true)
      else if c.pos < jb.bytes then
        match s.jobByte c jb c.pos with
        | .ok s => jobRun id jb stamp n ((s.modCmd id fun c =>
            { c with pos := c.pos + 1, wptr := if c.stopped then c.wptr else c.wptr + 1 }).landPassed id jb)
        | .skip a => jobRun id jb stamp n (s.setCmd id
            { c.spoil ⟨0x0F, 0, c.itemOf c.pos, a, 0⟩ with pos := c.pos + 1, missed := c.pos :: c.missed })
        | .absent a => (s.freeze id a (c.itemOf c.pos), false)
        | .bad a => ((s.jobTags c jb).setCmd id (c.spoil ⟨7, 0, c.itemOf c.pos, a, 0⟩), true)
      else
        match if c.recBad then none else stamp with
        | none => (s.jobTags c jb, true)
        | some (a, v) =>
          match s.flatByte c.who a .write with
          | .absent x => (s.freeze id x (c.itemOf c.pos), false)
          | .bad x | .poison x => ((s.jobTags c jb).setCmd id (c.spoil ⟨7, 0, c.itemOf c.pos, x, 0⟩), true)
          | .ok l p =>
            let s := ((s.jobTags c jb).flatKeep c.who a .write).fly id l
            (s.engWrite c false l p (leBytes 8 v) (some (s.payload id)), true)

/-- Where a copy's stamp goes, with its value, the command's number (R275, R276). -/
def Cmd.stampOf (c : Cmd) : Stamp :=
  match c.kind with
  | .copy _ _ st => st.map fun a => (a, c.num)
  | .copyf _ _ _ st => st.map fun a => (a, c.num)
  | _ => none

/-- Whether every source tile of a view, the first one then, lies wholly outside the tensor (R131). -/
def View.allFill (v : View) : Bool := v.d.rows ≤ v.row0 / 128 * 128 || v.d.cols ≤ v.col0 / 128 * 128

/-! Chains (R133, R134). A record under way stands in the command's parameters: its 64 bytes, then the two descriptors. -/

/-- The handle of a region of a tensor that a record names by its descriptor's address (R133). -/
def recHandle (d row0 col0 rows cols lo hi : Nat) : HandleVal :=
  BitVec.ofNat 512 (d % 2 ^ 256 + row0 * 2 ^ 256 + col0 * 2 ^ 288 + rows * 2 ^ 320 + cols * 2 ^ 336 + lo * 2 ^ 352
    + hi * 2 ^ 356 + (Desc.ofNat d).trim.toNat * 2 ^ 360 + 2 ^ 368)

/-- The destination and source of a tile record (R133). -/
def recHandles (bs : List Byte) : HandleVal × HandleVal :=
  let rows := field bs 24 2
  let cols := field bs 26 2
  let lo := field bs 44 1 % 16
  let hi := field bs 44 1 / 16
  (recHandle (leNat ((bs.drop 96).take 32)) (field bs 36 4) (field bs 40 4) rows cols lo hi,
    recHandle (leNat ((bs.drop 64).take 32)) (field bs 28 4) (field bs 32 4) rows cols lo hi)

/-- The job of a record (R133). -/
def recJob (bs : List Byte) : Job :=
  if field bs 45 1 = 0 then .flat (field bs 8 8) (field bs 16 8) (field bs 24 4)
  else .tile ⟨View.of (recHandles bs).1, View.of (recHandles bs).2⟩

/-- The stamp of a record (R133, R134). -/
def recStamp (bs : List Byte) : Stamp :=
  if (field bs 46 1).testBit 0 then some (field bs 48 8, field bs 60 4) else none

/-- Whether the work at hand reads or writes an accumulator alias (R275); of a chain, the record under way (R277). -/
def Cmd.aliasing (c : Cmd) : Bool :=
  let named (a b : View) : Bool := a.d.loc == 2 || b.d.loc == 2
  match c.kind with
  | .copy hd hs _ => named (View.of hd) (View.of hs)
  | .chain _ => c.recBusy && (match recJob c.params with
    | .tile j => named j.hd j.hs
    | .flat .. => false)
  | _ => false

/-- The command at the front of a copy channel, when it may run (R130, R134, R271, R275). -/
def State.chanCmd (s : State) (b ch : Nat) : Option Cmd :=
  let k := s.brick b
  match (if ch = 0 then k.chan0 else k.chan1).head?.bind s.cmd? with
  | none => none
  | some c =>
    let tl7 := (s.task? c.uid).map fun t => (t.tl 7).val
    if c.ended || c.frozen.isSome || !s.relIssued c || (c.aliasing && tl7.any fun v => v < c.tl7) then none else some c

/-- Why a record fails before it moves anything: cause and address. An invalid record is ENGINE_ERROR reason 1. -/
def recFault (t : Task) (bs : List Byte) : Option (Nat × Nat) :=
  if 1 < field bs 45 1 || field bs 46 1 / 2 != 0 || field bs 47 1 != 0 || nbits (field bs 56 8) 4 28 != 0 then some (0x0E, 0)
  else
    let stamp := (recStamp bs).bind fun x =>
      if x.1 % 8 != 0 then some (5, x.1) else if !t.inLease x.1 8 then some (6, x.1) else none
    stamp <|> match recJob bs with
    | .flat src dst len =>
      if len = 0 then some (7, dst) else if !t.inLease src len then some (6, src)
      else if !t.inLease dst len then some (6, dst) else none
    | .tile j =>
      let accBad (d : Desc) : Bool := d.loc == 2 && t.accUnits ≤ d.base
      if !j.hs.d.ok || !j.hd.d.ok || j.hs.rows = 0 || j.hs.cols = 0 || !j.hs.windowOk || j.hs.d.fmt != j.hd.d.fmt
          || j.hs.d.wf != j.hd.d.wf || accBad j.hs.d || accBad j.hd.d then some (0x10, 0)
      else if j.hs.d.tiled && !t.tensors.contains j.hs.d.id then some (6, j.hs.d.base)
      else if j.hd.d.tiled && !t.tensors.contains j.hd.d.id then some (6, j.hd.d.base)
      else none

/-- A read of n bytes of a chain's own structures: bytes, or why not. -/
inductive RecRead
  | ok (bs : List Byte)
  | absent (addr : Nat)
  | bad (cause addr : Nat)

def State.recRead (s : State) (c : Cmd) (t : Task) (a n : Nat) : RecRead :=
  if a % n != 0 then .bad 5 a
  else if !t.inLease a n then .bad 6 a
  else match s.flatByte c.who a .read with
  | .absent x => .absent x
  | .bad x | .poison x => .bad 7 x
  | .ok l p =>
    if s.readPoison (dieOfBrick c.brick) 0 l n && !s.dying p then .bad 0x0F a
    else .ok (s.engRead (dieOfBrick c.brick) l p n)

/-- An access that a chain makes to its own structures is counted (R381), and its translation kept. -/
def State.recFly (s : State) (c : Cmd) (a : Nat) : State :=
  match s.flatByte c.who a .read with
  | .ok l _ => (s.flatKeep c.who a .read).fly c.id l
  | _ => s

/-- CHAIN_RECORD (R134 steps 1 to 3): the channel reads the current record, or stays parked on it. A tile record is noted with
the task's copies, for the MMA that streams from its command (R262). -/
def execChainRecord (brick chan : Nat) (s : State) : Res :=
  match s.chanCmd brick chan with
  | none => .next s
  | some c =>
    match c.kind, s.task? c.uid with
    | .chain _, some t =>
      if c.recBusy || c.abort then .next s
      else
        let item := 2 ^ 40 * c.recOrd
        match s.recRead c t c.recAddr 64 with
        | .absent a => .next (s.freeze c.id a item)
        | .bad cause a => .next (s.setCmd c.id { c.spoil ⟨cause, 0, item, a, 0⟩ with ended := true })
        | .ok bs =>
          let s := s.recFly c c.recAddr
          let c := (s.cmd? c.id).getD c
          if !(field bs 56 1).testBit 0 then .next s
          else
            let start (s : State) (bs : List Byte) (f : Option (Nat × Nat)) : Res :=
              let c := { (s.cmd? c.id).getD c with
                params := bs, recBusy := true, recBad := false, pos := 0, total := ((s.cmd? c.id).getD c).wptr, missed := [], running := true }
              .next (s.setCmd c.id (match f with
                | some (cause, a) => { c.spoil ⟨cause, if cause = 0x0E then 1 else 0, item, a, 0⟩ with running := false }
                | none => c))
            if field bs 45 1 != 1 then start s bs (recFault t bs)
            else match s.recRead c t (field bs 8 8) 32, s.recRead c t (field bs 16 8) 32 with
              | .absent a, _ | .ok _, .absent a => .next (s.freeze c.id a item)
              | .bad cause a, _ | .ok _, .bad cause a => start s bs (some (cause, a))
              | .ok x, .ok y =>
                let all := bs ++ x ++ y
                let s := (s.recFly c (field bs 8 8)).recFly c (field bs 16 8)
                let s := s.modTask c.uid fun t =>
                  { t with copies := t.copies ++ [(c.tl, c.num, (recHandles all).1, (recHandles all).2)] }
                start s all (recFault t all)
    | _, _ => .next s

/-! Where a streaming MMA stands (R262). -/

/-- The physical KiB of scratchpad that a piece of a tile copy writes into. -/
def CUnit.kib (u : CUnit) (s : State) (w : Who) (d : Desc) : Option Nat :=
  match s.tAt w d (u.dst d 0) .write with
  | .ok l _ => if l.sp == .spad then some (l.a / 1024) else none
  | _ => none

/-- Whether some byte at or after a position of a delivery order falls into a KiB of scratchpad. -/
def stillOpen (s : State) (w : Who) (d : Desc) (kib wptr : Nat) : Nat → List CUnit → Bool
  | _, [] => false
  | at', u :: us =>
    (wptr < at' + u.bytes d && u.kib s w d == some kib) || stillOpen s w d kib wptr (at' + u.bytes d) us

/-- The first position of a delivery order that falls into a KiB of scratchpad. -/
def firstIn (s : State) (w : Who) (d : Desc) (kibs : List Nat) : Nat → List CUnit → Option Nat
  | _, [] => none
  | at', u :: us => if (u.kib s w d).any kibs.contains then some at' else firstIn s w d kibs (at' + u.bytes d) us

/-- The KiB of scratchpad that a job writes into. -/
def State.jobKiBs (s : State) (w : Who) (jb : Job) : List Nat :=
  match jb with
  | .tile j => ((tileUnits j.hd j.hs).filterMap fun u => u.kib s w j.hd.d).dedup
  | .flat _ dst len => match s.flatByte w dst .write with
    | .ok l _ => if l.sp == .spad then (List.range ((l.a + len - 1) / 1024 + 1 - l.a / 1024)).map fun i => l.a / 1024 + i else []
    | _ => []

/-- Whether bytes that a job writes into a KiB of scratchpad lie at or after a position. -/
def State.jobOpen (s : State) (w : Who) (jb : Job) (pos kib : Nat) : Bool :=
  match jb with
  | .tile j => stillOpen s w j.hd.d kib pos 0 (tileUnits j.hd j.hs)
  | .flat _ dst len => match s.flatByte w dst .write with
    | .ok l _ => l.sp == .spad && overlaps (l.a + pos) (len - pos) (1024 * kib) 1024
    | _ => false

/-- Whether a job has written into some KiB of scratchpad before a position, or will not. -/
def State.jobBegun (s : State) (w : Who) (jb : Job) (pos : Nat) (kibs : List Nat) : Bool :=
  match jb with
  | .tile j => (firstIn s w j.hd.d kibs 0 (tileUnits j.hd j.hs)).all fun p => p < pos
  | .flat .. => true

/-- The job of a copy. -/
def CmdKind.job : CmdKind → Option Job
  | .copy hd hs _ => some (.tile ⟨View.of hd, View.of hs⟩)
  | .copyf src dst len _ => some (.flat src dst len)
  | _ => none

/-- Whether a command has written a byte of a block, given as KiB of scratchpad, or none of its bytes is left to be written: a
tag that it takes from its source then stands (R128, R262). A chain has, once one of its records has. -/
def State.openedBlk (s : State) (uid chan num : Nat) (kibs : List Nat) : Bool :=
  match s.cmds.find? fun x => x.2.uid == uid && x.2.tl == chan && x.2.num == num with
  | none => true
  | some (_, c) =>
    match c.kind.job with
    | some jb => s.jobBegun c.who jb c.pos kibs
    | none => c.fed.any kibs.contains || (c.recBusy && (s.jobKiBs c.who (recJob c.params)).any kibs.contains
        && s.jobBegun c.who (recJob c.params) c.pos kibs)

/-- Whether every byte a command writes into a KiB of scratchpad has been written, as its write pointer shows, or it has
finished (R262). Of a chain, those of a record that has written there count; what later records may write there is not
waited for (log entry 77). -/
def State.fedKiB (s : State) (uid chan num kib : Nat) : Bool :=
  match s.cmds.find? fun x => x.2.uid == uid && x.2.tl == chan && x.2.num == num with
  | none => true
  | some (_, c) =>
    match c.kind.job with
    | some jb => !s.jobOpen c.who jb c.wptr kib
    | none =>
      let jb := recJob c.params
      (c.fed.contains kib || (c.recBusy && (s.jobKiBs c.who jb).contains kib))
        && !(c.recBusy && s.jobOpen c.who jb (c.wptr - c.total) kib)

/-- Close a record (R134 steps 4 and 5): its control word, a release of the payload, then the next record or the end. The
port freezes where the word's page is not resident (R390); where the word may not be written, the command fails and ends
(log entry 37). -/
def State.closeRecord (s : State) (id : Nat) : State :=
  match s.cmd? id with
  | none => s
  | some c =>
    let x := field c.params 56 8
    let last := x.testBit 1 || field c.params 0 8 = 0 || c.abort
    let x' := hput (hput x 0 1 0) (if c.recBad then 3 else 2) 1 1
    match s.flatByte c.who (c.recAddr + 56) .write with
    | .absent a => if c.abort then s.setCmd id { c with ended := true } else s.freeze id a (c.itemOf c.pos)
    | .bad a | .poison a => s.setCmd id { c.spoil ⟨7, 0, c.itemOf c.pos, a, 0⟩ with ended := true }
    | .ok l p =>
      let s := ((s.flatKeep c.who (c.recAddr + 56) .write).fly id l).engWrite c false l p (leBytes 8 x') (some (s.payload id))
      match s.cmd? id with
      | none => s
      | some c =>
        let fed := if c.stopped then c.fed else (c.fed ++ s.jobKiBs c.who (recJob c.params)).dedup
        (s.setCmd id { c with recBusy := false, fed := fed, recAddr := field c.params 0 8, recOrd := c.recOrd + 1, ended := last,
                              flights := [] }).land c.flights

/-- Whether a job reads or writes the scratchpad. -/
def Job.usesSpad : Job → Bool
  | .tile j => j.hs.d.loc == 1 || j.hd.d.loc == 1
  | .flat src dst _ => Config.localWin ≤ src || Config.localWin ≤ dst

/-- COPY_EXECUTE (R130, R134, R275, R276): the front command of a channel delivers up to n bytes and may end its job. -/
def execCopyExecute (brick chan n : Nat) (s : State) : Res :=
  match s.chanCmd brick chan with
  | none => .next s
  | some c =>
    let go (jb : Job) (fill : Bool) : Res :=
      let s := if c.running then s else s.setCmd c.id { c with running := true, allFill := fill }
      let s := if jb.usesSpad then s.freeConflicts brick c.uid else s
      match s.jobRun c.id jb c.stampOf (n + 1) with
      | (s, true) => .next (s.modCmd c.id fun c => { c with ended := true })
      | (s, false) => .next s
    match c.kind with
    | .copy hd hs _ => go (.tile ⟨View.of hd, View.of hs⟩) (View.of hs).allFill
    | .copyf src dst len _ => go (.flat src dst len) false
    | .chain _ =>
      if !c.recBusy then .next (if c.abort then s.setCmd c.id { c with ended := true } else s)
      else if !c.running then .next (s.closeRecord c.id)
      else
        let jb := recJob c.params
        match (if jb.usesSpad then s.freeConflicts brick c.uid else s).jobRun c.id jb (recStamp c.params) (n + 1) with
        | (s, true) => .next ((s.modCmd c.id fun c => { c with running := false }).closeRecord c.id)
        | (s, false) => .next s
    | _ => .next s

/-! Discard (R282, R384). -/

/-- Set a page's discard state: its bytes read zero from then on, and its die-cache lines are dropped. -/
def State.markPage (s : State) (t : Trans) (disc : Nat) : State :=
  let e := s.dramWord (pteAddr t.pte)
  let s := (s.homeWrite ⟨.dram, pteAddr t.pte⟩ (leBytes 8 (hput e 8 2 disc))).dropTransOf t.pte
  let sp := (t.loc 0).sp
  let s := s.zeroRange sp t.phys t.size
  { s with writes := s.writes.filter fun w => !(w.cached && w.loc.sp == sp && overlaps w.loc.a w.bytes.length t.phys t.size) }

/-- Discard one page (R384): dead, or dying while something is in flight to it. -/
def State.discardPage (s : State) (t : Trans) : State :=
  if !t.host && s.pageInFlight t.phys t.size then s.markPage t 1 else s.markPage t 2

/-- DISCARD_EXECUTE (R282, R384): the next page of an XDISC at the front of its channel. A page only part of which lies in
the range is discarded whole (log entry 26). -/
def execDiscardExecute (brick chan : Nat) (s : State) : Res :=
  match s.chanCmd brick chan with
  | none => .next s
  | some c =>
    match c.kind with
    | .disc base len =>
      if c.abort || len ≤ c.pos then .next (s.setCmd c.id { c with ended := true })
      else
        let a := base + c.pos
        match s.walk c.part a .write with
        | .absent t => .next (s.freeze c.id (a / t.size * t.size) (c.pos / 8))
        | .invalid | .denied => .next (s.setCmd c.id { c.spoil ⟨7, 0, c.pos / 8, a, 0⟩ with ended := true })
        | .ok t =>
          let next := (a / t.size + 1) * t.size - base
          .next ((s.discardPage t).setCmd c.id { c with pos := next, wptr := min next len, ended := len ≤ next })
    | _ => .next s

/-- PAGE_DEATH (R384): a dying page whose in-flight count is zero becomes dead. -/
def execPageDeath (q page : Nat) (s : State) : Res :=
  match s.walk q page .any with
  | .ok t | .absent t => if t.disc = 1 && !s.pageInFlight t.phys t.size then .next (s.markPage t 2) else .next s
  | _ => .next s

/-- ENGINE_COMMAND_FINISH (R135, R272): a command whose work has ended is reported on its timeline. -/
def execEngineCommandFinish (id : Nat) (s : State) : Res :=
  match s.cmd? id with
  | some c => if c.ended then .next (s.finishCmd c) else .next s
  | none => .next s

end Sys2Proof.Machine
end

