-- ==== Sys2Proof/Machine/Grout.lean ====
section
/-!
DEFINITION. The grout fabric's state and shared operations (13 R302 to R309, R320 to R324), and the firings of the GROUT
instructions (R325 to R327).
-/

namespace Sys2Proof.Machine

/-- An operator of a context of a die's fabric. -/
structure OpId where
  die : Nat
  c : Nat
  op : Nat
  deriving DecidableEq, Repr

def State.fctx (s : State) (d c : Nat) : FCtx := kget c FCtx.reset (s.die d).grout
def State.setFctx (s : State) (d c : Nat) (g : FCtx) : State := s.modDie d fun x => { x with grout := kset c g x.grout }
def State.modFctx (s : State) (d c : Nat) (f : FCtx → FCtx) : State := s.setFctx d c (f (s.fctx d c))
def State.fop (s : State) (k : OpId) : FOp := kget k.op FOp.reset (s.fctx k.die k.c).ops
def State.modFop (s : State) (k : OpId) (f : FOp → FOp) : State :=
  s.modFctx k.die k.c fun g => { g with ops := kset k.op (f (s.fop k)) g.ops }

/-- The partition of a die. -/
def State.fpart (s : State) (d : Nat) : Nat := ((s.pier (pierOfDie d)).owner).getD 0

/-- The marker of a fabric context's writes on their way. -/
def fabMark (d c : Nat) : Nat := 2 ^ 40 + 16 * d + c

/-- Whether no write of a context is on its way. -/
def State.fabQuiet (s : State) (d c : Nat) : Bool := s.writes.all fun w => w.cmd != fabMark d c

/-- Open state of an operator (R309): a SNK has none. -/
def FOp.isOpen (o : FOp) : Bool :=
  !o.pend.isEmpty || o.held.isSome || !o.seg0.isEmpty || !o.seg1.isEmpty || o.eos0 || o.eos1 || !o.matches0.isEmpty
    || o.last0.isSome || o.last1.isSome || o.acc.isSome || !o.results.isEmpty || o.cnt != 0 || o.round.isSome

/-- Tokens that stand at an operator. -/
def FOp.tokens (o : FOp) : Nat := o.q0.length + o.q1.length + o.outq.length

/-- Whether an operator holds nothing that a drain waits for (R327): token, open state, pending round or request, or write
to be made. -/
def FOp.quiet (o : FOp) : Bool :=
  o.tokens == 0 && !o.isOpen && !(o.gargs.any fun g => g.1 == 7) && o.recvs.isEmpty && !o.eosPend && !o.firing
    && o.due.isNone

/-- Whether a context holds no token and no open state (R326). -/
def FCtx.idle (g : FCtx) : Bool := g.ops.all fun o => o.2.tokens == 0 && !o.2.isOpen

/-! Faults (R323). -/

/-- Everything an operator holds is discarded, its tokens counted (R323); a completion write due is still made. -/
def FOp.clear (o : FOp) : FOp :=
  { FOp.reset with
    entry := o.entry, cached := o.cached, used := o.used, accepted := o.accepted, rseq := o.rseq, due := o.due
    gargs := o.gargs.filter fun g => g.1 != 7
    discarded := o.discarded + o.tokens }

/-- Error stop (R323): every operator discards the context's tokens and counts them, and rounds are dropped. -/
def FCtx.stop (g : FCtx) : FCtx :=
  { g with faulted := true, errStop := true, ops := g.ops.map fun o => (o.1, o.2.clear) }

/-- The graph of a context's owner. -/
def FCtx.graph (g : FCtx) : Word :=
  match g.owner with
  | some (_, w) => w
  | none => 0

/-- A fault record of the fabric (R323, R387, R388). -/
def State.fabRecord (s : State) (k : OpId) (cause reason addr : Nat) : State :=
  (s.report (s.fpart k.die) { cause := cause, reason := reason, source := 4, graph := (s.fctx k.die k.c).graph, addr := addr,
                              cmd := k.c, item := k.op }).1

/-- A fault inside the fabric (R323): record, error bit, the context faulted and, for some reasons, stopped. -/
def State.fabFault (s : State) (k : OpId) (reason addr : Nat) (stop : Bool) : State :=
  let s := s.fabRecord k 0x11 reason addr
  let s := s.graphError (s.fpart k.die) (s.fctx k.die k.c).graph
  s.modFctx k.die k.c fun g => if stop then g.stop else { g with faulted := true }

/-! Memory accesses of operators (R308, R323). -/

/-- The lease ranges an operator's accesses must lie in: those of the configuration it runs. -/
def State.fabLease (s : State) (k : OpId) : List (Nat × Nat) :=
  let g := s.fctx k.die k.c
  if (s.fop k).next.isSome then g.oldLeases else g.leases

/-- Whether n bytes, as an agent b of a die names them, meet a poisoned word that no write in the die's view covers whole. -/
def State.fabPoison (s : State) (die b a n : Nat) (acc : Acc) : Bool :=
  let q := s.fpart die
  (piecesOf a n).any fun p => match s.flatLoc q b p.1 acc with
    | some l => s.readPoison die 0 l p.2 && !s.dying (s.flatPte q b p.1 acc)
    | none => false

/-- What a read of an operator gives. -/
inductive FabGot
  | val (x : Nat)
  | outside
  | poison
  deriving DecidableEq, Repr

/-- Read n bytes as an operator, without reporting. A page that may not be read counts as outside. -/
def State.fabPeek (s : State) (k : OpId) (a n : Nat) : FabGot :=
  let a := a % 2 ^ 64
  if !covered (s.fabLease k) a n then .outside
  else if s.fabPoison k.die (dieAgent k.die) a n .read then .poison
  else match s.readFlat (s.fpart k.die) (dieAgent k.die) 0 a n with
    | some bs => .val (leNat bs)
    | none => .outside

/-- Read n bytes as an operator (R323): zero outside the lease ranges; none for an uncorrectable word. -/
def State.fabRead (s : State) (k : OpId) (a n : Nat) : Option Nat × State :=
  match s.fabPeek k a n with
  | .val x => (some x, s)
  | .outside => (some 0, s.fabFault k 0x11 (a % 2 ^ 64) false)
  | .poison => (none, s.fabRecord k 0x0F 0 (a % 2 ^ 64))

/-- Whether n bytes can be written at a flat address for an agent of a brick. -/
def State.canWrite (s : State) (q b a n : Nat) : Bool :=
  a + n ≤ 2 ^ 57 && (piecesOf a n).all fun p => (s.flatLoc q b p.1 .write).isSome

/-- Write bytes for a fabric context (R312, R317, R319): into the die cache, where they are visible at .die. -/
def State.fabPut (s : State) (d c b a : Nat) (bs : List Byte) : State :=
  let q := s.fpart d
  ((piecesOf a bs.length).foldl (fun (x : State × List Byte) p =>
    match x.1.flatLoc q b p.1 .write with
    | some l =>
      let pte := x.1.flatPte q b p.1 .write
      let now := x.2.take p.2
      (if l.sp != .dram then x.1.writeNow l now pte
       else
        let (id, s) := x.1.newId
        s.enterCache { id := id, uid := 0, ord := 0, die := d, brick := b, loc := l, bytes := now, cached := true,
                       cmd := fabMark d c, rel := none, deps := [], flat := p.1, pte := pte, trk := [], part := q },
       x.2.drop p.2)
    | none => (x.1, x.2.drop p.2)) (s, bs)).1

/-- A write of an operator through an agent's addresses: made inside the lease ranges only (R323). -/
def State.fabWriteAs (s : State) (k : OpId) (b a : Nat) (bs : List Byte) : State :=
  if covered (s.fabLease k) a bs.length && s.canWrite (s.fpart k.die) b a bs.length then s.fabPut k.die k.c b a bs
  else s.fabFault k 0x11 a false
/-- A write of an operator. -/
def State.fabWrite (s : State) (k : OpId) (a : Nat) (bs : List Byte) : State :=
  s.fabWriteAs k (dieAgent k.die) (a % 2 ^ 64) bs

/-- The status word of a GRECV, a release at .die of the lanes before it (R323, R327). -/
def State.fabStatus (s : State) (k : OpId) (b a : Nat) (bs : List Byte) : State :=
  if !covered (s.fabLease k) a bs.length then s.fabFault k 0x11 a false
  else if s.canWrite (s.fpart k.die) b a bs.length && !s.fabPoison k.die b a bs.length .write then s.fabPut k.die k.c b a bs
  else s.fabFault k 0x16 a false

/-- A completion or status write, a release at .dev of everything before it (R312, R327): at its home, or reason 0x16. -/
def State.fabComplete (s : State) (k : OpId) (b a : Nat) (bs : List Byte) : State :=
  if s.canWrite (s.fpart k.die) b a bs.length && !s.fabPoison k.die b a bs.length .write then s.writeFlat (s.fpart k.die) b a bs
  else s.fabFault k 0x16 a false

/-! Images (R305 to R307). -/

/-- The fields of the configuration word and parameters that R305 gives a kind. -/
def fieldsOk (kind cfg : Nat) (p : List Nat) : Bool :=
  let g (i : Nat) : Nat := lget p i 0
  let rest (i : Nat) : Bool := (p.drop i).all (· == 0)
  let ty := nbits cfg 5 2
  match kind with
  | 0 => cfg < 16 && nbits cfg 0 3 < 4 && !(nbits cfg 0 3 == 2 && cfg.testBit 3) && g 3 == 0 && g 4 < 2 ^ 32
  | 1 => cfg < 2 && 1 ≤ g 4
  | 2 =>
    let op := nbits cfg 0 5
    cfg < 128 && op ≤ 11 && ty ≤ 2 && !(ty == 2 && 5 ≤ op && op ≤ 10) && g 0 < 2 ^ 32 && rest 1
  | 3 => cfg < 128 && nbits cfg 3 2 == 0 && nbits cfg 0 3 ≤ 5 && ty ≤ 2 && g 0 < 2 ^ 32 && rest 1
  | 6 => cfg < 512 && nbits cfg 6 3 ≤ 5 && rest 1
  | 7 | 8 => cfg == 0 && rest 1
  | 9 => cfg < 128 && nbits cfg 2 3 == 0 && nbits cfg 0 2 ≤ 2 && ty ≤ 2 && 1 ≤ g 0 && rest 1
  | 10 => cfg == 0 && 1 ≤ g 1 && g 1 ≤ 65536 && 2 ≤ g 4 && g 4 ≤ 16
  | _ => cfg == 0 && rest 0

/-- A destination field (R306): none where it is malformed. -/
def destOf (w : Nat) : Option (List (Nat × Nat)) :=
  if w = 0 then some []
  else if w.testBit 15 && nbits w 9 6 == 0 then some [(w % 256, nbits w 8 1)] else none

/-- Inputs and explicit outputs of a kind (R304). -/
def kindIns (kind : Nat) : Nat := if kind = 0 then 0 else if kind = 5 then 2 else 1
def kindOuts (kind : Nat) : Nat := if kind = 1 || kind = 8 || kind = 10 || kind = 6 then 0 else if kind = 5 then 2 else 1

/-- An entry of an image, checked by itself (R305 to R307). -/
def parseEntry (bs : List Byte) : Option GEntry :=
  let op := field bs 0 1
  let cfg := field bs 16 8
  let p := (List.range 5).map fun i => field bs (24 + 8 * i) 8
  match groutKind op, destOf (field bs 2 2), destOf (field bs 4 2), destOf (field bs 6 2), destOf (field bs 8 2) with
  | some kind, some a, some b, some x, some y =>
    if field bs 1 1 != 0 || field bs 10 6 != 0 || nbits cfg 60 4 != kind || !fieldsOk kind (cfg % 2 ^ 60) p then none
    else some { op := op, out0 := a ++ b, out1 := x ++ y, cfg := BitVec.ofNat 64 cfg, p := p.map (BitVec.ofNat 64) }
  | _, _, _, _, _ => none

/-- The kind of an entry, and a parameter. -/
def GEntry.kind (e : GEntry) : Nat := wbits e.cfg 60 4
def GEntry.par (e : GEntry) (i : Nat) : Nat := (lget e.p i 0).toNat

/-- The outputs of an entry and their destinations (R306): PART's are implicit, and a destination on an output that the kind
lacks leads nowhere. -/
def GEntry.outs (e : GEntry) : List (Nat × List (Nat × Nat)) :=
  if e.kind = 6 then (List.range (2 ^ wbits e.cfg 6 3)).map fun k => (k, [(e.par 0 + k, 0)])
  else [(0, e.out0), (1, e.out1)].take (kindOuts e.kind)

/-- Every destination of an entry. -/
def GEntry.dests (e : GEntry) : List (Nat × Nat) := e.outs.flatMap (·.2)

/-- The operators that tokens can reach (R307): from SRC and BRIDGE along the routes. -/
def reachable (es : List GEntry) : Nat → List Nat → List Nat
  | 0, r => r
  | n + 1, r =>
    let next := (es.filter fun e => r.contains e.op).flatMap fun e => e.dests.map (·.1)
    reachable es n (r ++ (next.filter fun x => !r.contains x)).dedup

/-- Whether the entries of an image obey R307 together. -/
def entriesOk (es : List GEntry) : Bool :=
  let ids := es.map (·.op)
  let named := es.flatMap fun e => e.out0 ++ e.out1 ++ e.dests
  let feeds := es.flatMap fun e => e.outs.flatMap fun o => o.2.dedup
  let reach := reachable es es.length ((es.filter fun e => e.kind == 0 || e.kind == 11).map (·.op))
  ids.dedup.length == ids.length
    && named.all (fun d => ids.contains d.1 && (match groutKind d.1 with
        | some k => d.2 < kindIns k
        | none => false))
    && feeds.dedup.length == feeds.length
    && es.all (fun e => !reach.contains e.op || kindOuts e.kind == 0 || !e.out0.isEmpty)
    && es.all fun e => e.kind != 6 || (e.dests.all fun d => groutKind d.1 == some 7)
        || e.dests.all fun d => groutKind d.1 == some 8

/-- The page of a flat address, whatever its permissions. -/
def State.anyPage (s : State) (q a : Nat) : Option Trans :=
  match s.walk q a .any with
  | .ok t => some t
  | .absent _ | .invalid | .denied => none

/-- The pages from one address to another: the address of the first without a translation, or those of device DRAM, which
alone are pinned (R381). -/
def State.pagesTo (s : State) (q : Nat) : Nat → Nat → Nat → Except Nat (List PinRec)
  | 0, _, _ => .ok []
  | n + 1, a, stop =>
    if stop ≤ a then .ok []
    else match s.anyPage q a with
      | none => .error (a / 2 ^ 16 * 2 ^ 16)
      | some t =>
        let base := a / t.size * t.size
        match s.pagesTo q n (base + t.size) stop with
        | .ok l => .ok (if t.host then l else ⟨base, t.size, t.phys⟩ :: l)
        | .error x => .error x

/-- A checked image. -/
structure Image where
  leases : List (Nat × Nat)
  pins : List PinRec
  entries : List GEntry
  deriving DecidableEq, Repr

/-- Bytes of an image, or the address of the word that cannot be read (R307). -/
def State.imageBytes (s : State) (die b a n : Nat) : Except Nat (List Byte) :=
  let q := s.fpart die
  match (piecesOf a n).find? fun p => (s.flatLoc q b p.1 .read).isNone with
  | some p => .error p.1
  | none => match s.flatPoison q b 0 a n, s.readFlat q b 0 a n with
    | some x, _ => .error x
    | none, some bs => .ok bs
    | none, none => .error a

/-- Check an image whole (R307): what it says, or the address for the record. -/
def State.checkImage (s : State) (die b a : Nat) : Except Nat Image :=
  match s.imageBytes die b a 128 with
  | .error x => .error x
  | .ok h =>
    let n := field h 0 4
    if n = 0 || 208 < n || field h 4 60 != 0 then .error a
    else match s.imageBytes die b (a + 128) (64 * n) with
    | .error x => .error x
    | .ok body =>
      let ls := ((List.range 4).map fun i => (field h (64 + 16 * i) 8, field h (72 + 16 * i) 8)).filter fun r => r.2 != 0
      let es := (List.range n).map fun i => parseEntry ((body.drop (64 * i)).take 64)
      if ls.any (fun r => Config.localWin < r.1 + r.2) || !es.all Option.isSome || !entriesOk (es.filterMap id) then .error a
      else
        let pages := ls.foldl (fun acc r => match acc, s.pagesTo (s.fpart die) (r.2 / 2 ^ 16 + 2) r.1 (r.1 + r.2) with
          | .error x, _ => .error x
          | .ok _, .error x => .error x
          | .ok l, .ok m => .ok (l ++ m)) (.ok [] : Except Nat (List PinRec))
        match pages with
        | .error x => .error x
        | .ok ps => .ok ⟨ls, ps, es.filterMap id⟩

/-- Pin or unpin a list of pages once each (R308). -/
def State.pinAll (s : State) (l : List PinRec) : State := l.foldl (fun s p => s.pinPage p.phys p.size) s
def State.unpinAll (s : State) (l : List PinRec) : State := l.foldl (fun s p => s.unpinPage p.phys p.size) s

/-- Free a context (R308): unowned, its pages unpinned; a reservation stays. -/
def State.fabFree (s : State) (d c : Nat) : State :=
  let g := s.fctx d c
  (s.setFctx d c { FCtx.reset with resv := g.resv }).unpinAll (g.pins ++ g.oldPins)

/-! Tokens (R303). -/

/-- 512 bits without meaning, behind the lanes that hold no element (R302; log entry 7). -/
def State.blank (s : State) : BitVec 512 × State :=
  (List.range 8).foldl (fun (x : BitVec 512 × State) i =>
    let (w, s) := x.2.drawWord
    (x.1 ||| (w.setWidth 512 <<< (64 * i)), s)) (0, s)

/-- Lane i of a token's lanes. -/
def ftLane (l : BitVec 512) (i : Nat) : BitVec 32 := l.extractLsb' (32 * i) 32
/-- Lanes with lane i replaced. -/
def ftSet (l : BitVec 512) (i : Nat) (x : BitVec 32) : BitVec 512 := BitVec.ofNat 512 (hput l.toNat (32 * i) 32 x.toNat)

/-- The valid lanes of a token, ascending. -/
def ftElems (l : BitVec 512) (m : BitVec 16) : List (BitVec 32) :=
  ((List.range 16).filter m.getLsbD).map (ftLane l)
/-- The present pairs of a token with their numbers (R302). -/
def ftPairs (l : BitVec 512) (m : BitVec 16) : List (Nat × BitVec 32 × BitVec 32) :=
  ((List.range 8).filter fun j => m.getLsbD (2 * j) && m.getLsbD (2 * j + 1)).map fun j =>
    (j, ftLane l (2 * j), ftLane l (2 * j + 1))

/-- A token valid in its first lanes, one per element. -/
def State.tokenOf (s : State) (xs : List (BitVec 32)) (eos : Bool) : FTok × State :=
  let (bg, s) := if xs.length < 16 then s.blank else (0, s)
  let lanes := (List.zip (List.range 16) xs).foldl (fun l x => ftSet l x.1 x.2) bg
  (.tok lanes (BitVec.ofNat 16 (2 ^ xs.length - 1)) eos, s)

/-- Send a token to every destination of an output: it stands at the operator until the receivers have room. -/
def FOp.send (o : FOp) (outs : List (Nat × List (Nat × Nat))) (out : Nat) (t : FTok) : FOp :=
  { o with outq := o.outq ++ (outs.filter fun x => x.1 == out).flatMap fun x => x.2.map fun d => (out, d.1, d.2, t) }
/-- Send a token on an output of an operator's own entry. -/
def State.emit (s : State) (k : OpId) (out : Nat) (t : FTok) : State :=
  s.modFop k fun o => match o.entry with
    | some e => o.send e.outs out t
    | none => o

/-- Queue length of an operator's input (R303). -/
def qRoom (op : Nat) : Nat := if groutKind op = some 11 then 16 else 4

/-- Whether an operator awaits a reconfiguration token at an input from an operator that fed it (R321). -/
def FOp.awaits (o : FOp) (inp sender : Nat) : Bool := o.next.any fun n => n.2.1.contains (inp, sender)
/-- Whether an input takes nothing from an operator yet, since its old feeder's reconfiguration token is still to come: what
the new feeder sends sees the new configuration (R321). -/
def FOp.bars (o : FOp) (inp sender : Nat) : Bool := o.next.any fun n => n.2.1.any fun x => x.1 == inp && x.2 != sender

/-- Whether a reconfiguration token stands at an input until the operator applies its new entry (R321): the awaited one, or
one at an input that the old configuration leaves free, behind which its new feeder's tokens wait. -/
def FOp.takesReconf (o : FOp) (inp sender : Nat) : Bool :=
  o.awaits inp sender || o.next.any fun n => !n.2.1.any fun x => x.1 == inp

/-- A token reaches an operator's input: it waits in the queue, or meets no configuration (R323). A reconfiguration token
that tells the operator nothing goes no further (R321). -/
def State.arriveTok (s : State) (k : OpId) (inp sender : Nat) (t : FTok) : State :=
  let o := s.fop k
  match t with
  | .reconf _ =>
    if !o.takesReconf inp sender then s
    else s.modFop k fun o => if inp = 0 then { o with q0 := o.q0 ++ [t] } else { o with q1 := o.q1 ++ [t] }
  | .tok .. =>
    if (s.fctx k.die k.c).errStop then s.modFop k fun o => { o with discarded := o.discarded + 1 }
    else if o.entry.isNone then
      (s.fabFault k 0x15 0 true).modFop k fun o => { o with discarded := o.discarded + 1 }
    else s.modFop k fun o => if inp = 0 then { o with q0 := o.q0 ++ [t], accepted := o.accepted + 1 }
      else { o with q1 := o.q1 ++ [t], accepted := o.accepted + 1 }

/-- The first token an operator has sent that its receiver has room for; the order to each input is kept (R303). -/
def State.firstMove (s : State) (k : OpId) (shut : List (Nat × Nat)) :
    List (Nat × Nat × Nat × FTok) → Option (Nat × Nat × Nat × FTok)
  | [] => none
  | x :: xs =>
    let (_, r, inp, _) := x
    let o := s.fop ⟨k.die, k.c, r⟩
    let len := if inp = 0 then o.q0.length else o.q1.length
    if shut.contains (r, inp) || o.bars inp k.op || qRoom r ≤ len then s.firstMove k ((r, inp) :: shut) xs else some x

/-- Move the tokens an operator has sent to the queues with room, at most n of them. -/
def State.pumpOp (s : State) (k : OpId) : Nat → State
  | 0 => s
  | n + 1 =>
    match s.firstMove k [] (s.fop k).outq with
    | none => s
    | some x =>
      ((s.modFop k fun o => { o with outq := o.outq.erase x }).arriveTok ⟨k.die, k.c, x.2.1⟩ x.2.2.1 k.op x.2.2.2).pumpOp k n

/-- Move every token of a context that has room to move. -/
def State.pump (s : State) (d c : Nat) : State :=
  ((s.fctx d c).ops.map (·.1)).foldl (fun s op => s.pumpOp ⟨d, c, op⟩ (s.fop ⟨d, c, op⟩).outq.length) s

/-! Arguments (R322). -/

/-- Arguments on hold take effect at a boundary: the parameters of the entry change. A SRC's start ends the run of those
that apply between two rounds, and arguments given after a reconfiguration wait for its entry (R321). -/
def FOp.applyArgs (o : FOp) : List (Nat × Word × Nat) → FOp
  | [] => { o with gargs := [] }
  | (r, v, n) :: rest =>
    if r = 7 || o.next.any (fun x => x.1 ≤ n) then { o with gargs := (r, v, n) :: rest }
    else ({ o with entry := o.entry.map fun (e : GEntry) => { e with p := lset e.p r v } }).applyArgs rest

/-- At a boundary of an operator. -/
def FOp.boundary (o : FOp) : FOp := o.applyArgs o.gargs

/-! Commands of the fabric (R324). -/

/-- The first command of a task for a fabric context among those that wait, when its stores have performed at .die: it may
reach the fabric (R324); the commands for another context do not hold it back (R303). -/
def State.gReady (s : State) (m : GMsg) : Bool :=
  let q := (s.die (dieOfCtx (ctxOfId m.ctxId))).gq
  ((q.find? fun x => x.uid == m.uid && x.c == m.c).map (·.id)) == some m.id && s.writesPerformed m.deps .die

/-- The first command for a context of a die that may reach the fabric and meets a test. -/
def State.gCommand (s : State) (d c : Nat) (p : GKind → Bool) : Option GMsg :=
  (s.die d).gq.find? fun m => m.c == c && p m.kind && s.gReady m

/-- The fabric has accepted a command. -/
def State.gAccept (s : State) (d : Nat) (m : GMsg) : State :=
  s.modDie d fun x => { x with gq := x.gq.filter fun y => y.id != m.id }

/-- The brick a command came from. -/
def GMsg.brick (m : GMsg) : Nat := brickOfCtx (ctxOfId m.ctxId)

/-! Ownership as a firing sees it (R326). -/

/-- The owner after a command has reached the fabric. -/
def GKind.ownAfter (who : Nat × Word) (kind : GKind) (o : Option (Nat × Word)) : Option (Nat × Word) :=
  match kind with
  | .gcfg _ => some who
  | .gdrain _ _ true => none
  | _ => o

/-- The GROUT commands on a context that a block will send, from its slots below a bound. -/
def Blk.grouts (b : Blk) (c below : Nat) : List GKind :=
  b.effs.filterMap fun (n, e) => match e with
    | .grout c' kind => if n < below && c' == c then some kind else none
    | _ => none

/-- The owner that older blocks of the task and lower slots leave a context (R326). -/
def State.gOwner (s : State) (f : Focus) (t : Task) (c : Nat) : Option (Nat × Word) :=
  let d := dieOfCtx f.ctx
  let g := s.fctx d c
  let base := match g.drain with
    | some (_, _, true, _, u) => if u = t.uid then none else g.owner
    | _ => g.owner
  let sent := ((s.die d).gq.filter fun m => m.c == c && m.uid == t.uid).foldl (fun o m => m.kind.ownAfter (m.part, m.graph) o) base
  let x := s.ctx f.ctx
  let older := (x.blks.take f.blk).flatMap fun b => b.grouts c 128
  let own := match x.blks[f.blk]? with
    | some b => b.grouts c f.slot
    | none => []
  (older ++ own).foldl (fun o k => k.ownAfter (t.part, t.graph) o) sent

/-- TRAPINFO of GROUT_CONFIG (R326). -/
def groutInfo (reason c op : Nat) : Word := BitVec.ofNat 64 (reason + 2 ^ 8 * c + 2 ^ 12 * op)

/-- Whether a reservation is one of a task's partition and graph (R326). -/
def State.resvOurs (s : State) (t : Task) (r : Nat × Nat × Nat) : Bool :=
  (s.task? r.1).any fun x => x.part == t.part && x.graph == t.graph

/-- Whether GCFG may take a context (R326). -/
def State.gcfgOk (s : State) (f : Focus) (t : Task) (c : Nat) : Bool :=
  let g := s.fctx (dieOfCtx f.ctx) c
  match s.gOwner f t c with
  | some w => w == (t.part, t.graph) && g.idle
  | none => g.resv.all (s.resvOurs t)

/-- Whether another GROUT instruction may use a context (R326). -/
def State.gUseOk (s : State) (f : Focus) (t : Task) (c : Nat) : Bool :=
  match s.gOwner f t c with
  | some w => w == (t.part, t.graph)
  | none => (s.fctx (dieOfCtx f.ctx) c).resv.any (s.resvOurs t)

/-- The reservation a GCFG makes at firing (R326). -/
def State.gReserve (s : State) (f : Focus) (uid c : Nat) : State :=
  match s.blk? f.ctx f.blk with
  | some b => s.modFctx (dieOfCtx f.ctx) c fun g => { g with resv := g.resv ++ [(uid, b.ord, f.slot)] }
  | none => s

/-- Fire a GROUT command: the ownership check (R326), the checks of its address as bytes to read or write (R189, R327),
then what it leaves at commit. -/
def fireGrout (i : Instr) (c op : Nat) (checks : List Tok → List (Word × Nat × Acc)) (kind : List Tok → GKind) (s : State) :
    Res :=
  fireG i (fun f ops s => match s.taskOf f.ctx with
    | none => .wait
    | some t =>
      let isCfg : Bool := match i with
        | .gcfg .. => true
        | _ => false
      if isCfg && !s.gcfgOk f t c then .trap s 0x11 (groutInfo 1 c op)
      else if !isCfg && !s.gUseOk f t c then .trap s 0x11 (groutInfo 2 c op)
      else
        match (checks ops).findSome? fun x => match s.check t (brickOfCtx f.ctx) x.1 x.2.1 x.2.2 with
          | (.bad cause a, _) => some (cause, a)
          | _ => none with
        | some (cause, a) => .trap s cause a
        | none =>
          let s := s.eff f (.grout c (kind ops))
          .done (if isCfg then s.gReserve f t.uid c else s) []) s

/-- The checks of an image's header: 128 bytes at a multiple of 64 (R327). -/
def imageChecks (a : Word) : List (Word × Nat × Acc) := [(a, 64, .read), (a + 64, 64, .read)]


/-- R325, R327. -/
def execGcfg (pr : Pr) (c : BitVec 4) (s : State) : Res :=
  fireGrout (.gcfg pr c) c.toNat 0xFF (fun ops => imageChecks (opw ops 0)) (fun ops => .gcfg (opw ops 0).toNat) s

/-- R325, R327. -/
def execGarg (pr : Pr) (op : BitVec 8) (c reg : BitVec 4) (s : State) : Res :=
  fireGrout (.garg pr op c reg) c.toNat op.toNat (fun _ => []) (fun ops => .garg op.toNat reg.toNat (opw ops 0)) s

/-- R325, R327: the lanes are read at commit. -/
def execGsend (pr : Pr) (op : BitVec 8) (c : BitVec 4) (s : State) : Res :=
  fireGrout (.gsend pr op c) c.toNat op.toNat (fun ops => [(opw ops 0, 64, .read)])
    (fun ops => .gsend op.toNat ((opw ops 0).setWidth 512) ((opw ops 1).setWidth 16) ((opw ops 1).getLsbD 16)) s

/-- R325, R327. -/
def execGrecv (pr : Pr) (op : BitVec 8) (c : BitVec 4) (s : State) : Res :=
  fireGrout (.grecv pr op c) c.toNat op.toNat (fun ops => [(opw ops 0, 64, .write), (opw ops 0 + 64, 8, .write)])
    (fun ops => .grecv op.toNat (opw ops 0).toNat) s

/-- R325, R327. -/
def execGreconf (pr : Pr) (op : BitVec 8) (c : BitVec 4) (s : State) : Res :=
  fireGrout (.greconf pr op c) c.toNat op.toNat (fun ops => imageChecks (opw ops 0))
    (fun ops => .greconf op.toNat (opw ops 0).toNat) s

/-- R325, R327: status at firing, without waiting for anything else. -/
def execGstat (pr : Pr) (op : BitVec 8) (c : BitVec 4) (t1 t0 : Target) (s : State) : Res :=
  fireG (.gstat pr op c t1 t0) (fun f _ s =>
    let g := s.fctx (dieOfCtx f.ctx) c.toNat
    let o := s.fop ⟨dieOfCtx f.ctx, c.toNat, op.toNat⟩
    let n := (o.q0.filter fun t => match t with
      | .tok .. => true
      | .reconf _ => false).length
    let st := o.cached.toNat + 2 * o.isOpen.toNat + 4 * min n 4 + 2 ^ 8 * g.faulted.toNat + 2 ^ 9 * g.owner.isSome.toNat
      + 2 ^ 10 * g.errStop.toNat
    .done s [.s (BitVec.ofNat 64 o.accepted), .s (BitVec.ofNat 64 st)]) s

/-- R325, R327. -/
def execGdrain (pr : Pr) (c : BitVec 4) (free : Bool) (s : State) : Res :=
  fireGrout (.gdrain pr c free) c.toNat 0xFF (fun ops => [(opw ops 0, 8, .write)])
    (fun ops => .gdrain (opw ops 0).toNat (opw ops 1) free) s

end Sys2Proof.Machine
end

