-- ==== Sys2Proof/Machine/Fabric.lean ====
section
/-!
DEFINITION. The grout fabric's own steps (13 R308 to R327): commands that reach it, configuration, reconfiguration, and one
step for each kind of operator.
-/

namespace Sys2Proof.Machine

/-! Configuration. -/

/-- GCFG_APPLY (R307, R308, R327): the context becomes owned, its image is checked and its pages are pinned. -/
def execGcfgApply (die c : Nat) (s : State) : Res :=
  match s.gCommand die c fun k => match k with
    | .gcfg _ => true
    | _ => false with
  | none => .next s
  | some m =>
    match m.kind with
    | .gcfg a =>
      if (s.fctx die c).drain.isSome || (s.fctx die c).ops.any fun o => o.2.due.isSome then .next s
      else
        let s := (s.gAccept die m).fabFree die c
        let s := s.modFctx die c fun g =>
          { g with owner := some (m.part, m.graph), image := a, resv := g.resv.eraseP fun r => r.1 == m.uid && r.2.1 == m.ord }
        match s.checkImage die m.brick a with
        | .error x => .next (s.fabFault ⟨die, c, 0xFF⟩ 0x10 x true)
        | .ok im => .next ((s.modFctx die c fun g =>
            { g with leases := im.leases, pins := im.pins,
                     ops := im.entries.foldl (fun l e => kset e.op { FOp.reset with entry := some e } l) [] }).pinAll im.pins)
    | _ => .next s

/-- The inputs of an operator, with the operators among some that feed them. -/
def feeders (es : List GEntry) (live : List Nat) (op : Nat) : List (Nat × Nat) :=
  ((es.filter fun e => live.contains e.op).flatMap fun e => (e.dests.filter fun d => d.1 == op).map fun d => (d.2, e.op)).dedup

/-- The operators that a reconfiguration token reaches along the old routes (R321). -/
def tokenPath (olds : List GEntry) : List Nat :=
  reachable olds olds.length ((olds.filter fun e => e.kind == 0 || e.kind == 11).map (·.op))

/-- The destinations of the old and the new outputs, each once (R321). -/
def bothDests (old new : Option GEntry) : List (Nat × Nat) :=
  let d (e : Option GEntry) : List (Nat × Nat) := match e with
    | some e => e.dests
    | none => []
  (d old ++ d new).dedup

/-- Forward a reconfiguration token (R321). -/
def FOp.forward (o : FOp) (id : Nat) (ds : List (Nat × Nat)) : FOp :=
  { o with outq := o.outq ++ ds.map fun d => (0, d.1, d.2, .reconf id) }

/-- The entry that applies, with the arguments given before it dropped (R321, R322); its cached copy is invalid (R309). An
operator absent from the image keeps none, a round's start among them. -/
def FOp.install (o : FOp) (id : Nat) (e : Option GEntry) : FOp :=
  { o with entry := e, next := none, cached := false,
           gargs := o.gargs.filter fun g => e.isSome && (g.1 == 7 || id ≤ g.2.2) }

/-- What the arrival of a reconfiguration means for one operator (R321): entry operators get its token in this step, and an
operator of the new image alone, which the old configuration routes nothing to, is configured. A BRIDGE routes anew at once
and drains its input under the old configuration. -/
def reconfOp (olds news : List GEntry) (id op : Nat) (o : FOp) : FOp :=
  let new := news.find? fun e => e.op == op
  match o.entry with
  | none => o.install id new
  | some old =>
    let ins := feeders olds (tokenPath olds) op
    if old.kind = 11 then
      let o := o.forward id (bothDests (some old) new)
      if ins.isEmpty then o.install id new
      else { o with next := some (id, ins, new), cached := false,
                    entry := some { old with out0 := match new with
                      | some e => e.out0
                      | none => [] } }
    else if old.kind = 0 || !ins.isEmpty then { o with next := some (id, ins, new), cached := false }
    else o.install id new

/-- GRECONF_APPLY (R321, R327): the new image is checked and a reconfiguration token enters at every entry operator. -/
def execGreconfApply (die c : Nat) (s : State) : Res :=
  match s.gCommand die c fun k => match k with
    | .greconf .. => true
    | _ => false with
  | none => .next s
  | some m =>
    match m.kind with
    | .greconf op a =>
      let g := s.fctx die c
      if g.ops.any fun o => o.2.next.isSome then .next s
      else
        let s := s.gAccept die m
        if g.errStop || g.owner.isNone then .next s
        else if (s.fop ⟨die, c, op⟩).entry.isNone then .next (s.fabFault ⟨die, c, op⟩ 0x10 a true)
        else match s.checkImage die m.brick a with
        | .error x => .next (s.fabFault ⟨die, c, op⟩ 0x10 x true)
        | .ok im =>
          let id := g.reconfs + 1
          let olds := g.ops.filterMap fun o => o.2.entry
          let ids := (g.ops.map (·.1) ++ im.entries.map (·.op)).dedup
          let ops := ids.foldl (fun l i => kset i (reconfOp olds im.entries id i (kget i FOp.reset g.ops)) l) g.ops
          .next (((s.setFctx die c
            { g with image := a, leases := im.leases, pins := im.pins, oldLeases := g.leases, oldPins := g.pins ++ g.oldPins,
                     ops := ops, reconfs := id }).pinAll im.pins).pump die c)
    | _ => .next s

/-- A reconfiguration is over when no operator awaits its token: the old pages are unpinned. -/
def State.reconfDone (s : State) (d c : Nat) : State :=
  let g := s.fctx d c
  if g.ops.any (fun o => o.2.next.isSome || o.2.due.isSome) || g.oldPins.isEmpty then s
  else (s.setFctx d c { g with oldLeases := [], oldPins := [] }).unpinAll g.oldPins

/-- Whether a queue's head is the reconfiguration token of an id. -/
def headIs (id : Nat) : List FTok → Bool
  | .reconf i :: _ => i == id
  | _ => false
/-- A queue without a reconfiguration token at its head. -/
def dropReconf : List FTok → List FTok
  | .reconf _ :: r => r
  | l => l

/-- RECONF_TOKEN (R321): an operator whose token has reached every input that its old configuration routes applies its new
entry and forwards the token. An EXQ first stores the elements of the tokens ahead, and ends the firing under way. -/
def execReconfToken (die c op : Nat) (s : State) : Res :=
  let k : OpId := ⟨die, c, op⟩
  let o := s.fop k
  match o.next with
  | none => .next s
  | some (id, ins, new) =>
    let here := ins.all fun i => headIs id (if i.1 = 0 then o.q0 else o.q1)
    let storing := groutKind op == some 10 && (!o.pend.isEmpty || o.eosPend)
    if !here || o.round.isSome || o.firing || storing || !o.outq.isEmpty then .next s
    else
      let o' := { o with q0 := dropReconf o.q0, q1 := dropReconf o.q1 }
      let ds := bothDests o.entry new
      let o' := o'.install id new
      let bridge := groutKind op = some 11
      .next (((s.modFop k fun _ => if bridge then o' else o'.forward id ds).reconfDone die c).pump die c)

/-- GARG_APPLY (R322): an argument reaches its operator, and waits there for a boundary or applies at once. One for an
operator absent from the current image, of a reconfiguration under way the new one, changes nothing. -/
def execGargApply (die c op : Nat) (s : State) : Res :=
  let k : OpId := ⟨die, c, op⟩
  let s := match s.gCommand die c fun x => match x with
      | .garg o _ _ => o == op
      | _ => false with
    | none => s
    | some m =>
      match m.kind with
      | .garg _ r v =>
        let s := s.gAccept die m
        let g := s.fctx die c
        let o := s.fop k
        let absent := match o.next with
          | some (_, _, e) => e.isNone
          | none => o.entry.isNone
        if absent || (g.errStop && r == 7) then s
        else s.modFop k fun o => { o with gargs := o.gargs ++ [(r, v, g.reconfs)] }
      | _ => s
  .next (if (s.fop k).isOpen then s else s.modFop k FOp.boundary)

/-- GSEND_ARRIVAL (R303, R320): a BRIDGE takes a task's token and sends it on. GSTAT's count of accepted tokens (R327) counts
those that come to its input queue, and not these (log entry 62). -/
def execGsendArrival (die c op : Nat) (s : State) : Res :=
  match s.gCommand die c fun x => match x with
    | .gsend o .. => o == op
    | _ => false with
  | none => .next s
  | some m =>
    match m.kind with
    | .gsend _ lanes mask eos =>
      let k : OpId := ⟨die, c, op⟩
      let o := s.fop k
      let g := s.fctx die c
      let bare := o.entry.isNone || o.next.any fun n => n.2.2.isNone
      if g.drain.isSome || !o.outq.isEmpty || (!g.errStop && !bare && !o.cached) then .next s
      else
        let s := s.gAccept die m
        if g.errStop || bare then
          let s := if g.errStop then s else s.fabFault k 0x15 0 true
          .next (s.modFop k fun o => { o with discarded := o.discarded + 1 })
        else
          let (n, s) := s.newId
          .next (((s.modFop k fun o => { o with used := n }).emit k 0 (.tok lanes mask eos)).pump die c)
    | _ => .next s

/-- GRECV_DELIVER (R320, R327): a request reaches a BRIDGE, or the oldest token there meets the oldest request: lanes, then
the status word, inside the context's lease ranges (R308); where one of the two cannot be written, the other is (R323). -/
def execGrecvDeliver (die c op : Nat) (s : State) : Res :=
  let k : OpId := ⟨die, c, op⟩
  match s.gCommand die c fun x => match x with
    | .grecv o _ => o == op
    | _ => false with
  | some m =>
    match m.kind with
    | .grecv _ a =>
      let s := s.gAccept die m
      if (s.fctx die c).errStop then .next s
      else .next (s.modFop k fun o => { o with recvs := o.recvs ++ [(a, m.brick)] })
    | _ => .next s
  | none =>
    let o := s.fop k
    match o.q0, o.recvs with
    | .tok lanes mask eos :: rest, (a, b) :: rs =>
      if !o.cached then .next s
      else
        let seq := o.rseq + 1
        let s := s.modFop k fun o => { o with q0 := rest, recvs := rs, rseq := seq }
        let status := seq % 2 ^ 32 * 2 ^ 32 + eos.toNat * 2 ^ 16 + mask.toNat
        .next (((s.fabWriteAs k b a (leBytes 64 lanes.toNat)).fabStatus k b (a + 64) (leBytes 8 status)).pump die c)
    | _, _ => .next s

/-- GDRAIN_ARRIVAL (R327): from here on the context takes no GSEND token, and every EXQ flushes as if at EOS. -/
def execGdrainArrival (die c : Nat) (s : State) : Res :=
  match s.gCommand die c fun x => match x with
    | .gdrain .. => true
    | _ => false with
  | none => .next s
  | some m =>
    match m.kind with
    | .gdrain a v free =>
      if (s.fctx die c).drain.isSome then .next s
      else .next ((s.gAccept die m).modFctx die c fun g =>
        { g with drain := some (a, v, free, m.brick, m.uid)
                 ops := g.ops.map fun o => (o.1, if groutKind o.1 = some 10 && o.2.cnt != 0 && !o.2.firing then
                   { o.2 with eosPend := true } else o.2) })
    | _ => .next s

/-- GDRAIN_COMPLETE (R308, R323, R327): nothing of the context remains, so the completion word is written and a .free drain
frees the context. An EXQ that has collected elements since is flushed first. -/
def execGdrainComplete (die c : Nat) (s : State) : Res :=
  let g := s.fctx die c
  match g.drain with
  | none => .next s
  | some (a, v, free, b, _) =>
    let tokens := (g.ops.map fun o => o.2.tokens).sum
    let late := g.ops.filter fun o => groutKind o.1 == some 10 && o.2.cnt != 0 && !o.2.firing && !o.2.eosPend
    if tokens = 0 && !late.isEmpty then
      .next (s.setFctx die c { g with ops := g.ops.map fun o => (o.1, if late.any fun l => l.1 == o.1 then
        { o.2 with eosPend := true } else o.2) })
    else if !(g.ops.all fun o => o.2.quiet) || !s.fabQuiet die c then .next s
    else
      let word := v.toNat % 2 ^ 63 + g.faulted.toNat * 2 ^ 63
      let s := s.fabComplete ⟨die, c, 0xFF⟩ b a (leBytes 8 word)
      .next (if free then s.fabFree die c else s.modFctx die c fun g => { g with drain := none })

/-! The cache of configurations (R309). -/

/-- The contexts whose configuration an operator caches on a die. -/
def State.cachedCtxs (s : State) (die op : Nat) : List Nat :=
  (List.range 15).filter fun c => (s.fop ⟨die, c, op⟩).cached

/-- Whether an operator may evict a context: no open state, no queued token. -/
def FOp.evictable (o : FOp) : Bool := !o.isOpen && o.q0.isEmpty && o.q1.isEmpty

/-- Whether an operator has something to do in a context for which it needs the entry (R309): a token at an input, a GSEND, a
start, or open state. -/
def State.needsEntry (s : State) (k : OpId) : Bool :=
  let o := s.fop k
  (o.q0 ++ o.q1).any (fun t => match t with
    | .tok .. => true
    | .reconf _ => false)
    || o.isOpen || o.eosPend || o.gargs.any (fun g => g.1 == 7)
    || (s.gCommand k.die k.c fun m => match m with
      | .gsend op .. => op == k.op
      | _ => false).isSome

/-- CONFIG_FETCH (R309): an operator caches the entry of an uncached context that it needs, evicting the least recently used
one that it may evict. -/
def execConfigFetch (die c op : Nat) (s : State) : Res :=
  let k : OpId := ⟨die, c, op⟩
  let o := s.fop k
  if o.entry.isNone || o.cached || !s.needsEntry k then .next s
  else
    let held := s.cachedCtxs die op
    let take (s : State) : State := let (n, s) := s.newId; s.modFop k fun o => { o with cached := true, used := n }
    if held.length < 4 then .next (take s)
    else
      let oldest := (held.filter fun x => (s.fop ⟨die, x, op⟩).evictable).foldl (fun b x => match b with
        | none => some x
        | some y => if (s.fop ⟨die, x, op⟩).used < (s.fop ⟨die, y, op⟩).used then some x else some y) (none : Option Nat)
      match oldest with
      | none => .next s
      | some x => .next (take (s.modFop ⟨die, x, op⟩ fun o => { o with cached := false }))

/-! Taking tokens. -/

/-- An operator that may work in a context: its entry is cached, nothing of it waits to leave, the context runs. -/
def State.opEntry (s : State) (k : OpId) (kind : Nat) : Option GEntry :=
  let o := s.fop k
  let g := s.fctx k.die k.c
  if g.errStop || g.owner.isNone || !o.cached || !o.outq.isEmpty || groutKind k.op != some kind then none else o.entry

/-- The data token at the head of an input. -/
def headTok (l : List FTok) : Option (BitVec 512 × BitVec 16 × Bool) :=
  match l with
  | .tok a m e :: _ => some (a, m, e)
  | _ => none

/-- The token at an input's head, taken. -/
def State.takeTok (s : State) (k : OpId) (inp : Nat) : State :=
  let (n, s) := s.newId
  s.modFop k fun o => if inp = 0 then { o with q0 := o.q0.tail, used := n } else { o with q1 := o.q1.tail, used := n }

/-- After the EOS of an input-0 segment, arguments on hold apply (R322). -/
def State.afterEos (s : State) (k : OpId) (eos : Bool) : State := if eos then s.modFop k FOp.boundary else s

/-- A step of an operator with one input: act works on the token taken. -/
def State.opStep (s : State) (k : OpId) (kind : Nat)
    (act : State → GEntry → BitVec 512 → BitVec 16 → Bool → State) : Res :=
  match s.opEntry k kind, headTok (s.fop k).q0 with
  | some e, some (l, m, eos) => .next (((act (s.takeTok k 0) e l m eos).afterEos k eos).pump k.die k.c)
  | _, _ => .next s

/-! SRC (R310, R311). -/

/-- One SRC's round: mode, pairs, parameters. -/
structure SrcCfg where
  mode : Nat
  pair : Bool
  p0 : Nat
  p1 : Nat
  p2 : Nat
  share : Nat
  shares : Nat
  deriving DecidableEq, Repr

def SrcCfg.of (e : GEntry) : SrcCfg :=
  { mode := wbits e.cfg 0 3, pair := e.cfg.getLsbD 3, p0 := e.par 0, p1 := e.par 1, p2 := e.par 2,
    share := e.par 4 % 2 ^ 16, shares := e.par 4 / 2 ^ 16 % 2 ^ 16 }

/-- Elements per token. -/
def SrcCfg.per (x : SrcCfg) : Nat := if x.pair || x.mode = 2 then 8 else 16

/-- A row pointer, quietly: none where it cannot be read. -/
def State.rowPtr (s : State) (k : OpId) (x : SrcCfg) (r : Nat) : Option Nat :=
  match s.fabPeek k (x.p1 + 4 * r) 4 with
  | .val v => some v
  | .outside => some 0
  | .poison => none

/-- nnz of a segmented round with shares (R311). -/
def State.nnzOf (s : State) (k : OpId) (x : SrcCfg) : Nat :=
  match s.rowPtr k x 0, s.rowPtr k x x.p2 with
  | some a, some b => b - a
  | _, _ => 0

/-- The elements of a row, from and to: an empty row where R310 or R311 makes it so. -/
def State.rowOf (s : State) (k : OpId) (x : SrcCfg) (r : Nat) : Nat × Nat :=
  if x.shares != 0 && s.nnzOf k x == 0 then (0, 0)
  else match s.rowPtr k x r, s.rowPtr k x (r + 1) with
  | some a, some b => if a < b then (a, b) else (0, 0)
  | _, _ => (0, 0)

/-- The share of a row (R311): fuel bounds the search for the next row with elements. -/
def State.shareOf (s : State) (k : OpId) (x : SrcCfg) : Nat → Nat → Nat
  | 0, _ => x.shares - 1
  | n + 1, r =>
    if x.p2 ≤ r then x.shares - 1
    else
      let (a, b) := s.rowOf k x r
      if a < b then min (x.shares - 1) ((a - (s.rowPtr k x 0).getD 0) * x.shares / s.nnzOf k x) else s.shareOf k x n (r + 1)

/-- Whether the SRC emits a row (R311). -/
def State.emitsRow (s : State) (k : OpId) (x : SrcCfg) (r : Nat) : Bool :=
  x.shares == 0 || s.shareOf k x (x.p2 + 1) r == x.share

/-- The first row at or after r that the SRC emits. -/
def State.rowFrom (s : State) (k : OpId) (x : SrcCfg) : Nat → Nat → Option Nat
  | 0, _ => none
  | n + 1, r => if x.p2 ≤ r then none else if s.emitsRow k x r then some r else s.rowFrom k x n (r + 1)

/-- Read a row pointer, with what R323 has reported. -/
def State.ptrReport (s : State) (k : OpId) (x : SrcCfg) (r : Nat) : State := (s.fabRead k (x.p1 + 4 * r) 4).2

/-- A round with shares reads ptr[0] and ptr[p2] first (R310, R311). -/
def State.roundReport (s : State) (k : OpId) (x : SrcCfg) : State :=
  if x.shares = 0 then s
  else
    let s := s.ptrReport k x 0
    if x.p2 = 0 then s else s.ptrReport k x x.p2

/-- Report what is wrong with an emitted row's pointers (R310, R323), each pointer once. -/
def State.rowReport (s : State) (k : OpId) (x : SrcCfg) (r : Nat) : State :=
  let known (i : Nat) : Bool := x.shares != 0 && (i == 0 || i == x.p2)
  let s := if known r || (r != 0 && s.emitsRow k x (r - 1)) then s else s.ptrReport k x r
  let s := if known (r + 1) then s else s.ptrReport k x (r + 1)
  match s.rowPtr k x r, s.rowPtr k x (r + 1) with
  | some a, some b => if b < a then s.fabFault k 0x13 ((x.p1 + 4 * (r + 1)) % 2 ^ 64) false else s
  | _, _ => s

/-- Put one word of an element into a lane; a word that cannot be read leaves it invalid (R323). -/
def State.srcLane (s : State) (k : OpId) (a lane : Nat) (t : BitVec 512 × BitVec 16) : (BitVec 512 × BitVec 16) × State :=
  match s.fabRead k a 4 with
  | (some v, s) => ((ftSet t.1 lane (BitVec.ofNat 32 v), t.2 ||| BitVec.ofNat 16 (2 ^ lane)), s)
  | (none, s) => (t, s)

/-- The token of n elements from index i; base is the number of the first in the round (R310). -/
def State.srcTok (s : State) (k : OpId) (x : SrcCfg) (i n : Nat) (eos : Bool) : FTok × State :=
  let full := n = x.per
  let (bg, s) := if full then (0, s) else s.blank
  let ((l, m), s) := (List.range n).foldl (fun (y : (BitVec 512 × BitVec 16) × State) j =>
    if x.mode = 2 then
      let (t, s) := y.2.srcLane k (x.p0 + 4 * (i + j)) (2 * j) y.1
      ((ftSet t.1 (2 * j + 1) (BitVec.ofNat 32 (i + j)), t.2 ||| BitVec.ofNat 16 (2 ^ (2 * j + 1))), s)
    else if x.pair then
      let (t, s) := y.2.srcLane k (x.p0 + 8 * (i + j)) (2 * j) y.1
      s.srcLane k (x.p0 + 8 * (i + j) + 4) (2 * j + 1) t
    else y.2.srcLane k (x.p0 + 4 * (i + j)) j y.1) ((bg, 0), s)
  (.tok l m eos, s)

/-- Emit the next token of a row of elements [a, b) at place i, and go on in it or to the next row. -/
def State.srcEmit (s : State) (k : OpId) (x : SrcCfg) (row a b i : Nat) (last : Bool) : State :=
  let n := min x.per (b - a - i)
  let ends := b - a ≤ i + n
  let (t, s) := s.srcTok k x (a + i) n ends
  let s := s.emit k 0 t
  s.modFop k fun o => { o with round := if !ends then some ⟨row, i + n⟩ else if last then none else some ⟨row + 1, 0⟩ }

/-- The end of a round: later arguments apply, up to the next start (R322). -/
def State.srcEnd (s : State) (k : OpId) : State :=
  s.modFop k fun o => FOp.boundary { o with round := none }

/-- SRC_ROUND (R310, R311, R322): a start on hold begins a round, or the round under way emits its next token. -/
def execSrcRound (die c op : Nat) (s : State) : Res :=
  let k : OpId := ⟨die, c, op⟩
  match s.opEntry k 0 with
  | none => .next s
  | some e =>
    let o := s.fop k
    let x := SrcCfg.of e
    match o.round with
    | none =>
      (match o.next, o.boundary.gargs with
        | none, (7, _, _) :: rest =>
          let (n, s) := s.newId
          let s := s.modFop k fun o => { o.boundary with gargs := rest, round := some ⟨0, 0⟩, used := n }
          let x := match (s.fop k).entry with
            | some e => SrcCfg.of e
            | none => x
          .next (if x.mode = 1 then s.roundReport k x else s)
        | _, _ => .next s)
    | some r =>
      let s' := if x.mode = 1 then
          match s.rowFrom k x (x.p2 + 1) r.row with
          | none => s.srcEnd k
          | some row =>
            let i := if row = r.row then r.idx else 0
            let (a, b) := s.rowOf k x row
            let s := if i = 0 then s.rowReport k x row else s
            s.srcEmit k x row a b i false
        else if x.mode = 3 then
          if x.p2 ≤ r.row then s.srcEnd k else s.srcEmit k x r.row 0 x.p1 r.idx false
        else s.srcEmit k x 0 0 x.p1 r.idx true
      .next ((if (s'.fop k).round.isNone then s'.srcEnd k else s').pump die c)

/-! SNK (R312). -/

/-- Write the elements of a token in dense mode. -/
def State.snkDense (s : State) (k : OpId) (e : GEntry) (xs : List (BitVec 32)) : State :=
  xs.foldl (fun s x =>
    let s := s.fabWrite k (e.par 0 + 4 * (s.fop k).snkPos) (leBytes 4 x.toNat)
    s.modFop k fun o => { o with snkPos := o.snkPos + 1, snkLen := o.snkLen + 1 }) s

/-- The end of a segment at a SNK. A new round goes on where the last one ended, in p0's words as in the p1 array: what
starts anew is the count of EOS tokens (log entry 62). -/
def State.snkEnd (s : State) (k : OpId) (e : GEntry) : State :=
  let o := s.fop k
  let s := if e.par 1 != 0 && wbits e.cfg 0 2 = 0 then s.fabWrite k (e.par 1 + 4 * o.snkSeg) (leBytes 4 o.snkLen) else s
  let n := o.snkEos + 1
  let full := e.par 4 ≤ n
  let ends := full && e.par 2 != 0
  let inside := covered (s.fabLease k) (e.par 2) 8
  let s := if ends && !inside then s.fabFault k 0x11 (e.par 2) false else s
  s.modFop k fun o => { o with snkSeg := o.snkSeg + 1, snkLen := 0, snkEos := if full then 0 else n,
                               due := if ends && inside then some (e.par 2, lget e.p 3 0) else none }

/-- SNK_TOKEN (R312): a token's elements are written; after the round's last EOS the completion word follows every write of
the context. -/
def execSnkToken (die c op : Nat) (s : State) : Res :=
  let k : OpId := ⟨die, c, op⟩
  match (s.fop k).due with
  | some (a, v) =>
    if !s.fabQuiet die c then .next s
    else .next (((s.fabComplete k (dieAgent die) a (leBytes 8 v.toNat)).modFop k fun o => { o with due := none }).reconfDone die c)
  | none => s.opStep k 1 fun s e l m eos =>
    let s := if wbits e.cfg 0 2 = 0 then s.snkDense k e (ftElems l m)
      else (ftPairs l m).foldl (fun s (_, v, pos) => s.fabWrite k (e.par 0 + 4 * pos.toNat) (leBytes 4 v.toNat)) s
    if eos then s.snkEnd k e else s

/-! MAP, FILT (R313, R314). -/

/-- The element type of a type field (R305). -/
def fabTy (e : GEntry) : ElemTy :=
  match wbits e.cfg 5 2 with
  | 0 => .s32
  | 1 => .n32
  | _ => .f32

/-- MAP's operation on a lane (R313). -/
def mapVal (op : Nat) (ty : ElemTy) (x c : Nat) : Nat :=
  let f := ty == .f32
  let sh := c % 32
  match op with
  | 0 => if f then add32 x c else (x + c) % 2 ^ 32
  | 1 => if f then (fp32.sub .rne x c).1 else (x + 2 ^ 32 - c) % 2 ^ 32
  | 2 | 11 => if f then mul32 x c else x * c % 2 ^ 32
  | 3 => if f then (fp32.minmax false x c).1 else if ty.int x ≤ ty.int c then x else c
  | 4 => if f then (fp32.minmax true x c).1 else if ty.int x ≤ ty.int c then c else x
  | 5 => x &&& c
  | 6 => x ||| c
  | 7 => x ^^^ c
  | 8 => x * 2 ^ sh % 2 ^ 32
  | 9 => x / 2 ^ sh
  | _ => ofInt 32 (asInt 32 x / (2 ^ sh : Nat))

/-- MAP on a token's lanes (R313): lanes and mask. -/
def mapLanes (op : Nat) (ty : ElemTy) (c : Nat) (l : BitVec 512) (m : BitVec 16) : BitVec 512 × BitVec 16 :=
  if op = 11 then
    (ftPairs l m).foldl (fun y (j, a, b) =>
      (ftSet y.1 (2 * j) (BitVec.ofNat 32 (mapVal op ty a.toNat b.toNat)), y.2 ||| BitVec.ofNat 16 (2 ^ (2 * j)))) (l, 0)
  else
    (((List.range 16).filter m.getLsbD).foldl (fun l i =>
      ftSet l i (BitVec.ofNat 32 (mapVal op ty (ftLane l i).toNat c))) l, m)

/-- MAP_TOKEN (R303, R313). -/
def execMapToken (die c op : Nat) (s : State) : Res :=
  let k : OpId := ⟨die, c, op⟩
  s.opStep k 2 fun s e l m eos =>
    let (l, m) := mapLanes (wbits e.cfg 0 5) (fabTy e) (e.par 0 % 2 ^ 32) l m
    s.emit k 0 (.tok l m eos)

/-- FILT's condition on a lane (R314). -/
def filtKeeps (cond : Nat) (ty : ElemTy) (x c : Nat) : Bool :=
  let o : Option Ordering := if ty = .f32 then
      (if (fp32.val x).isNan || (fp32.val c).isNan then none else some (cmpFV false (fp32.val x) (fp32.val c)))
    else some (compare (ty.int x) (ty.int c))
  match cond, o with
  | 0, some o => o == .eq
  | 1, o => o != some .eq
  | 2, some o => o == .lt
  | 3, some o => o != .gt
  | 4, some o => o == .gt
  | 5, some o => o != .lt
  | _, _ => false

/-- FILT_TOKEN (R314). -/
def execFiltToken (die c op : Nat) (s : State) : Res :=
  let k : OpId := ⟨die, c, op⟩
  s.opStep k 3 fun s e l m eos =>
    let keep := (List.range 16).filter fun i => m.getLsbD i
      && filtKeeps (wbits e.cfg 0 3) (fabTy e) (ftLane l i).toNat (e.par 0 % 2 ^ 32)
    s.emit k 0 (.tok l (keep.foldl (fun x i => x ||| BitVec.ofNat 16 (2 ^ i)) 0) eos)

/-! COAL (R315). -/

/-- One element enters a COAL: a full token held leaves first. -/
def State.coalPut (s : State) (k : OpId) (x : BitVec 32) : State :=
  let s := match (s.fop k).held with
    | some l => (s.emit k 0 (.tok l (BitVec.allOnes 16) false)).modFop k fun o => { o with held := none }
    | none => s
  let xs := (s.fop k).pend ++ [x]
  if xs.length < 16 then s.modFop k fun o => { o with pend := xs }
  else
    let l := (List.zip (List.range 16) xs).foldl (fun l x => ftSet l x.1 x.2) 0
    s.modFop k fun o => { o with pend := [], held := some l }

/-- COAL_TOKEN (R315). -/
def execCoalToken (die c op : Nat) (s : State) : Res :=
  let k : OpId := ⟨die, c, op⟩
  s.opStep k 4 fun s _ l m eos =>
    let s := (ftElems l m).foldl (fun s x => s.coalPut k x) s
    if !eos then s
    else
      let o := s.fop k
      let (t, s) : FTok × State := match o.pend, o.held with
        | [], some l => (.tok l (BitVec.allOnes 16) true, s)
        | xs, _ => s.tokenOf xs true
      (s.emit k 0 t).modFop k fun o => { o with pend := [], held := none }

/-! ISECT (R316). -/

/-- Emit the matches collected: pairs on output 0, keys on output 1. -/
def State.isectEmit (s : State) (k : OpId) (eos : Bool) : State :=
  let o := s.fop k
  let (t0, s) := s.tokenOf (o.matches0.flatMap fun x => [x.1, x.2]) eos
  let (t1, s) := s.tokenOf o.keys eos
  ((s.emit k 0 t0).emit k 1 t1).modFop k fun o => { o with matches0 := [], keys := [] }

/-- Compare the heads of the two segments while both have one; fuel is the number of pairs (R316). -/
def State.isectRun (s : State) (k : OpId) : Nat → State
  | 0 => s
  | n + 1 =>
    let o := s.fop k
    match o.seg0, o.seg1 with
    | (ka, va) :: r0, (kb, vb) :: r1 =>
      if ka < kb then (s.modFop k fun o => { o with seg0 := r0 }).isectRun k n
      else if kb < ka then (s.modFop k fun o => { o with seg1 := r1 }).isectRun k n
      else
        let s := s.modFop k fun o =>
          { o with seg0 := r0, seg1 := r1, matches0 := o.matches0 ++ [(va, vb)], keys := o.keys ++ [ka] }
        (if (s.fop k).keys.length = 8 then s.isectEmit k false else s).isectRun k n
    | [], _ :: _ => if o.eos0 then s.modFop k fun o => { o with seg1 := [] } else s
    | _ :: _, [] => if o.eos1 then s.modFop k fun o => { o with seg0 := [] } else s
    | [], [] => s

/-- Add a token's pairs to a segment; a key that does not rise is discarded and reported (R316, R323). -/
def State.isectAdd (s : State) (k : OpId) (inp : Nat) (ps : List (Nat × BitVec 32 × BitVec 32)) : State :=
  ps.foldl (fun s (_, key, v) =>
    let o := s.fop k
    let last := if inp = 0 then o.last0 else o.last1
    if last.any fun x => key.toNat ≤ x then s.fabFault k 0x12 key.toNat false
    else s.modFop k fun o =>
      if inp = 0 then { o with seg0 := o.seg0 ++ [(key, v)], last0 := some key.toNat }
      else { o with seg1 := o.seg1 ++ [(key, v)], last1 := some key.toNat }) s

/-- ISECT_TOKEN (R316): the input whose segment has no head pair is read, input 0 first, and the heads are compared. When
both segments have ended, each output emits its partial token with EOS. -/
def execIsectToken (die c op : Nat) (s : State) : Res :=
  let k : OpId := ⟨die, c, op⟩
  let o := s.fop k
  match s.opEntry k 5 with
  | none => .next s
  | some _ =>
    let want0 := o.seg0.isEmpty && !o.eos0
    let want1 := o.seg1.isEmpty && !o.eos1
    let pick := if want0 && (headTok o.q0).isSome then some 0 else if want1 && (headTok o.q1).isSome then some 1 else none
    match pick with
    | none => .next s
    | some inp =>
      match headTok (if inp = 0 then o.q0 else o.q1) with
      | none => .next s
      | some (l, m, eos) =>
        let s := (s.takeTok k inp).isectAdd k inp (ftPairs l m)
        let s := if !eos then s else s.modFop k fun o =>
          if inp = 0 then { o with eos0 := true } else { o with eos1 := true }
        let o := s.fop k
        let s := s.isectRun k (o.seg0.length + o.seg1.length + 1)
        let o := s.fop k
        let s := if o.eos0 && o.eos1 && o.seg0.isEmpty && o.seg1.isEmpty then
            (s.isectEmit k true).modFop k fun o => { o with eos0 := false, eos1 := false, last0 := none, last1 := none }
          else s
        .next ((s.afterEos k (eos && inp == 0)).pump die c)

/-! PART, GATH, SCAT (R317). -/

/-- PART_TOKEN (R317): each present pair goes to the output its key names; an EOS goes to every output. -/
def execPartToken (die c op : Nat) (s : State) : Res :=
  let k : OpId := ⟨die, c, op⟩
  s.opStep k 6 fun s e l m eos =>
    let w := 2 ^ wbits e.cfg 6 3
    (List.range w).foldl (fun s out =>
      let mine := (ftPairs l m).filter fun p => p.2.1.toNat / 2 ^ wbits e.cfg 0 6 % w == out
      if mine.isEmpty && !eos then s
      else s.emit k out (.tok l (mine.foldl (fun x p => x ||| BitVec.ofNat 16 (3 * 2 ^ (2 * p.1))) 0) eos)) s

/-- GATH_TOKEN (R317): each index is replaced by the table's word. -/
def execGathToken (die c op : Nat) (s : State) : Res :=
  let k : OpId := ⟨die, c, op⟩
  s.opStep k 7 fun s e l m eos =>
    let ((l, m), s) := (ftPairs l m).foldl (fun (y : (BitVec 512 × BitVec 16) × State) (j, x, _) =>
      match y.2.fabRead k (e.par 0 + 4 * x.toNat) 4 with
      | (some v, s) => ((ftSet y.1.1 (2 * j) (BitVec.ofNat 32 v), y.1.2 ||| BitVec.ofNat 16 (3 * 2 ^ (2 * j))), s)
      | (none, s) => ((y.1.1, y.1.2 ||| BitVec.ofNat 16 (2 * 2 ^ (2 * j))), s)) ((l, 0), s)
    s.emit k 0 (.tok l m eos)

/-- SCAT_TOKEN (R317): each payload is written to its index. -/
def execScatToken (die c op : Nat) (s : State) : Res :=
  let k : OpId := ⟨die, c, op⟩
  s.opStep k 8 fun s e l m _ =>
    (ftPairs l m).foldl (fun s (_, x, v) => s.fabWrite k (e.par 0 + 4 * x.toNat) (leBytes 4 v.toNat)) s

/-! SRED (R318). -/

/-- The operation of an SRED. -/
def sredOp (e : GEntry) : RedOp :=
  match wbits e.cfg 0 2 with
  | 0 => .add
  | 1 => .min
  | _ => .max

/-- One token of a segment reduced (R104 over 16 lanes): none where no lane is valid. -/
def sredToken (op : RedOp) (ty : ElemTy) (l : BitVec 512) (m : BitVec 16) : Option Nat :=
  if m = 0 then none
  else (redTree (redOp op ty 32) (none, 0) 4 ((List.range 16).map fun i => redIn op ty (m.getLsbD i) (ftLane l i).toNat)).1

/-- SRED_TOKEN (R318). -/
def execSredToken (die c op : Nat) (s : State) : Res :=
  let k : OpId := ⟨die, c, op⟩
  s.opStep k 9 fun s e l m eos =>
    let op := sredOp e
    let ty := fabTy e
    let old := (s.fop k).acc.map BitVec.toNat
    let acc := match old, sredToken op ty l m with
      | some a, some b => (redOp op ty 32 (some a, 0) (some b, 0)).1
      | some a, none => some a
      | none, b => b
    if !eos then s.modFop k fun o => { o with acc := acc.map (BitVec.ofNat 32) }
    else
      let o := s.fop k
      let rs := o.results ++ [BitVec.ofNat 32 (acc.getD (redEmpty op ty))]
      let n := o.nres + 1
      let last := e.par 0 ≤ n
      let s := s.modFop k fun o => { o with acc := none, results := rs, nres := if last then 0 else n }
      if last || rs.length = 16 then
        let (t, s) := s.tokenOf rs last
        (s.modFop k fun o => { o with results := [] }).emit k 0 t
      else s

/-! EXQ (R319). -/

/-- The address of an EXQ's buffer. -/
def exqBuf (e : GEntry) (b : Nat) : Nat := (e.par 0 + b * (64 + 4 * e.par 1)) % 2 ^ 64

/-- An EXQ fires: count and ownership word, then it waits for a frame. -/
def State.exqFire (s : State) (k : OpId) (e : GEntry) : State :=
  let o := s.fop k
  let a := exqBuf e o.buf
  let s := (s.fabWrite k (a + 8) (leBytes 8 o.cnt)).fabWrite k a (leBytes 8 1)
  s.modFop k fun o => { o with firing := true, firstAt := s.now }

/-- Store elements on hold into the buffer in turn while it is free; the threshold fires it. -/
def State.exqFill (s : State) (k : OpId) (e : GEntry) : Nat → State
  | 0 => s
  | n + 1 =>
    let o := s.fop k
    match o.pend with
    | [] => if o.eosPend && !o.firing then
        (let s := s.modFop k fun o => { o with eosPend := false }
         if o.cnt != 0 then s.exqFire k e else s)
      else s
    | x :: rest =>
      if o.firing then s
      else
        let a := exqBuf e o.buf
        let (own, s) := if o.cnt = 0 then s.fabRead k a 8 else (some 0, s)
        if own != some 0 then s
        else
          let s := s.fabWrite k (a + 64 + 4 * o.cnt) (leBytes 4 x.toNat)
          let s := s.modFop k fun o => { o with pend := rest, cnt := o.cnt + 1, firstAt := if o.cnt = 0 then s.now else o.firstAt }
          (if (s.fop k).cnt = e.par 1 then s.exqFire k e else s).exqFill k e n

/-- EXQ_TOKEN (R319): the next token's elements are taken when none are on hold, and elements on hold are stored. -/
def execExqToken (die c op : Nat) (s : State) : Res :=
  let k : OpId := ⟨die, c, op⟩
  match s.opEntry k 10 with
  | none => .next s
  | some e =>
    let o := s.fop k
    let s := if o.pend.isEmpty && !o.eosPend then
        match headTok o.q0 with
        | some (l, m, eos) => (s.takeTok k 0).modFop k fun o => { o with pend := ftElems l m, eosPend := eos }
        | none => s
      else s
    let s := s.exqFill k e ((s.fop k).pend.length + 1)
    .next ((if (s.fop k).isOpen then s else s.modFop k FOp.boundary).pump die c)

/-- EXQ_TIMER (R319): a buffer whose first element is old enough fires. -/
def execExqTimer (die c op : Nat) (s : State) : Res :=
  let k : OpId := ⟨die, c, op⟩
  let o := s.fop k
  match s.opEntry k 10 with
  | none => .next s
  | some e => if e.par 2 != 0 && o.cnt != 0 && !o.firing && o.firstAt + e.par 2 ≤ s.now then .next (s.exqFire k e) else .next s

/-- Fill scalar slots in order: the first scalar slots of a frame take the values given. -/
def fillScalars : List Word → List FSlot → List FSlot
  | [], l => l
  | _, [] => []
  | x :: xs, .scalar _ :: r => .scalar (some x) :: fillScalars xs r
  | xs, y :: r => y :: fillScalars xs r

/-- EXQ_RETRY (R319): once the buffer's writes have performed at .dev, and every 1 us after a failure, a firing asks for a
frame of its class. A host launch's pool alone serves it (R356). -/
def execExqRetry (die c op : Nat) (s : State) : Res :=
  let k : OpId := ⟨die, c, op⟩
  let o := s.fop k
  let g := s.fctx die c
  match o.entry with
  | none => .next s
  | some e =>
    if groutKind op != some 10 || !o.firing || !s.fabQuiet die c || s.now < o.firstAt then .next s
    else match s.readClass (s.fpart die) die (e.par 3) with
    | .ok cls =>
      if (cls.kinds.filter (· == 0)).length < 2 then .next (s.fabFault k 0x14 (e.par 3) true)
      else
        let later := s.modFop k fun o => { o with firstAt := s.now + 1000 }
        if !(s.die die).ctrl.getLsbD 0 || s.tearing die g.graph then .next later
        else match s.takeIndex die, s.freePool die with
        | (some idx, s), some r =>
          let seq := (s.die die).frameSeq
          let f := newFrame cls g.graph cls.cont (.tag r) seq (s.fpart die) (80 * die)
          let f := { f with slots := fillScalars [BitVec.ofNat 64 (exqBuf e o.buf), BitVec.ofNat 64 o.cnt] f.slots }
          let s := s.modDie die fun d => { d with frameSeq := seq + 1 }
          let s := (s.addFrame die idx f).fireIfFull die idx none []
          .next (s.modFop k fun o =>
            FOp.boundary { o with firing := false, cnt := 0, buf := (o.buf + 1) % max 1 (e.par 4) })
        | _, _ => .next later
    | _ => .next (s.fabFault k 0x14 (e.par 3) true)

/-! XGATH and XSCAT (11 R278, 18 R391). -/

/-- The table address of an item (R278). -/
def gsAddr (table size x : Nat) : Nat := (table + x * size) % 2 ^ 64

/-- One item of a gather or scatter: the table place and the list place, each s bytes; a cause where one fails. -/
def State.gsItem (s : State) (c : Cmd) (t : Task) (table other size x i : Nat) (scat : Bool) : Except Nat State :=
  let n := size
  let a := gsAddr table n x
  let o := other + i * n
  let acc : Acc := if scat then .write else .read
  match s.check t c.brick (BitVec.ofNat 64 a) n acc with
  | (.bad cause _, _) => .error cause
  | (.ok l p, _) =>
    match s.flatByte c.who o (if scat then .read else .write) with
    | .ok l' p' =>
      let (src, sp, dst, dp) := if scat then (l', p', l, p) else (l, p, l', p')
      if s.readPoison (dieOfBrick c.brick) 0 src n && !s.dying sp then .error 0x0F
      else
        let s := (s.fly c.id l).fly c.id l'
        .ok (s.engWrite c false dst dp (s.engRead (dieOfBrick c.brick) src sp n))
    | _ => .error 7

/-- Perform up to n items from a command's position (R278, R391): the first failure ends it, and every later item fails. The
record names the item's table address and x (R388), zero where the index itself cannot be read. -/
def State.gsRun (id : Nat) (t : Task) (table index other size count : Nat) (scat : Bool) : Nat → State → State
  | 0, s => s
  | n + 1, s =>
    match s.cmd? id with
    | none => s
    | some c =>
      if count ≤ c.pos then s.setCmd id { c with ended := true }
      else
        let fail (cause a x : Nat) : State :=
          s.setCmd id { c.failed ⟨cause, 0, c.pos, a, x⟩ with failCount := count - c.pos, ended := true }
        let ia := index + 4 * c.pos
        match s.flatByte c.who ia .read with
        | .ok l p =>
          if s.readPoison (dieOfBrick c.brick) 0 l 4 && !s.dying p then fail 0x0F 0 0
          else
            let x := leNat (s.engRead (dieOfBrick c.brick) l p 4)
            match (s.fly id l).gsItem c t table other size x c.pos scat with
            | .error cause => fail cause (gsAddr table size x) x
            | .ok s => gsRun id t table index other size count scat n
                (s.modCmd id fun c => { c with pos := c.pos + 1, wptr := c.wptr + size })
        | _ => fail 7 0 0

/-- The parts of DRAM that the items of a gather or scatter from its position on read or write (R381). -/
def State.gsParts (s : State) (c : Cmd) (table index other size count : Nat) (scat : Bool) : List Nat :=
  let left := count - c.pos
  let at' (a n : Nat) (acc : Acc) : List Nat := (piecesOf a n).flatMap fun p => dramPart (s.flatByte c.who p.1 acc)
  at' (index + 4 * c.pos) (4 * left) .read ++ at' (other + size * c.pos) (size * left) (if scat then .read else .write)
    ++ (List.range left).flatMap fun i => match s.flatByte c.who (index + 4 * (c.pos + i)) .read with
      | .ok l p => at' (gsAddr table size (leNat (s.engRead (dieOfBrick c.brick) l p 4))) size (if scat then .write else .read)
      | _ => []

/-- Perform items, and lower the in-flight counts of the parts that none of those left touches (R381). -/
def State.gsStep (s : State) (id n : Nat) (t : Task) (table index other size count : Nat) (scat : Bool) : State :=
  let s := State.gsRun id t table index other size count scat n s
  match s.cmd? id with
  | some c =>
    if c.flights.isEmpty then s
    else s.landBut id (if c.ended then [] else s.gsParts c table index other size count scat)
  | none => s

/-- GATHER_SCATTER_EXECUTE (R278, R391): a command whose release has issued, with none of its task's earlier ones before it,
performs up to n items. -/
def execGatherScatterExecute (id n : Nat) (s : State) : Res :=
  match s.cmd? id with
  | none => .next s
  | some c =>
    let first := !s.cmds.any fun x => x.2.uid == c.uid && x.2.tl == 2 && x.2.num < c.num
    if c.ended || !first || !s.relIssued c then .next s
    else match c.kind, s.task? c.uid with
    | .gath table index dest size count, some t => .next (s.gsStep id (n + 1) t table index dest size count false)
    | .scat table index src size count, some t => .next (s.gsStep id (n + 1) t table index src size count true)
    | _, _ => .next s

end Sys2Proof.Machine
end

