-- ==== Sys2Proof/Machine/Launch.lean ====
section
/-!
DEFINITION. Host launches (02 R21, R22; 17 R356), leases (17 R357 to R361; 18 R378, R382) and the placing of a fired task
(02 R23).
-/

namespace Sys2Proof.Machine

/-! Launch records (R21, R22, R356). -/

/-- The dies of a partition whose distributor an 0xFF record may take: the one with the most free contexts, the lowest on a
tie (R22). -/
def State.freestDie (s : State) (q : Nat) : Option Nat :=
  let free (d : Nat) : Nat := 320 - (((List.range 80).map fun i => (s.boundCtxs (80 * d + i)).length).sum)
  (s.diesOf q).foldl (fun best d => match best with
    | none => some d
    | some e => if free e < free d then some d else some e) none

/-- Fields of a launch record. -/
def Launch.cls (r : Launch) : Nat := field r.bytes 0 8
def Launch.graph (r : Launch) : Word := BitVec.ofNat 64 (field r.bytes 8 8)
def Launch.mask (r : Launch) : Nat := field r.bytes 82 1
def Launch.present (r : Launch) (bit off n : Nat) : List Nat :=
  (List.range n).filterMap fun i => if r.mask.testBit (bit + i) then some (field r.bytes (off + 8 * i) 8) else none

/-- The target die (R21, R22). -/
def State.launchDie (s : State) (q : Nat) (r : Launch) : Option Nat :=
  if field r.bytes 83 1 = 0xFF then s.freestDie q
  else if (s.diesOf q).contains (field r.bytes 83 1) then some (field r.bytes 83 1) else none

/-- Whether a record's own fields are as R22 wants them. -/
def Launch.fieldsOk (r : Launch) (q : Nat) : Bool :=
  r.graph != 0 && field r.bytes 80 1 == q && nbits (field r.bytes 81 1) 2 5 == 0 && nbits r.mask 6 2 == 0
    && field r.bytes 84 44 == 0

/-- A descriptor as a launch reads it: a full-extent handle, as HDEF makes it (R22, R254). -/
def State.launchHandle (s : State) (q die a : Nat) : Option HandleVal :=
  if a % 32 != 0 || (s.flatPoison q (dieAgent die) 0 a 32).isSome then none
  else match s.readFlat q (dieAgent die) 0 a 32 with
  | some bs => if (Desc.ofNat (leNat bs)).ok then some (BitVec.ofNat 512 (handleOf (leNat bs))) else none
  | none => none

/-- Fill handle slots in order. -/
def fillHandles : List HandleVal → List FSlot → List FSlot
  | [], l => l
  | _, [] => []
  | x :: xs, .handle _ :: r => .handle (some x) :: fillHandles xs r
  | xs, y :: r => y :: fillHandles xs r

/-- What checking a record of a die comes to (R16, R22): the cause it is rejected with, or its class and handles. An invalid
descriptor gives ILLEGAL_INSTR, as R22 has it, where R118 names HANDLE_INVALID (log entry 33). -/
def State.launchCheck (s : State) (q die : Nat) (r : Launch) : Except Nat (ClassDesc × List HandleVal) :=
  if !r.fieldsOk q then .error 2
  else match s.readClass q die r.cls with
  | .rejected => .error 2
  | .unread c => .error c
  | .ok cls =>
    let hs := (r.present 4 48 2).map fun a => s.launchHandle q die a
    if (cls.kinds.filter (· == 0)).length < (r.present 0 16 4).length || (cls.kinds.filter (· == 1)).length < hs.length
        || hs.contains none then .error 2
    else .ok (cls, hs.filterMap id)

/-- What becomes of one record in the queue. -/
inductive Taken
  | wait
  | reject (cause : Nat)
  | accept (die : Nat) (cls : ClassDesc) (hs : List HandleVal)

/-- A record at the head of its die's share, a die of no pier of the partition having one of its own (R22, R356): it waits while its graph is torn down, whatever else it says (R372),
while the distributor is not enabled and while no index or pool record is free. -/
def State.launchTry (s : State) (q : Nat) (r : Launch) : Nat × Taken :=
  let torn := (s.diesOf q).any fun d => s.tearing d r.graph
  match s.launchDie q r with
  | none => (16 + field r.bytes 83 1, if torn then .wait else .reject 2)
  | some d => (d,
      if torn || !(s.die d).ctrl.getLsbD 0 then .wait
      else match s.launchCheck q d r with
        | .error c => .reject c
        | .ok (cls, hs) => if (s.takeIndex d).1.isNone || (s.freePool d).isNone then .wait else .accept d cls hs)

/-- The first record of the queue that no waiting record of its die holds back and that can be taken, with its place. -/
def State.launchPick (s : State) (q : Nat) : Nat → List Nat → List Launch → Option (Nat × Launch × Taken)
  | _, _, [] => none
  | i, held, r :: rs =>
    let (d, x) := s.launchTry q r
    match x with
    | .wait => s.launchPick q (i + 1) (d :: held) rs
    | x => if held.contains d then s.launchPick q (i + 1) held rs else some (i, r, x)

/-- Allocate and fill the frame of an accepted record (R22): its brick of origin is the distributor's choice. -/
def State.launchFrame (s : State) (q die : Nat) (r : Launch) (cls : ClassDesc) (hs : List HandleVal) : State :=
  match s.takeIndex die, s.freePool die with
  | (some idx, s), some rec =>
    let (k, s) := s.drawNat
    let seq := (s.die die).frameSeq
    let f := newFrame cls r.graph cls.cont (.tag rec) seq q (80 * die + k % 80)
    let stamp := field r.bytes 64 8
    let ovr := field r.bytes 81 1
    let f := { f with
      slots := fillHandles hs (fillScalars ((r.present 0 16 4).map (BitVec.ofNat 64)) f.slots)
      override := if ovr.testBit 7 then some (ovr % 4) else none
      launch := if stamp = 0 then none else some (stamp, BitVec.ofNat 64 (field r.bytes 72 8)) }
    let s := s.modDie die fun d => { d with frameSeq := seq + 1 }
    (s.addFrame die idx f).fireIfFull die idx none []
  | (none, s), _ => s
  | (_, s), none => s

/-- LAUNCH_ACCEPT (R22, R356): the next record that can be is taken from the queue, and accepted or rejected. -/
def execLaunchAccept (q : Nat) (s : State) : Res :=
  match s.launchPick q 0 [] (s.part q).queue with
  | none => .next s
  | some (i, r, x) =>
    let s := s.modPart q fun p => { p with queue := p.queue.eraseIdx i }
    .next (match x with
      | .accept die cls hs => s.launchFrame q die r cls hs
      | .reject c => (s.report q { cause := c, source := 2, graph := r.graph, addr := r.cls }).1
      | .wait => s)

/-! Leases (R357 to R360). -/

/-- How establishing a lease stands. -/
inductive LeaseRes (α : Type)
  | ok (x : α)
  | fail (cause addr item : Nat)
  | absent (addr item : Nat)

def LeaseRes.bind {α β : Type} (x : LeaseRes α) (f : α → LeaseRes β) : LeaseRes β :=
  match x with
  | .ok a => f a
  | .fail c a i => .fail c a i
  | .absent a i => .absent a i

/-- The unit through which the distributor of a die translates (R377). -/
def distUnit (die : Nat) : Nat := unitOf (dieAgent die)

/-- n bytes of device memory or a mapped page as the distributor reads them for a lease (R359, R360). -/
def State.leaseRead (s : State) (q die a n : Nat) : LeaseRes (List Byte) :=
  let page := a / 2 ^ 16 * 2 ^ 16
  if Config.localWin ≤ a then .fail 7 page 0
  else match s.unitWalk (distUnit die) q a .read with
  | .absent t => .absent (a / t.size * t.size) 0
  | .invalid | .denied => .fail 7 page 0
  | .ok _ =>
    match s.flatPoison q (dieAgent die) 0 a n, s.readFlat q (dieAgent die) 0 a n with
    | some p, some _ => .fail 0x0F p 0
    | none, some bs => .ok bs
    | _, none => .fail 7 ((a + n - 1) / 2 ^ 16 * 2 ^ 16) 0

/-- An item of a lease: a range, or a tensor by its descriptor's address, or by handle slot. -/
inductive LItem
  | range (base len : Nat)
  | tensor (addr : Nat)
  | slot (i : Nat) (h : HandleVal)

/-- The lease list, at most 64 entries and a terminating one (R357). -/
def State.leaseList (s : State) (q die list : Nat) : Nat → Nat → LeaseRes (List LItem)
  | 0, _ => .fail 6 list 0
  | n + 1, a =>
    if Config.localWin ≤ a && a < 2 ^ 57 then .fail 6 list 0
    else match s.unitWalk (distUnit die) q a .read with
    | .ok t =>
      if t.host then .fail 6 list 0
      else (s.leaseRead q die a 16).bind fun bs =>
        let x := field bs 0 8
        let w := field bs 8 8
        if x = 0 && w = 0 then .ok []
        else if n = 0 || nbits w 40 23 != 0 then .fail 6 list 0
        else if w.testBit 63 then
          if nbits w 0 40 != 0 || x % 32 != 0 then .fail 6 list 0
          else (s.leaseList q die list n (a + 16)).bind fun r => .ok (.tensor x :: r)
        else if nbits w 0 40 = 0 then .fail 6 list 0
        else (s.leaseList q die list n (a + 16)).bind fun r => .ok (.range x (nbits w 0 40) :: r)
    | _ => (s.leaseRead q die a 16).bind fun _ => .fail 6 list 0

/-- Every item of a task's lease, in R360's order: list entries, then handle slots. -/
def State.leaseItems (s : State) (t : Task) : LeaseRes (List LItem) :=
  let slots := (List.zip (List.range 8) t.slots).filterMap fun (i, x) => match x with
    | .handle (some h) => some (LItem.slot i h)
    | _ => none
  if t.cls.lease = 0 then .ok slots
  else if t.cls.lease % 16 != 0 then .fail 6 t.cls.lease 0
  else (s.leaseList t.part t.die t.cls.lease 65 t.cls.lease).bind fun l => .ok (l ++ slots)

/-- An item with its descriptor read and checked (R118, R360, R378): the address and item its failure is reported with. -/
def State.leaseDesc (s : State) (t : Task) (x : LItem) : LeaseRes (Option (Desc × Nat)) :=
  let test (d : Desc) (a i : Nat) : LeaseRes (Option (Desc × Nat)) :=
    if d.ok && (!d.tiled || (s.part t.part).tileroot.getLsbD 0) then .ok (some (d, i)) else .fail 0x10 a i
  match x with
  | .range .. => .ok none
  | .tensor a => (s.leaseRead t.part t.die a 32).bind fun bs => test (Desc.ofNat (leNat bs)) a 0
  | .slot i h => test (View.of h).d 0 i

/-- Map a function that may fail through a list, stopping at the first failure. -/
def LeaseRes.all {α β : Type} (f : α → LeaseRes β) : List α → LeaseRes (List β)
  | [] => .ok []
  | x :: xs => (f x).bind fun y => (LeaseRes.all f xs).bind fun ys => .ok (y :: ys)

/-- The device pages from one address to another, as a unit translates them (R359): a page with no mapping fails, one not
resident is asked for, a host page is not pinned. What lies at or above the scratchpad windows is skipped. -/
def State.leasePages (s : State) (u q item : Nat) : Nat → Nat → Nat → LeaseRes (List PinRec)
  | 0, _, _ => .ok []
  | n + 1, a, stop =>
    if min stop Config.localWin ≤ a then .ok []
    else match s.unitWalk u q a .any with
    | .ok t =>
      let base := a / t.size * t.size
      (s.leasePages u q item n (base + t.size) stop).bind fun l =>
        .ok (if t.host then l else ⟨base, t.size, t.phys⟩ :: l)
    | .absent t => .absent (a / t.size * t.size) item
    | .invalid | .denied => .fail 7 (a / 2 ^ 16 * 2 ^ 16) item

/-- The pages of a range of n bytes that a lease list names. -/
def State.rangePages (s : State) (u q item a n : Nat) : LeaseRes (List PinRec) :=
  s.leasePages u q item (n / 2 ^ 16 + 2) a (a + n)

/-- The pages of any other range of a lease (R182, R358): the scratchpad windows have none, and what else lies above them has
no mapping. -/
def State.addPages (s : State) (u q item a n : Nat) : LeaseRes (List PinRec) :=
  (s.rangePages u q item a n).bind fun l =>
  let gap := max a Config.unmappedWin
  let top := max a (2 ^ 57)
  if gap < min (a + n) Config.courseWin then .fail 7 (gap / 2 ^ 16 * 2 ^ 16) item
  else if top < a + n then .fail 7 (top / 2 ^ 16 * 2 ^ 16) item
  else .ok l

/-- Frames of a tile (R123). -/
def Desc.frames (d : Desc) : Nat := if d.isElem then cdiv (d.esize * 2 ^ 14) (2 ^ 15) else 1
/-- Bytes of a tensor's scale table (R87). -/
def Desc.scaleBytes (d : Desc) : Nat :=
  match d.scaleIndex (d.rows - 1) (d.cols - 1) with
  | some i => 8 * (i + 1)
  | none => 0

/-- The flat addresses of the frames that present entries of a tile table name (R122). -/
def tableFrames (frames : Nat) (bs : List Byte) : List Nat :=
  (List.range (bs.length / 8)).flatMap fun i =>
    let x := field bs (8 * i) 8
    if x.testBit 0 && tileEntOk x then (List.range frames).map fun k => (nbits x 15 42 + k) * 2 ^ 15 else []

/-- The flat ranges a tensor brings to the lease (R358). -/
def State.tensorRanges (s : State) (t : Task) (d : Desc) (item : Nat) : LeaseRes (List (Nat × Nat)) :=
  let scale := if d.scale = 0 || d.scaleBytes = 0 then [] else [(d.scale, d.scaleBytes)]
  if !d.tiled then .ok scale
  else (s.rangePages (distUnit t.die) t.part item d.base (8 * d.tiles)).bind fun _ =>
    match s.flatPoison t.part (dieAgent t.die) 0 d.base (8 * d.tiles), s.readFlat t.part (dieAgent t.die) 0 d.base (8 * d.tiles) with
    | some p, some _ => .fail 0x0F p item
    | none, some bs => .ok ((d.base, 8 * d.tiles) :: (tableFrames d.frames bs).map (fun a => (a, 2 ^ 15)) ++ scale)
    | _, none => .fail 7 (d.base / 2 ^ 16 * 2 ^ 16) item

/-- The ranges of an item, with its descriptor (R358). -/
def State.itemRanges (s : State) (t : Task) (x : LItem × Option (Desc × Nat)) : LeaseRes (List (Nat × Nat)) :=
  match x with
  | (.range a n, _) => .ok [(a, n)]
  | (_, some (d, i)) => s.tensorRanges t d i
  | (_, none) => .ok []

/-- An established lease: ranges, pages to pin, tensors to register. -/
structure LeaseSet where
  ranges : List (Nat × Nat)
  pages : List PinRec
  tensors : List Desc

/-- The item index a page failure of an item carries (R388). -/
def itemNo (x : LItem × Option (Desc × Nat)) : Nat := match x.2 with
  | some (_, i) => i
  | none => 0

/-- The pages of one range of an item (R358, R359). -/
def State.itemPages (s : State) (t : Task) (x : LItem × Option (Desc × Nat)) (r : Nat × Nat) : LeaseRes (List PinRec) :=
  match x.1 with
  | .range .. => s.rangePages (distUnit t.die) t.part 0 r.1 r.2
  | _ => s.addPages (distUnit t.die) t.part (itemNo x) r.1 r.2

/-- The directory entry in which a tensor is to be registered (R378): its page must be resident (R380), and its bits
readable (R393). -/
def State.leaseDir (s : State) (t : Task) (d : Desc) (item : Nat) : LeaseRes Unit :=
  if !d.tiled then .ok ()
  else match s.dirFind (distUnit t.die) t.part d.id with
  | .ok _ => .ok ()
  | .absent a => .absent a item
  | .poison a => .fail 0x0F a item
  | .bad => .fail 7 ((((s.dirBase t.part).getD 0) + 16 * d.id) / 2 ^ 16 * 2 ^ 16) item

/-- Test a task's whole lease in R360's order: list, descriptors, pages item by item, stamps and save slot; then the directory
entries. -/
def State.leaseScan (s : State) (t : Task) : LeaseRes LeaseSet :=
  (s.leaseItems t).bind fun items =>
  (LeaseRes.all (fun x => (s.leaseDesc t x).bind fun d => .ok (x, d)) items).bind fun xs =>
  (LeaseRes.all (fun x => (s.itemRanges t x).bind fun rs =>
      (LeaseRes.all (fun r => s.itemPages t x r) rs).bind fun ps => .ok (rs, ps.flatten)) xs).bind
    fun ys =>
  let last := (if t.cls.stamp = 0 then [] else [(t.cls.stamp, 8)])
    ++ (match t.launch with
      | some (a, _) => [(a, 8)]
      | none => [])
    ++ (match t.save with
      | some (a, n) => [(a, n)]
      | none => [])
  (LeaseRes.all (fun r => s.addPages (distUnit t.die) t.part 0 r.1 r.2) last).bind fun ps =>
  (LeaseRes.all (fun x => match x.2 with
    | some (d, i) => s.leaseDir t d i
    | none => .ok ()) xs).bind fun _ =>
  .ok { ranges := (ys.flatMap fun y => y.1) ++ last, pages := ((ys.flatMap fun y => y.2) ++ ps.flatten).dedup,
        tensors := xs.filterMap fun x => match x.2 with
          | some (d, _) => if d.tiled then some d else none
          | none => none }

/-! Registration and release (R361, R378, R382). -/

/-- The places of the frames that the present entries of a registered tensor's tile table name. -/
def State.framePlaces (s : State) (q die id : Nat) (e : DirEnt) : List PLoc :=
  match s.readFlat q (dieAgent die) 0 e.table (8 * e.tiles) with
  | some bs => (tableFrames (kget id 1 (s.part q).tframes) bs).filterMap fun a => (s.anyPage q a).map fun t => t.loc a
  | none => []

/-- Register a tensor of an established lease (R378, R382). -/
def State.register (s : State) (q die : Nat) (d : Desc) : State :=
  match s.dirRead q d.id with
  | none => s
  | some e =>
    let e' : DirEnt := if e.valid then { e with refs := e.refs + 1 } else ⟨d.base, d.tiles, 1, true⟩
    let s := s.dirWrite q d.id e'
    let s := if e.valid then s else s.modPart q fun p => { p with tframes := kset d.id d.frames p.tframes }
    (s.framePlaces q die d.id e').foldl (fun s l => s.recordOwner q d.id l) s

/-- Drop one reference to a tensor (R378): the last one clears VALID, drops the cached tiles and rewrites the owners of its
frames from the tensors still registered (R382). -/
def State.unregister (s : State) (q die id : Nat) : State :=
  match s.dirRead q id with
  | none => s
  | some e =>
    if 1 < e.refs then s.dirWrite q id { e with refs := e.refs - 1 }
    else
      let gone := s.framePlaces q die id e
      let s := s.dirWrite q id { e with refs := 0, valid := false }
      let s := s.modPart q fun p =>
        { p with tiles := p.tiles.filter fun x => x.1 / 4 / 2 ^ 40 != id, tframes := kdel id p.tframes }
      let named := (s.part q).tframes.filterMap fun (j, _) => (s.dirRead q j).bind fun f =>
        if f.valid then some (j, s.framePlaces q die j f) else none
      gone.foldl (fun s l => s.rewriteOwner q l ((named.filter fun x => x.2.contains l).map fun x => x.1)) s

/-- Release a task's lease (R361): pages unpinned, tensors released, the save slot given back. -/
def State.leaseRelease (s : State) (uid : Nat) : State :=
  match s.task? uid with
  | none => s
  | some t =>
    let s := s.unpinAll (t.pins ++ t.addPins.flatMap fun x => x.2.2)
    let s := s.modPart t.part fun p =>
      let stays (page : Nat) (e : Trans) : Bool := !p.tlbInv.contains page || (!e.host && s.pagePinned e.phys e.size)
      let tlb := p.tlb.filter fun e => stays (e.1 / 2048) e.2
      let tiles := p.tiles.filter fun e => stays (e.2.flat / 2 ^ 16) e.2.page
      { p with tlb := tlb, tiles := tiles, tlbInv := p.tlbInv.filter fun k =>
          tlb.any (fun e => e.1 / 2048 == k) || tiles.any fun e => e.2.flat / 2 ^ 16 == k }
    let s := s.setTask uid { t with pins := [], addPins := [], added := [], drops := [], tensors := [], save := none }
    let s := t.tensors.foldl (fun s id => s.unregister t.part t.die id) s
    { s with dies := s.dies.map fun d => (d.1, { d.2 with saves := d.2.saves.filter fun x => x.1 != uid }) }

/-- A lease cannot be established (R360): pins undone, record, error bit; the stamps follow in the fault form. -/
def State.leaseFail (s : State) (uid cause addr item : Nat) : State :=
  match s.task? uid with
  | none => s
  | some t =>
    let s := s.leaseRelease uid
    let s := s.graphError t.part t.graph
    let s := (s.report t.part { cause := cause, source := 2, flags := 4, graph := t.graph, addr := addr, task := t.frame,
                                item := item }).1
    (s.modTask uid fun t => { t with phase := .ending none cause }).sweepGraphs t.part

/-! Placing (R23). -/

/-- Whether a placement code measured from a brick admits a brick (R23). -/
def admits (placement origin b : Nat) : Bool :=
  match placement with
  | 1 => courseOfBrick b == courseOfBrick origin
  | 2 => b == origin
  | 3 => pierOfBrick b == pierOfBrick origin
  | _ => true

/-- Whether a die has a free context or a ready count below its context count (R23). -/
def State.dieOpen (s : State) (d : Nat) : Bool :=
  let bs := (List.range 80).map fun i => 80 * d + i
  bs.any (fun b => (s.boundCtxs b).length < 4) || (bs.map fun b => (s.brick b).readyAll.length).sum < 320

/-- The bricks the distributor may choose for a task: those its placement admits in the partition, of the preferred die
under placement 0. -/
def State.placeBricks (s : State) (t : Task) : List Nat :=
  let all := (List.range Config.bricks).filter fun b =>
    s.partOfBrick b == some t.part && admits t.cls.placement t.origin b
  if t.cls.placement = 0 && s.dieOpen (dieOfBrick t.origin) then
    all.filter fun b => dieOfBrick b == dieOfBrick t.origin
  else all

/-- The distributor's own choice of a brick and of an end of its deque, which no rule fixes (log entry 7). -/
def State.placeFree (s : State) (t : Task) : State :=
  let (k, s) := s.drawNat
  let (h, s) := s.drawBool
  match (s.placeBricks t)[k % max 1 (s.placeBricks t).length]? with
  | some b => s.pushReady t.uid b h
  | none => s

/-- Place a fired task (R23): at the head of the deque of the brick that sent the token or forked it, or where the
distributor chooses. -/
def State.place (s : State) (t : Task) : State :=
  match t.near with
  | some b => if admits t.cls.placement t.origin b then s.pushReady t.uid b true else s.placeFree t
  | none => s.placeFree t

/-- LEASE_ESTABLISH (R359, R360): once what a fork's release covers has performed (R210), the lease of a fired task is tested; pages not resident are asked for one by one; then its
pages are pinned, its tensors registered, and the task is placed. -/
def execLeaseEstablish (uid : Nat) (s : State) : Res :=
  match s.task? uid with
  | none => .next s
  | some t =>
    if t.phase ≠ .firing none || !s.depsDone t.deps .dev then .next s
    else match s.leaseScan t with
    | .fail c a i => .next (s.leaseFail uid c a i)
    | .absent a i =>
      match s.request t.part { cause := 7, graph := t.graph, addr := a, task := t.frame, item := i } (.lease uid a i) with
      | (s, .waiting n) => .next (s.modTask uid fun t => { t with phase := .firing (some n) })
      | (s, .failed) => .next (s.leaseFail uid 7 a i)
    | .ok x =>
      let fresh := x.pages.filter fun p => !t.pins.contains p
      let regs := (x.tensors.filter fun d => !t.tensors.contains d.id).foldl (fun l d =>
        if l.any fun e => e.id == d.id then l else l ++ [d]) ([] : List Desc)
      let s := s.pinAll fresh
      let s := fresh.foldl (fun s p => s.keepTrans (distUnit t.die) t.part p.flat (s.unitWalk (distUnit t.die) t.part p.flat .any)) s
      let s := regs.foldl (fun s d => s.register t.part t.die d) s
      let s := s.modTask uid fun t =>
        { t with lease := x.ranges, pins := t.pins ++ fresh, tensors := t.tensors ++ regs.map fun d => d.id }
      .next (s.place ((s.task? uid).getD t))

end Sys2Proof.Machine
end

