-- ==== Sys2Proof/Machine/Binding.lean ====
section
/-!
DEFINITION. Selection and binding (02 R24 to R27; 17 R363, R365), aging (R25), waiting, suspension and wake-up (R34 to R36;
17 R367), pre-emption (R368) and the watchdog (R35).
-/

namespace Sys2Proof.Machine

/-! Selection (R24, R26). -/

/-- The accumulator units a brick counts as held (R26, R38). -/
def State.accHeld (s : State) (b : Nat) : Nat :=
  ((s.tasks.filter fun t => t.2.brick == b).map fun t => t.2.accUnits).sum

/-- NACC of a class on a brick (R113). -/
def nacc (ctxAcc : Nat) : Nat := min 16 ctxAcc

/-- Bytes of a save slot (R365). -/
def slotBytes (ctxAcc : Nat) : Nat := 6272 + 65536 * nacc ctxAcc

/-- The lowest 64-byte aligned place of n bytes in a save pool that no slot taken covers: each try goes past one slot. -/
def fitSlot (base stop n : Nat) (used : List (Nat × Nat × Nat)) : Nat → Nat → Option Nat
  | 0, _ => none
  | k + 1, a =>
    if stop < a + n then none
    else match used.find? fun x => overlaps a n x.2.1 x.2.2 with
      | none => some a
      | some x => fitSlot base stop n used k (alignUp (x.2.1 + x.2.2) 64)

/-- A free save slot of a die (R365). -/
def State.freeSlot (s : State) (d n : Nat) : Option Nat :=
  let x := s.die d
  let base := x.saveBase.toNat
  fitSlot base (base + x.saveSize) n x.saves (x.saves.length + 1) base

/-- Whether a task fits a brick that has a free context and a free register-file unit (R26, R365). -/
def State.fits (s : State) (b : Nat) (t : Task) : Bool :=
  t.accUnits == 0 && s.accHeld b + t.cls.accUnits ≤ (s.brick b).accu
    && (t.save.isSome || (s.freeSlot (dieOfBrick b) (slotBytes t.cls.accUnits)).isSome)

/-- Whether a task's drain slot still counts for it (R367). -/
def State.drainHeld (s : State) (t : Task) : Bool := (s.brick t.brick).drains.any fun d => d.2.uid == t.uid

/-- The bricks a brick steals from, in order (R24): its course after its own number and round, then its die in the same
manner. -/
def stealOrder (b : Nat) : List Nat :=
  let turn (base n : Nat) : List Nat := (List.range (n - 1)).map fun i => base + (b - base + 1 + i) % n
  let own := turn (courseOfBrick b * 8) 8
  own ++ (turn (dieOfBrick b * 80) 80).filter fun x => courseOfBrick x != courseOfBrick b

/-- The entries of a brick's deques from the tail, highest priority first. -/
def Brick.tails (x : Brick) : List Nat := x.dq0.reverse ++ x.dq1.reverse ++ x.dq2.reverse ++ x.dq3.reverse

/-- What a brick considers, in order (R24): its own deques from the head; all of them empty, what it may steal. It goes past
an entry it may not steal to the next one (log entry 34). -/
def State.candidates (s : State) (b : Nat) : List Nat :=
  let own := (s.brick b).readyAll
  if !own.isEmpty then own
  else (stealOrder b).flatMap fun v => if s.partOfBrick v != s.partOfBrick b then [] else
    (s.brick v).tails.filter fun u => match s.task? u with
      | some t => !t.cls.noSteal && admits t.cls.placement t.origin b && !s.drainHeld t
      | none => false

/-- The level a ready task stands at. -/
def State.levelOf (s : State) (u : Nat) : Nat := ((s.task? u).map fun t => t.prio).getD 3

/-- The tasks that block a brick: passed over 64 times, still ready, and not fitting (R26). -/
def State.blocking (s : State) (b : Nat) : List Nat :=
  (s.brick b).blockers.filter fun u => (s.task? u).any fun t => t.phase == .ready && 64 ≤ t.passed && !s.fits b t

/-- The candidates the blocking tasks leave (R26): nothing of equal or lower priority but themselves. -/
def State.unblocked (s : State) (b : Nat) (us : List Nat) : List Nat :=
  us.filter fun u => (s.blocking b).all fun k => u == k || s.levelOf u < s.levelOf k

/-- A task returns to the head of its deque (R363). -/
def State.toHead (s : State) (u : Nat) : State :=
  match s.task? u with
  | none => s
  | some t => s.modBrick t.brick fun x => x.setDq t.prio (u :: (x.dq t.prio).filter (· != u))

/-- A brick passes tasks over (R26, R363): each is counted, from the 64th time blocks the brick, and, where it was to be
stolen, returns to the head of its deque. -/
def State.passOver (s : State) (b : Nat) (us : List Nat) : State :=
  us.foldl (fun s u =>
    let s := s.modTask u fun t => { t with passed := min 64 (t.passed + 1) }
    match s.task? u with
    | none => s
    | some t =>
      let s := if t.brick = b then s else s.toHead u
      if t.passed < 64 || (s.brick b).blockers.contains u then s
      else s.modBrick b fun x => { x with blockers := x.blockers ++ [u] }) s

/-! Binding (R27, R113, R365). -/

/-- POOLSPLIT of a context (R113). -/
def poolsplitOf (x : Brick) (ctxAcc : Nat) : Word :=
  BitVec.ofNat 64 (x.rfu + 2 ^ 8 * x.accu + 2 ^ 16 * ctxAcc + 2 ^ 24 * nacc ctxAcc + 2 ^ 32 * (x.spadBytes / 1024))

/-- Scalar slot i of a task, for g(1+i). -/
def slotG (l : List FSlot) (i : Nat) : Word := match l[i]? with
  | some (.scalar (some v)) => v
  | _ => 0
/-- Handle slot i, for h(i). -/
def slotH (l : List FSlot) (i : Nat) : HandleVal := match l[i]? with
  | some (.handle (some v)) => v
  | _ => 0

/-- A context as binding leaves it (R27): the slots in their registers, the rest at the binding values. -/
def bindCtx (t : Task) (x : Brick) (vec : Word) (save now : Nat) : Ctx :=
  { Ctx.reset with
    uid := t.uid
    g := Vector.ofFn fun i => if i.val = 0 then 0 else if i.val ≤ 8 then slotG t.slots (i.val - 1) else 0
    h := Vector.ofFn fun i => if i.val < 8 then slotH t.slots i.val else 0
    pc := t.cls.entry
    poolsplit := poolsplitOf x t.cls.accUnits
    trapvec := vec
    savearea := BitVec.ofNat 64 save
    didAt := now
    runSince := now }

/-- Resumption (R370): the save record comes back as CTXLD would load it, with the counters, and the resume block is next.
A record that cannot be read whole ends the task as a read of the context would (R393). -/
def State.resume (s : State) (c : Nat) (t : Task) (save : Nat) : State :=
  let b := brickOfCtx c
  let n := slotBytes t.cls.accUnits
  match s.readFlat t.part b t.uid save n with
  | none => s.faultEnd c { cause := 7, addr := save }
  | some bs =>
    match s.flatPoison t.part b t.uid save (masksOf bs).size with
    | some p => s.faultEnd c { cause := 0x0F, addr := p }
    | none =>
    let s := s.ctxLoad c bs
    s.modCtx c fun x =>
      { x with pc := field bs 40 8, mxstall := BitVec.ofNat 64 (field bs 192 8), mxissue := BitVec.ofNat 64 (field bs 200 8),
               bankconf := BitVec.ofNat 64 (field bs 208 8), trimsave := BitVec.ofNat 64 (field bs 216 8) }

/-- Bind a task to a context (R27, R365). -/
def State.bindTo (s : State) (c : Nat) (t : Task) (save : Nat) : State :=
  let b := brickOfCtx c
  let x := s.brick b
  let fresh := !t.saved
  let s := s.unqueue t.uid
  let s := s.modBrick t.brick fun y => { y with drains := y.drains.filter fun d => d.2.uid != t.uid }
  let s := s.setCtx c (bindCtx t x (s.part t.part).xltrapvec save s.now)
  let s := s.modTask t.uid fun t =>
    { t with phase := .bound c, brick := b, passed := 0, accUnits := t.cls.accUnits, wake := .now,
             accMode := if fresh then [] else t.accMode, accOvf := if fresh then [] else t.accOvf }
  if fresh then s.zeroRange .acc (accAt t.uid 0 0).a (2 ^ 24) else s.resume c t save

/-- Give a task a save slot at its first binding (R365): its pages join the lease. -/
def State.takeSlot (s : State) (b : Nat) (t : Task) : LeaseRes (Nat × State) :=
  match t.save with
  | some (a, _) => .ok (a, s)
  | none =>
    let n := slotBytes t.cls.accUnits
    match s.freeSlot (dieOfBrick b) n with
    | none => .fail 7 0 0
    | some a =>
      let keep (s : State) : State :=
        (s.modDie (dieOfBrick b) fun d => { d with saves := d.saves ++ [(t.uid, a, n)] }).modTask t.uid fun t =>
          { t with save := some (a, n), lease := t.lease ++ [(a, n)] }
      match s.rangePages (distUnit (dieOfBrick b)) t.part 0 a n with
      | .ok ps =>
        let fresh := ps.filter fun p => !t.pins.contains p
        .ok (a, (keep (s.pinAll fresh)).modTask t.uid fun t => { t with pins := t.pins ++ fresh })
      | .fail c x i => .fail c x i
      | .absent x i => .absent x i

/-- TASK_BIND (R24, R26, R363, R365): a brick with a free context and register-file unit binds the first candidate that fits;
those before it are passed over. An empty brick takes a split that was written before it binds (R350). A save slot whose
pages are not there ends or delays the task as the rest of its lease would (R359, R360). -/
def execTaskBind (brick : Nat) (s : State) : Res :=
  let bound := s.boundCtxs brick
  let free := ((List.range 4).map fun k => 4 * brick + k).filter fun c => !bound.contains c
  if bound.length ≥ min 4 (s.brick brick).rfu || !(s.die (dieOfBrick brick)).ctrl.getLsbD 0
      || (bound.isEmpty && (s.brick brick).pending.isSome) then .next s
  else
    let us := s.unblocked brick (s.candidates brick)
    match findIdx1 (fun u => (s.task? u).any fun t => s.fits brick t) us with
    | none => .next (s.passOver brick us)
    | some (i, u) =>
      match s.task? u with
      | none => .next s
      | some t =>
        let s := s.passOver brick (us.take i)
        match s.takeSlot brick t with
        | .fail c a x => .next ((s.unqueue u).leaseFail u c a x)
        | .absent a x =>
          let s := s.unqueue u
          match s.request t.part { cause := 7, graph := t.graph, addr := a, task := t.frame, item := x } (.lease u a x) with
          | (s, .waiting n) => .next (s.modTask u fun t => { t with phase := .firing (some n) })
          | (s, .failed) => .next (s.leaseFail u 7 a x)
        | .ok (save, s) =>
          let (k, s) := s.drawNat
          .next (s.bindTo (lget free (k % max 1 free.length) (4 * brick)) ((s.task? u).getD t) save)

/-! Aging (R25). -/

/-- A task moves to the tail of another level of its brick's deques and waits afresh. -/
def State.relevel (s : State) (u p : Nat) : State :=
  match s.task? u with
  | none => s
  | some t =>
    ((s.unqueue u).setTask u { t with prio := p, readyAt := s.now }).modBrick t.brick fun x =>
      { (x.setDq p (x.dq p ++ [u])) with blockers := (s.brick t.brick).blockers }

/-- TASK_AGING (R25): every ready task of a brick that has waited 250 us at its level goes up one, to the tail. -/
def execTaskAging (brick : Nat) (s : State) : Res :=
  let old := ((s.brick brick).readyAll).filter fun u => (s.task? u).any fun t => t.prio != 0 && t.readyAt + 250000 ≤ s.now
  .next (old.foldl (fun s u => s.relevel u (s.levelOf u - 1)) s)

/-! Waiting (R34, R36). -/

/-- Whether a slot holds a waiting instruction that has its operands and has not completed. -/
def Blk.waits (b : Blk) (n : Nat) (i : Instr) : Bool :=
  waiting i && ((b.slot n).st == .busy || ((b.slot n).st == .idle && (match (b.slot n).ready i with
    | .go _ => true
    | _ => false)))

/-- Whether an instruction of some block of a context is ready to fire, or a waiting one can complete (R34). -/
def State.ctxMoves (s : State) (c : Nat) : Bool :=
  (List.range (s.ctx c).blks.length).any fun k => (s.blk? c k).any fun b =>
    b.trap.isNone && b.members.any fun m => s.canMove c k b m.1 m.2

/-- The waiting instruction of a context's oldest block, when the context is waiting (R34): it cannot complete, and nothing
of any block is ready to fire. Of several in the block the lowest slot gives the wake condition (log entry 76). -/
def State.waiter (s : State) (c : Nat) : Option (Blk × Nat × Instr) :=
  match (s.ctx c).blks with
  | [] => none
  | b :: _ =>
    match if b.trap.isSome then none else b.members.find? fun m => b.waits m.1 m.2 with
    | some m => if s.ctxMoves c then none else some (b, m.1, m.2)
    | none => none

/-- The wake condition a waiting instruction leaves (R36). -/
def State.wakeOf (s : State) (c : Nat) (t : Task) (b : Blk) (n : Nat) (i : Instr) : Wake :=
  let ops := (b.slot n).ops i
  let a := opw ops 0
  match i with
  | .mwait .. =>
    match s.flatLoc t.part (brickOfCtx c) a.toNat .read with
    | some l => .mem l
    | none => .now
  | .waitt _ _ _ tl _ _ => .tl tl.toNat (t.tl tl.toNat).val
  | .qpop .. => .ring a.toNat
  | .barw .. =>
    match s.flatLoc t.part (brickOfCtx c) a.toNat .read with
    | some l => .bar l
    | none => .now
  | .fwait .. => match fenceNum a with
    | some k => .fence k
    | none => .now
  | _ => .now

/-- Whether a suspended task's wake condition holds (R36): a monitored write and a barrier's advance make it hold when they
happen. -/
def State.woken (s : State) (t : Task) : Bool :=
  let w : Who := ⟨t.part, t.brick, t.uid⟩
  match t.wake with
  | .mem _ | .bar _ => false
  | .tl k n => n < (t.tl k).val
  | .ring a =>
    match s.ringRead w a 64 with
    | some bs => (RingHdr.of bs).ok && s.ringFull w (RingHdr.of bs) (RingHdr.of bs).head
    | none => true
  | .fence n => t.fences.any fun f => f.num == n && f.done
  | .now => true

/-- CONTEXT_SUSPEND (R34, R367): a context that has waited 20 us, or at all under LONGWAIT, with a ready task queued, at an
unpinned safe point, with a free drain slot and no tl7 instruction left (R258), is saved and freed. It has waited since
something of its blocks last changed. -/
def execContextSuspend (ctx : Nat) (s : State) : Res :=
  let x := s.ctx ctx
  let br := brickOfCtx ctx
  match s.taskOf ctx, x.blks, (s.brick br).freeDrain with
  | some t, b :: _, some k =>
    if x.priv || x.halted || x.haltReq.isSome || !(t.cls.longWait || x.didAt + 20000 ≤ s.now) || (s.brick br).readyAll.isEmpty
        || b.pinned || !b.safe || s.pmaBusy br t.uid then .next s
    else match s.waiter ctx with
      | some (b, n, i) => .next (s.saveAndFree ctx k b.addr b.hdr (s.wakeOf ctx t b n i))
      | none => .next s
  | _, _, _ => .next s

/-- TASK_WAKE (R36): the wake condition holds, and the task is pushed at the tail of its priority's deque on its brick. -/
def execTaskWake (uid : Nat) (s : State) : Res :=
  match s.task? uid with
  | some t => if t.phase = .suspended && s.woken t then .next (s.pushReady uid t.brick false) else .next s
  | none => .next s

/-- WAKE_TIMEOUT (R36): 250 us after its suspension the task is pushed all the same. -/
def execWakeTimeout (uid : Nat) (s : State) : Res :=
  match s.task? uid with
  | some t => if t.phase = .suspended && t.wokeAt + 250000 ≤ s.now then .next (s.pushReady uid t.brick false) else .next s
  | none => .next s

/-! Pre-emption (R366, R368). -/

/-- Ask a context to be pre-empted; a second request adds nothing (R368). -/
def State.askPreempt (s : State) (c : Nat) : State :=
  if (s.ctx c).uid = 0 then s
  else s.modCtx c fun x => { x with preemptAt := match x.preemptAt with
    | some t0 => some t0
    | none => some (if x.halted then 0 else s.now) }

/-- DPREEMPT (R350, R368): every bound context of the bricks named. -/
def execDpreempt (die val : Nat) (s : State) : Res :=
  let bs := if val.testBit 7 then List.range 80 else if val % 128 < 80 then [val % 128] else []
  .next ((bs.flatMap fun i => s.boundCtxs (80 * die + i)).foldl (fun s c => s.askPreempt c) s)

/-- TIME_SLICE_EXPIRY (R366). -/
def execTimeSliceExpiry (ctx : Nat) (s : State) : Res :=
  let x := s.ctx ctx
  let slice := wbits (s.die (dieOfCtx ctx)).slice 0 16
  match s.taskOf ctx with
  | some t =>
    let peer := (s.brick (brickOfCtx ctx)).readyAll.any fun u => s.levelOf u ≤ t.prio
    if slice != 0 && x.runSince + 1000 * slice ≤ s.now && peer && !x.halted then .next (s.askPreempt ctx) else .next s
  | none => .next s

/-- PREEMPT_SAVE (R368, R386): at an unpinned safe point of a user context that is not halted, the context is saved into a
free drain slot and its task pushed, ready, at the tail on its brick. -/
def execPreemptSave (ctx : Nat) (s : State) : Res :=
  let x := s.ctx ctx
  let br := brickOfCtx ctx
  match s.taskOf ctx, x.blks, (s.brick br).freeDrain with
  | some t, b :: _, some k =>
    if x.preemptAt.isSome && b.safe && !b.pinned && b.trap.isNone && !x.priv && !x.halted && x.haltReq.isNone && !t.torn
        && !s.pmaBusy br t.uid then
      .next ((s.saveAndFree ctx k b.addr b.hdr .now).pushReady t.uid br false)
    else .next s
  | _, _, _ => .next s

/-- The context of a torn task is freed without stamp, continuation or record (R372). -/
def State.tornEnd (s : State) (c : Nat) : State :=
  match s.taskOf c with
  | none => s
  | some t => ((s.freeCtx c).modTask t.uid fun t => { t with phase := .ending none 0 }).sweepGraphs t.part

/-- WATCHDOG_EXPIRY (R35, R368): 100 us after the first request the task ends with NO_SAFE_POINT; it does not count while the
context is halted (R434). -/
def execWatchdogExpiry (ctx : Nat) (s : State) : Res :=
  let x := s.ctx ctx
  match x.preemptAt, s.taskOf ctx with
  | some t0, some t =>
    if s.now < t0 + 100000 || x.halted then .next s
    else if t.torn then .next (s.tornEnd ctx)
    else .next (s.faultEnd ctx { cause := 0x0D, blk := (x.blks.head?.map fun b => b.addr).getD x.pc })
  | _, _ => .next s

/-- IDLE_WAKE (R186): fetching goes on once CYCLE has reached the end of the pause, or a ready task is queued in the
brick's deques. -/
def execIdleWake (ctx : Nat) (s : State) : Res :=
  match (s.ctx ctx).idle with
  | some n => if n ≤ s.cycle (brickOfCtx ctx) || !(s.brick (brickOfCtx ctx)).readyAll.isEmpty then .next (s.modCtx ctx fun x => { x with idle := none }) else .next s
  | none => .next s

/-- Whether a suspended task's drain slot counts nothing (R367). -/
def State.drained (s : State) (t : Task) : Bool :=
  s.writes.all (fun w => w.uid != t.uid) && s.homeOps.all (fun h => h.uid != t.uid) && s.cmds.all (fun c => c.2.uid != t.uid)
    && s.dies.all (fun d => d.2.gq.all fun m => m.uid != t.uid)
    && s.bricks.all (fun b => b.2.pma.all (fun o => o.uid != t.uid) && b.2.run.all fun r => r.op.uid != t.uid)
    && t.fences.all (fun f => f.done) && t.seen.all fun r => s.writes.all fun w => w.id != r.wid

/-- DRAIN_SLOT_FREE (R367): with every count zero, the fence and timeline values go into the save record and the slot is
free. -/
def execDrainSlotFree (brick k : Nat) (s : State) : Res :=
  match kget? k (s.brick brick).drains with
  | none => .next s
  | some d =>
    let free (s : State) : State := s.modBrick brick fun x => { x with drains := kdel k x.drains }
    match s.task? d.uid with
    | none => .next (free s)
    | some t =>
      if !s.drained t then .next s
      else match t.save, t.phase with
      | some (a, _), .suspended | some (a, _), .ready =>
        let vals := leBytes 8 t.fenceNewest ++ (List.range 8).flatMap (fun i => leBytes 8 (t.tl i).val)
          ++ (List.range 8).flatMap fun i => leBytes 8 (t.tl i).newest
        .next (free (s.writeFlat t.part brick (a + 56) vals))
      | _, _ => .next (free s)

end Sys2Proof.Machine
end

