-- ==== Sys2Proof/Machine/Footing.lean ====
section
/-!
DEFINITION. The engines of the footing dies (14 R328 to R347): XRED, XIRED and XPKL. They read and write memory at its home,
and a command of theirs works element by element.
-/

namespace Sys2Proof.Machine

/-! Leaving the brick (R279, R328, R329). -/

/-- The parameter block of a command: address and bytes (R270). -/
def CmdKind.block : CmdKind → Option (Nat × Nat)
  | .xred p => some (p, 192)
  | .xired p => some (p, 64)
  | .xpkl p => some (p, 128)
  | .nput p | .nget p | .namo p => some (p, 64)
  | _ => none

/-- The address whose pier performs a footing command (R328): its first destination byte, or XPKL's value table. -/
def CmdKind.target (bs : List Byte) : CmdKind → Option Nat
  | .xred _ => some (field bs 160 8)
  | .xired _ => some (field bs 24 8)
  | .xpkl _ => some (field bs 40 8)
  | _ => none

/-- The pier of a device page. -/
def State.pierOf (s : State) (q a : Nat) : Option Nat :=
  match s.walk q a .any with
  | .ok t => if t.host then none else some ((t.loc a).a / Config.pierSpan)
  | _ => none

/-- A command leaves its brick: its parameter block is read now, once (R329), and it takes its place in the arrival order
(R328). A block that cannot be read rejects it (R330). The read sees the task's own stores that are still pending, which R271
would let a command without .rel miss (log entry 59). -/
def State.arriveCmd (s : State) (id : Nat) : State :=
  match s.cmd? id with
  | none => s
  | some c =>
    let (n, s) := s.newId
    match c.kind.block with
    | none => s.setCmd id { c with arrived := some n }
    | some (a, k) =>
      let c := { c with arrived := some n }
      match s.flatPoison c.part c.brick c.uid a k, s.readFlat c.part c.brick c.uid a k with
      | some x, some _ => s.setCmd id (c.failed ⟨0x0E, 7, 0, x, 0⟩)
      | _, none => s.setCmd id (c.failed ⟨0x0E, 3, 0, a, 0⟩)
      | none, some bs =>
        s.setCmd id { c with params := bs, pier := ((c.kind.target bs).bind fun a => s.pierOf c.part a).getD c.pier }

/-- Whether a released command of a timeline still stands in its brick and may leave it (R271). -/
def State.mayLeave (s : State) (id tl : Nat) : Bool :=
  match s.cmd? id with
  | some c => c.tl == tl && c.arrived.isNone && s.relIssued c
  | none => false

/-! Acceptance (R329, R330). -/

/-- A range that a footing command touches: address, bytes, alignment and how it is accessed. -/
structure FRange where
  a : Nat
  n : Nat
  sz : Nat
  acc : Acc
  deriving DecidableEq, Repr

/-- How a footing engine translates an address (R377). -/
def State.footWalk (s : State) (c : Cmd) (a : Nat) (acc : Acc) : Walk := s.unitWalk (pierUnit c.pier) c.part a acc

/-- Whether a range lies outside the lease; a page without a valid translation does (R330). -/
def State.rangeOut (s : State) (t : Task) (c : Cmd) (r : FRange) : Bool :=
  2 ^ 57 < r.a + r.n || !t.inLease r.a r.n
    || (r.a + r.n ≤ Config.localWin && (piecesOf r.a r.n).any fun p => match s.footWalk c p.1 r.acc with
      | .ok _ => false
      | _ => true)

/-- Whether a range is not in device DRAM (R330). -/
def State.rangeHost (s : State) (c : Cmd) (r : FRange) : Bool :=
  Config.localWin < r.a + r.n || (piecesOf r.a r.n).any fun p => match s.footWalk c p.1 r.acc with
    | .ok x => x.host
    | _ => true

/-- The first failing reason of ranges, in code order, with its address (R330). -/
def State.rangesBad (s : State) (t : Task) (c : Cmd) (rs : List FRange) : Option (Nat × Nat) :=
  ((rs.find? fun r => r.a % r.sz != 0).map fun r => (2, r.a))
    <|> ((rs.find? fun r => s.rangeOut t c r).map fun r => (3, r.a))
    <|> ((rs.find? fun r => s.rangeHost c r).map fun r => (4, r.a))

/-- A field of a command's parameter block. -/
def Cmd.par (c : Cmd) (off n : Nat) : Nat := field c.params off n

/-- Whether bytes of the parameter block are zero. -/
def Cmd.zeros (c : Cmd) (off n : Nat) : Bool := ((c.params.drop off).take n).all (· == 0)

/-- The completion flag as a range of bytes, where one is named (R331). -/
def flagBytes (a : Nat) : List (Nat × Nat) := if a = 0 then [] else [(a, 8)]
/-- The completion flag as a range to check. -/
def flagRange (a : Nat) : List FRange := if a = 0 then [] else [⟨a, 8, 8, .write⟩]

/-- How many commands of a footing engine run at once (R328). -/
def footCap (tl : Nat) : Nat := if tl = 5 then 4 else 16

/-- Whether one command arrived before another. -/
def Cmd.beforeCmd (x c : Cmd) : Bool := x.arrived.any fun a => c.arrived.any fun b => a < b

/-- A command of a footing engine that may work: within the number that run at once, in arrival order. -/
def State.footCmd (s : State) (id tl : Nat) : Option (Cmd × Task) :=
  match s.cmd? id with
  | none => none
  | some c =>
    let before := (s.cmds.filter fun x => x.2.tl == tl && x.2.pier == c.pier && x.2.beforeCmd c).length
    if c.tl != tl || c.arrived.isNone || c.ended || footCap tl ≤ before then none else (s.task? c.uid).map fun t => (c, t)

/-- Reject a command, or stop it at an item (R330). -/
def State.footStop (s : State) (id reason item addr n : Nat) : State :=
  s.modCmd id fun c => { c.failed ⟨0x0E, reason, item, addr, 0⟩ with failCount := c.failCount + n, ended := true }

/-- Note an item that fails; of a command's failed items the lowest is the one reported (R330). -/
def State.footFail (s : State) (id reason item addr : Nat) : State :=
  s.modCmd id fun c =>
    { c with failCount := c.failCount + 1
             fail := match c.fail with
               | some g => if item < g.item then some ⟨0x0E, reason, item, addr, 0⟩ else some g
               | none => some ⟨0x0E, reason, item, addr, 0⟩ }

/-- A command that nothing of failed writes its flag (R331), and ends. -/
def State.footEnd (s : State) (id flag val : Nat) : State :=
  match s.cmd? id with
  | none => s
  | some c =>
    let s := if c.fail.isSome || flag = 0 then s else match s.footWalk c flag .write with
      | .ok t => (s.fly id (t.loc flag)).engWrite c true (t.loc flag) t.pte (leBytes 8 val)
      | _ => s.footFail id 3 0 flag
    s.modCmd id fun c => { c with ended := true }

/-- Accept or reject a command whose block has been read, at its first step. -/
def State.footAccept (s : State) (id : Nat) (c : Cmd) (bad : Option (Nat × Nat)) : State :=
  match c.fail, bad with
  | some _, _ => s.modCmd id fun c => { c with ended := true }
  | none, some (r, a) => s.footStop id r 0 a 0
  | none, none => s.modCmd id fun c => { c with running := true }

/-! Accesses at the home. -/

/-- n bytes at a flat address as they stand at the home; the reason where they cannot be read: 3 without a translation, as
R330 has it, or 7 for an uncorrectable word (R393). -/
def State.footGet (s : State) (c : Cmd) (a n : Nat) : Except Nat (List Byte) :=
  match s.footWalk c a .read with
  | .ok t =>
    if s.dying t.pte then .ok (List.replicate n 0)
    else if s.poisoned (t.loc a) n then .error 7 else .ok (s.homeRead (t.loc a) n)
  | _ => .error 3

/-- A longer range, piece by piece. -/
def State.footGets (s : State) (c : Cmd) (a n : Nat) : Except Nat (List Byte) :=
  (piecesOf a n).foldl (fun x p => match x, s.footGet c p.1 p.2 with
    | .ok bs, .ok more => .ok (bs ++ more)
    | .error r, _ | .ok _, .error r => .error r) (.ok [])

/-- Whether a footing engine may write a range (R391). -/
def State.footCan (s : State) (c : Cmd) (a n : Nat) : Bool :=
  (piecesOf a n).all fun p => match s.footWalk c p.1 .write with
    | .ok _ => true
    | _ => false

/-- The unit keeps the translations of a range, and its in-flight counts are raised (R377, R381). -/
def State.footFly (s : State) (c : Cmd) (a n : Nat) (acc : Acc) : State :=
  (piecesOf a n).foldl (fun s p => match s.footWalk c p.1 acc with
    | .ok t => (s.keepTrans (pierUnit c.pier) c.part p.1 (.ok t)).fly c.id (t.loc p.1)
    | _ => s) s

/-- The same for a range that an item is about to update: its translations hold until the item is done (R377). -/
def State.footHold (s : State) (c : Cmd) (a n : Nat) : State :=
  (piecesOf a n).foldl (fun s p => match s.footWalk c p.1 .write with
    | .ok t => s.modCmd c.id fun c => { c with held := kset (p.1 / 2 ^ 16) t c.held }
    | _ => s) (s.footFly c a n .write)

/-- One indivisible read-modify-write at the home of an element whose item is under way (R298, R339). The item's words were
checked before its first update; an element whose word has been found uncorrectable since stays as it is, poisoned
(R272; log entry 59). -/
def State.footModify (s : State) (c : Cmd) (a n : Nat) (f : Nat → Nat) : State :=
  match s.cmd? c.id |>.bind fun c => kget? (a / 2 ^ 16) c.held with
  | none => s
  | some t =>
    let s := s.drainLines (t.loc a) n fun _ => false
    if s.dying t.pte then (s.fly c.id (t.loc a)).engWrite c true (t.loc a) t.pte (leBytes n (f 0))
    else if s.poisoned (t.loc a) n then s
    else (s.fly c.id (t.loc a)).engWrite c true (t.loc a) t.pte (leBytes n (f (leNat (s.homeRead (t.loc a) n))))

/-- The part of DRAM that a byte of a footing command lies in. -/
def State.footPart (s : State) (c : Cmd) (a : Nat) : List Nat :=
  match s.footWalk c a .any with
  | .ok t => if t.host then [] else [(t.loc a).a / 2 ^ 16 * 2 ^ 16]
  | _ => []

/-- The parts that the ranges of a command's remaining work touch stay in flight; the others are done with (R381). -/
def State.footLand (s : State) (id : Nat) (rest : State → Cmd → List (Nat × Nat)) : State :=
  match s.cmd? id with
  | none => s
  | some c =>
    if c.flights.isEmpty then s
    else s.landBut id (if c.ended then [] else (rest s c).flatMap fun r => (piecesOf r.1 r.2).flatMap fun p => s.footPart c p.1)

/-- Write bytes at their home (R279). -/
def State.footPut (s : State) (c : Cmd) (a : Nat) (bs : List Byte) : State :=
  ((piecesOf a bs.length).foldl (fun (x : State × List Byte) p => match x.1.footWalk c p.1 .write with
    | .ok t => ((x.1.fly c.id (t.loc p.1)).engWrite c true (t.loc p.1) t.pte (x.2.take p.2), x.2.drop p.2)
    | _ => (x.1, x.2.drop p.2)) (s, bs)).1

/-- Of some ranges, the first that cannot be read: its address and why. -/
def State.unread (s : State) (c : Cmd) (rs : List (Nat × Nat)) : Option (Nat × Nat) :=
  rs.findSome? fun r => match s.footGets c r.1 r.2 with
    | .error e => some (r.1, e)
    | .ok _ => none

/-- Of some ranges, the first that cannot be written. -/
def State.unwritten (s : State) (c : Cmd) (rs : List (Nat × Nat)) : Option (Nat × Nat) :=
  (rs.find? fun r => !s.footCan c r.1 r.2).map fun r => (r.1, 3)

/-- The bytes of a range that can be read. -/
def State.footBytes (s : State) (c : Cmd) (a n : Nat) : List Byte :=
  match s.footGets c a n with
  | .ok bs => bs
  | .error _ => []

/-- Repeat a unit of work while the command goes on. -/
def footLoop (id : Nat) (f : State → Cmd → State) : Nat → State → State
  | 0, s => s
  | n + 1, s => match s.cmd? id with
    | some c => if c.ended then s else footLoop id f n (f s c)
    | none => s

/-- Elements of n bytes in a byte string. -/
def elemsOf (n : Nat) (bs : List Byte) : List Nat := (List.range (bs.length / n)).map fun i => field bs (n * i) n
/-- An element of 4 or 2 bytes as an FP32 pattern: BF16 is widened exactly. -/
def widen (n x : Nat) : Nat := if n = 2 then x * 2 ^ 16 else x

/-! XRED (R332 to R334). -/

/-- One level of R333's tree. -/
def xredLevel (op : Nat → Nat → Nat) : List Nat → List Nat
  | a :: b :: r => op a b :: xredLevel op r
  | l => l
/-- R333's tree; fuel is the number of levels left. -/
def xredTree (op : Nat → Nat → Nat) : Nat → List Nat → Nat
  | 0, l => l.headD 0
  | n + 1, l => match l with
    | [] => 0
    | [a] => a
    | l => xredTree op n (xredLevel op l)

/-- The sum of a type (R333): 0 FP32, 1 BF16, 2 INT32. -/
def xredOp (ty a b : Nat) : Nat :=
  match ty with
  | 0 => add32 a b
  | 1 => (bf16.add .rne a b).1
  | _ => (a + b) % 2 ^ 32

/-- Sources and element size of a block. -/
def Cmd.xredSize (c : Cmd) : Nat := if c.par 1 1 = 1 then 2 else 4
def Cmd.xredSrcs (c : Cmd) : List Nat := (List.range (c.par 0 1)).map fun i => c.par (32 + 8 * i) 8

/-- The rejection of an XRED block (R330, R332). -/
def State.xredBad (s : State) (t : Task) (c : Cmd) (p : Nat) : Option (Nat × Nat) :=
  let n := c.par 0 1
  let cnt := c.par 4 4
  if n < 2 || 16 < n || 2 < c.par 1 1 || !c.zeros 2 2 || cnt = 0 || 2 ^ 28 < cnt || !c.zeros 8 24 || !c.zeros 184 8
      || !c.zeros (32 + 8 * n) (8 * (16 - n)) then some (1, p)
  else
    let len := cnt * c.xredSize
    let dst := c.par 160 8
    s.rangesBad t c (⟨p, 192, 64, .read⟩ :: c.xredSrcs.map (fun a => ⟨a, len, c.xredSize, .read⟩)
        ++ [⟨dst, len, c.xredSize, .write⟩] ++ flagRange (c.par 168 8))
      <|> if c.xredSrcs.any fun a => a != dst && overlaps a len dst len then some (5, dst) else none

/-- One element (R333, R334). -/
def State.xredUnit (s : State) (c : Cmd) : State :=
  let cnt := c.par 4 4
  let n := c.xredSize
  let e := c.pos
  if cnt ≤ e then s.footEnd c.id (c.par 168 8) (c.par 176 8)
  else
    let srcs := c.xredSrcs.map fun a => a + n * e
    let dst := c.par 160 8 + n * e
    match s.unread c (srcs.map fun a => (a, n)) <|> s.unwritten c [(dst, n)] with
    | some (a, why) => s.footStop c.id why e a (cnt - e - 1)
    | none =>
      let s := srcs.foldl (fun s a => s.footFly c a n .read) s
      let r := xredTree (xredOp (c.par 1 1)) 5 (srcs.map fun a => leNat (s.footBytes c a n))
      (s.footPut c dst (leBytes n r)).modCmd c.id fun c => { c with pos := e + 1 }

/-- What the elements that are left touch. -/
def Cmd.xredRest (c : Cmd) : List (Nat × Nat) :=
  ((c.par 160 8 :: c.xredSrcs).map fun a => (a + c.xredSize * c.pos, c.xredSize * (c.par 4 4 - c.pos))) ++ flagBytes (c.par 168 8)

/-- XRED_EXECUTE (R333): the command leaves its brick, its block is accepted or rejected, or up to n elements are summed. -/
def execXredExecute (id n : Nat) (s : State) : Res :=
  if s.mayLeave id 3 then .next (s.arriveCmd id)
  else match s.footCmd id 3 with
  | none => .next s
  | some (c, t) =>
    match c.kind with
    | .xred p =>
      if c.running then .next ((footLoop id State.xredUnit (n + 1) s).footLand id fun _ c => c.xredRest)
      else .next (s.footAccept id c (s.xredBad t c p))
    | _ => .next s

/-! XIRED (R335 to R339). -/

/-- A table of a directory (R336). -/
structure XTable where
  base : Nat
  rows : Nat
  bf : Bool
  deriving DecidableEq, Repr

def XTable.size (x : XTable) : Nat := if x.bf then 2 else 4

/-- The fields of an XIRED block (R335). -/
structure XIred where
  list : Nat
  count : Nat
  len : Nat
  tables : Nat
  dir : Nat
  dest : Nat
  slots : Nat
  init : Bool
  flag : Nat
  val : Nat
  deriving DecidableEq, Repr

def Cmd.xired (c : Cmd) : XIred :=
  { list := c.par 0 8, count := c.par 8 4, len := c.par 12 2, tables := c.par 14 2, dir := c.par 16 8, dest := c.par 24 8,
    slots := c.par 32 4, init := (c.par 36 1).testBit 0, flag := c.par 40 8, val := c.par 48 8 }

/-- The entries of a directory: none for a malformed one. -/
def dirEntry (bs : List Byte) : Option XTable :=
  if field bs 8 4 = 0 || 1 < field bs 12 1 || field bs 13 3 != 0 then none
  else some ⟨field bs 0 8, field bs 8 4, field bs 12 1 == 1⟩

/-- The entries of a directory's bytes. -/
def dirEntries (n : Nat) (bs : List Byte) : List (Option XTable) :=
  (List.range n).map fun i => dirEntry ((bs.drop (16 * i)).take 16)

/-- The directory of a command as it was read when the block was accepted: every update stays inside the tables checked
then (R329). -/
def Cmd.tables (c : Cmd) : List (Option XTable) :=
  dirEntries c.xired.tables ((kget 2 [] c.work).flatMap fun w => leBytes 4 w.toNat)

/-- The rejection of an XIRED block (R330, R335, R336). -/
def State.xiredBad (s : State) (t : Task) (c : Cmd) (p : Nat) : Option (Nat × Nat) :=
  let x := c.xired
  if x.count = 0 || 2 ^ 24 < x.count || x.len = 0 || 4096 < x.len || x.tables = 0 || 256 < x.tables || x.slots = 0
      || 2 ^ 20 < x.slots || 2 ≤ c.par 36 1 || !c.zeros 37 3 || !c.zeros 56 8 then some (1, p)
  else
    match s.rangesBad t c ([⟨p, 64, 64, .read⟩, ⟨x.list, 16 * x.count, 16, .read⟩, ⟨x.dir, 16 * x.tables, 16, .read⟩,
        ⟨x.dest, 4 * x.len * x.slots, 4, if x.init then .write else .any⟩] ++ flagRange x.flag) with
    | some e => some e
    | none =>
      match s.footGets c x.dir (16 * x.tables) with
      | .error e => some (e, x.dir)
      | .ok bs =>
        let ts := dirEntries x.tables bs
        match findIdx1 Option.isNone ts with
        | some (i, _) => some (1, x.dir + 16 * i)
        | none => s.rangesBad t c ((ts.filterMap id).map fun y => ⟨y.base, y.rows * x.len * y.size, y.size, .any⟩)

/-- Note the directory of an accepted command. -/
def State.keepDir (s : State) (id : Nat) : State :=
  s.modCmd id fun c =>
    { c with work := kset 2 ((elemsOf 4 (s.footBytes c c.xired.dir (16 * c.xired.tables))).map (BitVec.ofNat 32)) c.work }

/-- The identity INIT gives a slot (R338): set by the first gather command that names it. -/
def State.initVal (s : State) (c : Cmd) (slot : Nat) : Nat → Nat → Nat
  | 0, _ => 0
  | n + 1, j =>
    let x := c.xired
    if x.count ≤ j then 0
    else
      let w := leNat (s.footBytes c (x.list + 16 * j) 16)
      if s.unread c [(x.list + 16 * j, 16)] |>.isNone then
        if nbits w 44 20 = slot && nbits w 40 4 < 2 then (if nbits w 40 4 = 0 then 0 else fp32.infS true)
        else s.initVal c slot n (j + 1)
      else s.initVal c slot n (j + 1)

/-- The update of one element (R338): table element size and pattern, slot element, weight; the new pattern. -/
def xiredVal (op w sz t d : Nat) : Nat :=
  match op with
  | 0 => (fp32.fma .rne w (widen sz t) d).1
  | 1 => (fp32.minmax true d (mul32 w (widen sz t))).1
  | _ =>
    if sz = 4 then (fp32.fma .rne w d t).1
    else (bf16.fmaV .rne (fp32.val w) (fp32.val d) (bf16.val t)).1

/-- An item of the list (R337): operation, element size of its table, row address, slot address, weight. -/
structure XItem where
  op : Nat
  sz : Nat
  row : Nat
  slot : Nat
  w : Nat
  deriving DecidableEq, Repr

/-- The address its element e updates, and the element's bytes. -/
def XItem.at' (x : XItem) (e : Nat) : Nat × Nat := if x.op = 2 then (x.row + x.sz * e, x.sz) else (x.slot + 4 * e, 4)

/-- Item j as the list has it (R337): or the reason why it fails, with the address. -/
def State.itemAt (s : State) (c : Cmd) (j : Nat) : Except (Nat × Nat) XItem :=
  let x := c.xired
  let la := x.list + 16 * j
  match s.footGets c la 16 with
  | .error e => .error (e, la)
  | .ok bs =>
    let w := leNat bs
    let op := nbits w 40 4
    let row := nbits w 0 32
    let slot := nbits w 44 20
    match c.tables[nbits w 32 8]? with
    | some (some y) =>
      if 2 < op || nbits w 96 32 != 0 || y.rows ≤ row || x.slots ≤ slot then .error (6, la)
      else .ok ⟨op, y.size, y.base + row * x.len * y.size, x.dest + slot * x.len * 4, nbits w 64 32⟩
    | _ => .error (6, la)

/-- An item and its operands, the table row or for a scatter the slot, checked whole as they stand when its turn comes
(R338, R339): or the reason why it fails, with the address. -/
def State.xiredItem (s : State) (c : Cmd) (j : Nat) : Except (Nat × Nat) (XItem × List Nat) :=
  let len := c.xired.len
  match s.itemAt c j with
  | .error e => .error e
  | .ok it =>
    match s.unread c [(it.row, len * it.sz), (it.slot, len * 4)] <|> s.unwritten c [((it.at' 0).1, len * (it.at' 0).2)] with
    | some (a, e) => .error (e, a)
    | none => .ok (it, if it.op = 2 then elemsOf 4 (s.footBytes c it.slot (len * 4))
        else elemsOf it.sz (s.footBytes c it.row (len * it.sz)))

/-- One element's update of an item under way (R338, R339). -/
def State.xiredElem (s : State) (c : Cmd) (e : Nat) (it : XItem) (vs : List Nat) : State :=
  let (a, n) := it.at' e
  let v := lget vs e 0
  (s.footModify c a n fun old => if it.op = 2 then xiredVal it.op it.w it.sz old v else xiredVal it.op it.w it.sz v old).modCmd c.id
    fun c => { c with pos := c.pos + 1 }

/-- The item under way, as its first element left it in the working values. -/
def Cmd.item (c : Cmd) : XItem :=
  let l := kget 1 [] c.work
  let f (i : Nat) : Nat := (lget l i 0).toNat
  ⟨f 0, f 1, f 2 + f 3 * 2 ^ 32, f 4 + f 5 * 2 ^ 32, f 6⟩

/-- Note an item and its operands. -/
def Cmd.keepItem (c : Cmd) (it : XItem) (vs : List Nat) : Cmd :=
  let l := [it.op, it.sz, it.row % 2 ^ 32, it.row / 2 ^ 32, it.slot % 2 ^ 32, it.slot / 2 ^ 32, it.w]
  { c with work := kset 0 (vs.map (BitVec.ofNat 32)) (kset 1 (l.map (BitVec.ofNat 32)) c.work) }

/-- One unit of an XIRED: an element of INIT, or one element's update of a command (R338, R339). The position counts
elements. -/
def State.xiredUnit (s : State) (c : Cmd) : State :=
  let x := c.xired
  let inits := if x.init then x.slots * x.len else 0
  let next (s : State) (k : Nat) : State := s.modCmd c.id fun c => { c with pos := c.pos + k }
  if c.pos < inits then
    let a := x.dest + 4 * c.pos
    if s.footCan c a 4 then next (s.footPut c a (leBytes 4 (s.initVal c (c.pos / x.len) x.count 0))) 1
    else s.footStop c.id 3 0 a x.count
  else
    let j := (c.pos - inits) / x.len
    let e := (c.pos - inits) % x.len
    if x.count ≤ j then s.footEnd c.id x.flag x.val
    else if e != 0 then s.xiredElem c e c.item ((kget 0 [] c.work).map BitVec.toNat)
    else match s.xiredItem c j with
    | .error (r, a) => next (s.footFail c.id r j a) x.len
    | .ok (it, vs) =>
      let s := (s.footFly c it.row (x.len * it.sz) .read).footFly c it.slot (x.len * 4) .read
      let s := (s.modCmd c.id fun c => { c with held := [] }).footHold c (it.at' 0).1 (x.len * (it.at' 0).2)
      (s.modCmd c.id fun c => c.keepItem it vs).xiredElem c 0 it vs

/-- What the initialisation and the items that are left touch. -/
def State.xiredRest (s : State) (c : Cmd) : List (Nat × Nat) :=
  let x := c.xired
  let inits := if x.init then x.slots * x.len else 0
  let e := (c.pos - inits) % x.len
  let j := (c.pos - inits + x.len - 1) / x.len
  [(x.dest + 4 * c.pos, 4 * (inits - c.pos)), (x.list + 16 * j, 16 * (x.count - j))]
    ++ (if e = 0 then [] else [((c.item.at' e).1, (x.len - e) * (c.item.at' e).2)])
    ++ ((List.range (x.count - j)).flatMap fun i => match s.itemAt c (j + i) with
      | .ok it => [(it.row, x.len * it.sz), (it.slot, x.len * 4)]
      | .error _ => [])
    ++ flagBytes x.flag

/-- XIRED_EXECUTE (R338, R339): the command leaves its brick, its block is accepted or rejected, or up to n elements are worked
on. -/
def execXiredExecute (id n : Nat) (s : State) : Res :=
  if s.mayLeave id 4 then .next (s.arriveCmd id)
  else match s.footCmd id 4 with
  | none => .next s
  | some (c, t) =>
    match c.kind with
    | .xired p =>
      if c.running then .next ((footLoop id State.xiredUnit (n + 1) s).footLand id State.xiredRest)
      else .next ((s.footAccept id c (s.xiredBad t c p)).keepDir id)
    | _ => .next s

/-! XPKL (R340 to R347). -/

/-- The fields of an XPKL block (R340). -/
structure XPkl where
  back : Bool
  soft : Bool
  sorted : Bool
  qsz : Nat
  vsz : Nat
  k : Nat
  nq : Nat
  h : Nat
  nk : Nat
  dv : Nat
  q : Nat
  k1 : Nat
  k2 : Nat
  v : Nat
  rows : Nat
  index : Nat
  weight : Nat
  grad : Nat
  flag : Nat
  val : Nat
  deriving DecidableEq, Repr

def Cmd.xpkl (c : Cmd) : XPkl :=
  { back := c.par 0 1 == 1, soft := c.par 1 1 == 1, sorted := (c.par 2 1).testBit 0,
    qsz := if (c.par 2 1).testBit 1 then 2 else 4, vsz := if (c.par 2 1).testBit 2 then 4 else 2, k := c.par 3 1,
    nq := c.par 4 2, h := c.par 6 2 / 2, nk := c.par 8 2, dv := c.par 10 2, q := c.par 16 8, k1 := c.par 24 8,
    k2 := c.par 32 8, v := c.par 40 8, rows := c.par 48 8, index := c.par 56 8, weight := c.par 64 8, grad := c.par 72 8,
    flag := c.par 80 8, val := c.par 88 8 }

/-- The rejection of an XPKL block (R330, R340). What R340 gives as 'backward only', SORTED and the grad-weight address, is
out of range in forward mode when it is set (log entry 59). -/
def State.xpklBad (s : State) (t : Task) (c : Cmd) (p : Nat) : Option (Nat × Nat) :=
  let x := c.xpkl
  let d := c.par 6 2
  if 1 < c.par 0 1 || 1 < c.par 1 1 || (x.back && x.soft) || 8 ≤ c.par 2 1 || (!x.back && x.sorted) || x.k = 0 || 32 < x.k
      || x.nk < x.k || x.nq = 0 || 64 < x.nq || d % 2 = 1 || d = 0 || 1024 < d || x.nk = 0 || 4096 < x.nk || x.dv = 0
      || 4096 < x.dv || !c.zeros 12 4 || !c.zeros 96 32 || (x.back && !c.zeros 16 24) || (!x.back && x.grad != 0)
      || (x.back && (x.index = 0 || x.weight = 0)) then some (1, p)
  else
    let arr (a : Nat) (acc : Acc) : List FRange := if a = 0 then [] else [⟨a, 4 * x.nq * x.k, 4, acc⟩]
    let table : FRange := ⟨x.v, x.nk * x.nk * x.dv * x.vsz, x.vsz, if x.back then .write else .read⟩
    let rs := if x.back then
        [table, ⟨x.rows, 4 * x.nq * x.dv, 4, .read⟩] ++ arr x.index .read ++ arr x.weight .read ++ arr x.grad .write
      else
        [⟨x.q, x.nq * 2 * x.h * x.qsz, x.qsz, .read⟩, ⟨x.k1, 2 * x.h * x.nk, 2, .read⟩, ⟨x.k2, 2 * x.h * x.nk, 2, .read⟩,
          table, ⟨x.rows, 4 * x.nq * x.dv, 4, .write⟩] ++ arr x.index .write ++ arr x.weight .write
    s.rangesBad t c (⟨p, 128, 64, .read⟩ :: rs ++ flagRange x.flag)
      <|> if (piecesOf table.a table.n).all fun y => s.pierOf t.part y.1 == s.pierOf t.part x.v then none else some (4, x.v)

/-- Whether score a of index i ranks above score b of index j (R342). -/
def ranksAbove (a i b j : Nat) : Bool :=
  match (fp32.val a).isNan, (fp32.val b).isNan with
  | true, true => i < j
  | true, false => false
  | false, true => true
  | false, false => match cmpFV false (fp32.val a) (fp32.val b) with
    | .gt => true
    | .lt => false
    | .eq => i < j

/-- Put a scored index in its place of a list in rank order. -/
def rankIn (x : Nat × Nat) : List (Nat × Nat) → List (Nat × Nat)
  | [] => [x]
  | y :: ys => if ranksAbove x.1 x.2 y.1 y.2 then x :: y :: ys else y :: rankIn x ys

/-- The k highest-ranked of scored indices (R342). -/
def topK (k : Nat) (xs : List (Nat × Nat)) : List (Nat × Nat) := xs.foldl (fun l x => (rankIn x l).take k) []

/-- A dot product in FP32 (R341). -/
def dot32 (a b : List Nat) : Nat := sumTree32 (List.zipWith mul32 a b)

/-- The scores of a half: the query's elements against each key, numbered (R341). -/
def scoreHalf (h : Nat) (q keys : List Nat) : List (Nat × Nat) :=
  (List.range (keys.length / max 1 h)).map fun i => (dot32 q ((keys.drop (h * i)).take h), i)

/-- The selected rows of a query with their scores, in rank order (R342). -/
def selectRows (k nk : Nat) (s1 s2 : List (Nat × Nat)) : List (Nat × Nat) :=
  let i1 := topK k s1
  let i2 := topK k s2
  topK k (i1.flatMap fun a => i2.map fun b => (add32 a.1 b.1, a.2 * nk + b.2))

/-- 2^200 × log2 e, rounded down. -/
def log2e200 : Nat := 0x171547652b82fe1777d0ffda0d23a7d11d6aef551bad2b4b116

/-- An enclosure of e^x. -/
def expEncl (neg : Bool) (m : Nat) (e : Int) : Encl :=
  let y := exp2Encl fp32 neg (m * log2e200) (e - 200)
  { y with lo := y.lo - 2 ^ (fixBits - 150) }

/-- Exp of R343: exact cases, else a value within 2 ulp that no rule fixes (log entry 8). -/
def expVal (x : Nat) : Nat :=
  match fp32.val x with
  | .nan _ => fp32.qnan
  | .zero _ => 0x3F800000
  | .inf true => 0
  | .inf false => fp32.inf
  | .fin n m e =>
    let y := expEncl n m e
    let p := (Config.approxPick 4096 (BitVec.ofNat 64 x)).toNat % 2 ^ 32
    if y.near fp32 2 (fp32.val p) then p else y.nearest fp32

/-- The weights of the selected scores (R343). -/
def pklWeights (soft : Bool) (cs : List Nat) : List Nat :=
  if !soft then cs
  else
    let m := lget cs 0 0
    let es := cs.map fun x => expVal (fp32.sub .rne x m).1
    let sum := sumTree32 es
    es.map fun e => (fp32.div .rne e sum).1

/-- Elements of a range as FP32 patterns. -/
def State.footElems (s : State) (c : Cmd) (a n sz : Nat) : List Nat := (elemsOf sz (s.footBytes c a (n * sz))).map (widen sz)

/-- The tokens one query's scoring takes (R347). -/
def XPkl.tokens (x : XPkl) : Nat := cdiv (2 * cdiv (x.nk * x.h) 1024) 4096

/-- The address of a value row. -/
def XPkl.rowAt (x : XPkl) (r : Nat) : Nat := x.v + r * x.dv * x.vsz

/-- One query's gather in forward mode (R343, R344, R346). -/
def State.pklForward (s : State) (c : Cmd) : State :=
  let x := c.xpkl
  let next (s : State) : State := s.modCmd c.id fun c => { c with pos := c.pos + 1, work := [] }
  if x.nq ≤ c.pos then s.footEnd c.id x.flag x.val
  else match kget? 0 c.work, kget? 1 c.work with
  | some rs, some cs =>
    let rows := rs.map BitVec.toNat
    let w := pklWeights x.soft (cs.map BitVec.toNat)
    let outs := (x.rows + 4 * c.pos * x.dv, 4 * x.dv)
      :: ([x.index, x.weight].filter (· != 0)).map fun a => (a + 4 * c.pos * x.k, 4 * x.k)
    match s.unread c (rows.map fun r => (x.rowAt r, x.dv * x.vsz)) <|> s.unwritten c outs with
    | some (a, e) => next (s.footFail c.id e c.pos a)
    | none =>
      let vals := rows.map fun r => s.footElems c (x.rowAt r) x.dv x.vsz
      let out := (List.range x.dv).flatMap fun j =>
        leBytes 4 ((List.zip w vals).foldl (fun acc y => (fp32.fma .rne y.1 (lget y.2 j 0) acc).1) 0)
      let s := rows.foldl (fun s r => s.footFly c (x.rowAt r) (x.dv * x.vsz) .read) s
      let s := s.footPut c (x.rows + 4 * c.pos * x.dv) out
      let s := if x.index = 0 then s else s.footPut c (x.index + 4 * c.pos * x.k) (rows.flatMap (leBytes 4))
      let s := if x.weight = 0 then s else s.footPut c (x.weight + 4 * c.pos * x.k) (w.flatMap (leBytes 4))
      next s
  | _, _ => s

/-- The row, weight and gradient of a backward item (R345, R346), or why it fails. -/
def State.pklItem (s : State) (c : Cmd) (i : Nat) : Except (Nat × Nat) (Nat × Nat × List Nat) :=
  let x := c.xpkl
  let ia := x.index + 4 * i
  let wa := x.weight + 4 * i
  let ga := x.rows + 4 * (i / x.k) * x.dv
  match s.footGets c ia 4 with
  | .error e => .error (e, ia)
  | .ok bs =>
    let r := leNat bs
    if x.nk * x.nk ≤ r then .error (6, ia)
    else match s.unread c [(wa, 4), (ga, 4 * x.dv), (x.rowAt r, x.dv * x.vsz)]
        <|> s.unwritten c ((x.rowAt r, x.dv * x.vsz) :: if x.grad = 0 then [] else [(x.grad + 4 * i, 4)]) with
    | some (a, e) => .error (e, a)
    | none => .ok (r, leNat (s.footBytes c wa 4), s.footElems c ga x.dv 4)

/-- The first pass of backward mode (R345): the gradients of the weights, before any row is updated. An item that does not
fail is kept for the second pass, with the row, weight and gradient that it has read. -/
def State.pklGrad (s : State) (c : Cmd) : State :=
  let x := c.xpkl
  let i := c.pos
  let next (s : State) : State := s.modCmd c.id fun c => { c with pos := c.pos + 1 }
  match s.pklItem c i with
  | .error (r, a) => next (s.footFail c.id r i a)
  | .ok (r, w, g) =>
    let v := s.footElems c (x.rowAt r) x.dv x.vsz
    let s := s.footHold c (x.rowAt r) (x.dv * x.vsz)
    let s := if x.grad = 0 then s else s.footPut c (x.grad + 4 * i) (leBytes 4 (dot32 g v))
    let item := ([r, w] ++ g).map (BitVec.ofNat 32)
    let todo := kget 0 [] c.work ++ [BitVec.ofNat 32 (4096 * i)]
    next (s.modCmd c.id fun c => { c with work := kset (i + 1) item (kset 0 todo c.work) })

/-- The second pass (R345): one element's addition. Each pending item stands with its next element; with SORTED clear the
item whose turn it is is a free choice (log entry 7). An item of which nothing has been written fails where its row can no
longer be read (R330, R346). -/
def State.pklAdd (s : State) (c : Cmd) : State :=
  let x := c.xpkl
  let l := kget 0 [] c.work
  if l.isEmpty then s.footEnd c.id x.flag x.val
  else
    let (n, s) := if x.sorted then (0, s) else s.drawNat
    let n := n % l.length
    let u := (lget l n 0).toNat
    let i := u / 4096
    let j := u % 4096
    let item := (kget (i + 1) [] c.work).map BitVec.toNat
    let row := x.rowAt (lget item 0 0)
    let keep (s : State) (rest : List (BitVec 32)) : State := s.modCmd c.id fun c => { c with work := kset 0 rest c.work }
    match if x.grad = 0 && j = 0 then s.unread c [(row, x.dv * x.vsz)] else none with
    | some (a, e) => keep (s.footFail c.id e i a) (l.eraseIdx n)
    | none =>
      let w := lget item 1 0
      let gj := lget item (j + 2) 0
      keep (s.footModify c (row + x.vsz * j) x.vsz fun v => if x.vsz = 4 then (fp32.fma .rne w gj v).1
          else (bf16.fmaV .rne (fp32.val w) (fp32.val gj) (bf16.val v)).1)
        (if j + 1 < x.dv then l.set n (BitVec.ofNat 32 (u + 1)) else l.eraseIdx n)

/-- What the queries, or the backward items, that are left touch. -/
def State.xpklRest (s : State) (c : Cmd) : List (Nat × Nat) :=
  let x := c.xpkl
  let row (r : Nat) : Nat × Nat := (x.rowAt r, x.dv * x.vsz)
  let arr (a p : Nat) : List (Nat × Nat) := if a = 0 then [] else [(a + 4 * p, 4 * (x.nq * x.k - p))]
  let rows := (x.rows + 4 * (if x.back then c.pos / x.k else c.pos) * x.dv,
    4 * (x.nq - (if x.back then c.pos / x.k else c.pos)) * x.dv)
  flagBytes x.flag ++ (if x.back then
      (if c.pos < x.nq * x.k then rows :: arr x.index c.pos ++ arr x.weight c.pos ++ arr x.grad c.pos else [])
        ++ ((List.range (x.nq * x.k - c.pos)).flatMap fun i => match s.footGets c (x.index + 4 * (c.pos + i)) 4 with
          | .ok bs => if leNat bs < x.nk * x.nk then [row (leNat bs)] else []
          | .error _ => [])
        ++ (kget 0 [] c.work).map fun u => row (lget (kget (u.toNat / 4096 + 1) [] c.work) 0 0).toNat
    else
      let q := if c.work.isEmpty then c.pos else c.pos + 1
      (if q < x.nq then [(x.q + q * 2 * x.h * x.qsz, (x.nq - q) * 2 * x.h * x.qsz), (x.k1, 2 * x.h * x.nk), (x.k2, 2 * x.h * x.nk),
          (x.v, x.nk * x.nk * x.dv * x.vsz)] else [])
        ++ (kget 0 [] c.work).map (fun r => row r.toNat) ++ rows :: arr x.index (c.pos * x.k) ++ arr x.weight (c.pos * x.k))

/-- A word that a running command has buffered is found uncorrectable (R392): the item it belongs to, of the backward items in
their second pass the n-th, fails with reason 0x07 (R330). An item of which something has been written is past its buffer
(log entry 59). -/
def State.footSpoil (s : State) (c : Cmd) (n : Nat) : State :=
  let next (s : State) (k : Nat) : State := s.modCmd c.id fun c => { c with pos := c.pos + k, work := if c.tl = 5 then [] else c.work }
  match c.kind with
  | .xred _ => if c.pos < c.par 4 4 then s.footStop c.id 7 c.pos 0 (c.par 4 4 - c.pos - 1) else s
  | .xired _ =>
    let x := c.xired
    let inits := if x.init then x.slots * x.len else 0
    let j := (c.pos - inits) / x.len
    if c.pos < inits || x.count ≤ j || (c.pos - inits) % x.len != 0 then s else next (s.footFail c.id 7 j 0) x.len
  | .xpkl _ =>
    let x := c.xpkl
    if !x.back then (if x.nq ≤ c.pos || c.work.isEmpty then s else next (s.footFail c.id 7 c.pos 0) 1)
    else
      let l := kget 0 [] c.work
      match l[n]? with
      | none => s
      | some u =>
        if x.grad != 0 || u.toNat % 4096 != 0 then s
        else (s.footFail c.id 7 (u.toNat / 4096) 0).modCmd c.id fun c => { c with work := kset 0 (l.eraseIdx n) c.work }
  | _ => s

/-- PKL_QUERY_SCORE (R341, R342, R347): with the footing die's tokens, the next query is scored and its rows are chosen. -/
def execPklQueryScore (id : Nat) (s : State) : Res :=
  match s.footCmd id 5 with
  | none => .next s
  | some (c, _) =>
    let x := c.xpkl
    let need := 256 * x.tokens
    if !c.running || x.back || x.nq ≤ c.pos || !c.work.isEmpty || (s.pier c.pier).bucket < need then .next s
    else
      let s := s.modPier c.pier fun p => { p with bucket := p.bucket - need }
      let qa := x.q + c.pos * 2 * x.h * x.qsz
      match s.unread c [(qa, 2 * x.h * x.qsz), (x.k1, 2 * x.h * x.nk), (x.k2, 2 * x.h * x.nk)] with
      | some (a, e) => .next (((s.footFail id e c.pos a).modCmd id fun c => { c with pos := c.pos + 1 }).footLand id State.xpklRest)
      | none =>
        let q := s.footElems c qa (2 * x.h) x.qsz
        let sel := selectRows x.k x.nk (scoreHalf x.h (q.take x.h) (s.footElems c x.k1 (x.nk * x.h) 2))
          (scoreHalf x.h (q.drop x.h) (s.footElems c x.k2 (x.nk * x.h) 2))
        let s := ((s.footFly c qa (2 * x.h * x.qsz) .read).footFly c x.k1 (2 * x.h * x.nk) .read).footFly c x.k2 (2 * x.h * x.nk) .read
        let work := [(0, sel.map fun y => BitVec.ofNat 32 y.2), (1, sel.map fun y => BitVec.ofNat 32 y.1)]
        .next ((s.modCmd id fun c => { c with work := work }).footLand id State.xpklRest)

/-- XPKL_EXECUTE (R340 to R346): the command leaves its brick, its block is accepted or rejected, or up to n units of work are
done. -/
def execXpklExecute (id n : Nat) (s : State) : Res :=
  if s.mayLeave id 5 then .next (s.arriveCmd id)
  else match s.footCmd id 5 with
  | none => .next s
  | some (c, t) =>
    match c.kind with
    | .xpkl p =>
      if !c.running then .next (s.footAccept id c (s.xpklBad t c p))
      else if c.xpkl.back then
        .next (footLoop id (fun s c => if c.pos < c.xpkl.nq * c.xpkl.k then s.pklGrad c else s.pklAdd c) (n + 1) s
          |>.footLand id State.xpklRest)
      else .next ((s.pklForward c).footLand id State.xpklRest)
    | _ => .next s

end Sys2Proof.Machine
end

