-- ==== Sys2Proof/Machine/Network.lean ====
section
/-!
DEFINITION. The network (11 R280, R281; 20 R426 to R429): sending packets within a destination's window, acknowledgements,
sending again, giving up, and operations that arrive.
-/

namespace Sys2Proof.Machine

/-! Records (R280). -/

/-- A network record. -/
structure NetRec where
  locl : Nat
  remote : Nat
  len : Nat
  dev : Nat
  counter : Nat
  ordered : Bool
  op : Nat
  size : Nat
  operand : Nat
  deriving DecidableEq, Repr

def NetRec.of (bs : List Byte) : NetRec :=
  { locl := field bs 0 8, remote := field bs 8 8, len := field bs 16 4, dev := field bs 20 4 % 2 ^ 19, counter := field bs 24 8,
    ordered := (field bs 32 1).testBit 0, op := field bs 33 1, size := field bs 34 1, operand := field bs 40 8 }

/-- The operation of a NAMO (R280): bytes and the new value of an old one; none for an unassigned code. -/
def namoOp (op size : Nat) : Option (Nat × (Nat → Nat → Nat)) :=
  if nbits op 4 3 != 0 then none
  else if op.testBit 7 then
    (FamoOp.ofBits (BitVec.ofNat 4 op)).bind fun f =>
      if size = 0 then some (famoBytes f, fun v x => famoNew f v (nbits x 0 (8 * famoBytes f))) else none
  else
    (AmoOp.ofBits (BitVec.ofNat 4 op)).bind fun o =>
      if 1 < size then none
      else
        let n := if size = 0 then 32 else 64
        some (n / 8, fun v x => (amoNew o n (BitVec.ofNat n v) (BitVec.ofNat n x)).toNat)

/-- Whether a record is valid for its command (R280). -/
def NetRec.ok (bs : List Byte) (amo : Bool) : Bool :=
  let r := NetRec.of bs
  field bs 20 4 < 2 ^ 19 && r.counter % 8 == 0 && field bs 32 1 < 2 && field bs 35 5 == 0 && field bs 48 16 == 0
    && (if amo then r.len == 0 && r.locl % 8 == 0 && (namoOp r.op r.size).isSome else 1 ≤ r.len && r.len ≤ 2 ^ 30)

/-- A network command's kind: 0 put, 1 get, 2 atomic. -/
def CmdKind.net : CmdKind → Option Nat
  | .nput _ => some 0
  | .nget _ => some 1
  | .namo _ => some 2
  | _ => none

/-! Destinations (R427). -/

/-- A destination at its initial window. -/
def NetDest.fresh (group dev now : Nat) : NetDest :=
  { group := group, dev := dev, w := 262144, samples := [], lastDec := 0, lastAck := now, used := now, unacked := 0, packets := 0 }

def State.dest (s : State) (group dev : Nat) : NetDest :=
  (s.pkg.dests.find? fun d => d.group == group && d.dev == dev).getD (NetDest.fresh group dev s.now)

/-- Keep a destination's state; a new one takes the place of the least recently used of a full group. -/
def State.setDest (s : State) (d : NetDest) : State :=
  let rest := s.pkg.dests.filter fun x => !(x.group == d.group && x.dev == d.dev)
  let mine := rest.filter fun x => x.group == d.group
  let rest := if mine.length < 4096 then rest
    else match mine.foldl (fun (b : Option NetDest) x => match b with
        | none => some x
        | some y => if x.used < y.used then some x else some y) none with
      | some y => rest.filter fun x => !(x.group == y.group && x.dev == y.dev)
      | none => rest
  { s with pkg := { s.pkg with dests := rest ++ [d] } }

/-- The least round trip of the last 10 ms: none for infinity. -/
def NetDest.base (d : NetDest) (now : Nat) : Option Nat :=
  (d.samples.filter fun x => now ≤ x.1 + 10000000).foldl (fun b x => match b with
    | none => some x.2
    | some y => some (min x.2 y)) none

/-- The window after an acknowledged round trip (R427). -/
def NetDest.acked (d : NetDest) (now r tgt : Nat) : NetDest :=
  let d := { d with samples := (d.samples.filter fun x => now ≤ x.1 + 10000000) ++ [(now, r)], lastAck := now, used := now }
  let base := (d.base now).getD 0
  let t := base + tgt
  if r ≤ t then { d with w := min 16777216 (d.w + 4096 * 4096 / d.w) }
  else if d.lastDec = 0 || d.lastDec + base ≤ now then
    { d with w := max 4096 (d.w * (10 * r - 8 * (r - t)) / (10 * r)), lastDec := now }
  else d

/-- Queued bytes of a port. -/
def State.queued (s : State) (port : Nat) : Nat := kget port 0 s.pkg.portq
def State.addQueued (s : State) (port n : Nat) : State :=
  { s with pkg := { s.pkg with portq := kset port (s.queued port + n) s.pkg.portq } }
def State.subQueued (s : State) (port n : Nat) : State :=
  { s with pkg := { s.pkg with portq := kset port (s.queued port - n) s.pkg.portq } }

/-- The port a packet to a device leaves on (R426). -/
def State.pickPort (s : State) (dev : Nat) (ordered : Bool) : Nat :=
  if ordered then dev % 16 else (List.range 16).foldl (fun b p => if s.queued p < s.queued b then p else b) 0

/-- A packet to a device joins its port's queue and its destination's window (R427). -/
def State.pktOut (s : State) (dev : Nat) (p : NetPkt) : State :=
  let d := s.dest (p.port / 4) dev
  (s.setDest { d with unacked := d.unacked + p.n, packets := d.packets + 1, used := s.now,
                      lastAck := if d.packets = 0 then s.now else d.lastAck }).addQueued p.port p.n

/-- A packet is done with: acknowledged, or given up. -/
def State.pktDone (s : State) (dev : Nat) (p : NetPkt) : State :=
  let d := s.dest (p.port / 4) dev
  (s.setDest { d with unacked := d.unacked - p.n, packets := d.packets - 1 }).subQueued p.port p.n

/-- A packet to a device is acknowledged after a round trip (R427). -/
def State.pktAcked (s : State) (q dev rtt : Nat) (p : NetPkt) : State :=
  (s.setDest ((s.dest (p.port / 4) dev).acked s.now rtt ((s.part q).nettgt.toNat % 2 ^ 16))).pktDone dev p

/-- Whether a destination's window has room for n bytes more. -/
def State.windowHas (s : State) (dev port n : Nat) : Bool :=
  let d := s.dest (port / 4) dev
  d.unacked + n ≤ d.w

/-- The oldest of some packets that has been unacknowledged for max(50 us, 10 × base) (R427). -/
def State.pktDue (s : State) (dev : Nat) (ps : List NetPkt) : Option NetPkt :=
  ps.find? fun p => match (s.dest (p.port / 4) dev).base s.now with
    | some b => p.sentAt + max 50000 (10 * b) ≤ s.now
    | none => false

/-- A packet sent again: its timer starts anew. -/
def pktAgain (now : Nat) (p : NetPkt) (ps : List NetPkt) : List NetPkt :=
  ps.map fun x => if x == p then { x with sentAt := now } else x

/-- A packet sent again is counted (R428). -/
def State.countResent (s : State) (q : Nat) : State :=
  s.modPart q fun p => { p with netResent := min (2 ^ 32 - 1) (p.netResent + 1) }

/-! Sending. -/

/-- Whether a command must wait for an earlier ordered one of its context to the same device (R281, R426); of one that is
still in the brick, whose record has not been read, nothing is known yet. -/
def State.orderedBehind (s : State) (c : Cmd) (r : NetRec) : Bool :=
  r.ordered && s.cmds.any fun x => x.1 < c.id && x.2.tl == 6 && x.2.uid == c.uid && !x.2.ended
    && (x.2.arrived.isNone || (let y := NetRec.of x.2.params
        y.ordered && y.dev == r.dev && (match x.2.kind.net with
          | some 0 => x.2.pos < y.len
          | _ => x.2.pos == 0)))

/-- The first piece of a local range that a network command cannot reach: its address, and why (R376). -/
def State.netReach (s : State) (c : Cmd) (a n : Nat) (acc : Acc) : Option (Nat × BRes) :=
  (piecesOf a n).findSome? fun p => match s.flatByte c.who p.1 acc with
    | .ok .. => none
    | r => some (p.1, r)

/-- A command stops: what it has outstanding goes back to its ports and destinations. -/
def State.netStop (s : State) (c : Cmd) : State :=
  let s := c.pkts.foldl (fun s p => s.pktDone (NetRec.of c.params).dev p) s
  s.setCmd c.id { c with pkts := [], ended := true }

/-- A command fails at a place of its delivery order. -/
def State.netFail (s : State) (c : Cmd) (cause reason a : Nat) : State :=
  s.netStop (c.failed ⟨cause, reason, (a - (NetRec.of c.params).locl) / 8, a, 0⟩)

/-- A local access that cannot be made: a page not resident freezes the command (R376, R380), and anything else ends it. -/
def State.netBlocked (s : State) (c : Cmd) (a : Nat) : BRes → State
  | .absent page => s.freeze c.id page ((a - (NetRec.of c.params).locl) / 8)
  | .poison x => s.netFail c 0x0F 0 x
  | .bad x => s.netFail c 7 0 x
  | .ok .. => s

/-- Whether the bytes of a local range can be read: or what stops it. -/
def State.netReadable (s : State) (c : Cmd) (a n : Nat) : Option (Nat × BRes) :=
  (s.netReach c a n .read) <|> ((s.flatPoison c.part c.brick c.uid a n).map fun x => (x, .poison x))

/-- Note the translations and the in-flight counts of a local range (R377, R381). -/
def State.netFly (s : State) (c : Cmd) (a n : Nat) (acc : Acc) : State :=
  (piecesOf a n).foldl (fun s p => match s.flatByte c.who p.1 acc with
    | .ok l _ => (s.flatKeep c.who p.1 acc).fly c.id l
    | _ => s) s

/-- The bytes of a get's k-th piece (R426). -/
def pieceLen (len k : Nat) : Nat := min 4096 (len - 4096 * k)

/-- The parts of DRAM that the accesses a command has still to make lie in (R381). -/
def State.netLeft (s : State) (c : Cmd) : List Nat :=
  let r := NetRec.of c.params
  let parts (off n : Nat) (acc : Acc) : List Nat := (piecesOf (r.locl + off) n).flatMap fun p => dramPart (s.flatByte c.who p.1 acc)
  if c.ended then []
  else match c.kind.net with
  | some 0 => parts c.pos (r.len - c.pos) .read ++ c.pkts.flatMap fun p => parts p.place p.n .read
  | some 1 => (List.range (cdiv r.len 4096)).flatMap fun k =>
      if c.got.contains k then [] else parts (4096 * k) (pieceLen r.len k) .write
  | _ => parts 0 8 .write

/-- Lower the in-flight counts of the parts that a command is done with. -/
def State.netLand (s : State) (id : Nat) : State :=
  match s.cmd? id with
  | some c => if c.flights.isEmpty then s else s.landBut id (s.netLeft c)
  | none => s

/-- The operation a packet belongs to, with the packet's bytes, sealed under the job key of the command's partition (R426). -/
def State.packetOp (s : State) (c : Cmd) (kind : Nat) (bs : List Byte) : NetOp :=
  let r := NetRec.of c.params
  let p := s.part c.part
  { src := s.pkg.netid.toNat, job := p.netjob.toNat % 2 ^ 32, kind := kind, addr := r.remote, data := bs, len := r.len,
    counter := r.counter, amoOp := r.op, amoSize := r.size, operand := BitVec.ofNat 64 r.operand,
    stream := if r.ordered then some c.ctxId else none, key := p.jobKey }

/-- A packet of a command leaves the package (log entry 17). -/
def State.sendPacket (s : State) (c : Cmd) (kind : Nat) (p : NetPkt) (bs : List Byte) : State :=
  s.out (.packet c.id (NetRec.of c.params).dev p.port p.place (s.packetOp c kind bs))

/-- A packet of an answer leaves the package. -/
def State.sendReply (s : State) (r : Reply) (p : NetPkt) : State :=
  s.out (.netReply r.dev 0 p.port p.place ((r.data.drop p.place).take p.n))

/-- The answer of a number that is on its way. -/
def State.reply? (s : State) (id : Nat) : Option Reply := s.pkg.replies.find? fun r => r.id == id
/-- An answer with its packets replaced; one that is whole and acknowledged is done with. -/
def State.setReply (s : State) (r : Reply) : State :=
  let rest := s.pkg.replies.filter fun x => x.id != r.id
  { s with pkg := { s.pkg with replies := if r.data.length ≤ r.pos && r.pkts.isEmpty then rest else rest ++ [r] } }

/-- The next packet of a payload leaves, where its destination's window has room: none where it waits. -/
def State.nextPkt (s : State) (dev : Nat) (ordered : Bool) (place n : Nat) : Option NetPkt :=
  let port := s.pickPort dev ordered
  if s.windowHas dev port n then some ⟨place, n, port, s.now⟩ else none

/-- The next packet of an answer is sent (R426, R427). -/
def State.replySend (s : State) (r : Reply) : State :=
  let n := min 4096 (r.data.length - r.pos)
  match if r.data.length ≤ r.pos then none else s.nextPkt r.dev r.ordered r.pos n with
  | some p => ((s.pktOut r.dev p).setReply { r with pos := r.pos + n, pkts := r.pkts ++ [p] }).sendReply r p
  | none => s

/-- The next packet of a command is sent (R279, R426, R427); its record's local range must lie inside the lease as the command
leaves (R272). -/
def State.netSend (s : State) (c : Cmd) (kind : Nat) : State :=
  let r := NetRec.of c.params
  let out := !(s.task? c.uid).any fun t => t.inLease r.locl (if kind = 2 then 8 else r.len)
  if c.fail.isSome then s.netStop c
  else if !NetRec.ok c.params (kind == 2) then s.netFail c 0x0E 0 r.locl
  else if out then s.netFail c 6 0 r.locl
  else
    let n := if kind = 0 then min 4096 (r.len - c.pos) else 0
    if s.orderedBehind c r || (if kind = 0 then r.len ≤ c.pos else c.pos != 0) then s
    else match s.nextPkt r.dev r.ordered c.pos n with
    | none => s
    | some p =>
      match s.netReadable c (r.locl + c.pos) n with
      | some (x, why) => s.netBlocked c x why
      | none =>
        let bs := (s.readFlat c.part c.brick 0 (r.locl + c.pos) n).getD []
        let c' := { c with pkts := c.pkts ++ [p], pos := if kind = 0 then c.pos + n else 1, running := true }
        ((s.pktOut r.dev p).setCmd c.id c').netFly c (r.locl + c.pos) n .read |>.sendPacket c kind p bs

/-- NETWORK_PACKET_SEND (R279, R426, R427): a command leaves its brick, or it, or an answer, sends its next packet within its
destination's window. -/
def execNetworkPacketSend (id : Nat) (s : State) : Res :=
  if s.mayLeave id 6 then .next (s.arriveCmd id)
  else match s.cmd? id, s.reply? id with
  | some c, _ =>
    (match c.kind.net with
    | none => .next s
    | some kind => .next (if c.ended || c.arrived.isNone || c.frozen.isSome then s else s.netSend c kind))
  | none, some r => .next (s.replySend r)
  | none, none => .next s

/-- Write what an NGET or NAMO brought (R281), visible at .dev. -/
def State.netWrite (s : State) (c : Cmd) (a : Nat) (bs : List Byte) : State :=
  ((piecesOf a bs.length).foldl (fun (x : State × List Byte) p => match x.1.flatByte c.who p.1 .write with
    | .ok l pte => (x.1.engWrite c true l pte (x.2.take p.2), x.2.drop p.2)
    | _ => (x.1, x.2.drop p.2)) (s.netFly c a bs.length .write, bs)).1

/-- Bytes arrive for a place of a command's local range (R281, R376): a page that is not resident freezes it, and they come
again once the request is answered; otherwise they are written, and the command goes on as then says. -/
def State.netBring (s : State) (c : Cmd) (off : Nat) (bs : List Byte) (done : State → State) : State :=
  let a := (NetRec.of c.params).locl + off
  match s.netReach c a bs.length .write with
  | some (x, why) => s.netBlocked c x why
  | none => (done (s.netWrite c a bs)).netLand c.id

/-- A packet of a command is acknowledged: the k-th piece of its payload, or of the bytes that a get asks for. -/
def State.cmdAck (s : State) (c : Cmd) (kind k rtt code : Nat) (data : List Byte) : State :=
  let r := NetRec.of c.params
  match c.pkts.find? fun p => p.place == (if kind = 0 then 4096 * k else 0) with
  | none => s
  | some p =>
    let s := s.setDest { s.dest (p.port / 4) r.dev with lastAck := s.now }
    let over' (s : State) (f : Cmd → Cmd) : State :=
      (s.pktAcked c.part r.dev rtt p).modCmd c.id fun c => f { c with pkts := c.pkts.erase p }
    if c.abort then s.netStop c
    else if code != 0 then s.netFail c 0x0E code (r.locl + 4096 * k)
    else match kind with
    | 0 => (over' s fun c => { c with wptr := c.wptr + p.n, ended := r.len ≤ c.pos && c.pkts.isEmpty }).netLand c.id
    | 1 =>
      let n := pieceLen r.len k
      if n = 0 || data.length != n || c.got.contains k then s
      else s.netBring c (4096 * k) data fun s =>
        let s := s.modCmd c.id fun c => { c with got := k :: c.got, wptr := c.wptr + n }
        if r.len ≤ c.wptr + n then over' s fun c => { c with ended := true } else s
    | _ => s.netBring c 0 (leBytes 8 (leNat (data.take 8))) fun s => over' s fun c => { c with ended := true }

/-- NETWORK_ACK (R427, R429): a packet is acknowledged after a round trip, with the data it brought. The reason's low 8 bits
are the target's reason for refusing the operation, and the bits above number the piece of 4,096 bytes it is about: of a put
or an answer the piece acknowledged, of a get the one that has come. -/
def execNetworkAck (id rtt : Nat) (data : List Byte) (reason : Nat) (s : State) : Res :=
  let k := reason / 2 ^ 8
  match s.cmd? id, s.reply? id with
  | some c, _ =>
    (match c.kind.net with
    | some kind => .next (if c.ended || c.frozen.isSome then s else s.cmdAck c kind k rtt (reason % 2 ^ 8) data)
    | none => .next s)
  | none, some r => match r.pkts.find? fun p => p.place == 4096 * k with
    | some p => .next ((s.pktAcked r.part r.dev rtt p).setReply { r with pkts := r.pkts.erase p })
    | none => .next s
  | none, none => .next s

/-- PACKET_RETRANSMIT (R427): a packet of a command or of an answer, unacknowledged for max(50 us, 10 × base), is sent again;
each packet has its own timer. -/
def execPacketRetransmit (id : Nat) (s : State) : Res :=
  match s.cmd? id, s.reply? id with
  | some c, _ =>
    (match c.kind.net, s.pktDue (NetRec.of c.params).dev c.pkts with
    | some kind, some p =>
      let a := (NetRec.of c.params).locl + p.place
      if c.ended || c.frozen.isSome then .next s
      else if c.abort then .next (s.netStop c)
      else match s.netReadable c a p.n with
        | some (x, why) => .next (s.netBlocked c x why)
        | none =>
          let bs := (s.readFlat c.part c.brick 0 a p.n).getD []
          .next (((s.setCmd id { c with pkts := pktAgain s.now p c.pkts }).countResent c.part).sendPacket c kind p bs)
    | _, _ => .next s)
  | none, some r => match s.pktDue r.dev r.pkts with
    | some p => .next (((s.setReply { r with pkts := pktAgain s.now p r.pkts }).countResent r.part).sendReply r p)
    | none => .next s
  | none, none => .next s

/-- Fail the commands with packets outstanding to a device, with reason 0x03, and drop the answers to it and its state
(R427). -/
def State.giveUp (s : State) (dev : Nat) (ids : List Nat) : State :=
  let s := ids.foldl (fun s id => match s.cmd? id with
    | none => s
    | some c =>
      let s := c.pkts.foldl (fun s p => s.subQueued p.port p.n) s
      let off := ((c.pkts.head?.map (·.place)).getD 0)
      s.setCmd id { c.failed ⟨0x0E, 3, off / 8, (NetRec.of c.params).locl + off, 0⟩ with pkts := [], ended := true }) s
  let mine (r : Reply) : Bool := r.dev == dev && !r.pkts.isEmpty
  let s := (s.pkg.replies.filter mine).foldl (fun s r => r.pkts.foldl (fun s p => s.subQueued p.port p.n) s) s
  { s with pkg := { s.pkg with dests := s.pkg.dests.filter fun d => d.dev != dev
                               replies := s.pkg.replies.filter fun r => !mine r } }

/-- DESTINATION_TIMEOUT (R427): 100 ms without an acknowledgement from a destination. -/
def execDestinationTimeout (dev : Nat) (s : State) : Res :=
  let mine := s.pkg.dests.filter fun d => d.dev == dev
  let ids := (s.cmds.filter fun x => x.2.kind.net.isSome && !x.2.ended && !x.2.pkts.isEmpty
    && (NetRec.of x.2.params).dev == dev).map (·.1)
  let none' := ids.isEmpty && s.pkg.replies.all fun r => r.dev != dev || r.pkts.isEmpty
  if none' || !(mine.all fun d => d.packets == 0 || d.lastAck + 100000000 ≤ s.now) then .next s
  else .next (s.giveUp dev ids)

/-! Arrivals (R429). -/

/-- Whether a window of a partition holds a whole range. -/
def Part.holds (p : Part) (a n : Nat) : Bool :=
  p.netwin.any fun w => wbits w.2 0 40 != 0 && w.1.toNat ≤ a && a + n ≤ w.1.toNat + wbits w.2 0 40

/-- Bytes of the remote range of an operation. -/
def netOpBytes (op : NetOp) : Nat :=
  match op.kind with
  | 0 => op.data.length
  | 1 => op.len
  | _ => ((namoOp op.amoOp op.amoSize).map (·.1)).getD 4

/-- The partition that takes an arriving operation. -/
def State.netTarget (s : State) (op : NetOp) : Option Nat :=
  (List.range 8).find? fun q =>
    let p := s.part q
    p.configured && op.job != 0 && p.netjob.toNat % 2 ^ 32 == op.job && p.holds op.addr (netOpBytes op)

/-- Whether an operation's packets authenticate (R426): they are sealed under the key installed for its job, that of the
partitions whose NETJOB is its tag. With no such partition there is no key to test, and R429 refuses it (log entry 63). -/
def State.netAuth (s : State) (op : NetOp) : Bool :=
  let ps := (List.range 8).filter fun q => (s.part q).configured && op.job != 0 && (s.part q).netjob.toNat % 2 ^ 32 == op.job
  ps.isEmpty || ps.any fun q => (s.part q).jobKey.isSome && (s.part q).jobKey == op.key

/-- Answer an operation without data: reason 0, or why it is refused (R429). -/
def State.netRefuse (s : State) (op : NetOp) (reason : Nat) : State :=
  s.out (.netReply op.src reason (s.pickPort op.src op.stream.isSome) 0 [])
/-- Answer it with bytes, which leave in packets of at most 4,096 bytes (R426). -/
def State.netAnswer (s : State) (q : Nat) (op : NetOp) (bs : List Byte) : State :=
  let (n, s) := s.newId
  s.setReply ⟨n, q, op.src, op.stream.isSome, bs, 0, []⟩

/-- How the translation of a range ends at the target. -/
inductive NetXl
  | ok
  | bad
  | absent (page : Nat)
  deriving DecidableEq, Repr

/-- The unit that translates for arrivals in a partition: that of its lowest pier (log entry 15). -/
def State.netUnit (s : State) (q : Nat) : Nat :=
  pierUnit (((List.range 8).find? fun p => (s.pier p).owner == some q).getD 0)

/-- How an arriving operation's address is translated (R429). -/
def State.netWalk (s : State) (q a : Nat) (acc : Acc) : Walk := s.unitWalk (s.netUnit q) q a acc

def State.netXlate (s : State) (q a n : Nat) (acc : Acc) : NetXl :=
  (piecesOf a n).foldl (fun r p => match r with
    | .ok => (match s.netWalk q p.1 acc with
      | .ok t => if t.host then .bad else .ok
      | .absent t => .absent (p.1 / t.size * t.size)
      | .invalid | .denied => .bad)
    | r => r) .ok

/-- Replace n bytes at a home by a function of their value, after the die caches' writes of them (R281, R299): the old value. -/
def State.netModify (s : State) (q a n : Nat) (f : Nat → Nat) : State × Nat :=
  match s.netWalk q a .write with
  | .ok t =>
    let s := s.drainLines (t.loc a) n fun _ => false
    let old := if s.dying t.pte then 0 else leNat (s.homeRead (t.loc a) n)
    (s.homeApply (t.loc a) (leBytes n (f old)) t.pte, old)
  | _ => (s, 0)

/-- Bytes of a range of the target, zero where a page is dying. -/
def State.netBytes (s : State) (q a n : Nat) : List Byte :=
  (piecesOf a n).flatMap fun p => match s.netWalk q p.1 .read with
    | .ok t => if s.dying t.pte then List.replicate p.2 0 else s.homeRead (t.loc p.1) p.2
    | _ => List.replicate p.2 0

/-- Whether a range of the target meets an uncorrectable word. -/
def State.netPoison (s : State) (q a n : Nat) : Bool :=
  (piecesOf a n).any fun p => match s.netWalk q p.1 .any with
    | .ok t => !s.dying t.pte && s.poisoned (t.loc p.1) p.2
    | _ => false

/-- The unit keeps the translations of a range. -/
def State.netKeep (s : State) (q a n : Nat) (acc : Acc) : State :=
  (piecesOf a n).foldl (fun s p => s.keepTrans (s.netUnit q) q p.1 (s.netWalk q p.1 acc)) s

/-- The die caches' writes of a range of the target go home before it is read and replaced (R298). -/
def State.netDrain (s : State) (q a n : Nat) : State :=
  match s.netWalk q a .write with
  | .ok t => s.drainLines (t.loc a) n fun _ => false
  | _ => s

/-- An operation is performed at the target (R281, R429). Its accesses are made in this step, so that the in-flight counts
they raise are lowered again within it (R381; log entry 38). An uncorrectable word of what it must read refuses it, and it
writes nothing. -/
def State.netPerform (s : State) (q : Nat) (op : NetOp) : State :=
  let n := (netOpBytes op)
  let s := if op.kind = 2 then s.netDrain q op.addr n else s
  let s := if op.counter = 0 then s else s.netDrain q op.counter 8
  if (op.kind != 0 && s.netPoison q op.addr n) || (op.counter != 0 && s.netPoison q op.counter 8) then s.netRefuse op 2
  else
    let s := s.netKeep q op.addr n (if op.kind = 1 then .read else .write)
    let (s, back) : State × List Byte := match op.kind with
      | 0 => (((piecesOf op.addr n).foldl (fun (x : State × List Byte) p => match x.1.netWalk q p.1 .write with
          | .ok t => (x.1.writeNow (t.loc p.1) (x.2.take p.2) t.pte, x.2.drop p.2)
          | _ => (x.1, x.2.drop p.2)) (s, op.data)).1, [])
      | 1 => (s, s.netBytes q op.addr n)
      | _ => match namoOp op.amoOp op.amoSize with
        | some (_, f) =>
          let (s, old) := s.netModify q op.addr n fun x => f x op.operand.toNat
          (s, leBytes 8 old)
        | none => (s, [])
    let s := if op.counter = 0 then s else (s.netModify q op.counter 8 fun x => x + 1).1
    if back.isEmpty then s.netRefuse op 0 else s.netAnswer q op back

/-- The parts of DRAM that the translated pages of an operation's range and counter lie in (R381, R429). -/
def State.netParts (s : State) (q : Nat) (op : NetOp) : List Nat :=
  ((piecesOf op.addr (netOpBytes op) ++ (if op.counter = 0 then [] else [(op.counter, 8)])).flatMap fun (p : Nat × Nat) =>
    match s.netWalk q p.1 (if op.kind = 1 && p.1 != op.counter then .read else .write) with
    | .ok t => if t.host then [] else [(t.loc p.1).a / 2 ^ 16 * 2 ^ 16]
    | _ => []).dedup

/-- An operation is taken up at this device (R429). One that waits for a page keeps the pages translated before it in flight. -/
def State.netDeliver (s : State) (op : NetOp) : State :=
  match s.netTarget op with
  | none => s.netRefuse op 1
  | some q =>
    let n := (netOpBytes op)
    let bad := op.kind = 2 && ((namoOp op.amoOp op.amoSize).isNone || op.addr % n != 0)
    let rng := if bad then .bad else s.netXlate q op.addr n (if op.kind = 1 then .read else .write)
    let cnt := if op.counter = 0 then .ok else if op.counter % 8 != 0 then .bad else s.netXlate q op.counter 8 .write
    match rng, cnt with
    | .ok, .ok => s.netPerform q op
    | .bad, _ | .ok, .bad => s.netRefuse op 2
    | .absent a, _ | .ok, .absent a =>
      let parts := s.netParts q op
      match s.request q { cause := 7, addr := a } (.net op parts) with
      | (s, .waiting _) => parts.foldl (fun s p => s.flightUp p) s
      | (s, .failed) => s.netRefuse op 2

/-- Whether an ordered operation must stand behind an earlier one of its stream, which waits (R281). -/
def State.netBehind (s : State) (op : NetOp) : Bool :=
  let same (x : NetOp) : Bool := x.src == op.src && x.stream == op.stream
  op.stream.isSome && (s.pkg.netHeld.any same || s.parts.any fun q => q.2.waits.any fun w => match w.2 with
    | .net x _ => same x
    | _ => false)

/-- An operation arrives: one that does not authenticate is discarded as if lost (R426), and an ordered one keeps its place
(R281). -/
def State.netArrive (s : State) (op : NetOp) : State :=
  if !s.netAuth op then s
  else if s.netBehind op then { s with pkg := { s.pkg with netHeld := s.pkg.netHeld ++ [op] } } else s.netDeliver op

/-- After an operation that waited: those that stand behind it are taken up in order. -/
def State.netResume (s : State) : State :=
  s.pkg.netHeld.foldl State.netArrive { s with pkg := { s.pkg with netHeld := [] } }

/-- NETWORK_ARRIVAL (R429). A package that is off takes nothing (R437). -/
def execNetworkArrival (op : NetOp) (s : State) : Res := .next (if s.pkg.boot = .off then s else s.netArrive op)

end Sys2Proof.Machine
end

