-- ==== Sys2Proof/Machine/Faults.lean ====
section
/-!
DEFINITION. The driver's side of faults and residency (18 R380, R383, R389, R390, R394): answers, the fault queue's head,
eviction and patrol scrub; and the pages of LEASE (08 R182).
-/

namespace Sys2Proof.Machine

/-! LEASE (R182). -/

/-- Pin the ranges a LEASE has added, in order (R182): a page not resident is asked for, one with no mapping ends the task. -/
def State.leasePending (s : State) (c : Nat) : Nat → State
  | 0 => s
  | n + 1 =>
    match (s.ctx c).leaseAdds, s.taskOf c with
    | (base, len, blk) :: rest, some t =>
      let u := unitOf (brickOfCtx c)
      match s.addPages u t.part 0 base len with
      | .ok ps =>
        let s := s.pinAll ps.dedup
        let s := ps.dedup.foldl (fun s p => s.keepTrans u t.part p.flat (s.unitWalk u t.part p.flat .any)) s
        let s := s.modTask t.uid fun t =>
          { t with added := t.added ++ [(base, len)], addPins := t.addPins ++ [(base, len, ps.dedup)] }
        (s.modCtx c fun x => { x with leaseAdds := rest }).leasePending c n
      | .fail _ a _ => s.faultEnd c { cause := 7, blk := blk, addr := a }
      | .absent a _ =>
        match s.request t.part (s.ctxRec c { cause := 7, blk := blk, addr := a }) (.stall c a) with
        | (s, .waiting k) => s.modCtx c fun x => { x with leaseWait := some k }
        | (s, .failed) => s.faultEnd c { cause := 7, blk := blk, addr := a }
    | _, _ => s

/-! Answers (R380, R389, R390). -/

/-- A command's port is answered fail (R390): it fails at its position. -/
def Cmd.failFrozen (c : Cmd) (addr item : Nat) : Cmd :=
  { c.failed ⟨7, 0, item, addr, c.wptr % 2 ^ 40 + 2 ^ 63⟩ with frozen := none, abort := true, stopped := true, recBad := true }

/-- An answer reaches its waiter (R380). -/
def State.answerTo (s : State) (n : Nat) (w : Waiter) (fail : Bool) : State :=
  match w with
  | .lease uid a i =>
    match s.task? uid with
    | some t =>
      if t.phase ≠ .firing (some n) then s
      else if fail then s.leaseFail uid 7 a i
      else s.setTask uid { t with phase := .firing none }
    | none => s
  | .fetch c =>
    match (s.ctx c).fetchWait with
    | some (k, a) =>
      if k = n then s.modCtx c fun x => { x with fetchWait := none, fetchFail := if fail then some a else none } else s
    | none => s
  | .stall c a =>
    if (s.ctx c).leaseWait = some n then
      match fail, (s.ctx c).leaseAdds with
      | true, (_, _, blk) :: _ => s.faultEnd c { cause := 7, blk := blk, addr := a }
      | _, l => (s.modCtx c fun x => { x with leaseWait := none }).leasePending c (l.length + 1)
    else s
  | .cmd id a i => s.modCmd id fun c =>
      if c.frozen = some n then (if fail then c.failFrozen a i else { c with frozen := none }) else c
  | .net op parts => (if fail then (s.land parts).netRefuse op 2 else (s.land parts).netDeliver op).netResume

/-- Answer the waiting record of a sequence number; an answer that names none is ignored (R380). -/
def State.answer (s : State) (q n : Nat) (fail : Bool) : State :=
  match kget? n (s.part q).waits with
  | none => s
  | some w => (s.modPart q fun p => { p with waits := kdel n p.waits }).answerTo n w fail

/-- FQANSWER (R373, R380, R415): a record that still waits for room in the queue is not yet one to answer. -/
def execFqanswer (q : Nat) (val : Word) (s : State) : Res :=
  let n := wbits val 0 32
  if !(s.part q).configured || (s.part q).fqWait.any fun r => field r.1 4 4 == n then .next s else .next (s.answer q n (val.getLsbD 32))

/-- Write the records that wait while there is room (R389), but for those that name a page under eviction (R383); one whose
slot cannot be written is answered fail. -/
def State.fqPump (s : State) (q : Nat) : Nat → State
  | 0 => s
  | n + 1 =>
    if (s.part q).fqFull then s
    else match findIdx1 (fun (r : List Byte × Waiter) => !s.evicting q (field r.1 24 8)) (s.part q).fqWait with
    | none => s
    | some (i, bs, _) =>
      let s := s.modPart q fun p => { p with fqWait := p.fqWait.eraseIdx i }
      match s.putRecord q bs with
      | (s, none) => (s.answer q (field bs 4 4) true).fqPump q n
      | (s, some _) => s.fqPump q n

/-- Every record that can be written is. -/
def State.fqFill (s : State) (q : Nat) : State := s.fqPump q (s.part q).fqWait.length

/-- FQHEAD_WRITE (R389, R415): the head moves and waiting records find room. -/
def execFqheadWrite (q : Nat) (val : Word) (s : State) : Res :=
  if !(s.part q).configured then .next s
  else .next ((s.modPart q fun p => { p with fqhead := BitVec.ofNat 64 (wbits val 0 32) }).fqFill q)

/-- FQLOST_CLEAR (R373, R415): writing 0 clears it. -/
def execFqlostClear (q : Nat) (val : Word) (s : State) : Res :=
  .next (if val = 0 && (s.part q).configured then s.modPart q fun p => { p with fqlost := 0 } else s)

/-! Eviction (R383). -/

/-- Drop every cached translation that a leaf entry gave, tiles included. -/
def State.dropPage (s : State) (pte : Nat) : State :=
  let s := s.dropTransOf pte
  { s with parts := s.parts.map fun (q, p) => (q, { p with tiles := p.tiles.filter fun e => e.2.page.pte != pte }) }

/-- The leaf entry of a mapped page, whatever its permissions, resident or not. -/
def State.leafOf (s : State) (q a : Nat) : Option Trans :=
  match s.walk q a .any with
  | .ok t | .absent t => some t
  | .invalid | .denied => none

/-- EVREQ (R383, R415): ignored while busy; refused for a page pinned or in flight; otherwise RES is cleared and every translation
of the page dropped. A page with no device translation is refused. -/
def execEvreq (q : Nat) (val : Word) (s : State) : Res :=
  let p := s.part q
  if !p.configured || wbits p.evstat 0 2 = 1 then .next s
  else
    let a := val.toNat / 2 ^ 16 * 2 ^ 16
    match s.leafOf q a with
    | none => .next (s.setPart q { p with evstat := 3 })
    | some t =>
      if t.host || s.pagePinned t.phys t.size || s.pageInFlight t.phys t.size then .next (s.setPart q { p with evstat := 3 })
      else
        let a' := pteAddr t.pte
        let s := s.homeWrite ⟨.dram, a'⟩ (leBytes 8 (hput (s.dramWord a') 7 1 0))
        .next ((s.dropPage t.pte).modPart q fun p => { p with evstat := 1, evPage := some a })

/-- Whether an access already translated to a page has not performed (R383). -/
def State.pageOpen (s : State) (t : Trans) : Bool :=
  s.writes.any (fun w => w.pte == t.pte && !w.cached)
    || s.homeOps.any fun h => h.kind.loc.sp == .dram && overlaps h.kind.loc.a 64 t.phys t.size

/-- EVICTION_COMPLETE (R383): accesses already translated to the page have performed; its dirty lines are written back, or
dropped where the page is dying or dead, and the eviction is done. Requests for the page are raised then. -/
def execEvictionComplete (q : Nat) (s : State) : Res :=
  match (s.part q).evPage.bind fun a => s.leafOf q a with
  | none => .next s
  | some t =>
    if wbits (s.part q).evstat 0 2 != 1 || s.pageOpen t then .next s
    else
      let mine := s.writes.filter fun w => w.pte == t.pte
      let disc := s.discOf t.pte
      let s := if disc = 0 then s.performAll mine else { s with writes := s.writes.filter fun w => w.pte != t.pte }
      .next ((s.modPart q fun p => { p with evstat := if disc = 2 then 6 else 2, evPage := none }).fqFill q)

/-! Patrol scrub, and the errors it does not find (R392, R394). -/

/-- A word of a space is found uncorrectable: poisoned, and counted once (R392). -/
def State.foundBad (s : State) (q : Nat) (sp : Space) (w : Nat) : State :=
  if (s.bad sp).contains w then s
  else (s.setBad sp (s.bad sp ++ [w])).modPart q fun p => { p with eccunc := p.eccunc + 1 }

/-- An uncorrectable error counted where nothing is poisoned (R392). -/
def State.countBad (s : State) (q : Nat) : State := s.modPart q fun p => { p with eccunc := p.eccunc + 1 }

/-- A word of a dirty line that has been written back is bad (R392): it is poisoned in DRAM and has no consumer, so a record of
its own is written. -/
def State.badWord (s : State) (q w : Nat) : State :=
  if s.badDram.contains w then s
  else ((s.foundBad q .dram w).report q { cause := 0x0F, source := 3, addr := 8 * w }).1

/-- A dirty die-cache line is written back with bad words, one or more (R392). -/
def State.badLine (s : State) (q a : Nat) (ws : List Nat) : State :=
  let l : PLoc := ⟨.dram, a / 128 * 128⟩
  if !s.writes.any fun w => w.cached && w.loc.sp == .dram && overlaps w.loc.a w.bytes.length l.a 128 then s
  else ws.foldl (fun s w => s.badWord q w) (s.drainLines l 128 fun _ => false)

/-- A word of the token at the head of an operator's queue is found uncorrectable (R392): its lane becomes invalid, with a
record, as after a bad read (R323). -/
def State.badLane (s : State) (q : Nat) (k : OpId) (lane : Nat) : State :=
  let clear (l : List FTok) : List FTok := match l with
    | .tok x m e :: r => .tok x (m &&& ~~~(1#16 <<< lane)) e :: r
    | l => l
  let o := s.fop k
  if o.q0.isEmpty && o.q1.isEmpty then s
  else
    let s := s.modFop k fun o => if o.q0.isEmpty then { o with q1 := clear o.q1 } else { o with q0 := clear o.q0 }
    (s.countBad q).fabRecord k 0x0F 0 0

/-- PATROL_SCRUB (R394): a word of a pier's DRAM is read while the partition's scrub is on. Kind 1 found a correctable error,
kind 2 an uncorrectable one, which is poisoned and reported when it is first found. The other kinds are errors that
something else than the scrub finds (R392; log entry 28): 3 a DRAM word, 4 a scratchpad word and 5 an accumulator word found
by its reader, 6 a register file of context addr, 7 the record of frame addr % 2^16 of die addr / 2^16, 8 a corrected
error, 9 a dirty line at addr % 2^57 with the bad word there and those of the line's 16 that addr / 2^57 names, 10 lane addr % 2^4 in a queue of operator addr / 2^4 % 2^8 of fabric context
addr / 2^12 % 2^4 of die addr / 2^16, 11 a buffered word of footing command addr / 2^16, item addr % 2^16. -/
def execPatrolScrub (pier addr kind : Nat) (s : State) : Res :=
  match (s.pier pier).owner with
  | none => .next s
  | some q =>
    let w := addr / 8
    let here := addr / Config.pierSpan == pier && addr % Config.pierSpan < Config.pierBytes
    let scrubs := wbits (s.part q).scrubper 0 16 != 0 && here
    let seen (s : State) : State := s.modPier pier fun p => { p with scrubPos := addr }
    let die := addr / 2 ^ 16
    match kind with
    | 0 => .next (if scrubs then seen s else s)
    | 1 => .next (if scrubs then (seen s).modPart q fun p => { p with ecccorr := p.ecccorr + 1 } else s)
    | 2 =>
      if !scrubs || s.badDram.contains w then .next (if scrubs then seen s else s)
      else .next (((seen s).foundBad q .dram w).report q { cause := 0x0F, source := 5, addr := addr }).1
    | 3 => .next (if here then s.foundBad q .dram w else s)
    | 4 => .next (if pierOfBrick (addr / Config.poolBytes) = pier then s.foundBad q .spad w else s)
    | 5 => .next (if (s.task? (addr / 2 ^ 24)).any fun t => t.part == q then s.foundBad q .acc w else s)
    | 6 =>
      if pierOfBrick (brickOfCtx addr) != pier then .next s
      else .next ((s.countBad q).faultEnd addr { cause := 0x0F, blk := (s.ctx addr).pc })
    | 7 => match kget? (addr % 2 ^ 16) (s.die die).frames with
      | some f => .next (if pierOfDie die != pier then s else (s.countBad q).frameFail die (addr % 2 ^ 16) f)
      | none => .next s
    | 8 => .next (s.modPart q fun p => { p with ecccorr := p.ecccorr + 1 })
    | 9 =>
      let a := addr % 2 ^ 57
      let ws := (a / 8 :: (bitsOf 16 (addr / 2 ^ 57)).map fun i => a / 128 * 16 + i).dedup
      .next (if a / Config.pierSpan == pier && a % Config.pierSpan < Config.pierBytes then s.badLine q a ws else s)
    | 10 => .next (if pierOfDie die != pier then s else s.badLane q ⟨die, addr / 2 ^ 12 % 2 ^ 4, addr / 2 ^ 4 % 2 ^ 8⟩ (addr % 2 ^ 4))
    | 11 => match s.cmd? (addr / 2 ^ 16) with
      | some c => .next (if c.pier != pier || !c.running || c.ended then s else (s.countBad q).footSpoil c (addr % 2 ^ 16))
      | none => .next s
    | _ => .next s

end Sys2Proof.Machine
end

