-- ==== Sys2Proof/Machine/Placement.lean ====
section
/-!
DEFINITION. Moving a page of device memory to another pier (17 R362): what the page tables name, a place for the page there,
and the move, after which every access finds the page as if it had not moved (log entry 39).
-/

namespace Sys2Proof.Machine

/-- The entries of a table of n that hold something. -/
def State.tableUsed (s : State) (table n : Nat) : List Nat :=
  ((s.dram.filter fun c => table ≤ c.1 && c.1 < table + 8 * n).map fun c => (c.1 - table) / 8).dedup

/-- A range of device memory that the page tables of a partition name: a table, or the page of a leaf entry, as a translation
names the entry. -/
structure Mapped where
  a : Nat
  n : Nat
  leaf : Option Nat
  deriving DecidableEq, Repr

/-- What a table of level l and those below it name, itself included (R374, R375). -/
def State.mapped (s : State) (q : Nat) : Nat → Nat → List Mapped
  | l, table =>
    ⟨table, 8 * 2 ^ levelBits l, none⟩ :: (s.tableUsed table (2 ^ levelBits l)).flatMap fun i =>
      let ea := table + 8 * i
      let e := s.dramWord ea
      let next := nbits e 12 45 * 2 ^ 12
      if !s.pteOk q l e then []
      else if e.testBit 2 then
        if e.testBit 6 then []
        else [⟨next, if l = 1 then 2 ^ 25 else 2 ^ 16, some (ea + if l = 1 then 1 else 0)⟩]
      else match l with
        | 0 => []
        | l' + 1 => s.mapped q l' next

/-- The first place of a size at or after a that shares no byte with any of some ranges and ends by stop; fuel bounds the
ranges passed. -/
def freePlace (used : List Mapped) (stop size : Nat) : Nat → Nat → Option Nat
  | 0, _ => none
  | n + 1, a =>
    if stop < a + size then none
    else match used.find? fun r => overlaps r.a r.n a size with
      | some r => freePlace used stop size n (alignUp (r.a + r.n) size)
      | none => some a

/-- A place of a size in a pier, the k-th one or the first free one after it, or from the pier's start. -/
def placeIn (used : List Mapped) (pier size k : Nat) : Option Nat :=
  let base := pier * Config.pierSpan
  let len := Config.pierBytes - Config.residencyBytes
  freePlace used (base + len) size (used.length + 1) (base + size * (k % (len / size)))
    <|> freePlace used (base + len) size (used.length + 1) base

/-- A device address after a page has moved. -/
def shifted (t : Trans) (a x : Nat) : Nat := if t.phys ≤ x && x < t.phys + t.size then a + (x - t.phys) else x

/-- The page's bytes, poison, release sequences, owner entries and barrier notes stand at its new place; what stood there is
no page's. -/
def State.moveBytes (s : State) (t : Trans) (a : Nat) : State :=
  let inside (x : Nat) : Bool := t.phys ≤ x && x < t.phys + t.size
  let s := s.zeroRange .dram a t.size
  let s := (s.dram.filter fun c => inside c.1).foldl (fun s c => { s with dram := mwrite (shifted t a c.1) c.2 s.dram }) s
  let s := { s with badDram := s.badDram ++ (s.badDram.filter fun w => inside (8 * w)).map fun w => shifted t a (8 * w) / 8
                    heads := s.heads ++ (s.heads.filter fun h => h.sp == .dram && inside (4 * h.half)).map fun h =>
                      { h with half := shifted t a (4 * h.half) / 4 }
                    bars := s.bars.foldl (fun m x => if x.2.sp == .dram && inside (x.1 / 2) then
                      kset (2 * shifted t a (x.1 / 2)) x.2 m else m) s.bars }
  (List.range (t.size / 2 ^ 15)).foldl (fun s i =>
    let old := ownerAt (t.phys + i * 2 ^ 15)
    let e := mreadN old 4 s.dram
    (s.homeWrite ⟨.dram, ownerAt (a + i * 2 ^ 15)⟩ e).homeWrite ⟨.dram, old⟩ (leBytes 4 0)) s

/-- A translation of the page names its new place. -/
def Trans.moved (t : Trans) (a : Nat) (e : Trans) : Trans := if !e.host then { e with phys := shifted t a e.phys } else e

/-- A page is moved whole to a pier and a pseudo-channel (R362): a place in the pier that no page or table of the partition
holds is the device's own choice; the writes on their way to the page reach it first, and the entries and the cached
translations of the page name its new place. A page that holds a page table, or that two entries name in part, stays, as does
one for which the pier has no room. -/
def State.movePage (s : State) (q : Nat) (t : Trans) (pier chan : Nat) : State :=
  let (k, s) := s.drawNat
  let all := s.mapped q 3 (s.part q).xlroot.toNat
  let mine (m : Mapped) : Bool := m.leaf.isSome && m.a == t.phys && m.n == t.size
  let note (s : State) (a : Nat) : State :=
    { s with places := (List.range (t.size / 2 ^ 16)).foldl (fun m i => kset (a / 2 ^ 16 + i) chan m) s.places }
  if t.phys / Config.pierSpan = pier then note s t.phys
  else if all.any fun m => overlaps m.a m.n t.phys t.size && !mine m then s
  else match placeIn all pier t.size k with
  | none => s
  | some a =>
    let s := s.performAll (s.writes.filter fun w => w.loc.sp == .dram && overlaps w.loc.a w.bytes.length t.phys t.size)
    let s := s.moveBytes t a
    let s := (all.filter mine).foldl (fun s m => match m.leaf with
      | some p => s.homeWrite ⟨.dram, pteAddr p⟩ (leBytes 8 (hput (s.dramWord (pteAddr p)) 12 45 (a / 2 ^ 12)))
      | none => s) s
    let s := { s with parts := s.parts.map fun (x : Nat × Part) => (x.1,
      { x.2 with tlb := x.2.tlb.map fun (e : Nat × Trans) => (e.1, Trans.moved t a e.2)
                 tiles := x.2.tiles.map fun (e : Nat × TileEnt) => (e.1, { e.2 with page := Trans.moved t a e.2.page }) }) }
    note { s with places := s.places.filter fun x => !(t.phys ≤ x.1 * 2 ^ 16 && x.1 * 2 ^ 16 < t.phys + t.size) } a

/-- The device page an entry of a placement list names: base in its first eight bytes, 64 KiB aligned, reserved bits zero. -/
def State.placePage (s : State) (q e : Nat) : Option Trans :=
  match if nbits e 0 16 = 0 && nbits e 73 55 = 0 then s.anyPage q (nbits e 0 64) else none with
  | some t => if t.host then none else some t
  | none => none

end Sys2Proof.Machine
end

