-- ==== Sys2Proof/Machine/Ending.lean ====
section
/-!
DEFINITION. The end of a task (02 R37 to R39), the debug halt (20 R434), and the distributor's controls (17 R350, R362,
R364, R371, R372).
-/

namespace Sys2Proof.Machine

/-! Completion (R38, R39). -/

/-- Whether everything a task has sent out is done: its writes at their homes, those it observed with them, its commands
finished (R38, R361). -/
def State.settledTask (s : State) (t : Task) : Bool := s.drained { t with fences := [] }

/-- The value of the stamps: the exit code, or the fault form (R38, R39). -/
def stampValue (code : Option Nat) (cause : Nat) : Word :=
  match code with
  | some c => BitVec.ofNat 64 c
  | none => 0xFFFFFFFFFFFFFF00#64 ||| BitVec.ofNat 64 cause

/-- Write a stamp at its home. -/
def State.stampAt (s : State) (t : Task) (a : Nat) (v : Word) : State := s.writeFlat t.part t.brick a (leBytes 8 v.toNat)

/-- The continuation a task sends (R37, R38); its release covers work that has performed already. -/
def Task.contMsg (t : Task) (code : Nat) : Option Msg :=
  let slot := wbits t.cont 20 3
  let m (k : MsgKind) : Msg :=
    { frame := wbits t.cont 0 20, graph := t.graph, sender := t.frame, brick := t.brick, taskId := t.frame, ctxId := 0,
      kind := k, deps := [] }
  match wbits t.cont 23 2 with
  | 1 => some (m (.fill slot (BitVec.ofNat 64 code)))
  | 2 => some (m (.dec slot))
  | _ => none

/-- Free the accumulator units a brick still counts for a task (R38). -/
def State.freeAccs (s : State) (t : Task) : State :=
  (s.zeroRange .acc (accAt t.uid 0 0).a (2 ^ 24)).modTask t.uid fun t => { t with accUnits := 0 }

/-- The fabric contexts of a graph on a die. -/
def State.graphFctxs (s : State) (d q : Nat) (g : Word) : List Nat :=
  ((s.die d).grout.filter fun c => c.2.owner == some (q, g)).map fun c => c.1

/-- Whether a die has drained and freed what a graph under teardown has on it (R372 step 4): the engine commands of its tasks
and its fabric contexts. -/
def State.tornDrained (s : State) (d q : Nat) (g : Word) : Bool :=
  s.cmds.all (fun c => c.2.part != q || c.2.graph != g || dieOfBrick c.2.brick != d)
    && (s.graphFctxs d q g).isEmpty && (s.die d).gq.all fun m => m.part != q || m.graph != g

/-- TASK_COMPLETION (R38, R39, R361): an ended task whose work is done writes its stamps in order, sends its continuation
unless a fault ended it, and releases its lease. One of whose tl7 instructions failed after its end sends nothing more (R268). A torn task only releases, once its die has drained its graph (R372). -/
def execTaskCompletion (uid : Nat) (s : State) : Res :=
  match s.task? uid with
  | none => .next s
  | some t =>
    match t.phase with
    | .ending code cause =>
      if !s.settledTask t || (t.torn && !s.tornDrained t.die t.part t.graph) then .next s
      else
        let s := s.freeAccs t
        let s := if t.torn || t.mute then s
          else
            let s := if t.cls.stamp = 0 then s else s.stampAt t t.cls.stamp (stampValue code cause)
            let s := match t.launch with
              | none => s
              | some (a, v) => s.stampAt t a (match code with
                | some _ => v
                | none => stampValue none cause)
            match code.bind fun c => t.contMsg c with
            | some m => s.sendMsg t.part m
            | none => s
        .next (((s.leaseRelease uid).delTask uid).sweepGraphs t.part)
    | _ => .next s

/-- Whether a command may read or write an accumulator alias of its task (R38, R275). -/
def Cmd.aliases (c : Cmd) : Bool :=
  match c.kind with
  | .copy hd hs _ => (View.of hd).d.loc == 2 || (View.of hs).d.loc == 2
  | .chain _ => true
  | _ => false

/-- ACCUMULATOR_RELEASE (R38): the units of a task that has ended or is suspended are free once its tl7 instructions and its
accumulator copies are done. -/
def execAccumulatorRelease (uid : Nat) (s : State) : Res :=
  match s.task? uid with
  | none => .next s
  | some t =>
    let out : Bool := match t.phase with
      | .ending .. | .suspended | .ready => true
      | _ => false
    if out && t.accUnits != 0 && !s.pmaBusy t.brick uid && s.cmds.all fun c => c.2.uid != uid || !c.2.aliases then
      .next (s.freeAccs t)
    else .next s

/-! The debug halt (R434). -/

/-- DEBUG_HALT (R434): a context whose HALTD block has committed halts once its tl7 instructions are done: a full save record
at SAVEAREA and a fault record with reason 0xDB. An accumulator that cannot be read ends the task (R393). -/
def execDebugHalt (ctx : Nat) (s : State) : Res :=
  let x := s.ctx ctx
  match x.haltReq, s.taskOf ctx with
  | some (code, addr), some t =>
    let k := fullMasks (naccOf x.poolsplit)
    if s.pmaBusy (brickOfCtx ctx) t.uid then .next s
    else if s.accBad t.uid k then .next (s.faultEnd ctx { cause := 0x0F, blk := addr })
    else
      let s := s.writeRecord t.part (brickOfCtx ctx) x.savearea.toNat (s.saveRecord t x x.regs x.fpmode k true x.pc)
      let s := (s.report t.part (s.ctxRec ctx { cause := 0x0B, reason := 0xDB, blk := addr, addr := x.savearea.toNat,
                                                item := code })).1
      .next (s.modCtx ctx fun x => { x with haltReq := none, halted := true, preemptAt := x.preemptAt.map fun t0 => s.now - t0 })
  | _, _ => .next s

/-! Graphs (R364, R371, R372). -/

/-- Change a die's record of a graph, making one where there is none. -/
def State.modGraph (s : State) (d q : Nat) (g : Word) (f : GraphRec → GraphRec) : State :=
  s.modDie d fun x =>
    if x.graphs.any fun y => y.1 == g then { x with graphs := x.graphs.map fun y => if y.1 == g then (g, f y.2) else y }
    else { x with graphs := x.graphs ++ [(g, f ⟨q, false, none, s.graphLive q g⟩)] }

/-- DREPRIOP (R364): the graph of DREPRIOG gets a priority on this die, until it ends; its ready tasks go to the tail of that
level. -/
def execDrepriop (die val : Nat) (s : State) : Res :=
  match (s.pier (pierOfDie die)).owner with
  | none => .next s
  | some q =>
    let g := (s.die die).repriog
    let p := val % 4
    let s := s.modGraph die q g fun r => { r with prio := some p }
    let us := (s.tasks.filter fun t => t.2.die == die && t.2.graph == g && t.2.phase == .ready).map fun t => t.1
    .next (us.foldl (fun s u => s.relevel u p) s)

/-- Teardown's step 2 on a die (R372): every unfired frame of the graph is freed. -/
def State.tearFrames (s : State) (d q : Nat) (g : Word) : State :=
  (((s.die d).frames.filter fun f => f.2.graph == g && f.2.part == q).map fun f => f.1).foldl (fun s i => s.freeFrame d i) s

/-- Teardown's step 3 for one task (R372): uncommitted blocks that are not pinned go; a pinned one runs to commit, watched
like a pre-emption (R368); a task not bound is removed. -/
def State.tearTask (s : State) (u : Nat) : State :=
  match s.task? u with
  | none => s
  | some t =>
    let s := s.setTask u { t with torn := true }
    match t.phase with
    | .bound c =>
      match (s.ctx c).blks with
      | b :: _ => if b.pinned then (s.discardFrom c 1).askPreempt c else s.tornEnd c
      | [] => s.tornEnd c
    | .ending .. | .finished => s
    | _ => (s.unqueue u).modTask u fun t => { t with phase := .ending none 0 }

/-- The commands of a graph frozen in a partition are answered fail (R390). -/
def State.tearFrozen (s : State) (q : Nat) (g : Word) : State :=
  (s.cmds.filterMap fun c => if c.2.part == q && c.2.graph == g then c.2.frozen else none).foldl
    (fun s n => s.answer q n true) s

/-- DTEARDOWN (R372): teardown of a graph starts on every die of the partition. -/
def execDteardown (q gid : Nat) (s : State) : Res :=
  let g := BitVec.ofNat 64 gid
  let ds := s.diesOf q
  let s := ds.foldl (fun s d => s.modGraph d q g fun r => { r with teardown := true }) s
  let s := ds.foldl (fun s d => s.tearFrames d q g) s
  let us := (s.tasks.filter fun t => t.2.part == q && t.2.graph == g).map fun t => t.1
  let s := us.foldl (fun s u => s.tearTask u) s
  .next (s.tearFrozen q g)

/-- An operator of a torn graph: a BRIDGE's tokens and requests have no task left to reach, an EXQ starts no task. -/
def FOp.torn (o : FOp) (op : Nat) : FOp :=
  if groutKind op = some 11 then { o with recvs := [], q0 := [] }
  else if groutKind op = some 10 then { o with firing := false, cnt := 0, pend := [], eosPend := false }
  else o

/-- Free the drained fabric contexts of a graph (R372). -/
def State.tearGrout (s : State) (d q : Nat) (g : Word) : State :=
  if (s.die d).gq.any fun m => m.part == q && m.graph == g then s
  else (s.graphFctxs d q g).foldl (fun s c =>
    let s := s.modFctx d c fun x => { x with ops := x.ops.map fun o => (o.1, o.2.torn o.1) }
    if (s.fctx d c).ops.all (fun o => o.2.quiet) && s.fabQuiet d c then s.fabFree d c else s) s

/-- TEARDOWN_COMPLETE (R372): drained fabric contexts are freed, and once no task, message or fabric context of the graph
remains on any die its status clears. -/
def execTeardownComplete (q gid : Nat) (s : State) : Res :=
  let g := BitVec.ofNat 64 gid
  let ds := s.diesOf q
  if !ds.any fun d => s.tearing d g then .next s
  else
    let s := ds.foldl (fun s d => s.tearGrout d q g) s
    let left := s.tasks.any (fun t => t.2.part == q && t.2.graph == g)
      || ds.any fun d => !(s.graphFctxs d q g).isEmpty || (s.die d).gq.any fun m => m.part == q && m.graph == g
    if left then .next s
    else .next ((ds.foldl (fun s d => s.modDie d fun x =>
      { x with graphs := x.graphs.filter fun y => y.1 != g, inbox := x.inbox.filter fun m => m.graph != g }) s).sweepGraphs q)

/-- DGSTATUS of a die (R371). -/
def State.graphStatus (s : State) (d : Nat) (g : Word) : Word :=
  let q := ((s.pier (pierOfDie d)).owner).getD 0
  let frames := ((s.die d).frames.filter fun f => f.2.graph == g).length
  let fired := (s.tasks.filter fun t => t.2.die == d && t.2.graph == g && t.2.live).length
  let busy := (s.tasks.filter fun t => t.2.die == d && t.2.graph == g && (match t.2.phase with
    | .bound _ | .suspended => true
    | _ => false)).length
  BitVec.ofNat 64 ((s.liveOn d g).toNat + 2 * ((s.part q).errGraphs.contains g).toNat + 4 * (s.tearing d g).toNat
    + 2 ^ 8 * ((frames + fired) % 2 ^ 21) + 2 ^ 32 * (busy % 2 ^ 13))

/-! Placement lists and splits (R350, R362). -/

/-- What an entry of a placement list does (R362): a page that a lease pins is skipped and counted, another one is moved. An
entry that names no device page, or no pier of the partition, or has reserved bits set, does nothing (log entry 39). -/
def State.placeEntry (s : State) (q die : Nat) (e : Nat) : State :=
  match s.placePage q e with
  | none => s
  | some t =>
    let dest := nbits e 64 64
    if s.pagePinned t.phys t.size then s.modDie die fun d => { d with plSkipped := min 65535 (d.plSkipped + 1) }
    else if (s.pier (dest % 8)).owner = some q then s.movePage q t (dest % 8) (dest / 8)
    else s

/-- DPLACE (R362): a write starts the walk, and each later step takes the entry it stands at. The all-zero entry, or one that
cannot be read, ends the walk; a poisoned one is reported (R393). A page in flight is waited for (R381; log entry 39). -/
def execDplace (die addr : Nat) (s : State) : Res :=
  let stop (s : State) : State := s.modDie die fun d => { d with plBusy := none }
  match (s.pier (pierOfDie die)).owner, (s.die die).plBusy with
  | none, _ => .next s
  | _, none => .next (s.modDie die fun d => { d with plBusy := some (addr / 16 * 16) })
  | some q, some a =>
    match s.flatPoison q (dieAgent die) 0 a 16, s.readFlat q (dieAgent die) 0 a 16 with
    | _, none => .next (stop s)
    | some p, some _ => .next ((stop s).report q { cause := 0x0F, source := 2, addr := p }).1
    | none, some bs =>
      if leNat bs = 0 then .next (stop s)
      else if (s.placePage q (leNat bs)).any fun t => s.pageInFlight t.phys t.size && !s.pagePinned t.phys t.size then .next s
      else .next ((s.placeEntry q die (leNat bs)).modDie die fun d => { d with plBusy := some (a + 16) })

/-- DSPLIT_APPLY (R350): a split that was written takes effect while its brick has no bound context. -/
def execDsplitApply (brick : Nat) (s : State) : Res :=
  match (s.brick brick).pending with
  | some (r, a) =>
    if (s.boundCtxs brick).isEmpty then .next (s.modBrick brick fun b => { b with rfu := r, accu := a, pending := none })
    else .next s
  | none => .next s

end Sys2Proof.Machine
end

