-- ==== Sys2Proof/Machine/Mapping.lean ====
section
/-!
DEFINITION. Fetching a block and the map-time checks (03 R41 to R49, R55, R58, R59, R63, R64; 02 R29, R33).
-/

namespace Sys2Proof.Machine

/-! Words. -/

/-- The 32-bit words of a byte string. -/
def words32 : Nat → List Byte → List Word32
  | 0, _ => []
  | n + 1, bs => BitVec.ofNat 32 (field bs 0 4) :: words32 n (bs.drop 4)

/-- A header word as a number. -/
def hw (hdr : List Word32) (n : Nat) : Nat := (lget hdr n 0).toNat

/-! Header checks (R63 codes 0x02 to 0x04). -/

/-- The first failing check of a header, where the context may name nacc accumulators. -/
def hdrCheck (nacc : Nat) (h : List Word32) : Option Nat :=
  let safe := (hw h 0).testBit 16
  if hw h 0 / 2 ^ 24 != 0xB7 then some 2
  else if nbits (hw h 0) 0 13 != 0 || hw h 5 / 2 ^ 24 != 0 || hw h 10 / 2 ^ 8 != 0 || hw h 11 != 0 || (hw h 2).testBit 0
      || (hw h 5).testBit 16 then some 3
  else if (!safe && (hw h 6 != 0 || hw h 7 != 0 || hw h 8 != 0 || hw h 9 != 0 || hw h 10 != 0))
      || hw h 9 / 2 ^ (16 + nacc) != 0 then some 4
  else none

/-! Slot checks (R63 codes 0x05 to 0x13). -/

/-- Majors with a PR field (R49). -/
def hasPr (maj : Nat) : Bool := !([0x01, 0x03, 0x08, 0x09, 0x0A].contains maj)

/-- The targets a slot names: as many of its words' target fields as its encoding has (R48, R140). -/
def slotTargets (w v : Word32) : List Target := [fld w 0 9, fld w 9 9, fld v 0 9, fld v 9 9].take (wordTargets w v)

/-- Whether the receiver of a target has the operand named (R63 code 0x07); one refused under 0x10 or 0x12 is not tested. -/
def receives (w v : Word32) (t : Target) : Bool :=
  let tested := match decodeAt w v with
    | .error .reservedMajor | .error .unassigned => false
    | _ => true
  !tested || (match t.toNat / 128 with
    | 0 => 3 ≤ wordOps w v
    | 1 => 1 ≤ wordOps w v
    | 2 => 2 ≤ wordOps w v
    | _ => hasPr (majorOf w) && fld w 23 2 != 0)

/-- The code of the first check that a slot fails. Where the second word of an X-format instruction in the last slot lies
past the body, the checks of the other slots read it as 0, so that a VEC there is a VLD (log entry 31). -/
def slotCheck (body : List Word32) (starts : List Nat) (n : Nat) : Option Nat :=
  let w := lget body n 0
  let v := lget body (n + 1) 0
  let ts := (slotTargets w v).filter (· != 0)
  let slotOf (t : Target) : Nat := t.toNat % 128
  let last := isX (majorOf w) && n + 1 == body.length
  if ts.any fun t => body.length ≤ slotOf t then some 5
  else if ts.any fun t => !starts.contains (slotOf t) then some 6
  else if ts.any fun t => !receives (lget body (slotOf t) 0) (lget body (slotOf t + 1) 0) t then some 7
  else if last then some 8
  else if n = 0 && wordOps w v == 3 then some 9
  else match decodeAt w v with
    | .ok _ => none
    | .error e => some e.code

/-! Whole-body checks (R63 codes 0x0A to 0x0C). Each gives the lowest slot taking part, or 0xFF. -/

/-- The lowest of some slots, or 0xFF. -/
def lowestSlot (ns : List Nat) : Nat := ns.foldl min 0xFF

/-- Code 0x0A: the exits carry the indices 0 to E once each (R59). -/
def exitCheck (h : List Word32) (ms : List (Nat × Instr)) : Option Nat :=
  let e := nbits (hw h 0) 13 3
  let xs := ms.filterMap fun (n, i) => (exitOf i).map fun k => (n, k)
  let count (k : Nat) : Nat := (xs.filter fun x => x.2 == k).length
  if xs.length == e + 1 && (List.range (e + 1)).all fun k => count k == 1 then none
  else some (lowestSlot ((xs.filter fun x => e < x.2 || 1 < count x.2).map (·.1)))

/-- Code 0x0B: the store mask and the sharing of LSIDs (R44, R55). The slot named is that of a store-class instruction; where
only loads take part, the lowest of them (log entry 31). -/
def lsidCheck (h : List Word32) (ms : List (Nat × Instr)) : Option Nat :=
  let xs := ms.filterMap fun (n, i) => (lsidOf i).map fun x => (n, x.1, x.2, prOf i != .always)
  let bad := xs.filter fun (n, l, st, pr) =>
    (st && !(hw h 1).testBit l)
      || xs.any fun (n', l', st', pr') => n' != n && l' == l && (st' != st || !pr || !pr')
  let stores := bad.filter fun x => x.2.2.1
  let mask := (List.range 32).all fun l => (hw h 1).testBit l == xs.any fun x => x.2.1 == l && x.2.2.1
  if bad.isEmpty && mask then none
  else some (lowestSlot ((if mask && stores.isEmpty then bad else stores).map (·.1)))

/-- The register of a write mask as a class and a number: 0 g, 1 v, 2 h, 3 m. -/
def maskReg (i : Instr) : Option (Nat × Nat) :=
  match gDest i, xDest i with
  | some r, _ => some (0, r)
  | _, some (.v, r) => some (1, r)
  | _, some (.h, r) => some (2, r)
  | _, some (.m, r) => some (3, r)
  | _, _ => none

/-- Whether a header's write masks have the bit of a register. -/
def maskBit (h : List Word32) (x : Nat × Nat) : Bool :=
  match x.1 with
  | 0 => if x.2 < 32 then (hw h 2).testBit x.2 else (hw h 3).testBit (x.2 - 32)
  | 1 => (hw h 4).testBit x.2
  | 2 => x.2 < 16 && (hw h 5).testBit x.2
  | _ => x.2 < 8 && (hw h 5).testBit (16 + x.2)

/-- Every register a write mask can name. -/
def maskRegs : List (Nat × Nat) :=
  (List.range 64).map (fun r => (0, r)) ++ (List.range 32).map (fun r => (1, r)) ++ (List.range 16).map (fun r => (2, r))
    ++ (List.range 8).map fun r => (3, r)

/-- Code 0x0C: the write masks, and registers written by XWRITE and in a stream (R44, R58). -/
def writeCheck (h : List Word32) (ms : List (Nat × Instr)) : Option Nat :=
  let ws := ms.filterMap fun (n, i) => (maskReg i).map fun r => (n, r)
  let off := (ws.filter fun x => !maskBit h x.2).map (·.1)
  let twice := (ms.filter fun (_, i) =>
    (match xDest i with
      | some r => ms.any fun m => streamDest m.2 == some r
      | none => false)
    || (match streamDest i with
      | some r => ms.any fun m => xDest m.2 == some r
      | none => false)).map (·.1)
  let mask := maskRegs.all fun r => maskBit h r == ws.any fun x => x.2 == r
  if off.isEmpty && twice.isEmpty && mask then none else some (lowestSlot (off ++ twice))

/-- The first failing check of a fetched block (R63), as code and slot. -/
def mapCheck (nacc : Nat) (hdr body : List Word32) : Option (Nat × Nat) :=
  match hdrCheck nacc hdr with
  | some c => some (c, 0xFF)
  | none =>
    let starts := slotStarts false 0 body
    match starts.findSome? fun n => (slotCheck body starts n).map fun c => (c, n) with
    | some x => some x
    | none =>
      let ms := membersOf body
      ((exitCheck hdr ms).map fun n => (0x0A, n)) <|> ((lsidCheck hdr ms).map fun n => (0x0B, n))
        <|> (writeCheck hdr ms).map fun n => (0x0C, n)

/-- The trap of a refusal (R63). -/
def mapTrap (code slot : Nat) : TrapRec :=
  ⟨if code < 0x10 then 1 else 2, BitVec.ofNat 64 (code + 2 ^ 8 * slot), none, none⟩

/-! Fetching. -/

/-- What fetching bytes of code gives. -/
inductive Fetched
  | bytes (bs : List Byte)
  | outside
  | absent (addr : Nat)
  | poison (addr : Nat)
  deriving DecidableEq, Repr

/-- n bytes of code at a flat address (R63, R376): a window is no code; a page without X has no code. A page not resident is
named by its address (R388). -/
def State.codeBytes (s : State) (q b uid fa n : Nat) : Fetched :=
  if 2 ^ 57 ≤ fa + n then .outside
  else (piecesOf fa n).foldl (fun acc p =>
    match acc with
    | .bytes bs =>
      match s.spadLoc b p.1 with
      | some _ => .outside
      | none => match s.unitWalk (unitOf b) q p.1 .fetch with
        | .ok t =>
          if s.dying t.pte then .bytes (bs ++ List.replicate p.2 0)
          else if s.readPoison (dieOfBrick b) uid (t.loc p.1) p.2 then .poison p.1
          else .bytes (bs ++ (s.viewRead (dieOfBrick b) uid (t.loc p.1) p.2).1)
        | .absent t => .absent (p.1 / t.size * t.size)
        | .invalid | .denied => .outside
    | x => x) (.bytes [])

/-- Remember the translations a fetch used. -/
def State.codeKeep (s : State) (q b fa n : Nat) : State :=
  (piecesOf fa n).foldl (fun s p => (s.xlate (unitOf b) q p.1 .fetch).2) s

/-- A fetched block: header and body, or why not. -/
inductive Block
  | ok (hdr body : List Word32)
  | outside
  | absent (addr : Nat)
  | poison (addr : Nat)
  deriving DecidableEq, Repr

/-- Fetch a block: its header, then the body its length field gives (R41, R43). -/
def State.fetchBlock (s : State) (q b uid addr : Nat) : Block :=
  if addr % 16 != 0 then .outside
  else match s.codeBytes q b uid addr 48 with
  | .outside => .outside
  | .absent a => .absent a
  | .poison a => .poison a
  | .bytes h =>
    let hdr := words32 12 h
    let len := nbits (hw hdr 0) 17 7 + 1
    match s.codeBytes q b uid (addr + 48) (4 * len) with
    | .outside => .outside
    | .absent a => .absent a
    | .poison a => .poison a
    | .bytes bs => .ok hdr (words32 len bs)

/-- A block at its mapping: fences are numbered in slot order (R199), and TILEROOT is the value at entry (R178). -/
def newBlk (addr ord fence : Nat) (tileroot : Word) (hdr body : List Word32) : Blk :=
  let fs := (membersOf body).filter fun m => takesFence m.2
  let numOf (n : Nat) : Nat := match findIdx1 (fun (m : Nat × Instr) => m.1 == n) fs with
    | some (i, _) => fence + 1 + i
    | none => 0
  { addr := addr, ord := ord, hdr := hdr, body := body,
    slots := (List.range body.length).map fun n => { Slot.fresh with num := numOf n },
    gw := [], vw := [], hw := [], mw := [], vs := [], hs := [], ms := [], stores := [], reads := [], effs := [],
    raised := [], exit := none, traps := [], pinned := false, resv := [], grants := [], tileroot := tileroot }

/-- A refused block: it has no instruction, and holds its trap (R63, R33). -/
def refusedBlk (addr ord : Nat) (hdr : List Word32) (r : TrapRec) : Blk :=
  { newBlk addr ord 0 0 hdr [] with traps := [r] }

/-- Add a block to a context, as its youngest; with none before it, it is entered now. -/
def State.pushBlk (s : State) (c : Nat) (b : Blk) : State :=
  (if (s.ctx c).blks.isEmpty then s.noteEntry c else s).modCtx c fun x => { x with blks := x.blks ++ [b], fetchWait := none, fetchFail := none, didAt := s.now }

/-- Map the block at an address (R29, R63). A page not resident is asked for only where the address is known to be next. -/
def State.mapAt (s : State) (c addr : Nat) (t : Task) (known : Bool) : State :=
  let x := s.ctx c
  let ord := t.ords + 1 + x.blks.length
  let refuse (h : List Word32) (r : TrapRec) : State := s.pushBlk c (refusedBlk addr ord h r)
  if x.fetchFail = some addr then refuse [] (mapTrap 1 0xFF)
  else match s.fetchBlock t.part (brickOfCtx c) t.uid addr with
  | .outside => refuse [] (mapTrap 1 0xFF)
  | .poison a => refuse [] ⟨0x0F, BitVec.ofNat 64 a, none, none⟩
  | .absent a =>
    if !known then s
    else match s.request t.part (s.ctxRec c { cause := 7, blk := addr, addr := a }) (.fetch c) with
      | (s, .waiting n) => s.modCtx c fun x => { x with fetchWait := some (n, addr) }
      | (s, .failed) => s.pushBlk c (refusedBlk addr ord [] (mapTrap 1 0xFF))
  | .ok hdr body =>
    match mapCheck (naccOf x.poolsplit) hdr body with
    | some (code, n) => refuse hdr (mapTrap code n)
    | none =>
      let b := newBlk addr ord t.fenceNewest (s.part t.part).tileroot hdr body
      let n := (b.members.filter fun m => takesFence m.2).length
      let s := (s.codeKeep t.part (brickOfCtx c) addr (48 + 4 * body.length)).pushBlk c b
      s.modTask t.uid fun t => { t with fenceNewest := t.fenceNewest + n }

/-- Where a context's next block stands, as far as it is known: its pc, or the youngest block's exit (R59). -/
def Ctx.nextAddr (x : Ctx) : Option Nat :=
  match x.blks.getLast? with
  | none => some x.pc
  | some b => match b.exit with
    | some (.to _ a) => some a
    | _ => none

/-- Whether a context may fetch another block: nothing stops it (R182, R186, R434), and its youngest block neither ends the
task nor holds a trap. -/
def State.mayFetch (s : State) (c : Nat) (t : Task) : Bool :=
  let x := s.ctx c
  x.idle.isNone && x.haltReq.isNone && !x.halted && !x.yielding && x.leaseAdds.isEmpty && !t.torn
    && s.inFlight (brickOfCtx c) < Config.blocksPerBrick
    && (match x.blks.getLast? with
      | none => true
      | some b => b.trap.isNone && (match b.exit with
        | some (.tend ..) => false
        | _ => true))

/-- BLOCK_MAP (R29, R63, R64): the block at an address is fetched and mapped as the context's youngest. The address is the
next one where that is known, and the predictor's otherwise (no rule fixes its choice). -/
def execBlockMap (ctx addr : Nat) (s : State) : Host.Outcome State Fault Refusal :=
  let x := s.ctx ctx
  match s.taskOf ctx with
  | none => .next s
  | some t =>
    let waits := match x.fetchWait with
      | some (_, a) => a == addr
      | none => false
    if !s.mayFetch ctx t || waits then .next s
    else match x.nextAddr with
      | some a => if a = addr then .next (s.mapAt ctx addr t true) else .next s
      | none => .next (s.mapAt ctx addr t false)

end Sys2Proof.Machine
end

