-- ==== Sys2Proof/Machine/Power.lean ====
section
/-!
DEFINITION. Power, current and clocks (19 R399 to R414; 20 R437): requests, targets and steps, droop, the governor, the token
tree, boost notices and the thermal throttle. What the sensors read comes with the step (log entry 27).
-/

namespace Sys2Proof.Machine

/-- The partition a course's pier belongs to. -/
def State.courseOwner (s : State) (c : Nat) : Option Nat := (s.pier (c / 20)).owner

/-! Rails (R12, R397, R402, R436). -/

/-- The SRAM rail's set point in mV (R12). -/
def sramSetMV : Nat := 750

/-- A course rail's set point in 1/400 mV at a device time (R397, R402): that of its point or, in a step's slew of 400 ns, one
between those of its two points, taken to move evenly (log entry 40). -/
def Course.setPoint (c : Course) (now : Nat) : Nat :=
  match c.step with
  | none => 400 * pointMV c.cur
  | some (t0, p) =>
    let k := min 400 (if p < c.cur then now - t0 - 100 else now - t0)
    pointMV c.cur * (400 - k) + pointMV p * k

/-- The code of a course rail on the rail-control bus (R436). -/
def railCode (p : Nat) : Nat := (pointMV p - 450) / 5

/-- Whether a rail stands within 20 mV of the current point (R405). -/
def Course.railSteady (c : Course) : Bool := c.rail ≤ pointMV c.cur + 20 && pointMV c.cur ≤ c.rail + 20

/-- Whether a rail stands more than 40 mV below the voltage of the current point (R405). -/
def Course.railLow (c : Course) : Bool := c.rail + 40 < pointMV c.cur

/-- A rail that does not stand within 20 mV of the point starts its 16 steady cycles anew (R405). -/
def Course.resteady (c : Course) : Course := if c.railSteady then c else { c with steadyAt := none }

/-- A course rail is sensed: its regulator clamps it to the SRAM rail (R12, R397, R436). -/
def State.sense (s : State) (course mv : Nat) : State :=
  s.modCourse course fun c => { c with rail := min mv s.pkg.sram }.resteady

/-! Requests (R179, R400). -/

/-- The value a control write leaves: CTLWR, CTLSET, CTLCLR (R179). -/
def ctlNew (op : Nat) (old x : Word) : Word :=
  match op with
  | 1 => x
  | 2 => old ||| x
  | _ => old &&& ~~~x

/-- A write put among those of its cycle, after those of no higher writer. -/
def putOp (w : Nat × Nat × Word) : List (Nat × Nat × Word) → List (Nat × Nat × Word)
  | [] => [w]
  | x :: r => if w.1 < x.1 then w :: x :: r else x :: putOp w r

/-- A register takes one more write of a cycle (R179): those of the cycle apply in ascending order of their writers. -/
def CtlOps.write (l : CtlOps) (cyc : Nat) (old : Word) (w : Nat × Nat × Word) : CtlOps × Word :=
  let l : CtlOps := if l.cyc = cyc && !l.ops.isEmpty then { l with ops := putOp w l.ops } else ⟨cyc, old, [w]⟩
  (l, l.ops.foldl (fun v o => ctlNew o.2.1 v o.2.2) l.base)

/-- The writer that stands for the governor, above every CTXID (R400). -/
def governorId : Nat := 2 ^ 13

/-- A write of COURSEVF reaches the controller (R400). -/
def State.writeVf (s : State) (k who op : Nat) (x : Word) : State :=
  s.modCourse k fun c =>
    let (l, v) := c.vfOps.write (c.milliCycles s.now / 1000) c.vf (who, op, x)
    { c with vf := v &&& 0xF, vfOps := l, vfLog := c.vfLog ++ [(s.now, c.vf)] }

/-- A write of CURLIM (R177, R179). -/
def State.writeCurlim (s : State) (k who op : Nat) (x : Word) : State :=
  s.modCourse k fun c =>
    let (l, v) := c.limOps.write (c.milliCycles s.now / 1000) c.curlim (who, op, x)
    { c with curlim := v &&& 0xFFFF, limOps := l }

/-- The request as it stood at a device time (R400). -/
def Course.vfAt (c : Course) (t : Nat) : Word :=
  match c.vfLog.find? fun w => t < w.1 with
  | some (_, old) => old
  | none => c.vf

/-! Targets (R401, R414). -/

/-- The thermal ceiling of a course at a boundary (R414): its new value and count of cool boundaries. -/
def Course.thermal (c : Course) : Nat × Nat :=
  let t := c.therm.toInt
  if 1840 ≤ t then (0, 0)
  else if 1680 ≤ t then (c.cur - 1, 0)
  else if t < 1600 && c.tceil < 15 then (if c.tcount + 1 = 10 then (c.tceil + 1, 0) else (c.tceil, c.tcount + 1))
  else (c.tceil, c.tcount)

/-- The target and the denial of a course (R401), with its partition's floor and ceiling. -/
def Course.aim (c : Course) (floor ceil : Nat) : Nat × Nat :=
  let asked := c.req
  let denied := asked < floor
  let req := if denied then c.cur else asked
  let req := if c.boost then 15 else req
  let top := max floor ceil
  let top := if c.boost then 15 else if c.early then min top (max floor (req - 1)) else top
  let top := if c.curlimited then min top (c.cur - 1) else top
  let top := min c.tceil top
  let target := min req top
  (target, if denied then 2 else if target < req then 3 else 0)

/-! Steps (R402). -/

/-- Begin the next step of a course that does not stand at its target. -/
def Course.begin (c : Course) (at' : Nat) : Course :=
  if c.step.isSome || c.cur = c.target then c
  else { c with step := some (at', if c.cur < c.target then c.cur + 1 else c.cur - 1) }

/-- The footing die drives a course's regulator to the code of a point (R436). -/
def State.driveRail (s : State) (course p : Nat) : State := s.out (.rail course (railCode p))

/-- A course begins its next step; a raising one begins with its rail (R402, R436). -/
def State.beginStep (s : State) (course at' : Nat) : State :=
  let c := s.course course
  let c' := c.begin at'
  if c' = c then s
  else
    let s := s.setCourse course c'
    if c.cur < c.target then s.driveRail course (c.cur + 1) else s

/-- A droop event is counted, and the halving of its inflow falls due (R405). -/
def State.countDroops (s : State) (course n : Nat) : State :=
  if n = 0 then s
  else
    let s := s.modCourse course fun c => { c with halve := true, drooped := 0 }
    match s.courseOwner course with
    | some q => s.modPart q fun p => { p with droopcnt := p.droopcnt + BitVec.ofNat 64 n }
    | none => s

/-- Whether a clock hop of a course is under way (R402, R406): the first 100 ns of a lowering, the last of a raising. -/
def Course.hopping (c : Course) (now : Nat) : Bool :=
  match c.step with
  | some (t0, p) => if p < c.cur then c.clk != p && t0 ≤ now else t0 + 400 ≤ now
  | none => false

/-- The next move of a course's step that is due by a device time (R402, R403, R406): a lowering step hops its clock 100 ns
in and then slews its rail; every step ends after 500 ns, with the rail at its point, and the next begins at once where the
target has not been reached: at a boundary, once the boundary has set the target. Droop events of a hop count when it has
settled. -/
def State.vfMove (s : State) (course t : Nat) : State :=
  let c := s.course course
  match c.step with
  | none => s
  | some (t0, p) =>
    if p < c.cur && c.clk != p && t0 + 100 ≤ t then
      ((s.setCourse course { c.rebase (max c.cycAt (t0 + 100)) with clk := p, drooped := 0 }).countDroops course c.drooped).driveRail course p
    else if t0 + 500 ≤ t then
      let c' := if c.clk = p then c else { c.rebase (max c.cycAt (t0 + 500)) with clk := p }
      let rail := if c.droop then c.rail else min (pointMV p) s.pkg.sram
      let s := (s.setCourse course { c' with cur := p, step := none, rail := rail, drooped := 0 }.resteady).countDroops course c.drooped
      if (t0 + 500) % 1000 = 0 then s else s.beginStep course (t0 + 500)
    else s

/-- VF_STEP (R402): nothing of a step passes the next interval boundary before that has set its target. -/
def execVfStep (course : Nat) (s : State) : Res := .next (s.vfMove course (min s.now (s.pkg.boundary + 1000)))

/-- Every move of a course's steps that is due by a device time, at most 5 in a microsecond. -/
def State.vfUpTo (s : State) (course t : Nat) : State :=
  if (s.course course).step.isNone then s else (List.range 5).foldl (fun s _ => s.vfMove course t) s

/-! Droop (R405, R406). -/

/-- The argument of a step that senses a course's rail (log entry 27): the course, and the voltage in mV. -/
def sensed (course mv : Nat) : Nat := course + Config.courses * mv

/-- DROOP_EVENT (R405, R406): the rail is sensed, and has fallen more than 40 mV below the voltage of the current point: the
clock is stretched, and the event counted now or once the hop under way has settled. A rail that falls again during a stretch
is an event of its own and lengthens the stretch; one that merely stays low is none. -/
def execDroopEvent (x : Nat) (s : State) : Res :=
  let course := x % Config.courses
  let before := s.course course
  let s := s.sense course (x / Config.courses)
  let c := s.course course
  if !c.railLow || (c.droop && before.railLow) then .next s
  else
    let c' := { (if c.droop then c else c.rebase s.now) with droop := true, droopAt := c.milliCycles s.now, steadyAt := none }
    if c.hopping s.now then .next (s.setCourse course { c' with drooped := c.drooped + 1 })
    else .next ((s.setCourse course c').countDroops course 1)

/-- DROOP_RECOVERY (R405): the rail is sensed again; once it has stood within 20 mV of the point for 16 cycles, and the stretch
has lasted as long, the clock runs on as before. -/
def execDroopRecovery (x : Nat) (s : State) : Res :=
  let course := x % Config.courses
  let s := s.sense course (x / Config.courses)
  let c := s.course course
  if !c.droop || !c.railSteady then .next s
  else
    let n := c.milliCycles s.now
    match c.steadyAt with
    | none => .next (s.setCourse course { c with steadyAt := some n })
    | some k =>
      if k + 16000 ≤ n && c.droopAt + 16000 ≤ n then
        .next (s.setCourse course { c.rebase s.now with droop := false, steadyAt := none })
      else .next s

/-! Stall ratio and the governor (R407, R408). -/

/-- Whether an instruction that is outstanding makes its context wait for memory or an engine (R407). -/
def Instr.stalls (i : Instr) : Bool :=
  match i with
  | .mwait .. | .fwait .. | .ldb .. | .ldbn .. | .ldh .. | .ldhn .. | .ldw .. | .ldwn .. | .ldd .. | .lda .. | .vld .. | .vlds ..
  | .vldx .. => true
  | .waitt _ _ _ tl _ _ => tl != 7
  | _ => false

/-- Whether such an instruction of some context of a brick has its operands and has not completed, while the PMA does not
execute (R407). -/
def State.brickStalls (s : State) (b : Nat) : Bool :=
  (s.brick b).run.isNone && (s.boundCtxs b).any fun c => (s.ctx c).blks.any fun k =>
    k.firm.isNone && k.members.any fun m => Instr.stalls m.2 && ((k.slot m.1).st == .busy || k.canFire m.1 m.2)

/-- The stalled cycles of a brick and its cycles with a bound context from one device time to another in which nothing of it
fires or commits but what did so now (R407). -/
def State.brickSpan (s : State) (b t0 t1 : Nat) : Nat × Nat :=
  let bound := s.boundCtxs b
  if bound.isEmpty then (0, 0)
  else
    let c := s.course (courseOfBrick b)
    let n := c.milliCycles t1 / 1000 - c.milliCycles t0 / 1000
    let acts := bound.any fun k => (s.ctx k).didAt == t0
    (if n = 0 || !s.brickStalls b then 0 else n - acts.toNat, n)

/-- The same for the bricks of a course. -/
def State.courseSpan (s : State) (c t0 t1 : Nat) : Nat × Nat :=
  (List.range 8).foldl (fun x i =>
    let y := s.brickSpan (8 * c + i) t0 t1
    (x.1 + y.1, x.2 + y.2)) (0, 0)

/-- A course's sample goes on to a device time (R407): a sample that ends at a multiple of 10 us on the way stands ready. -/
def State.sampleTo (s : State) (c t : Nat) : State :=
  let k := s.course c
  let e := t / 10000 * 10000
  if e ≤ s.now then
    let x := s.courseSpan c s.now t
    if x.2 = 0 then s else s.setCourse c { k with stalled := k.stalled + x.1, counted := k.counted + x.2 }
  else
    let x := if s.now + 10000 ≤ e then s.courseSpan c (e - 10000) e
      else
        let y := s.courseSpan c s.now e
        (k.stalled + y.1, k.counted + y.2)
    let z := s.courseSpan c e t
    s.setCourse c { k with sample := some x, stalled := z.1, counted := z.2 }

/-- Device time goes on by n ns (R398, R407). -/
def State.elapse (s : State) (n : Nat) : State :=
  let t := s.now + n
  let busy := ((s.ctxs.filter fun c => c.2.uid != 0).map fun c => courseOfBrick (brickOfCtx c.1)).dedup
  let cs := if t / 10000 * 10000 ≤ s.now then busy
    else busy ++ (s.courses.map fun c => c.1).filter fun c => !busy.contains c
  { cs.foldl (fun s c => s.sampleTo c t) s with now := t }

/-- Device time goes on by n ns, or to the next interval boundary where that comes first: it is not passed before it is taken
(R400, R409). -/
def State.pass (s : State) (n : Nat) : State := s.elapse (min n (s.pkg.boundary + 1000 - s.now))

/-- STALL_SAMPLE (R407): a sample that has ended, of so many stalled brick-cycles and brick-cycles with a bound context,
replaces STALLRATIO. -/
def execStallSample (course stalled bound : Nat) (s : State) : Res :=
  let c := s.course course
  if c.sample != some (stalled, bound) then .next s
  else .next (s.setCourse course
    { c with stall := BitVec.ofNat 16 (if bound = 0 then 0 else min 0xFFFF (stalled * 65536 / bound))
             sampleAt := s.now / 10000 * 10000, sample := none })

/-- GOVERNOR_ACTION (R408): once within 0.2 us after each sample's end, while PWRCTL[0] is 1. A value that would be a boost
point, or below point 0, is not written. -/
def execGovernorAction (course : Nat) (s : State) : Res :=
  let c := s.course course
  match s.courseOwner course with
  | none => .next s
  | some q =>
    let p := s.part q
    if c.sampleAt ≤ c.govAt || c.sampleAt + 200 < s.now || !p.pwrctl.getLsbD 0 then .next s
    else
      let r := c.stall.toNat
      let up := min (c.cur + 1) (max p.vffloor p.vfceil)
      let vf : Option Nat :=
        if wbits p.govthr 0 16 ≤ r then (if c.status = 2 || c.cur = 0 || 10 < c.cur then none else some (c.cur - 1))
        else if r ≤ wbits p.govthr 16 16 then (if up = c.cur then none else some up)
        else none
      let s := s.setCourse course { c with govAt := c.sampleAt }
      .next (match vf with
        | some v => s.writeVf course governorId 1 (BitVec.ofNat 64 v)
        | none => s)

/-! Boost (R413). -/

/-- BOOST_NOTICE (R413): a notice reaches its controller; it takes effect at the next boundary. -/
def execBoostNotice (course : Nat) (s : State) : Res :=
  let c := s.course course
  match c.notices with
  | [] => .next s
  | (boost, key, phase) :: rest =>
    let e := (key, phase, s.now + 1000000)
    .next (s.setCourse course (if boost then { c with notices := rest, grants := c.grants ++ [e] }
      else { c with notices := rest, earlies := c.earlies ++ [e] }))

/-- BOOST_EXPIRY (R413): notices end after 1 ms. -/
def execBoostExpiry (course : Nat) (s : State) : Res :=
  let c := s.course course
  let live (l : List (Nat × Nat × Nat)) := l.filter fun g => s.now < g.2.2
  .next (s.setCourse course { c with grants := live c.grants, earlies := live c.earlies,
                                     boost := c.boost && !(live c.grants).isEmpty,
                                     early := c.early && !(live c.earlies).isEmpty })

/-! The token tree (R409 to R412). -/

/-- The i-th of n equal shares in 1/256 token; what does not divide goes to the first. -/
def share (x n i : Nat) : Nat := x / n + (if i = 0 then x % n else 0)

/-- Add a brick's share to its bucket; what finds no room is answered. -/
def State.pour (s : State) (b x : Nat) : State × Nat :=
  let k := min x (bucketCap - (s.brick b).bucket)
  (if k = 0 then s else s.modBrick b fun y => { y with bucket := y.bucket + k }, x - k)

/-- One course's share of a die's inflow (R409, R412): to its bricks, less what is withheld from it; the excess of each brick
and the part withheld are answered. -/
def State.pourCourse (s : State) (c x : Nat) : State × List (Nat × Nat) × Nat :=
  let k := s.course c
  let own := if k.curlimited then 0 else if k.halve then x / 2 else x
  let (s, ex) := (List.range 8).foldl (fun (y : State × List (Nat × Nat)) i =>
    let (t, e) := y.1.pour (8 * c + i) (share own 8 i)
    (t, if e = 0 then y.2 else y.2 ++ [(8 * c + i, e)])) (s, [])
  (s.modCourse c fun k => { k with halve := false }, ex, x - own)

/-- A die's inflow (R409, R410): its courses' shares, then the excess of its bricks and what its courses had withheld, to the
bricks of the die with room. A course under a current limit takes none of it (R412). -/
def State.pourDie (s : State) (d x : Nat) : State :=
  let (s, rest) := (List.range 10).foldl (fun (y : State × List (Nat × List (Nat × Nat) × Nat)) i =>
    let (t, ex, w) := y.1.pourCourse (10 * d + i) (share x 10 i)
    (t, y.2 ++ [(10 * d + i, ex, w)])) (s, [])
  let takes (b : Nat) : Bool := !(s.course (courseOfBrick b)).curlimited
  rest.foldl (fun s (c, ex, w) =>
    let s := ex.foldl (fun s (b, e) => (s.fillBricks e ((spillOrder b).filter takes)).1) s
    (s.fillBricks w (((List.range 80).map fun i => 80 * d + i).filter fun b => courseOfBrick b != c && takes b)).1) s

/-- A pier's inflow (R409, R410): 2 tokens to its footing bucket, half of the rest to each die. -/
def State.pourPier (s : State) (p x : Nat) : State :=
  let foot := min 512 x
  let s := s.modPier p fun y => { y with bucket := min bucketCap (y.bucket + foot) }
  (s.pourDie (2 * p) (share (x - foot) 2 0)).pourDie (2 * p + 1) (share (x - foot) 2 1)

/-- The package inflow of the next interval (R409, R411): nominal; 0 after an interval above 15,000 A, and while the mean over
the last 1 ms stands above 8,000 W; below the last interval's while an excursion lasts, and below nominal where another
interval at 8,000 W would lift the mean over it, the cut being the controller's choice (log entry 7). -/
def State.inflow (s : State) (x : Sensors) : State × Nat :=
  let over' := if 8000 < x.packWatts then s.pkg.overRun + 1 else 0
  let last := s.pkg.msWatts.take 998
  let watts := (x.packWatts :: s.pkg.msWatts).take 1000
  let s := { s with pkg := { s.pkg with overRun := over', overAmps := 15000 < x.packAmps, msWatts := watts } }
  let nominal := 2064 * 256
  if 15000 < x.packAmps || 8000 * 1000 < watts.sum then (s, 0)
  else
    let top := if 20 ≤ over' then max 1 s.pkg.inflow else nominal
    if 20 ≤ over' || 8000 * 999 < x.packWatts + last.sum then
      let (k, s) := s.drawNat
      (s, k % top)
    else (s, nominal)

/-! The boundary (R400, R401, R409 to R414). -/

/-- Saturating addition to a 32-bit count. -/
def sat32 (x n : Nat) : Nat := min (2 ^ 32 - 1) (x + n)

/-- A course at the interval boundary of a device time: the steps due by then are done, and the request is the one that stood
then (R400). Its regulator holds the rail at its set point, or at the SRAM rail where that is lower (R12, R397, R436). -/
def State.courseBoundary (s : State) (x : Sensors) (i at' : Nat) : State :=
  let s := s.vfUpTo i at'
  let c := s.course i
  let owner := s.courseOwner i
  let c := { c with therm := (kget? i x.therm).getD c.therm }
  let (tceil, tcount) := c.thermal
  let live (l : List (Nat × Nat × Nat)) := l.filter fun g => at' < g.2.2
  let grants := if 1840 ≤ c.therm.toInt then [] else live c.grants
  let earlies := live c.earlies
  let rail := min (if c.droop then c.rail else c.setPoint at' / 400) s.pkg.sram
  let limited := c.curlim != 0 && wbits c.curlim 0 16 < kget i 0 x.current
  let c := { c with tceil := tceil, tcount := tcount, grants := grants, boost := !grants.isEmpty, earlies := earlies,
                    early := !earlies.isEmpty, rail := rail, curlimited := limited, req := wbits (c.vfAt at') 0 4, vfLog := c.vfLog.filter fun w => at' < w.1 }
  let (floor, ceil) := match owner with
    | some q => ((s.part q).vffloor, (s.part q).vfceil)
    | none => (0, 9)
  let (target, status) := c.aim floor ceil
  let s := (s.setCourse i { c with target := target, status := status }.resteady).beginStep i at'
  match owner with
  | some q => s.modPart q fun p =>
      { p with throtTherm := sat32 p.throtTherm (if tceil < 15 then 1 else 0), throtCur := sat32 p.throtCur limited.toNat }
  | none => s

/-- Whether a course at a boundary would be left as it is: then nothing need be stored for it. -/
def State.courseQuiet (s : State) (x : Sensors) (i : Nat) : Bool :=
  (kget? i s.courses).isNone && (kget? i x.therm).isNone && 600 ≤ x.sramMV && (s.courseOwner i).all fun q =>
    (s.part q).vffloor ≤ 9 && (s.part q).vfceil == 9

/-- PARTPWR and TOKRATE of a partition for the last interval (R399). -/
def State.partPower (s : State) (x : Sensors) (p q : Nat) : State :=
  let ps := s.piersOf q
  s.modPart q fun y =>
    { y with partpwr := BitVec.ofNat 64 ((ps.map fun i => kget i 0 x.pierWatts).sum % 2 ^ 32)
             tokrate := BitVec.ofNat 64 ((ps.map fun i => share p 8 i).sum % 2 ^ 32) }

/-- INTERVAL_BOUNDARY (R400, R401, R409): at every whole microsecond each controller reads its request and sensors and sets
its target, and the interval's inflow enters the buckets. -/
def execIntervalBoundary (x : Sensors) (s : State) : Res :=
  if s.now < s.pkg.boundary + 1000 then .next s
  else
    let last := s.pkg.inflow
    let at' := s.pkg.boundary + 1000
    let s := { s with pkg := { s.pkg with boundary := at', sram := x.sramMV } }
    let s := (List.range 160).foldl (fun s i => if s.courseQuiet x i then s else s.courseBoundary x i at') s
    let (s, p) := s.inflow x
    let s := { s with pkg := { s.pkg with inflow := p } }
    let s := (List.range 8).foldl (fun s i => s.pourPier i (share p 8 i)) s
    .next ((s.parts.map fun y => y.1).foldl (fun s q => s.partPower x last q) s)

/-- THERMAL_SHUTDOWN (R437): at 125.0 degrees the regulators are turned off; the contents of every memory of the package are
lost, and only a package reset restarts it. Host memory and the flash stay. -/
def execThermalShutdown (s : State) : Res :=
  if s.courses.any fun c => 2000 ≤ c.2.therm.toInt then
    .next { State.reset with
      now := s.now, agenda := s.agenda, free := s.free, nextUid := s.nextUid, nextId := s.nextId, host := s.host,
      pkg := { Pkg.reset with boot := .off, flash := s.pkg.flash, minVersion := s.pkg.minVersion },
      outbox := s.outbox ++ [.powerOff] }
  else .next s

end Sys2Proof.Machine
end

