-- ==== Sys2Proof/Machine/Commit.lean ====
section
/-!
DEFINITION. Commit (02 R29, R33, R38; 03 R61, R62; 08 R175 to R186; 09 R188, R210; 11 R251), a trap taken at a context's
oldest block, and the steps of a write on its way to its home (12 R287).
-/

namespace Sys2Proof.Machine

/-! When a block may commit (R61). -/

/-- Whether a busy slot still has something to do: an atomic that a lower LSID which never resolves holds back has not. -/
def Blk.working (b : Blk) (n : Nat) (i : Instr) : Bool := (b.slot n).st == .busy && b.lowerOk i

/-- Whether a block is settled (R61): no instruction executes, waits or can fire. One that can never be performed is not
waiting for anything (log entry 9). -/
def Blk.settled (b : Blk) : Bool := b.members.all fun m => !b.working m.1 m.2 && !b.canFire m.1 m.2

/-- Whether a store-class instruction of an LSID has performed or been nullified. -/
def Blk.lsidDone (b : Blk) (l : Nat) : Bool :=
  b.members.any fun (n, i) => storeLsid i == some l && (b.slot n).st.resolved && (b.slot n).st != .off

/-- The first unmet obligation as item class and number, in the order of R62. -/
def Blk.unmet (b : Blk) : Option (Nat × Nat) :=
  let first (cls n : Nat) (p : Nat → Bool) : Option (Nat × Nat) := ((List.range n).find? p).map fun i => (cls, i)
  first 0 32 (fun l => (b.h 1).testBit l && !b.lsidDone l)
    <|> first 1 64 (fun r => b.gMask r && (kget? r b.gw).isNone)
    <|> first 2 32 (fun r => b.xMask .v r && !b.xResolved .v r)
    <|> first 3 16 (fun r => b.xMask .h r && !b.xResolved .h r)
    <|> first 4 8 (fun r => b.xMask .m r && !b.xResolved .m r)
    <|> if b.exit.isNone then some (5, 0) else none

/-! Memory accesses leaving the brick (R188, R251). -/

/-- The stores of a block as they leave: a byte that an LSID's store and a vector store both write keeps the value of either,
as free values choose (R232). -/
def State.mixStores (s : State) : List StoreRec → List StoreRec → State × List StoreRec
  | _, [] => (s, [])
  | before, w :: ws =>
    let others := before.filter fun x => x.lsid.isSome != w.lsid.isSome && x.loc.sp == w.loc.sp
      && overlaps x.loc.a x.bytes.length w.loc.a w.bytes.length
    let (n, s) := if others.isEmpty then (0, s) else s.drawNat
    let laid := others.foldl (fun bs x => overlay bs w.loc.a x.loc.a x.bytes) w.bytes
    let (s, r) := s.mixStores (before ++ [w]) ws
    (s, { w with bytes := pickBytes n w.bytes laid } :: r)

/-- The block's stores become pending writes, STL with what its release waits for (R193, R200, R293). The second result
lists the LSIDs with their writes. -/
def State.commitStores (s : State) (c : Nat) (b : Blk) (t : Task) : State × List (Option Nat × Nat) :=
  let (s, ws) := s.mixStores [] b.stores
  ws.foldl (fun (x : State × List (Option Nat × Nat)) w =>
    if w.performed.isSome then x
    else if w.loc.sp == .acc then (x.1.homeApply w.loc w.bytes w.pte, x.2)
    else
      let (id, s) := x.1.newId
      let lower (l : Option Nat) : Bool := match l, w.lsid with
        | some k, some m => k < m
        | _, _ => false
      let deps := match w.rel with
        | none => []
        | some _ => s.relDeps t (b.ord - 1) ++ (x.2.filter fun y => lower y.1).map (·.2)
            ++ (b.reads.filter fun r => lower r.lsid).flatMap fun r => r.saw
      (s.addWrite { id := id, uid := t.uid, ord := b.ord, die := dieOfCtx c, brick := brickOfCtx c, loc := w.loc,
                    bytes := w.bytes, cached := false, cmd := 0, rel := w.rel, deps := deps, flat := w.flat, pte := w.pte,
                    trk := s.trkFlat t w.loc w.flat w.bytes.length, part := t.part, vec := w.lsid.isNone,
                    fenced := t.fenceNewest != 0 },
        x.2 ++ [(w.lsid, id)])) (s, [])

/-- Stores that have just left perform at once, because a read of their block took bytes from them and others from the memory
(R284): where a release is among them, at their homes. -/
def State.performStores (s : State) (ids : List Nat) : State :=
  let rel := s.writes.any fun w => ids.contains w.id && w.rel.isSome
  ids.foldl (fun s i => match s.writes.find? fun w => w.id == i with
    | some w => if rel then (s.drainLines w.loc w.bytes.length fun _ => false).performOne w else s.writeStep w
    | none => s) s

/-- Whether a block's stores could perform at once: the task's earlier writes and operations on their bytes have reached
their homes, and so has what a release among them covers. -/
def State.storesFree (s : State) (c : Nat) (b : Blk) (t : Task) : Bool :=
  b.stores.all fun w => w.performed.isSome
    || ((s.pendingAt (dieOfCtx c) t.uid w.loc w.bytes.length).isEmpty && !s.homePending t.uid w.loc w.bytes.length
      && (w.rel.isNone || s.relReady t b))

/-- The pending writes that the reads of a QFILL's 32 bytes return, as they leave (R223, R293). -/
def State.fillSeen (s : State) (c : Nat) (b : Blk) (t : Task) : List SeenRec :=
  b.effs.flatMap fun e => match e.2 with
    | .qfill _ _ v => (piecesOf v.toNat 32).flatMap fun p => match s.flatLoc t.part (brickOfCtx c) p.1 .read with
      | some l => (s.viewRead (dieOfCtx c) t.uid l p.2).2.map fun i => (⟨i, b.ord, s.trkFlat t l p.1 p.2⟩ : SeenRec)
      | none => []
    | _ => []

/-- The pending writes that the block's reads returned are noted with the task (R293), the task's own among them (R287). -/
def State.commitReads (s : State) (c : Nat) (b : Blk) (t : Task) : State :=
  let pending (i : Nat) : Bool := s.writes.any fun w => w.id == i
  let own (r : ReadRec) : List Nat := (s.writes.filter fun w => w.uid == t.uid && w.cmd == 0 && w.ord ≤ b.ord && w.loc.sp == r.loc.sp
    && overlaps w.loc.a w.bytes.length r.loc.a r.bytes.length).map (·.id)
  let fresh := b.reads.flatMap fun r => (r.saw.filter pending ++ own r).dedup.map fun i =>
    (⟨i, b.ord, s.trkFlat t r.loc r.flat r.bytes.length⟩ : SeenRec)
  let fills := s.fillSeen c b t
  s.modTask t.uid fun t => { t with seen := (t.seen.filter fun r => pending r.wid) ++ fresh ++ fills }

/-- What the release of a token or a spawn covers (R200, R210): the accesses of the older blocks, and the store-class
accesses of its own, which have left by now. -/
def State.tokenDeps (s : State) (t : Task) (ord : Nat) : List Nat :=
  s.relDeps t (ord - 1)
    ++ (s.writes.filter fun w => w.uid == t.uid && w.cmd == 0 && w.ord == ord && !w.vec).map (·.id)

/-- Bytes written by the context itself leave as plain writes (R180). -/
def State.commitBytes (s : State) (c : Nat) (b : Blk) (t : Task) (a : Nat) (bs : List Byte) : State :=
  ((piecesOf a bs.length).foldl (fun (x : State × List Byte) p =>
    match x.1.flatLoc t.part (brickOfCtx c) p.1 .write with
    | none => (x.1, x.2.drop p.2)
    | some l =>
      let (id, s) := x.1.newId
      (s.addWrite { id := id, uid := t.uid, ord := b.ord, die := dieOfCtx c, brick := brickOfCtx c, loc := l,
                    bytes := x.2.take p.2, cached := false, cmd := 0, rel := none, deps := [], flat := p.1,
                    pte := s.flatPte t.part (brickOfCtx c) p.1 .write, trk := s.trkFlat t l p.1 p.2, part := t.part, vec := true,
                    fenced := t.fenceNewest != 0 },
        x.2.drop p.2)) (s, bs)).1

/-- CTXSV's record leaves, but for its reserved bytes (R4, R180). -/
def State.commitRecord (s : State) (c : Nat) (b : Blk) (t : Task) (a : Nat) (bs : List Byte) : State :=
  (recordRuns bs.length).foldl (fun s r => s.commitBytes c b t (a + r.1) ((bs.drop r.1).take r.2)) s

/-! Registers (R29, R53, R57, R179). -/

/-- A register file with the resolved writes of a list put in. -/
def putAll {α : Type} {n : Nat} (v : Vector α n) (ws : KMap (Option α)) : Vector α n :=
  ws.foldl (fun v w => match w.2 with
    | some x => v.setIfInBounds w.1 x
    | none => v) v

/-- Register streams' writes. -/
def putStream {α : Type} {n : Nat} (v : Vector α n) (ws : List (Nat × Nat × α)) : Vector α n :=
  putAll v (ws.map fun w => (w.2.1, some w.2.2))

/-- A context's registers after a block's writes; m0 keeps all ones (R63). -/
def Ctx.commitRegs (x : Ctx) (b : Blk) : Ctx :=
  { x with
    g := putAll x.g b.gw
    v := putStream (putAll x.v b.vw) b.vs
    h := putStream (putAll x.h b.hw) b.hs
    m := putStream (putAll x.m b.mw) (b.ms.filter fun w => w.2.1 != 0) }

/-- A write of TILEROOT (R177, R179, R373): the blocks of the writer's own context that follow enter with the new value. -/
def State.writeTileroot (s : State) (c q op : Nat) (x : Word) : State :=
  let p := s.part q
  let (l, v) := p.tileOps.write s.now p.tileroot (ctxIdOf c, op, x)
  let v := v &&& 0x01FFFFFFFFF00001
  (s.setPart q { p with tileroot := v, tileOps := l }).modCtx c fun y =>
    { y with blks := y.blks.map fun b => { b with tileroot := v } }

/-- A control write takes effect (R177, R179). -/
def State.ctlWrite (s : State) (c op reg : Nat) (x : Word) : State :=
  let k := courseOfBrick (brickOfCtx c)
  let q := (s.partOfBrick (brickOfCtx c)).getD 0
  match reg with
  | 0x011 => s.modCtx c fun y => { y with fpmode := fpmodeWrite (ctlNew op y.fpmode x) }
  | 0x100 => s.modCtx c fun y => { y with trapvec := ctlNew op y.trapvec x &&& ~~~0xF }
  | 0x101 => s.modCtx c fun y => { y with trapcause := ctlNew op y.trapcause x &&& 0xFF }
  | 0x102 => s.modCtx c fun y => { y with trapinfo := ctlNew op y.trapinfo x }
  | 0x103 => s.modCtx c fun y => { y with savearea := ctlNew op y.savearea x &&& ~~~0x3F }
  | 0x111 => if (s.part q).xlctrl.getLsbD 0 then s else s.writeTileroot c q op x
  | 0x200 => s.writeVf k (ctxIdOf c) op x
  | 0x203 => s.writeCurlim k (ctxIdOf c) op x
  | _ => s

/-! TTINV (R181). -/

/-- Drop the cached translations of a partition that meet a test; those of a page that a lease pins wait for its release. -/
def State.invalidate (s : State) (q : Nat) (flat : Nat → Trans → Bool) (tile : Nat → TileEnt → Bool) : State :=
  let p := s.part q
  let pinned (e : Trans) : Bool := !e.host && s.pagePinned e.phys e.size
  let later := (p.tlb.filter fun e => flat e.1 e.2 && pinned e.2).map (fun e => e.1 / 2048)
    ++ (p.tiles.filter fun e => tile e.1 e.2 && pinned e.2.page).map fun e => e.2.flat / 2 ^ 16
  s.setPart q { p with tlb := p.tlb.filter fun e => !flat e.1 e.2 || pinned e.2
                       tiles := p.tiles.filter fun e => !tile e.1 e.2 || pinned e.2.page
                       tlbInv := (p.tlbInv ++ later).dedup }

/-- TTINV at commit (R181); .table also records the owners of the tensor's present frames (R382). -/
def State.ttinv (s : State) (q die : Nat) (k : InvKind) (x : Word) : State :=
  match k with
  | .page =>
    let at' (a : Nat) (e : Trans) : Bool := a / e.size == x.toNat / e.size
    s.invalidate q (fun key e => at' (key / 2048 * 2 ^ 16) e) (fun _ e => at' e.flat e.page)
  | .table =>
    let id := wbits x 0 16
    let s := s.invalidate q (fun _ _ => false) (fun key _ => key / 4 / 2 ^ 40 == id)
    match s.dirRead q id with
    | some e => if e.valid then (s.framePlaces q die id e).foldl (fun s l => s.recordOwner q id l) s else s
    | none => s
  | .all => s.invalidate q (fun _ _ => true) (fun _ _ => true)

/-! Tokens, spawns and home operations (R210 to R223). -/

/-- The frame of a spawn is allocated, filled and, forked complete, fires (R211, R212); a graph under teardown allocates
nothing (R372). -/
def State.leaveSpawn (s : State) (c : Nat) (b : Blk) (t : Task) (r : Resv) (cls : ClassDesc) (cont : Word) (fills : List Word)
    (fork : Bool) : State :=
  let br := brickOfCtx c
  if s.tearing r.die t.graph then s.unreserve t.part [r]
  else
    let seq := (s.die r.die).frameSeq
    let f := newFrame cls t.graph cont r.place seq t.part br
    let f := { f with slots := fillScalars fills f.slots, deps := s.tokenDeps ((s.task? t.uid).getD t) b.ord }
    let s := (s.modDie r.die fun d => { d with frameSeq := seq + 1 }).addFrame r.die r.idx f
    if fork then s.fireIfFull r.die r.idx (some br) f.deps else s

/-- A token or a kill leaves (R213, R214, R216). -/
def State.leaveMsg (s : State) (c : Nat) (t : Task) (frame : Nat) (k : MsgKind) (deps : List Nat) : State :=
  s.sendMsg t.part { frame := frame, graph := t.graph, sender := t.frame, brick := brickOfCtx c, taskId := t.frame,
                     ctxId := ctxIdOf c, kind := k, deps := deps }

/-- An operation leaves for its home (R218, R221, R223): trackers count it by every byte it touches, and by the bytes it reads
(R205). -/
def State.leaveHome (s : State) (c : Nat) (b : Blk) (t : Task) (addr : Nat) (kind : PLoc → HomeKind) (sc : Scope) (deps : List Nat)
    (e : CEff) (src : List (Nat × Nat)) : State :=
  let br := brickOfCtx c
  match s.flatLoc t.part br addr .write with
  | none => s
  | some l =>
    let (id, s) := s.newId
    let trk := ((s.effRanges t br e ++ src).flatMap fun r => s.trkRange t br r.1 r.2).dedup
    let h : HomeOp :=
      { id := id, uid := t.uid, ord := b.ord, part := t.part, graph := t.graph, brick := br, ctxId := ctxIdOf c,
        taskId := t.frame, blk := b.addr, kind := kind l, deps := deps, scope := sc, trk := trk, spans := s.effSpans t br e }
    { s with homeOps := s.homeOps ++ [h] }

/-- Whether the ring of a header holds 32-byte entries (R137). -/
def State.ringBig (s : State) (t : Task) (br addr : Nat) : Bool :=
  match s.readFlat t.part br t.uid addr 64 with
  | some bs => (RingHdr.of bs).big
  | none => false

/-- What QFILL carries to the ring: the 32 bytes its operand names, read after the block's stores, or the operand (R223). -/
def State.fillData (s : State) (t : Task) (br addr : Nat) (v : Word) : List Byte :=
  if s.ringBig t br addr then (s.readFlat t.part br t.uid v.toNat 32).getD [] else leBytes 8 v.toNat

/-- The first word of a QFILL's 32 bytes that is poisoned and that no store of the block, nor a pending write in view, covers
(R189, R223, R393). -/
def State.fillBad (s : State) (c : Nat) (b : Blk) (t : Task) : Option Nat :=
  let br := brickOfCtx c
  b.effs.findSome? fun e => match e.2 with
    | .qfill addr _ v =>
      if !s.ringBig t br addr then none
      else ((List.range 4).map fun i => v.toNat + 8 * i).find? fun a => match s.flatWalk t.part br a .read with
        | some (l, pte) => s.readPoison (dieOfCtx c) t.uid l 8 && !s.dying pte
            && !b.stores.any fun w => w.loc.sp == l.sp && w.loc.a ≤ l.a && l.a + 8 ≤ w.loc.a + w.bytes.length
        | none => false
    | _ => none

/-! Timeline instructions (R250, R251). -/

/-- An engine command leaves its block (R251): its channel takes it in order, and one with no release to wait for leaves the
brick with it (R271, R329). -/
def State.leaveCmd (s : State) (c : Nat) (b : Blk) (t : Task) (n tl : Nat) (kind : CmdKind) (rel : Option Scope) : State :=
  let br := brickOfCtx c
  let num := (t.tl tl).newest + 1 + b.tlFired tl n
  let (id, s) := s.newId
  let foot := kind.footprint s t.part br t.uid
  let cmd : Cmd :=
    { id := id, uid := t.uid, part := t.part, brick := br, graph := t.graph, ctxId := ctxIdOf c, taskId := t.frame,
      blk := b.addr, ord := b.ord, tl := tl, num := num, kind := kind, rel := rel,
      relRanges := relRangesOf t t.trackers b.ord foot, tl7 := (t.tl 7).newest + b.tlFired 7 n, trk := s.trkFoot t br foot,
      running := false, ended := false, pos := 0, wptr := 0, stopped := false, total := 0, fail := none, failCount := 0,
      allFill := false, frozen := none, recAddr := (match kind with
        | .chain a => a
        | _ => 0), recOrd := 0, recBusy := false, recBad := false, fed := [], abort := false, arrived := none, params := [], work := [],
      pkts := [], got := [], pier := pierOfBrick br, flights := [], missed := [], run := none }
  let s := s.setCmd id cmd
  let s := s.modBrick br fun k => match tl with
    | 0 => { k with chan0 := k.chan0 ++ [id] }
    | 1 => { k with chan1 := k.chan1 ++ [id] }
    | _ => k
  let s := if rel.isNone then s.arriveCmd id else s
  match kind with
  | .copy hd hs _ => s.modTask t.uid fun t => { t with copies := t.copies ++ [(tl, num, hd, hs)] }
  | _ => s

/-- The runs of flat bytes that hold a view's elements in a scratchpad tensor of planes (R124), with its BFQ side planes. -/
def View.runs (v : View) : List Range :=
  let d := v.d
  let at' (x : TLoc) (n : Nat) : List Range := match x with
    | .spad off => [.flat (d.base + off) n]
    | _ => []
  let bc := d.blkCols
  let planes := (List.range v.rows).flatMap fun i => (List.range (v.cols / bc + 2)).flatMap fun k =>
    let lo := max v.col0 ((v.col0 / bc + k) * bc)
    let hi := min (v.col0 + v.cols) ((v.col0 / bc + k + 1) * bc)
    if lo < hi then (List.range d.stored).flatMap fun p => at' (d.planeAt (v.row0 + i) lo p) ((hi - 1) / 8 - lo / 8 + 1) else []
  let sides := if (bfqM d.fmt).isNone then []
    else (List.range v.rows).flatMap fun i => (List.range v.cols).flatMap fun j =>
      if (if d.kmajor then i else j) % 32 = 0 then at' (d.sideAt (v.row0 + i) (v.col0 + j)) 1 else []
  planes ++ sides

/-- The tensors a tl7 instruction names, and the flat bytes that PXPOSE and MCVT access (R204, R257, R264). -/
def PmaKind.footprint : PmaKind → List Range
  | .mma _ a b .. => [.tensor (View.of a).d.id, .tensor (View.of b).d.id]
  | .mmac _ _ _ b .. => [.tensor (View.of b).d.id]
  | .mcvt h .. => .tensor (View.of h).d.id :: (View.of h).runs
  | .ptrim h => [.tensor (View.of h).d.id]
  | .pxpose h e _ base pitch =>
    let v := View.of h
    .tensor v.d.id :: (List.range v.rows).map fun i => .flat (pxAddr base pitch e i 0).toNat (e * v.cols)
  | _ => []

/-- An instruction takes its place in a PMA's queue (R257): behind those of earlier cycles and, of those that may start in the
same cycle, behind the ones of no higher context. -/
def putPma (o : PmaOp) : List PmaOp → List PmaOp
  | [] => [o]
  | x :: r => if o.since < x.since || (o.since == x.since && o.ctx < x.ctx) then o :: x :: r else x :: putPma o r

/-- A tl7 instruction leaves for its brick's PMA (R257). -/
def State.leavePmaOp (s : State) (c : Nat) (b : Blk) (t : Task) (n : Nat) (kind : PmaKind) : State :=
  let br := brickOfCtx c
  let op : PmaOp := ⟨t.uid, c, b.ord, (t.tl 7).newest + 1 + b.tlFired 7 n, b.addr, kind,
    if t.trackers.isEmpty then [] else s.trkFoot t br (some kind.footprint), s.cycle br + 1⟩
  s.modBrick br fun k => { k with pma := putPma op k.pma }

/-! GROUT commands (R324 to R327). -/

/-- A GSEND with its lanes read at commit: a poisoned word clears its lanes' mask bits and is reported (R323, R393). -/
def State.readLanes (s : State) (c : Nat) (b : Blk) (t : Task) (k op : Nat) (lanes : BitVec 512) (mask : BitVec 16) (eos : Bool) :
    GKind × State :=
  let br := brickOfCtx c
  let a := lanes.toNat % 2 ^ 64
  let bs := (s.readFlat t.part br t.uid a 64).getD []
  let bad := (List.range 8).filter fun i => (s.flatPoison t.part br t.uid (a + 8 * i) 8).isSome
  let keep := (List.range 16).foldl (fun (m : BitVec 16) i => if bad.contains (i / 2) then m &&& ~~~(1#16 <<< i) else m) mask
  let s := bad.foldl (fun s i => (s.report t.part (s.ctxRec c
    { cause := 0x0F, source := 4, blk := b.addr, addr := a + 8 * i, cmd := k, item := op })).1) s
  (.gsend op (BitVec.ofNat 512 (leNat bs)) keep eos, s)

/-- A GROUT command leaves for the fabric (R324); GCFG's reservation lasts until it gets there (R326). -/
def State.leaveGrout (s : State) (c : Nat) (b : Blk) (t : Task) (k : Nat) (kind : GKind) : State :=
  let die := dieOfCtx c
  let (kind, s) := match kind with
    | .gsend op lanes mask eos => s.readLanes c b t k op lanes mask eos
    | x => (x, s)
  let (id, s) := s.newId
  let deps := (s.writes.filter fun w => w.uid == t.uid && w.cmd == 0).map (·.id)
  let m : GMsg := ⟨id, t.uid, b.ord, t.part, t.graph, ctxIdOf c, t.frame, b.addr, k, kind, deps⟩
  s.modDie die fun d => { d with gq := d.gq ++ [m] }

/-! One block's effects. -/

/-- The effect of one slot leaves (R188), register writes and records apart. -/
def State.leaveEff (s : State) (c : Nat) (b : Blk) (t : Task) (n : Nat) (e : CEff) : State :=
  let br := brickOfCtx c
  match e with
  | .ctl .. | .eret | .ctxsv .. | .ctxld _ | .yield => s
  | .ttinv k x => s.ttinv t.part (dieOfCtx c) k x
  | .leaseAdd base len => s.modCtx c fun x => { x with leaseAdds := x.leaseAdds ++ [(base, len, b.addr)] }
  | .leaseDrop base len =>
    let have' := t.added.count (base, len) + ((s.ctx c).leaseAdds.filter fun x => x.1 == base && x.2.1 == len).length
    if t.drops.count (base, len) < have' then
      s.modTask t.uid fun t => { t with drops := t.drops ++ [(base, len)] }
    else s
  | .haltd code => s.modCtx c fun x => { x with haltReq := some (code, b.addr) }
  | .idle cycles => s.modCtx c fun x => { x with idle := some (s.cycle br + cycles) }
  | .arm ranges => s.modTask t.uid fun t => { t with trackers := (armAll b.ord ranges (s.freeTrackers t)).1 }
  | .disarm ranges => s.modTask t.uid fun t =>
      let own := ranges.filterMap fun r => ownTracker t.trackers r.2.1
      { t with trackers := t.trackers.map fun k => if own.contains k.1 then (k.1, { k.2 with retiring := true }) else k }
  | .spawn r cls cont fills fork => s.leaveSpawn c b t r cls cont fills fork
  | .send frame slot dec x => s.leaveMsg c t frame (if dec then .dec slot else .fill slot x) (s.tokenDeps ((s.task? t.uid).getD t) b.ord)
  | .sendh frame slot x => s.leaveMsg c t frame (.fillh slot x) (s.tokenDeps ((s.task? t.uid).getD t) b.ord)
  | .kill frame => s.leaveMsg c t frame .kill []
  | .arrive addr sc => s.leaveHome c b t addr (fun l => .arrive addr l sc) sc (s.relDeps t (b.ord - 1)) e []
  | .qinit addr lg x => s.leaveHome c b t addr (fun l => .qinit addr l lg x) .dev [] e []
  | .qfill addr k v => s.leaveHome c b t addr (fun l => .qfill addr l k v (s.fillData t br addr v)) .dev [] e
      (if s.ringBig t br addr then [(v.toNat, 32)] else [])
  | .cmd tl kind rel => s.leaveCmd c b t n tl kind rel
  | .pma kind => s.leavePmaOp c b t n kind
  | .grout k kind => s.leaveGrout c b t k kind

/-- Whether a block's effects include one that meets a test. -/
def Blk.hasEff (b : Blk) (p : CEff → Bool) : Bool := b.effs.any fun e => p e.2

/-- The younger blocks start again after these: LEASE .add, IDLE, HALTD, CTXLD. -/
def CEff.restarts : CEff → Bool
  | .leaseAdd .. | .idle _ | .haltd _ | .ctxld _ => true
  | _ => false

/-- FPMODE after a block: the flags its own instructions raised, and those that tl7 instructions raised in the cycle of the
commit, come after its control writes (R179). -/
def State.commitFlags (s : State) (c : Nat) (b : Blk) : State :=
  s.modCtx c fun x =>
    let fp := fpmodeOr x.fpmode b.flags
    { x with fpmode := if x.pmaAt.1 = s.cycle (brickOfCtx c) then fp ||| x.pmaAt.2 else fp }

/-- A block's whole effect but its exit, in the order of R179, R180 and R251: stores, reads, registers, control writes,
FPMODE flags, the rest in slot order, and CTXLD last. -/
def State.commitEffects (s : State) (c : Nat) (b : Blk) (t : Task) : State :=
  let (s, ids) := s.commitStores c b t
  let s := s.commitReads c b t
  let s := if b.partials.isEmpty then s else s.performStores (ids.map (·.2))
  let s := s.modCtx c fun x => x.commitRegs b
  let s := b.effs.foldl (fun s e => match e.2 with
    | .ctl op r x => s.ctlWrite c op r x
    | .eret => s.modCtx c Ctx.eret
    | .ctxsv a bs => s.commitRecord c b t a bs
    | _ => s) s
  let s := s.commitFlags c b
  let s := b.effs.foldl (fun s e => s.leaveEff c b t e.1 e.2) s
  b.effs.foldl (fun s e => match e.2 with
    | .ctxld bs => s.ctxLoad c bs
    | _ => s) s

/-- The newest numbers and the block count of a task after a block's commit (R250, R369). -/
def Task.afterBlock (t : Task) (b : Blk) : Task :=
  let tls := (List.zip (List.range 8) t.tls).map fun (i, x) => { x with newest := x.newest + b.tlFired i 128 }
  { t with ords := b.ord, tls := tls }

/-- TEND commits (R38): the context is free and the task is ending. -/
def State.endTask (s : State) (c uid q code : Nat) : State :=
  ((s.freeCtx c).modTask uid fun t => { t with phase := .ending (some code) 0 }).sweepGraphs q

/-! YIELD (R173). -/

/-- What a yielding context finds at its successor. -/
inductive Succ
  | hdr (h : List Word32)
  | invalid
  | absent (page : Nat)

/-- The header of a context's next block. -/
def State.nextHdr (s : State) (c : Nat) (t : Task) : Succ :=
  let x := s.ctx c
  if x.fetchFail = some x.pc then .invalid
  else match s.codeBytes t.part (brickOfCtx c) t.uid x.pc 48 with
  | .bytes bs =>
    let h := words32 12 bs
    if (hdrCheck (naccOf x.poolsplit) h).isNone then .hdr h else .invalid
  | .absent a => .absent a
  | _ => .invalid

/-- A yielding context (R173): at a safe point, with a ready task of equal or higher priority in the brick's own deques, it is
suspended, once a drain slot is free (R367), no tl7 instruction is left (R258) and its LEASE ranges are pinned (R182); until
then no successor runs. Otherwise it goes on. A header that is not resident is asked for first. -/
def State.yieldAt (s : State) (c : Nat) (t : Task) : State :=
  let br := brickOfCtx c
  let x := s.ctx c
  let goOn (s : State) : State := s.modCtx c fun x => { x with yielding := false }
  let stay (s : State) : State := (s.discardFrom c 0).modCtx c fun x => { x with yielding := true }
  match s.nextHdr c t with
  | .invalid => goOn s
  | .absent a =>
    (match s.request t.part (s.ctxRec c { cause := 7, blk := x.pc, addr := a }) (.fetch c) with
    | (s, .waiting n) => stay (s.modCtx c fun x => { x with fetchWait := some (n, x.pc) })
    | (s, .failed) => goOn (s.modCtx c fun x => { x with fetchFail := some x.pc }))
  | .hdr h =>
    let peer := (s.brick br).readyAll.any fun u => s.levelOf u ≤ t.prio
    if !((hw h 0).testBit 16 && peer && !x.priv) then goOn s
    else match (s.brick br).freeDrain with
      | some k =>
        if s.pmaBusy br t.uid || !x.leaseAdds.isEmpty then stay s
        else (s.saveAndFree c k x.pc h .now).pushReady t.uid br false
      | none => stay s

/-! The commit. -/

/-- The context goes on at the successor (R29, R30): younger blocks that do not start there are discarded. -/
def State.advance (s : State) (c : Nat) (b : Blk) (succ : Nat) : State :=
  let s := s.modCtx c fun x => { x with prev := b.addr, pc := succ }
  let wrong := match (s.ctx c).blks with
    | y :: _ => y.addr != succ
    | [] => false
  if wrong || b.hasEff CEff.restarts then s.discardFrom c 0 else s

/-- A block commits (R29, R61). A torn task's ranges are not pinned any more (R372). -/
def State.commitBlk (s : State) (c : Nat) (b : Blk) (t : Task) (e : ExitRec) : State :=
  let s := s.modCtx c fun x => { x with blks := x.blks.drop 1, didAt := s.now }
  let s := (s.commitEffects c b t).modTask t.uid fun t => t.afterBlock b
  match e with
  | .tend _ code => if t.torn then s.tornEnd c else s.endTask c t.uid t.part code
  | .to _ succ =>
    let s := s.advance c b succ
    if t.torn then s.tornEnd c
    else
      let s := s.leasePending c (s.ctx c).leaseAdds.length
      let s := ((s.applyDrops t.uid).noteEntry c).flush c
      if b.hasEff (fun e => e == .yield) && (s.ctx c).haltReq.isNone && (s.taskOf c).isSome then
        s.yieldAt c ((s.task? t.uid).getD t)
      else s

/-- What keeps the oldest block from committing now, though it is settled and owes nothing (R61): a read that took bytes from a
store of its block and others from the memory, which have changed, is made again, and such stores must be free to perform
(R284). -/
def State.holdBack (s : State) (c : Nat) (b : Blk) (t : Task) : Option State :=
  if b.partials.isEmpty then none
  else match (s.stale c 0 t b).filter fun n => !(b.after [n]).any b.performedAt with
    | [] => if s.storesFree c b t then none else some s
    | ns => some (s.refire c 0 ns)

/-- BLOCK_COMMIT (R29, R61, R62): the oldest block commits once it is settled, holds no trap and owes nothing; one that owes
something traps, and so does one whose QFILL would carry a poisoned word (R223). After a YIELD the context waits here to be
suspended or to go on (R173). -/
def execBlockCommit (ctx : Nat) (s : State) : Res :=
  match s.blk? ctx 0, s.taskOf ctx with
  | some b, some t =>
    if b.trap.isSome || !b.settled then .next s
    else match b.unmet, b.exit with
      | some (cls, n), _ => .next (s.modBlk ctx 0 fun b => b.hold 4 (violationInfo 1 0xFF cls n) none)
      | none, some e =>
        (match s.fillBad ctx b t with
        | some a => .next (s.modBlk ctx 0 fun b => b.hold 0x0F (BitVec.ofNat 64 a) none)
        | none => .next ((s.holdBack ctx b t).getD (s.commitBlk ctx b t e)))
      | none, none => .next s
  | none, some t =>
    let x := s.ctx ctx
    if x.yielding && x.fetchWait.isNone && !t.torn then .next (s.yieldAt ctx t) else .next s
  | _, _ => .next s

/-- TRAP_TAKEN (R33, R385, R386): the trap held with the oldest block is taken, one that a load ahead may yet undo once the
block is settled (R190; log entry 9); a torn task just ends (R372). -/
def execTrapTaken (ctx : Nat) (s : State) : Res :=
  match s.blk? ctx 0, s.taskOf ctx with
  | some b, some t =>
    if b.trap.isNone || !(b.firm.isSome || b.settled) then .next s
    else if t.torn then .next (s.tornEnd ctx) else .next (s.takeTrap ctx)
  | _, _ => .next s

/-- A context's write reaches the scratchpad: what it waits for a bank counts for the context (R115). -/
def State.writeBanks (s : State) (w : Write) : State :=
  if w.loc.sp != .spad || w.cmd != 0 then s
  else match (s.task? w.uid).map (fun (t : Task) => t.phase) with
    | some (.bound c) => s.conflicts c w.loc w.bytes.length
    | _ => s

/-- WRITE_PERFORM (R287, R293, R294): a pending write takes its next step towards its home. -/
def execWritePerform (wid : Nat) (s : State) : Res :=
  match s.writes.find? fun w => w.id == wid with
  | some w => if s.writeReady w then .next (((s.writeBanks w).writeStep w).applyDrops w.uid) else .next s
  | none => .next s

end Sys2Proof.Machine
end

