-- ==== Sys2Proof/Machine/Control.lean ====
section
/-!
DEFINITION. Exits and TRAP (03 R59, R60, R62; 08 R169 to R174).
-/

namespace Sys2Proof.Machine

/-- An exit fires: a second exit of the block is COMMIT_VIOLATION reason 0x02 (R62), whose item class and number, which no
rule gives, are 0 (log entry 35). -/
def Blk.fireExit (b : Blk) (n : Nat) (e : ExitRec) : Blk :=
  if b.exit.isSome then b.hold 4 (violationInfo 2 n 0 0) (some n) else { b with exit := some e }

/-- A flat address a signed number of 16-byte units from a block (R46, R169). -/
def branchTo (addr : Nat) (off : BitVec 20) : Nat := (BitVec.ofNat 64 addr + (sext off <<< 4)).toNat

/-- R169: the successor is the block's own address plus off20 × 16. -/
def execBr (pr : Pr) (e : BitVec 3) (off : BitVec 20) (s : State) : Res :=
  fireG (.br pr e off) (fun f _ s => .done (s.modBlk f.ctx f.blk fun b =>
    b.fireExit f.slot (.to f.slot (branchTo b.addr off))) []) s

/-- A branch to op0; a target that is not a multiple of 16 raises MISALIGNED (R60). -/
def fireIndirect (i : Instr) (s : State) : Res :=
  fireG i (fun f ops s =>
    if (opw ops 0).toNat % 16 != 0 then .trap s 5 (opw ops 0)
    else .done (s.modBlk f.ctx f.blk fun b => b.fireExit f.slot (.to f.slot (opw ops 0).toNat)) []) s

/-- R171: op0 is the successor's address. -/
def execBri (pr : Pr) (e : BitVec 3) (s : State) : Res := fireIndirect (.bri pr e) s
/-- R171: as BRI. -/
def execRetb (pr : Pr) (e : BitVec 3) (s : State) : Res := fireIndirect (.retb pr e) s

/-- R169, R170: as BR, and g63 gets the next sequential block address. -/
def execCallb (pr : Pr) (e : BitVec 3) (off : BitVec 20) (s : State) : Res :=
  fireG (.callb pr e off) (fun f _ s => .done (s.modBlk f.ctx f.blk fun b =>
    (b.fireExit f.slot (.to f.slot (branchTo b.addr off))).resolveG f.slot 63
      (some (BitVec.ofNat 64 (seqAddr b.addr b.len)))) []) s

/-- R172: the task ends at commit with the code of T0. -/
def execTend (pr : Pr) (e : BitVec 3) (code : BitVec 8) (s : State) : Res :=
  fireG (.tend pr e code) (fun f _ s => .done (s.modBlk f.ctx f.blk fun b =>
    b.fireExit f.slot (.tend f.slot code.toNat)) []) s
/-- R172: the code is op0[31:0]. -/
def execTendOp0 (pr : Pr) (e : BitVec 3) (s : State) : Res :=
  fireG (.tendOp0 pr e) (fun f ops s => .done (s.modBlk f.ctx f.blk fun b =>
    b.fireExit f.slot (.tend f.slot (wbits (opw ops 0) 0 32))) []) s

/-- R173: branches as BR and offers the brick at commit. -/
def execYield (pr : Pr) (e : BitVec 3) (off : BitVec 20) (s : State) : Res :=
  fireG (.yield pr e off) (fun f _ s => .done ((s.modBlk f.ctx f.blk fun b =>
    b.fireExit f.slot (.to f.slot (branchTo b.addr off))).eff f .yield) []) s

/-- R174: USER_TRAP with the trap number, held with the block. -/
def execTrap (pr : Pr) (n : BitVec 8) (s : State) : Res :=
  fireG (.trap pr n) (fun _ _ s => .trap s 0x0B (zext n)) s

end Sys2Proof.Machine
end

