-- ==== Sys2Proof/Machine/Host.lean ====
section
/-!
DEFINITION. The host's side of a partition (17 R350, R356; 18 R373; 19 R399; 20 R415 to R420, R428): its window's registers,
the launch window, and device memory through BAR2.
-/

namespace Sys2Proof.Machine

/-! Offsets of the partition window (R416). -/

/-- The die whose distributor block holds a window offset, with the offset in it. -/
def dieBlock (off : Nat) : Option (Nat × Nat) :=
  if 0x10000 ≤ off && off < 0x20000 then some ((off - 0x10000) / 0x1000, off % 0x1000) else none

/-- Whether a die belongs to a partition. -/
def State.ownsDie (s : State) (q d : Nat) : Bool := (s.pier (pierOfDie d)).owner == some q

/-! Distributor registers (R350). -/

/-- Whether a frame or a context of a die is allocated. -/
def State.dieBusy (s : State) (d : Nat) : Bool :=
  !(s.die d).frames.isEmpty || (List.range 320).any fun c => (s.ctx (320 * d + c)).uid != 0

/-- Write a field of a die that takes effect only while it is disabled and holds nothing (R350). -/
def State.modIdleDie (s : State) (d : Nat) (f : Die → Die) : State :=
  if (s.die d).ctrl.getLsbD 0 || s.dieBusy d then s else s.modDie d f

/-- DSPLITi is written (R350): a value outside its fields' ranges leaves a free value inside them. -/
def State.writeSplit (s : State) (b : Nat) (val : Word) : State :=
  let r := wbits val 0 8
  let a := wbits val 8 8
  let (k, s) := s.drawNat
  let (j, s) := s.drawNat
  let r := if 1 ≤ r && r ≤ 4 then r else 1 + k % 4
  let a := if a ≤ 63 then a else j % 64
  if (s.boundCtxs b).isEmpty then s.modBrick b fun x => { x with rfu := r, accu := a, pending := none }
  else s.modBrick b fun x => { x with pending := some (r, a) }

/-- Write a distributor register that has no step of its own (R350). -/
def State.writeDie (s : State) (d off : Nat) (val : Word) : State :=
  match off with
  | 0x000 => s.modDie d fun x => { x with ctrl := val &&& 1 }
  | 0x008 => s.modIdleDie d fun x => { x with poolBase := val &&& 0x01FFFFFFFFFF0000 }
  | 0x010 => s.modIdleDie d fun x => { x with poolSize := min 65536 (max 4096 (wbits val 0 17)) }
  | 0x018 => s.modIdleDie d fun x => { x with saveBase := val &&& 0xFFFFFFFFFFFF0000 }
  | 0x020 => s.modIdleDie d fun x => { x with saveSize := wbits val 0 41 / 64 * 64 }
  | 0x028 => s.modDie d fun x => { x with slice := val &&& 0xFFFF }
  | 0x038 => s.modDie d fun x => { x with repriog := val }
  | 0x050 => s.modDie d fun x => { x with gsquery := val }
  | _ => if 0x400 ≤ off && off < 0x680 && off % 8 = 0 then s.writeSplit (80 * d + (off - 0x400) / 8) val else s

/-- What a distributor register reads; none for one that is only written. -/
def State.readDie (s : State) (d off : Nat) : Option Word :=
  let x := s.die d
  match off with
  | 0x000 => some x.ctrl
  | 0x008 => some x.poolBase
  | 0x010 => some (BitVec.ofNat 64 x.poolSize)
  | 0x018 => some x.saveBase
  | 0x020 => some (BitVec.ofNat 64 x.saveSize)
  | 0x028 => some x.slice
  | 0x038 => some x.repriog
  | 0x050 => some x.gsquery
  | 0x058 => some (s.graphStatus d x.gsquery)
  | 0x068 => some (BitVec.ofNat 64 (x.plBusy.isSome.toNat + 2 ^ 16 * x.plSkipped))
  | 0x030 | 0x040 | 0x048 | 0x060 => none
  | _ => if 0x400 ≤ off && off < 0x680 && off % 8 = 0 then
      let b := s.brick (80 * d + (off - 0x400) / 8)
      some (BitVec.ofNat 64 (b.rfu + 2 ^ 8 * b.accu))
    else some 0

/-! Registers of the partition (R373, R399, R419, R428). -/

/-- FQSIZE as stored (R373). -/
def fqSizeOf (n : Nat) : Nat := if n < 64 then 64 else if 65536 < n then 65536 else 2 ^ Nat.log2 n

/-- Write a partition register that has no step of its own, by its offset in the window. -/
def Part.write (p : Part) (off : Nat) (val : Word) : Part :=
  match off with
  | 0x20000 => { p with xlctrl := val &&& 1 }
  | 0x20008 => if p.xlctrl.getLsbD 0 then p else { p with xlroot := val &&& 0x01FFFFFFFFFFFC00 }
  | 0x20010 => { p with xltrapvec := val &&& 0xFFFFFFFFFFFFFFF0 }
  | 0x20018 => { p with fqbase := val &&& 0xFFFFFFFFFFFFFFC0 }
  | 0x20020 => { p with fqsize := fqSizeOf (wbits val 0 17) }
  | 0x20068 => { p with scrubper := val &&& 0xFFFF }
  | 0x20070 => if p.xlctrl.getLsbD 0 then p else { p with tileroot := val &&& 0x01FFFFFFFFF00001 }
  | 0x21000 => { p with pwrctl := val &&& 3 }
  | 0x21008 => { p with vffloor := min 9 (wbits val 0 4) }
  | 0x21010 => { p with vfceil := min 9 (wbits val 0 4) }
  | 0x21018 => { p with govthr := val &&& 0xFFFFFFFF }
  | 0x22008 => { p with netjob := val &&& 0xFFFFFFFF }
  | 0x22010 => { p with nettgt := val &&& 0xFFFF }
  | 0x23008 => { p with inten := val &&& 3 }
  | _ =>
    if 0x22020 ≤ off && off < 0x22060 && off % 8 = 0 then
      let i := (off - 0x22020) / 16
      let (b, n) := lget p.netwin i (0, 0)
      { p with netwin := lset p.netwin i (if off % 16 = 0 then (val &&& 0xFFFFFFFFFFFF0000, n) else (b, val &&& 0xFFFFFF0000)) }
    else p

/-- What a partition register reads; none for one that is only written. -/
def Part.read (p : Part) (netid off : Nat) : Option Word :=
  match off with
  | 0x20000 => some p.xlctrl
  | 0x20008 => some p.xlroot
  | 0x20010 => some p.xltrapvec
  | 0x20018 => some p.fqbase
  | 0x20020 => some (BitVec.ofNat 64 p.fqsize)
  | 0x20028 => some p.fqhead
  | 0x20030 => some p.fqtail
  | 0x20038 => some p.fqlost
  | 0x20040 | 0x20048 => none
  | 0x20050 => some p.evstat
  | 0x20058 => some p.ecccorr
  | 0x20060 => some p.eccunc
  | 0x20068 => some p.scrubper
  | 0x20070 => some p.tileroot
  | 0x21000 => some p.pwrctl
  | 0x21008 => some (BitVec.ofNat 64 p.vffloor)
  | 0x21010 => some (BitVec.ofNat 64 p.vfceil)
  | 0x21018 => some p.govthr
  | 0x21020 => some p.droopcnt
  | 0x21028 => some (BitVec.ofNat 64 (p.throtTherm + 2 ^ 32 * p.throtCur))
  | 0x21030 => some p.partpwr
  | 0x21038 => some p.tokrate
  | 0x22000 => some (BitVec.ofNat 64 netid)
  | 0x22008 => some p.netjob
  | 0x22010 => some p.nettgt
  | 0x22060 => some (BitVec.ofNat 64 (p.netResent + 2 ^ 32 * p.netFailed))
  | 0x23000 => some (BitVec.ofNat 64 (p.configured.toNat + 2 * p.tdisp + 8 * p.debugOn.toNat))
  | 0x23008 => some p.inten
  | 0x23010 => some p.intstat
  | 0x23018 => some (BitVec.ofNat 64 (p.queue.length % 2 ^ 7 + 2 ^ 16 * p.lqDropped))
  | _ =>
    if 0x22020 ≤ off && off < 0x22060 && off % 8 = 0 then
      let (b, n) := lget p.netwin ((off - 0x22020) / 16) (0, 0)
      some (if off % 16 = 0 then b else n)
    else some 0

/-! Registers cleared by a write (R399, R419, R428); a function whose partition is not configured answers none (R415). -/

/-- DROOPCNT_CLEAR (R399): writing 0 clears the count. -/
def execDroopcntClear (q : Nat) (val : Word) (s : State) : Host.Outcome State Fault Refusal :=
  .next (if val = 0 && (s.part q).configured then s.modPart q fun p => { p with droopcnt := 0 } else s)

/-- THROTCNT_CLEAR (R399): writing 0 clears both counts. -/
def execThrotcntClear (q : Nat) (val : Word) (s : State) : Host.Outcome State Fault Refusal :=
  .next (if val = 0 && (s.part q).configured then s.modPart q fun p => { p with throtTherm := 0, throtCur := 0 } else s)

/-- NETSTAT_CLEAR (R428): writing 0 clears both counts. -/
def execNetstatClear (q : Nat) (val : Word) (s : State) : Host.Outcome State Fault Refusal :=
  .next (if val = 0 && (s.part q).configured then s.modPart q fun p => { p with netResent := 0, netFailed := 0 } else s)

/-- PINTSTAT_CLEAR (R419, R420): bits written as 1 are cleared; the next setting sends a message again. -/
def execPintstatClear (q : Nat) (val : Word) (s : State) : Host.Outcome State Fault Refusal :=
  .next (if (s.part q).configured then s.modPart q fun p => { p with intstat := p.intstat &&& ~~~val } else s)

/-! The launch window (R417). -/

/-- A discarded write of the window is counted (R419). -/
def Part.dropLaunch (p : Part) : Part := { p with lqDropped := min (2 ^ 32 - 1) (p.lqDropped + 1) }

/-- A write of the window (R417, R300): a first half is staged; a second half completes the record, which enters the queue. A
full queue withholds the write (R356). -/
def State.launchWrite (s : State) (q off : Nat) (data : List Byte) : Res :=
  let p := s.part q
  let slot := off / 128
  if !p.configured then .next s
  else if data.length != 64 || off % 64 != 0 || 0x10000 ≤ off then .next (s.setPart q p.dropLaunch)
  else if off % 128 = 0 then .next (s.setPart q { p with staged := kset slot data p.staged })
  else match kget? slot p.staged with
  | none => .next (s.report q { cause := 2, reason := 1, source := 2 }).1
  | some h =>
    if 64 ≤ p.queue.length then .next s
    else
      let s := s.setPart q { p with staged := kdel slot p.staged, queue := p.queue ++ [⟨h ++ data, 0⟩] }
      .next (if p.queue.length + 1 = 64 then s.interrupt q 1 else s)

/-! Host accesses (R415, R416, R418, R300). -/

/-- Whether device bytes are DRAM of a pier of a partition (R418). -/
def State.aperture (s : State) (q a n : Nat) : Bool :=
  let p := a / Config.pierSpan
  p < 8 && a % Config.pierSpan + n ≤ Config.pierBytes && (s.pier p).owner == some q

/-- Bytes the host reads: a poisoned word's are a free value, since no reader receives its bits (R393). -/
def State.hostBytes (s : State) (a n : Nat) : List Byte × State :=
  let bad := (s.badDram.filter fun w => overlaps (8 * w) 8 a n)
  bad.foldl (fun x w =>
    let (v, s) := x.2.drawWord
    (overlay x.1 a (8 * w) (leBytes 8 v.toNat), s)) (s.homeRead ⟨.dram, a⟩ n, s)

/-- A register read: a value only written reads a free value, a hole or the launch window 0 (R416, R417). -/
def State.regRead (s : State) (q off : Nat) : Word × State :=
  let v := match dieBlock off with
    | some (d, o) => if s.ownsDie q d then s.readDie d o else some 0
    | none => (s.part q).read s.pkg.netid.toNat off
  match v with
  | some x => (x, s)
  | none => s.drawWord

/-- The registers of the management mailbox (R433). -/
def Pkg.mailbox (p : Pkg) (off : Nat) : Word :=
  match off with
  | 0x000 => p.mbcmd
  | 0x008 | 0x010 | 0x018 | 0x020 => lget p.mbarg (off / 8 - 1) 0
  | 0x028 => p.mbstat
  | _ => 0

end Sys2Proof.Machine
end

