-- ==== Sys2Proof/Machine/Crypto.lean ====
section
/-!
DEFINITION. The published functions that the security rules name: SHA-256 (20 R430, R431) and AES-256 in XTS mode over data
units of 128 bytes (20 R422). Their algorithms are the standards' own (log entry 20).
-/

namespace Sys2Proof.Machine

/-! SHA-256. -/

/-- The round constants of SHA-256. -/
def shaK : List Word32 :=
  [0x428a2f98, 0x71374491, 0xb5c0fbcf, 0xe9b5dba5, 0x3956c25b, 0x59f111f1, 0x923f82a4, 0xab1c5ed5] ++
  [0xd807aa98, 0x12835b01, 0x243185be, 0x550c7dc3, 0x72be5d74, 0x80deb1fe, 0x9bdc06a7, 0xc19bf174] ++
  [0xe49b69c1, 0xefbe4786, 0x0fc19dc6, 0x240ca1cc, 0x2de92c6f, 0x4a7484aa, 0x5cb0a9dc, 0x76f988da] ++
  [0x983e5152, 0xa831c66d, 0xb00327c8, 0xbf597fc7, 0xc6e00bf3, 0xd5a79147, 0x06ca6351, 0x14292967] ++
  [0x27b70a85, 0x2e1b2138, 0x4d2c6dfc, 0x53380d13, 0x650a7354, 0x766a0abb, 0x81c2c92e, 0x92722c85] ++
  [0xa2bfe8a1, 0xa81a664b, 0xc24b8b70, 0xc76c51a3, 0xd192e819, 0xd6990624, 0xf40e3585, 0x106aa070] ++
  [0x19a4c116, 0x1e376c08, 0x2748774c, 0x34b0bcb5, 0x391c0cb3, 0x4ed8aa4a, 0x5b9cca4f, 0x682e6ff3] ++
  [0x748f82ee, 0x78a5636f, 0x84c87814, 0x8cc70208, 0x90befffa, 0xa4506ceb, 0xbef9a3f7, 0xc67178f2]

/-- The initial hash value of SHA-256. -/
def shaInit : List Word32 := [0x6a09e667, 0xbb67ae85, 0x3c6ef372, 0xa54ff53a, 0x510e527f, 0x9b05688c, 0x1f83d9ab, 0x5be0cd19]

/-- Four bytes as a word, highest first. -/
def beWord (bs : List Byte) : Word32 := bs.foldl (fun w b => w <<< 8 ||| b.zeroExtend 32) 0

/-- The n bytes of a number, highest first. -/
def beBytes (n x : Nat) : List Byte := (leBytes n x).reverse

/-- A message padded to whole 64-byte blocks: a one bit, zeros and its length in bits. -/
def shaPad (bs : List Byte) : List Byte :=
  bs ++ [0x80] ++ List.replicate ((119 - bs.length % 64) % 64) 0 ++ beBytes 8 (8 * bs.length)

/-- One more word of a message schedule, the latest word first. -/
def shaNext (w : List Word32) : List Word32 :=
  let g (i : Nat) : Word32 := lget w i 0
  let s0 := (g 14).rotateRight 7 ^^^ (g 14).rotateRight 18 ^^^ g 14 >>> 3
  let s1 := (g 1).rotateRight 17 ^^^ (g 1).rotateRight 19 ^^^ g 1 >>> 10
  (s1 + g 6 + s0 + g 15) :: w

/-- The 64 words of a block's message schedule. -/
def shaSchedule (block : List Byte) : List Word32 :=
  let w := ((List.range 16).map fun i => beWord ((block.drop (4 * i)).take 4)).reverse
  ((List.range 48).foldl (fun w _ => shaNext w) w).reverse

/-- One round, over the eight working variables. -/
def shaRound (v : List Word32) (kw : Word32) : List Word32 :=
  match v with
  | [a, b, c, d, e, f, g, h] =>
    let t1 := h + (e.rotateRight 6 ^^^ e.rotateRight 11 ^^^ e.rotateRight 25) + ((e &&& f) ^^^ (~~~e &&& g)) + kw
    let t2 := (a.rotateRight 2 ^^^ a.rotateRight 13 ^^^ a.rotateRight 22) + ((a &&& b) ^^^ (a &&& c) ^^^ (b &&& c))
    [t1 + t2, a, b, c, d + t1, e, f, g]
  | _ => v

/-- The hash value after one more block. -/
def shaBlock (h : List Word32) (block : List Byte) : List Word32 :=
  let v := (List.zipWith (· + ·) shaK (shaSchedule block)).foldl shaRound h
  List.zipWith (· + ·) h v

/-- SHA-256 of a byte string: 32 bytes. -/
def sha256 (bs : List Byte) : List Byte :=
  let m := shaPad bs
  let h := (List.range (m.length / 64)).foldl (fun h i => shaBlock h ((m.drop (64 * i)).take 64)) shaInit
  h.flatMap fun w => beBytes 4 w.toNat

/-! AES-256. -/

/-- A byte times x in the field of AES. -/
def gfDouble (b : Byte) : Byte := if b.getLsbD 7 then b <<< 1 ^^^ 0x1B else b <<< 1

/-- The product of two bytes in the field of AES. -/
def gfMul (a b : Byte) : Byte :=
  ((List.range 8).foldl (fun (x : Byte × Byte) i => (if b.getLsbD i then x.1 ^^^ x.2 else x.1, gfDouble x.2)) (0, a)).1

/-- The inverse of a byte in the field of AES, 0 for 0: its power of 254. -/
def gfInv (b : Byte) : Byte :=
  ((List.range 7).foldl (fun (x : Byte × Byte) _ => (gfMul x.1 (gfMul x.2 x.2), gfMul x.2 x.2)) (1, b)).1

/-- The S-box of AES. -/
def aesSub (b : Byte) : Byte :=
  let i := gfInv b
  i ^^^ i.rotateLeft 1 ^^^ i.rotateLeft 2 ^^^ i.rotateLeft 3 ^^^ i.rotateLeft 4 ^^^ 0x63

/-- Two byte strings added. -/
def xorBytes (a b : List Byte) : List Byte := List.zipWith (· ^^^ ·) a b

/-- One more word of a key schedule, the i-th; the words so far with the latest first. -/
def aesExpand (w : List (List Byte)) (i : Nat) : List (List Byte) :=
  let last := lget w 0 []
  let t :=
    if i % 8 = 0 then
      let r := (last.drop 1 ++ last.take 1).map aesSub
      xorBytes r [(List.range (i / 8 - 1)).foldl (fun c _ => gfDouble c) 1, 0, 0, 0]
    else if i % 8 = 4 then last.map aesSub else last
  xorBytes (lget w 7 []) t :: w

/-- The 15 round keys of a key of 32 bytes. -/
def aesKeys (key : List Byte) : List (List Byte) :=
  let w := ((List.range 8).map fun i => (key.drop (4 * i)).take 4).reverse
  let ws := ((List.range 52).foldl (fun w i => aesExpand w (8 + i)) w).reverse
  (List.range 15).map fun r => ((ws.drop (4 * r)).take 4).flatten

/-- The rows of a state of 16 bytes, held by columns, are shifted. -/
def aesShift (s : List Byte) : List Byte := (List.range 16).map fun i => lget s ((i + 4 * (i % 4)) % 16) 0

/-- The columns of a state are mixed. -/
def aesMix (s : List Byte) : List Byte :=
  (List.range 16).map fun i =>
    let g (k : Nat) : Byte := lget s (i / 4 * 4 + (i + k) % 4) 0
    gfDouble (g 0) ^^^ (gfDouble (g 1) ^^^ g 1) ^^^ g 2 ^^^ g 3

/-- AES-256 of one block of 16 bytes. -/
def aes256 (key block : List Byte) : List Byte :=
  let ks := aesKeys key
  let s := (List.range 13).foldl (fun s r => xorBytes (aesMix (aesShift (s.map aesSub))) (lget ks (r + 1) []))
    (xorBytes block (lget ks 0 []))
  xorBytes (aesShift (s.map aesSub)) (lget ks 14 [])

/-! XTS. -/

/-- A tweak of 16 bytes, lowest first, times x. -/
def xtsDouble (t : List Byte) : List Byte :=
  let n := 2 * leNat t
  xorBytes (leBytes 16 n) [if 2 ^ 128 ≤ n then 0x87 else 0, 0, 0, 0, 0, 0, 0, 0, 0, 0, 0, 0, 0, 0, 0, 0]

/-- AES-256-XTS of a data unit under a key pair (R422): its tweak is the unit's number. -/
def aesXts (k1 k2 : List Byte) (unit : Nat) (bs : List Byte) : List Byte :=
  ((List.range (bs.length / 16)).foldl (fun (x : List Byte × List Byte) i =>
    (x.1 ++ xorBytes (aes256 k1 (xorBytes ((bs.drop (16 * i)).take 16) x.2)) x.2, xtsDouble x.2))
    ([], aes256 k2 (leBytes 16 unit))).1

end Sys2Proof.Machine
end

