-- ==== Sys2Proof/Machine/Manage.lean ====
section
/-!
DEFINITION. Link security, firmware, attestation, the management mailbox, resets, the debugger's release, and bring-up (20
R421 to R425, R430 to R435).
-/

namespace Sys2Proof.Machine

/-! Piers pass between partitions (R421, R423). -/

/-- A new key pair for a pier from the device's entropy source (R422). -/
def State.newKeys (s : State) : List Word × State :=
  (List.range 8).foldl (fun (x : List Word × State) _ =>
    let (w, s) := x.2.drawWord
    (x.1 ++ [w], s)) ([], s)

/-- What the DRAM of a pier holds of a data unit of 128 bytes: its plaintext, as every agent reads it, under AES-256-XTS with
the pier's key pair and the unit's number as its tweak (R422). No step of the machine reads it or the keys. -/
def State.dramCipher (s : State) (unit : Nat) : List Byte :=
  let ks := (s.pier (128 * unit / Config.pierSpan)).key.flatMap fun w => leBytes 8 w.toNat
  aesXts (ks.take 32) (ks.drop 32) unit (s.homeRead ⟨.dram, 128 * unit⟩ 128)

/-- A pier's DRAM is zero under a new key; its die caches, scratchpads, accumulators and tag stores are cleared (R423). -/
def State.rekey (s : State) (p : Nat) : State :=
  let s := s.zeroRange .dram (p * Config.pierSpan) Config.pierBytes
  let s := s.zeroRange .spad (160 * p * Config.poolBytes) (160 * Config.poolBytes)
  let mine (w : Write) : Bool := pierOfDie w.die == p || (w.loc.sp == .dram && w.loc.a / Config.pierSpan == p)
  let clean (b : Nat × Brick) : Nat × Brick := if pierOfBrick b.1 == p then (b.1, { b.2 with tags := [] }) else b
  let s := { s with writes := s.writes.filter fun w => !mine w, bricks := s.bricks.map clean,
                    places := s.places.filter fun x => x.1 * 2 ^ 16 / Config.pierSpan != p }
  let s := [2 * p, 2 * p + 1].foldl (fun s d => s.modDie d fun x =>
    { x with frames := [], inbox := [], graphs := [], saves := [], grout := [], gq := [] }) s
  let (ks, s) := s.newKeys
  s.modPier p fun x => { x with key := ks, errStop := false }

/-- Every graph of a partition that lives or is torn down. -/
def State.graphsOf (s : State) (q : Nat) : List Word :=
  ((s.diesOf q).flatMap fun d => ((s.die d).frames.map fun f => f.2.graph) ++ (s.die d).graphs.map fun g => g.1).dedup
    ++ ((s.tasks.filter fun t => t.2.part == q && t.2.live).map fun t => t.2.graph).dedup

/-- Whether a graph of a partition is live (R371). -/
def State.anyLive (s : State) (q : Nat) : Bool := (s.graphsOf q).any fun g => s.graphLive q g

/-- Whether nothing of a partition runs any more: no task, no message, no teardown. -/
def State.quietPart (s : State) (q : Nat) : Bool :=
  s.tasks.all (fun t => t.2.part != q) && (s.diesOf q).all fun d =>
    (s.die d).frames.isEmpty && (s.die d).gq.isEmpty && (s.die d).graphs.all fun g => !g.2.teardown

/-- Tear down every live graph of a partition that is not already being torn down (R372, R433). -/
def State.tearAll (s : State) (q : Nat) : State :=
  ((s.graphsOf q).filter fun g => s.graphLive q g && !(s.diesOf q).any fun d => s.tearing d g).foldl (fun s g =>
    match execDteardown q g.toNat s with
    | .next t => t
    | _ => s) s

/-- Pre-empt every context of a pier (R368, R433). -/
def State.preemptPier (s : State) (p : Nat) : State :=
  (((List.range 160).map fun i => 160 * p + i).flatMap fun b => s.boundCtxs b).foldl (fun s c => s.askPreempt c) s

/-! The mailbox (R433). -/

/-- MBSTAT: a state and a code; the codes' values are not given. -/
def mbWord (st code : Nat) : Word := BitVec.ofNat 64 (st + 2 ^ 8 * (Config.mbStatus code).toNat)

/-- A command ends, done (code 0) or refused. -/
def State.mbEnd (s : State) (code : Nat) : State :=
  { s with pkg := { s.pkg with mbstat := mbWord (if code = 0 then 2 else 3) code } }

/-- Whether the mailbox is busy. -/
def Pkg.busy (p : Pkg) : Bool := wbits p.mbstat 0 2 == 1

/-- Whether function 0's BAR0 answers (R430, R435). -/
def Pkg.answers (p : Pkg) : Bool := p.boot == .up || p.boot == .recovery

/-- Whether the mailbox takes a command: function 0 answers, is not busy, and in recovery answers only some (R430). -/
def Pkg.takes (p : Pkg) (cmd : Nat) : Bool :=
  !p.busy && (p.boot == .up || (p.boot == .recovery && (cmd == 5 || cmd == 6 || cmd == 7)))

/-- A command starts: the mailbox holds it with its arguments and is busy. -/
def State.mbStart (s : State) (cmd : Nat) (a0 a1 : Word) : State :=
  { s with pkg := { s.pkg with mbcmd := BitVec.ofNat 64 cmd, mbarg := lset (lset s.pkg.mbarg 0 a0) 1 a1, mbstat := mbWord 1 0 } }

/-- Whether TDISP forbids changes to a partition (R425). -/
def Part.locked (p : Part) : Bool := p.tdisp == 1 || p.tdisp == 2

/-- The partitions a PARTCFG affects: the one named, and those that lose a pier to it. -/
def State.affected (s : State) (q mask : Nat) : List Nat :=
  (q :: (bitsOf 8 mask).filterMap fun p => (s.pier p).owner).dedup

/-- The piers a PARTCFG releases or adds. -/
def State.movedPiers (s : State) (q mask : Nat) : List Nat :=
  (List.range 8).filter fun p => mask.testBit p != ((s.pier p).owner == some q)

/-- The assignment itself (R421, R423): moved piers are rekeyed, and no translation of an affected partition is kept. -/
def State.assign (s : State) (q mask : Nat) : State :=
  let affected := s.affected q mask
  let s := (s.movedPiers q mask).foldl (fun s p => (s.rekey p).modPier p fun x =>
    { x with owner := if mask.testBit p then some q else none }) s
  let s := affected.foldl (fun s a => s.modPart a fun p =>
    { p with tlb := [], tlbInv := [], tiles := [], configured := if a = q then mask != 0 else !(s.piersOf a).isEmpty }) s
  s

/-- A PARTCFG goes on while teardown lasts, and ends once nothing of an affected partition runs. -/
def State.partcfgGo (s : State) : State :=
  let a0 := lget s.pkg.mbarg 0 0
  let q := wbits a0 0 3
  let mask := wbits (lget s.pkg.mbarg 1 0) 0 8
  let affected := s.affected q mask
  let s := if a0.getLsbD 8 then affected.foldl (fun s a => s.tearAll a) s else s
  if affected.all fun a => s.quietPart a then (s.assign q mask).mbEnd 0 else s

/-- PARTCFG (R425, R433). While one is under way, this step carries it on. -/
def execPartcfg (arg0 arg1 : Word) (s : State) : Host.Outcome State Fault Refusal :=
  if s.pkg.busy && s.pkg.mbcmd = 1 then .next s.partcfgGo
  else if !s.pkg.takes 1 then .next s
  else
    let s := s.mbStart 1 arg0 arg1
    let q := wbits arg0 0 3
    let mask := wbits arg1 0 8
    let affected := s.affected q mask
    if affected.any fun a => (s.part a).locked then .next (s.mbEnd 1)
    else if arg0.getLsbD 8 then .next (((s.movedPiers q mask).foldl (fun s p => s.preemptPier p) s).partcfgGo)
    else if affected.any fun a => s.anyLive a then .next (s.mbEnd 2)
    else .next s.partcfgGo

/-- NETCFG (R433): the device id, and the partition's job key where an SPDM session has supplied one; nothing reads it back. -/
def State.netcfg (s : State) (arg0 arg1 : Word) (key : Option (BitVec 256)) : State :=
  if !s.pkg.takes 2 then s
  else
    let s := s.mbStart 2 arg0 arg1
    let s := { s with pkg := { s.pkg with netid := BitVec.ofNat 19 (wbits arg0 0 19), spdmKey := none } }
    ((match key with
      | some k => s.modPart (wbits arg1 0 3) fun p => { p with jobKey := some k }
      | none => s) : State).mbEnd 0

/-- NETCFG (R433), with the key its session supplies. -/
def execNetcfg (arg0 arg1 : Word) (key : BitVec 256) (s : State) : Host.Outcome State Fault Refusal :=
  .next (s.netcfg arg0 arg1 (some key))

/-- DBGEN (R425, R433): in TDISP locked or run it ends with BUSY. -/
def execDbgen (arg0 arg1 : Word) (s : State) : Host.Outcome State Fault Refusal :=
  if !s.pkg.takes 3 then .next s
  else
    let s := s.mbStart 3 arg0 arg1
    let q := wbits arg0 0 3
    if (s.part q).locked then .next (s.mbEnd 1)
    else .next ((s.modPart q fun p => { p with debugOn := arg1.getLsbD 0 }).mbEnd 0)

/-- A halted context is released (R434): it loads the record at SAVEAREA as CTXLD does and goes on at its resume block. A
record that cannot be loaded ends the task with the trap CTXLD would raise. -/
def State.dbgRelease (s : State) (c : Nat) : State :=
  let x := s.ctx c
  match s.taskOf c with
  | none => s
  | some t =>
    let b := brickOfCtx c
    let a := x.savearea.toNat
    match s.readFlat t.part b t.uid a 512 with
    | none => s.faultEnd c { cause := 7, addr := a }
    | some fixed =>
      let n := (masksOf fixed).size
      if naccOf x.poolsplit < recordNa fixed then s.faultEnd c { cause := 0x10, addr := 0xF }
      else match s.flatPoison t.part b t.uid a n, s.readFlat t.part b t.uid a n with
      | some p, some _ => s.faultEnd c { cause := 0x0F, addr := p }
      | none, some bs => (s.ctxLoad c bs).modCtx c fun x =>
          { x with halted := false, pc := field bs 40 8, preemptAt := x.preemptAt.map fun t0 => s.now - t0 }
      | _, none => s.faultEnd c { cause := 7, addr := a }

/-- The halted contexts of a partition. -/
def State.haltedOf (s : State) (q : Nat) : List Nat :=
  (s.ctxs.filter fun c => c.2.halted && s.partOfBrick (brickOfCtx c.1) == some q).map fun c => c.1

/-- DBGRESUME (R433, R434): one halted context, or every one of the partition. -/
def execDbgresume (arg0 arg1 : Word) (s : State) : Host.Outcome State Fault Refusal :=
  if !s.pkg.takes 4 then .next s
  else
    let s := s.mbStart 4 arg0 arg1
    let hs := s.haltedOf (wbits arg0 0 3)
    let cs := if arg1.getLsbD 16 then hs else hs.filter fun c => ctxIdOf c == wbits arg1 0 13
    if cs.isEmpty && !arg1.getLsbD 16 then .next (s.mbEnd 3) else .next ((cs.foldl (fun s c => s.dbgRelease c) s).mbEnd 0)

/-! Firmware (R430). -/

/-- FWSTAGE (R433): bytes from the host into the staging area. -/
def execFwstage (arg0 arg1 : Word) (s : State) : Host.Outcome State Fault Refusal :=
  if !s.pkg.takes 5 then .next s
  else
    let s := s.mbStart 5 arg0 arg1
    let bs := s.homeRead ⟨.host, arg0.toNat⟩ arg1.toNat
    .next ({ s with pkg := { s.pkg with staging := bs } }.mbEnd 0)

/-- Whether an image may run (R430). -/
def Pkg.imageOk (p : Pkg) (img : List Byte) : Bool := Config.signatureOk img && p.minVersion ≤ Config.imageVersion img

/-- FWAPPLY (R430, R433): a verified image goes to the flash; in recovery it is then booted. -/
def execFwapply (s : State) : Host.Outcome State Fault Refusal :=
  if !s.pkg.takes 6 then .next s
  else
    let s := s.mbStart 6 (lget s.pkg.mbarg 0 0) (lget s.pkg.mbarg 1 0)
    if s.pkg.imageOk s.pkg.staging then
      .next ({ s with pkg := { s.pkg with flash := s.pkg.staging, boot := if s.pkg.boot = Boot.recovery then Boot.link else s.pkg.boot } }.mbEnd 0)
    else .next (s.mbEnd 4)

/-! Resets (R432). -/

/-- The mailbox and its command under way are abandoned. -/
def State.mbReset (s : State) : State :=
  { s with pkg := { s.pkg with mbcmd := 0, mbarg := [0, 0, 0, 0], mbstat := 0 } }

/-- MGMTRESET (R432, R433): a mailbox command. -/
def execMgmtreset (s : State) : Host.Outcome State Fault Refusal := .next (if s.pkg.takes 7 then s.mbReset else s)

/-- MANAGEMENT_FLR (R432): partitions run on. -/
def execManagementFlr (s : State) : Host.Outcome State Fault Refusal := .next s.mbReset

/-- PACKAGE_RESET (R432): every unit at its reset values, the boot sequence from its start. The flash and the fused version
stay; the host's memory, what has left the package and the model's own counters are not the package's. -/
def execPackageReset (s : State) : Host.Outcome State Fault Refusal :=
  .next { State.reset with
    agenda := s.agenda, free := s.free, nextUid := s.nextUid, nextId := s.nextId, host := s.host, outbox := s.outbox
    pkg := { Pkg.reset with flash := s.pkg.flash, minVersion := s.pkg.minVersion } }

/-- A distributor and its bricks as their registers stand after reset (R350). -/
def State.resetDie (s : State) (d : Nat) : State :=
  let s := s.setDie d Die.reset
  { s with bricks := s.bricks.map fun b =>
      if dieOfBrick b.1 == d then (b.1, { b.2 with rfu := 4, accu := 32, pending := none }) else b }

/-- A partition reset ends once nothing of the partition runs (R432): its window's registers take their reset values and its
piers are rekeyed; they stay in it. A pier in error stop keeps its key (R423). -/
def State.partResetGo (s : State) (q : Nat) : State :=
  let s := s.tearAll q
  if !s.quietPart q then s
  else
    let s := (s.piersOf q).foldl (fun s p =>
      let e := (s.pier p).key
      let stop := (s.pier p).errStop
      (s.rekey p).modPier p fun x => if stop then { x with key := e, errStop := true } else x) s
    let s := (s.diesOf q).foldl (fun s d => s.resetDie d) s
    s.modPart q fun p =>
      { Part.reset with configured := p.configured, ide := p.ide, jobKey := p.jobKey, bar0 := p.bar0, bar2 := p.bar2 }

/-- PARTITION_RESET (R425, R432): forced teardown starts; while it lasts, this step carries it on. A partition with no pier
has nothing to tear down, and its window's registers are reset likewise. -/
def execPartitionReset (q : Nat) (s : State) : Host.Outcome State Fault Refusal :=
  if 8 ≤ q then .next s
  else
    let s := if (s.part q).resetPending then s else
      (s.piersOf q).foldl (fun s p => s.preemptPier p) (s.modPart q fun p => { p with resetPending := true })
    .next (s.partResetGo q)

/-! Link security and assigned partitions (R424, R425). -/

/-- IDE_KEY_SETUP (R424, R425): the stream of a function is enabled; in locked and run a change is refused. -/
def execIdeKeySetup (q : Nat) (s : State) : Host.Outcome State Fault Refusal :=
  .next (if 8 ≤ q || (s.part q).locked then s else s.modPart q fun p => { p with ide := true })

/-- TDISP_STATE_CHANGE (R425): unlocked to locked to run, back to unlocked, and any of them to error, which acts as a partition
reset; error ends with that reset. -/
def execTdispStateChange (q st : Nat) (s : State) : Host.Outcome State Fault Refusal :=
  let from' := (s.part q).tdisp
  if 8 ≤ q then .next s
  else if st = 3 && from' != 3 then
    let s := s.modPart q fun p => { p with tdisp := 3 }
    execPartitionReset q s
  else if (from' = 0 && st = 1) || (from' = 1 && st = 2) || (st = 0 && (from' = 1 || from' = 2)) then
    .next (s.modPart q fun p => { p with tdisp := st })
  else .next s

/-! Attestation (R431). -/

/-- The configuration of a partition as it is hashed: pier mask, debug policy, TDISP state, a byte each. -/
def State.cfgBytes (s : State) (q : Nat) : List Byte :=
  let mask := ((s.piersOf q).map fun p => 2 ^ p).sum
  [BitVec.ofNat 8 mask, BitVec.ofNat 8 (s.part q).debugOn.toNat, BitVec.ofNat 8 (s.part q).tdisp]

/-- ATTESTATION_REPORT (R431): the 256 bytes of the report and their signature, whose 17,088 bytes are
SLH-DSA-SHA2-128f's; a number above 7 asks for the device. -/
def execAttestationReport (q : Nat) (nonce : BitVec 256) (s : State) : Host.Outcome State Fault Refusal :=
  let h (x : BitVec 256) : List Byte := leBytes 32 x.toNat
  let cfg := if q < 8 then s.cfgBytes q else (List.range 8).flatMap fun i => s.cfgBytes i
  let bs := leBytes 4 1 ++ leBytes 4 (if q < 8 then q else 0xFF) ++ h nonce ++ leBytes 4 s.pkg.netid.toNat
    ++ leBytes 4 (Config.imageVersion s.pkg.running) ++ h Config.romHash ++ sha256 s.pkg.running
    ++ sha256 cfg ++ h Config.policyHash ++ leBytes 80 0
  .next (if s.pkg.boot = .up then s.out (.report (bs ++ (List.range 17088).map (Config.signByte bs))) else s)

/-! Bring-up (R430, R435). -/

/-- BOOT_SEQUENCE (R430, R435): the next step of the boot, in order; an image that does not verify leads to recovery. -/
def execBootSequence (s : State) : Host.Outcome State Fault Refusal :=
  let go (b : Boot) : State := { s with pkg := { s.pkg with boot := b } }
  match s.pkg.boot with
  | .rom => .next (go .link)
  | .link =>
    if s.pkg.imageOk s.pkg.flash then .next { s with pkg := { s.pkg with boot := .firmware, running := s.pkg.flash } }
    else .next (go .recovery)
  | .firmware => .next (go .dram)
  | .dram => .next ((go .up).mbReset)
  | .up | .recovery | .off => .next s

end Sys2Proof.Machine
end

