-- ==== Sys2Proof/Machine/HostPort.lean ====
section
/-!
DEFINITION. Requests as they reach the host port (20 R415 to R418, R424, R425, R433, R435): register, launch and device-memory
accesses, the mailbox of function 0, and configuration requests.
-/

namespace Sys2Proof.Machine

/-! Link integrity and data encryption (R424). -/

/-- Whether a function takes a request that came on no stream: not while its stream is enabled (R424). -/
def State.offStream (s : State) (q : Nat) : Bool := 8 ≤ q || !(s.part q).ide

/-! Register writes. -/

/-- An accepted write of a register of the partition window (R350, R373, R399, R416, R419, R428): a register with no behaviour
of its own stores its value; a write to another register is that register's step. A hole, or the block of a die outside the
partition, discards it. -/
def State.windowWrite (s : State) (q off : Nat) (val : Word) : Res :=
  if !(s.part q).configured then .next s
  else if off < 0x10000 then s.launchWrite q off (leBytes 8 val.toNat)
  else match dieBlock off with
  | some (d, o) =>
    if !s.ownsDie q d then .next s
    else match o with
    | 0x030 => execDpreempt d (wbits val 0 8) s
    | 0x040 => execDrepriop d (wbits val 0 2) s
    | 0x048 => execDteardown q val.toNat s
    | 0x060 => if (s.die d).plBusy.isSome then .next s else execDplace d val.toNat s
    | _ => .next (s.writeDie d o val)
  | none =>
    match off with
    | 0x20020 => .next ((s.modPart q fun p => p.write off val).fqFill q)
    | 0x20028 => execFqheadWrite q val s
    | 0x20038 => execFqlostClear q val s
    | 0x20040 => execFqanswer q val s
    | 0x20048 => execEvreq q val s
    | 0x21020 => execDroopcntClear q val s
    | 0x21028 => execThrotcntClear q val s
    | 0x22060 => execNetstatClear q val s
    | 0x23010 => execPintstatClear q val s
    | _ => .next (s.modPart q fun p => p.write off val)

/-- The command a write of MBCMD starts, with the arguments the mailbox holds (R433); a code of no command is refused. -/
def State.mailboxCommand (s : State) (cmd : Nat) : Res :=
  let a (i : Nat) : Word := lget s.pkg.mbarg i 0
  match cmd with
  | 1 => execPartcfg (a 0) (a 1) s
  | 2 => .next (s.netcfg (a 0) (a 1) s.pkg.spdmKey)
  | 3 => execDbgen (a 0) (a 1) s
  | 4 => execDbgresume (a 0) (a 1) s
  | 5 => execFwstage (a 0) (a 1) s
  | 6 => execFwapply s
  | 7 => execMgmtreset s
  | n => .next (if s.pkg.boot = .up then (s.mbStart n (a 0) (a 1)).mbEnd 5 else s)

/-- A write of the mailbox (R433): one while it is busy is discarded. -/
def State.mailboxWrite (s : State) (off : Nat) (val : Word) : Res :=
  if !s.pkg.answers || s.pkg.busy then .next s
  else match off with
  | 0x000 => s.mailboxCommand val.toNat
  | 0x008 | 0x010 | 0x018 | 0x020 => .next { s with pkg := { s.pkg with mbarg := lset s.pkg.mbarg (off / 8 - 1) val } }
  | _ => .next s

/-- An accepted write of a register: of the mailbox for function 0, else of the partition's window. -/
def State.regWrite (s : State) (q off : Nat) (val : Word) : Res :=
  if q = 8 then s.mailboxWrite off val else s.windowWrite q off val

/-- REGISTER_WRITE (R350, R416, R424, R433): a write that comes on no IDE stream. -/
def execRegisterWrite (q off : Nat) (val : Word) (s : State) : Res :=
  if s.offStream q then s.regWrite q off val else .next s

/-- LAUNCH_WINDOW_WRITE (R417, R300, R424): a write of the launch window that comes on no IDE stream. -/
def execLaunchWindowWrite (q off : Nat) (data : List Byte) (s : State) : Res :=
  if s.offStream q then s.launchWrite q off data else .next s

/-! Configuration requests (R415, R425, R435). The registers' places are PCI Express's (log entry 64). -/

/-- The base addresses a function's BAR0 and BAR2 hold. -/
def State.barsOf (s : State) (q : Nat) : Word × Word :=
  if q = 8 then (s.pkg.bar0, 0) else ((s.part q).bar0, (s.part q).bar2)

/-- Bytes of a function's BAR0 and of a partition's BAR2 (R415). -/
def bar0Bytes (q : Nat) : Nat := if q = 8 then 2 ^ 16 else 2 ^ 24
def bar2Bytes : Nat := 2 ^ 40

/-- The half of a 64-bit prefetchable memory BAR that a configuration read returns. -/
def barHalf (b : Word) (high : Bool) : Word32 :=
  if high then (b >>> 32).truncate 32 else b.truncate 32 ||| 0xC

/-- A BAR with one half written; address bits below its size stay 0. -/
def barPut (b : Word) (size : Nat) (high : Bool) (val : Word32) : Word :=
  let n := if high then b.toNat % 2 ^ 32 + 2 ^ 32 * val.toNat else b.toNat / 2 ^ 32 * 2 ^ 32 + val.toNat
  BitVec.ofNat 64 (n / size * size)

/-- Whether the port answers configuration requests: from the training of the link on (R435). -/
def Pkg.linked (p : Pkg) : Bool := p.boot != .rom && p.boot != .off

/-- What a configuration read returns: a BAR's half; of another register a free value. -/
def State.cfgRead (s : State) (q off : Nat) : Word32 × State :=
  match off with
  | 0x10 => (barHalf (s.barsOf q).1 false, s)
  | 0x14 => (barHalf (s.barsOf q).1 true, s)
  | 0x18 => (if q = 8 then 0 else barHalf (s.barsOf q).2 false, s)
  | 0x1C => (if q = 8 then 0 else barHalf (s.barsOf q).2 true, s)
  | _ =>
    let (w, s) := s.drawWord
    (w.truncate 32, s)

/-- A configuration write (R415, R425): of a BAR, unless TDISP has locked it. -/
def State.cfgWrite (s : State) (q off : Nat) (val : Word32) : State :=
  if q = 8 then
    if off = 0x10 || off = 0x14 then { s with pkg := { s.pkg with bar0 := barPut s.pkg.bar0 (bar0Bytes q) (off = 0x14) val } } else s
  else if (s.part q).locked then s
  else if off = 0x10 || off = 0x14 then s.modPart q fun p => { p with bar0 := barPut p.bar0 (bar0Bytes q) (off = 0x14) val }
  else if off = 0x18 || off = 0x1C then s.modPart q fun p => { p with bar2 := barPut p.bar2 bar2Bytes (off = 0x1C) val }
  else s

/-! The port. -/

/-- The function a memory request of the host addresses; none for a request of another kind. -/
def memFn : HostReq → Option Nat
  | .memWrite q .. | .memRead q .. | .regRead q .. | .regWrite q .. | .launchWrite q .. => some q
  | .cfgRead .. | .cfgWrite .. | .jobKey .. | .stream .. | .hostWrite .. => none

/-- A request that its function accepts (R300, R415, R416, R418, R433): a posted write performs at .dev at once, a read is
answered, and what no pier of the partition holds is discarded or an Unsupported Request. A configuration request is answered
whether the partition is configured or not. -/
def State.accept (s : State) (r : HostReq) : Res :=
  match r with
  | .memWrite q a data =>
    .next (if (s.part q).configured && s.aperture q a data.length then s.writeNow ⟨.dram, a⟩ data 0 else s)
  | .memRead q a n =>
    if !(s.part q).configured then .next s
    else if s.aperture q a n then
      let (bs, s) := s.hostBytes a n
      .next (s.out (.hostData a bs))
    else .next (s.out (.unsupported a))
  | .regRead q off =>
    if q = 8 then .next (if s.pkg.answers then s.out (.hostData off (leBytes 8 (s.pkg.mailbox off).toNat)) else s)
    else if !(s.part q).configured then .next s
    else
      let (v, s) := s.regRead q off
      .next (s.out (.hostData off (leBytes 8 v.toNat)))
  | .regWrite q off val => s.regWrite q off val
  | .launchWrite q off data => s.launchWrite q off data
  | .cfgRead q off =>
    if 8 < q || !s.pkg.linked then .next s
    else
      let (v, s) := s.cfgRead q off
      .next (s.out (.hostData off (leBytes 4 v.toNat)))
  | .cfgWrite q off val => .next (if 8 < q || !s.pkg.linked then s else s.cfgWrite q off val)
  | .jobKey key => .next (if s.pkg.answers then { s with pkg := { s.pkg with spdmKey := some key } } else s)
  | .hostWrite a data => .next (s.homeWrite ⟨.host, a⟩ data)
  | .stream .. => .next s

/-- HOST_MEMORY_ACCESS (R300, R415, R416, R418, R424): while a function's stream is enabled it takes memory requests on that
stream only, and one that fails integrity checking is discarded. -/
def execHostMemoryAccess (r : HostReq) (s : State) : Res :=
  match r with
  | .stream intact r => if intact && (memFn r).any fun q => q < 8 && (s.part q).ide then s.accept r else .next s
  | r => if (memFn r).all fun q => s.offStream q then s.accept r else .next s

/-! A package that is off (R437). -/

/-- Whether an event acts while the package is off: only a package reset, and a write of the host's own memory. -/
def actsOff (i : Instr) : Bool :=
  match i with
  | .packageReset => true
  | .hostMemoryAccess (.hostWrite ..) => true
  | _ => false

end Sys2Proof.Machine
end

