-- ==== Sys2Proof/Machine/Pma.lean ====
section
/-!
DEFINITION. The matrix array (11 R257 to R268; 05 R91 to R97): starting, streaming and completing the tl7 instructions
of a brick, one at a time, and what each computes. Operands are read when the instruction completes (log entry 10).
-/

namespace Sys2Proof.Machine

/-! Accumulators. -/

/-- The 32-bit pattern of element (i, j) of an accumulator unit. -/
def State.accPat (s : State) (uid unit i j : Nat) : Nat := leNat (s.homeRead (accAt uid unit (4 * (128 * i + j))) 4)

/-- An accumulator element as an unsigned number of its mode's width (R114). -/
def State.accElem (s : State) (uid acc : Nat) (mode : AccMode) (i j : Nat) : Nat :=
  match mode with
  | .int64 => s.accPat uid acc i j + 2 ^ 32 * s.accPat uid (acc + 1) i j
  | _ => s.accPat uid acc i j

/-- A row of an accumulator replaced from column 0 on. -/
def State.setAccRow (s : State) (uid acc : Nat) (mode : AccMode) (i : Nat) (xs : List Nat) : State :=
  let s := s.homeWrite (accAt uid acc (512 * i)) (xs.flatMap (leBytes 4))
  match mode with
  | .int64 => s.homeWrite (accAt uid (acc + 1) (512 * i)) (xs.flatMap fun x => leBytes 4 (x / 2 ^ 32))
  | _ => s

/-- Zero an accumulator of a mode. -/
def State.zeroAcc (s : State) (uid acc : Nat) (mode : AccMode) : State :=
  let s := s.zeroRange .acc (accAt uid acc 0).a 65536
  match mode with
  | .int64 => s.zeroRange .acc (accAt uid (acc + 1) 0).a 65536
  | _ => s

/-- Set an accumulator's overflow bit to a value. -/
def Task.setOvf (t : Task) (acc : Nat) (x : Bool) : Task := { t with accOvf := kset acc x t.accOvf }

/-- Put an accumulator into a mode, zero, with its overflow bit clear; leaving INT64 puts its neighbour into FP32 (R259). -/
def State.enterMode (s : State) (uid acc : Nat) (mode : AccMode) : State :=
  let s := s.modTask uid fun t =>
    let m := if t.modeOf acc = .int64 && mode != .int64 then kset (acc + 1) .fp32 t.accMode else t.accMode
    { (t.setOvf acc false) with accMode := kset acc mode m }
  s.zeroAcc uid acc mode

/-- An instruction that carries a mode starts on an accumulator (R259). -/
def State.needMode (s : State) (uid acc : Nat) (mode : AccMode) : State :=
  match s.task? uid with
  | some t => if t.modeOf acc = mode then s else s.enterMode uid acc mode
  | none => s

/-! Operands (R129, R260). -/

/-- One line of an operand, a row of A or a column of B: values in K order, group exponents, one scale for each slab. -/
structure Line where
  vals : List Int
  exps : List Nat
  scales : List Nat
  deriving DecidableEq, Repr

/-- Array planes of a view before trimming. -/
def View.planes (v : View) : Nat := if v.d.fmt < 2 then v.hi + 1 - v.lo else arrayOf v.d.fmt v.d.wf

/-- Array planes the block that holds an element presents under a tag (R129). -/
def View.trimmed (v : View) (tag : Nat) : Nat :=
  if !v.trims || tag = 0x1F then v.planes
  else if v.d.fmt < 2 then min v.hi tag + 1 - v.lo
  else min v.planes (tag + 1)

/-- The value of an element when its block presents n array planes (R84, R85, R90, R129). -/
def State.operandVal (s : State) (w : Who) (v : View) (n r c : Nat) : Int :=
  let d := v.d
  match bfqM d.fmt with
  | some m =>
    let x := s.patAt w d r c 0 (d.stored - 1)
    let mag := (x % 2 ^ m * if x.testBit (m + 1) then 4 else 1) % 2 ^ n
    if x.testBit m then -(mag : Int) else mag
  | none =>
    if d.fmt = 2 then
      let x := s.patAt w d r c 0 (d.w - 1)
      let z := (s.scaleOf w d r c).2
      asInt n (ofInt n ((x : Int) - z))
    else if n = 0 then 0
    else
      let x := s.patAt w d r c v.lo (v.lo + n - 1)
      if d.fmt = 0 then asInt (v.lo + n) x else x

/-- The planes presented by the block that holds an element; streamed blocks keep theirs unless their copy takes the
source's tag (R262). -/
def State.presented (s : State) (w : Who) (v : View) (untrim : Nat → Nat → Bool) (r c : Nat) : Nat :=
  if untrim (v.d.blkRow r) (v.d.blkCol c) then v.planes else v.trimmed (s.tagAt w v.d r c)

/-- A line of a view: index l along rows for A, along columns for B. -/
def State.lineOf (s : State) (w : Who) (v : View) (untrim : Nat → Nat → Bool) (l : Nat) : Line :=
  let k := if v.d.kmajor then v.rows else v.cols
  let cell (i : Nat) : Nat × Nat := if v.d.kmajor then (v.row0 + i, v.col0 + l) else (v.row0 + l, v.col0 + i)
  { vals := (List.range k).map fun i =>
      s.operandVal w v (s.presented w v untrim (cell i).1 (cell i).2) (cell i).1 (cell i).2
    exps := (List.range (k / 32)).map fun g => if (bfqM v.d.fmt).isSome then s.expAt w v.d (cell (32 * g)).1 (cell (32 * g)).2 else 0
    scales := (List.range (k / 128)).map fun g => (s.scaleOf w v.d (cell (128 * g)).1 (cell (128 * g)).2).1 }

/-- Where the first byte of the block that holds an element stands: its trim tag is held there (R126). -/
def State.blkStart (s : State) (w : Who) (d : Desc) (r c : Nat) : Option PLoc :=
  if d.loc = 1 then (s.spadLoc w.b (d.base + d.blkOff (d.blkIndex r c))).bind id else none

/-- What the copy that feeds a view leaves untrimmed: every block whose tag it does not take from its source (R262), be it
through another descriptor of the same bytes. -/
def State.untrim (s : State) (w : Who) (t : Task) (v : View) (stream : Option (Nat × Nat)) (r c : Nat) : Bool :=
  match stream with
  | none => false
  | some (ch, n) =>
    !t.copies.any fun (k, m, hd, hs) =>
      let j : TileJob := ⟨View.of hd, View.of hs⟩
      k == ch && m == n && j.hd.d.loc == 1 && j.hd.d.stored == v.d.stored && j.blocks.any fun x =>
        j.touches x.1 x.2 && j.whole x.1 x.2 && (s.blkStart w v.d r c).isSome
          && s.blkStart w j.hd.d x.1 x.2 == s.blkStart w v.d r c

/-! Updates (R91 to R95). -/

/-- The slab partials of two lines: exact sums over 128 values. -/
def dot (a b : List Int) : Int := ((List.zip a b).map fun x => x.1 * x.2).sum

/-- Part i of a list cut into pieces of n. -/
def piece {α : Type} (l : List α) (n i : Nat) : List α := (l.drop (n * i)).take n

/-- One FP32 addition of the array: a NaN gives NaN, and raises nothing here (R94, R95). -/
def accAdd (acc t : Nat) : Nat × FFlags :=
  if (fp32.val acc).isNan || (fp32.val t).isNan then (fp32.qnan, 0) else fp32.add .rne acc t

/-- t of R92: the rounded product of an exact partial and two scales. A product that a zero scale makes zero is +0 (log
entry 32). -/
def pmaScaled (p : Int) (sa sb : Nat) : Nat × FFlags :=
  let a := fp32.val sa
  let b := fp32.val sb
  let x : FV := if p = 0 then .zero false else .fin (p < 0) p.natAbs 0
  if a.isNan || b.isNan || infZero a b then (fp32.qnan, flagNV)
  else
    let ab := mulFV a b
    if infZero ab x then (fp32.qnan, flagNV)
    else match mulFV ab x with
    | .zero _ => (0, 0)
    | v => fp32.ofFV .rne v

/-- g[j] of R93. -/
def groupVal (ma mb ea eb : Nat) (q : Int) : Nat × FFlags :=
  if ea = 255 || eb = 255 then (fp32.qnan, flagNV)
  else fp32.roundInt .rne q ((ea : Int) + eb - 254 - ma - mb) false

/-- S of R93 from the four groups of a slab. -/
def slabBfq (ma mb : Nat) (a b : Line) (k : Nat) : Nat × FFlags :=
  let g (j : Nat) : Nat × FFlags :=
    groupVal ma mb (a.exps.getD (4 * k + j) 0) (b.exps.getD (4 * k + j) 0) (dot (piece a.vals 32 (4 * k + j)) (piece b.vals 32 (4 * k + j)))
  let (x, f) := fp32.add .rne (g 0).1 (g 1).1
  let (y, h) := fp32.add .rne (g 2).1 (g 3).1
  let (z, e) := fp32.add .rne x y
  (z, (g 0).2 ||| (g 1).2 ||| (g 2).2 ||| (g 3).2 ||| f ||| h ||| e)

/-- An accumulator element after one slab, its overflow and flags (R91 to R93). -/
def slabStep (mode : AccMode) (bfq : Option (Nat × Nat)) (a b : Line) (x : Nat × Bool × FFlags) (k : Nat) : Nat × Bool × FFlags :=
  let (acc, ovf, fl) := x
  let p := dot (piece a.vals 128 k) (piece b.vals 128 k)
  let ints (n : Nat) : Nat × Bool × FFlags :=
    let y := asInt n acc + p
    (ofInt n y, ovf || y < -(2 ^ (n - 1) : Nat) || (2 ^ (n - 1) : Nat) ≤ y, fl)
  match mode, bfq with
  | .int32, _ => ints 32
  | .int64, _ => ints 64
  | .fp32, some (ma, mb) =>
    let (t, f) := slabBfq ma mb a b k
    let (r, g) := accAdd acc t
    (r, ovf, fl ||| f ||| g)
  | .fp32, none =>
    let (t, f) := pmaScaled p (a.scales.getD k 0x3F800000) (b.scales.getD k 0x3F800000)
    let (r, g) := accAdd acc t
    (r, ovf, fl ||| f ||| g)

/-- acc := acc + A × B (R260): overflow and flags of the whole instruction. -/
def State.multiply (s : State) (uid acc : Nat) (mode : AccMode) (bfq : Option (Nat × Nat)) (as bs : List Line) : State × Bool × FFlags :=
  (List.zip (List.range as.length) as).foldl (fun (st : State × Bool × FFlags) (i, a) =>
    let (s, ovf, fl) := st
    let slabs := List.range (a.vals.length / 128)
    let row := (List.zip (List.range bs.length) bs).map fun (j, b) =>
      slabs.foldl (slabStep mode bfq a b) (s.accElem uid acc mode i j, false, 0)
    (s.setAccRow uid acc mode i (row.map (·.1)), row.foldl (fun o x => o || x.2.1) ovf, row.foldl (fun f x => f ||| x.2.2) fl))
    (s, false, 0)

/-! The down-converter (R96, R97). -/

/-- x × c exactly: none for a NaN. -/
def convProd (x c : FV) : Option FV := if x.isNan || c.isNan || infZero x c then none else some (mulFV x c)

/-- An accumulator element as a value. -/
def accVal (mode : AccMode) (x : Nat) : FV :=
  let int (n : Nat) : FV := let y := asInt n x; if y = 0 then .zero false else .fin (y < 0) y.natAbs 0
  match mode with
  | .fp32 => fp32.val x
  | .int32 => int 32
  | .int64 => int 64

/-- R96: the stored integer and flags, for an integer format of w bits and zero point z. -/
def convInt (fmt w : Nat) (z : Int) (v : Option FV) : Int × FFlags :=
  let zp : Int := if fmt = 2 then z else 0
  let lo : Int := if fmt = 0 then -(2 ^ (w - 1) : Nat) else 0
  let hi : Int := if fmt = 0 then (2 ^ (w - 1) : Nat) - 1 else (2 ^ w : Nat) - 1
  match v with
  | none => (zp, flagNV)
  | some (.inf n) => (if n then lo else hi, flagOF)
  | some v =>
    let (k, ix) := v.toIntRm .rne
    let q := k + zp
    if q < lo then (lo, flagOF) else if hi < q then (hi, flagOF) else (q, flagIf flagNX ix)

/-- The magnitude of a value in quanta of 2^q, rounded to even, and whether that is inexact. -/
def inQuanta (v : FV) (q : Int) : Nat × Bool :=
  match v with
  | .fin _ m e => roundTo .rne false m e q false
  | _ => (0, false)

/-- ⌊log₂ |v|⌋ of a nonzero finite value. -/
def topOf : FV → Option Int
  | .fin _ m e => some ((Nat.log2 m : Int) + e)
  | _ => none

/-- One element of R97 steps 3 to 5: its pattern (M, sign, range), whether inexact, whether lost. -/
def convElem (m : Nat) (q0 : Int) (v : FV) : Nat × Bool × Bool :=
  let top := 2 ^ m - 1
  match v with
  | .inf n => (top + 2 ^ m * n.toNat + 2 ^ (m + 1), false, false)
  | .fin n .. =>
    let (k, ix) := inQuanta v q0
    if k ≤ top then (k + 2 ^ m * (n && k != 0).toNat, ix, k == 0)
    else
      let (j, jx) := inQuanta v (q0 + 2)
      let mag := min j top
      (mag + 2 ^ m * (n && mag != 0).toNat + 2 ^ (m + 1), jx || top < j, mag == 0)
  | _ => (0, false, false)

/-- R97 for a group: the exponent, the element patterns and the flags. -/
def convGroup (m : Nat) (vs : List (Option FV)) : Nat × List Nat × FFlags :=
  if vs.contains none then (255, vs.map fun _ => 0, flagNV)
  else
    let xs := vs.filterMap id
    let infs := xs.any fun v => match v with
      | .inf _ => true
      | _ => false
    let e? := (xs.filterMap topOf).foldl (fun acc t => match acc with
      | none => some t
      | some u => some (max u t)) (none : Option Int)
    let (e, over') : Nat × Bool := match infs, e? with
      | true, _ => (254, true)
      | false, none => (0, false)
      | false, some t => if 254 < t + 126 then (254, true) else ((t + 126).toNat, false)
    let q0 : Int := (e : Int) - 127 - m
    let rs := xs.map (convElem m q0)
    (e, rs.map (·.1), flagIf flagOF over' ||| flagIf flagNX (rs.any (·.2.1)) ||| flagIf flagUF (e == 0 && rs.any (·.2.2)))

/-- MMAC's A (R263): the converted lines, the planes each block of 64 rows presents (trimmed, full) and the flags. -/
def State.mmacA (s : State) (uid src : Nat) (t : Task) (fmt w : Nat) (c sa : Nat) (z : Nat) (trim : Bool) :
    List Line × List (Nat × Nat) × FFlags :=
  let mode := t.modeOf src
  let zz := z % 2 ^ w
  let cv := fp32.val c
  let vs := (List.range 128).map fun i => (List.range 128).map fun k => convProd (accVal mode (s.accElem uid src mode i k)) cv
  let full := arrayOf fmt (w - 1)
  match bfqM fmt with
  | some m =>
    let rows := vs.map fun r => (List.range 4).map fun g => convGroup m (piece r 32 g)
    let val (x : Nat) : Int :=
      let mag := x % 2 ^ m * if x.testBit (m + 1) then 4 else 1
      if x.testBit m then -(mag : Int) else mag
    let lines := rows.map fun gs => (⟨gs.flatMap fun g => g.2.1.map val, gs.map (·.1), []⟩ : Line)
    let need (b : Nat) : Nat := ((piece rows 64 b).flatMap fun gs => gs.flatMap fun g => g.2.1.map (trimNeedBfq m)).foldl max 1
    (lines, (List.range 2).map fun b => (if trim then min full (need b) else full, full),
      rows.foldl (fun f gs => gs.foldl (fun f g => f ||| g.2.2) f) 0)
  | none =>
    let rows := vs.map fun r => r.map (convInt fmt w zz)
    let sub : Int := if fmt = 2 then zz else 0
    let lines := rows.map fun r => (⟨r.map fun x => x.1 - sub, [], [sa]⟩ : Line)
    let need (b : Nat) : Nat := ((piece rows 64 b).flatMap fun r => r.map fun x => trimNeed fmt w (ofInt w x.1) zz).foldl max 1
    (lines, (List.range 2).map fun b => (if trim then min full (need b) else full, full),
      rows.foldl (fun f r => r.foldl (fun f x => f ||| x.2) f) 0)

/-! Writing planes (R264, R266). -/

/-- Replace the bits of one plane byte that columns hold: bits lists (column mod 8, bit). -/
def State.putBits (s : State) (w : Who) (d : Desc) (x : TLoc) (bits : List (Nat × Bool)) : State :=
  match s.tAt w d x .write with
  | .ok l pte => s.homeApply l (leBytes 1 (bits.foldl (fun v b => hput v b.1 1 b.2.toNat) (leNat (s.homeRead l 1)))) pte
  | _ => s

/-- Write the patterns of consecutive elements of a row, every stored plane. -/
def State.putRow (s : State) (w : Who) (d : Desc) (r c : Nat) (pats : List Nat) : State :=
  let cells := List.zip ((List.range pats.length).map fun i => c + i) pats
  (List.range d.stored).foldl (fun s p =>
    (List.range ((c + pats.length - 1) / 8 + 1 - c / 8)).foldl (fun s i =>
      let b := c / 8 + i
      let here := cells.filter fun x => x.1 / 8 == b
      s.putBits w d (d.planeAt r (8 * b) p) (here.map fun x => (x.1 % 8, x.2.testBit p))) s) s

/-- Poisoned words of a scratchpad KiB that a write of whole bytes covered are clean again (R393): every byte of a word
in which all eight bytes hold only written columns. -/
def State.cleanRow (s : State) (w : Who) (d : Desc) (r c n : Nat) : State :=
  if s.badSpad.isEmpty then s
  else
    (List.range d.stored).foldl (fun s p =>
      (List.range (n / 64 + 2)).foldl (fun s i =>
        let c0 := (c / 64 + i) * 64
        if c ≤ c0 && c0 + 64 ≤ c + n then
          match s.tAt w d (d.planeAt r c0 p) .write with
          | .ok l _ => s.setBad l.sp ((s.bad l.sp).filter fun x => x != l.a / 8)
          | _ => s
        else s) s) s

/-- The tags of the blocks of a view written whole or in part with every stored plane (R128). -/
def State.retagView (s : State) (w : Who) (v : View) : State :=
  (v.d.blocksOf v.row0 v.col0 v.rows v.cols).foldl (fun s (r, c) =>
    let whole := v.row0 ≤ r && v.col0 ≤ c && min (r + v.d.blkRows) v.d.rows ≤ v.row0 + v.rows
      && min (c + v.d.blkCols) v.d.cols ≤ v.col0 + v.cols
    s.retagWritten w v.d r c (s.tagAt w v.d r c) whole) s

/-- Write one byte of a scratchpad tensor. -/
def State.putByte (s : State) (w : Who) (d : Desc) (x : TLoc) (v : Nat) : State :=
  match s.tAt w d x .write with
  | .ok l pte => s.homeApply l (leBytes 1 v) pte
  | _ => s

/-- MCVT's writes (R264): the state and the flags. -/
def State.mcvt (s : State) (w : Who) (t : Task) (v : View) (acc c : Nat) : State × FFlags :=
  let mode := t.modeOf acc
  let cv := fp32.val c
  let x (i j : Nat) : Option FV := convProd (accVal mode (s.accElem t.uid acc mode i j)) cv
  match bfqM v.d.fmt with
  | none =>
    let rows := (List.range v.rows).map fun i => (List.range v.cols).map fun j =>
      let z := if v.d.fmt = 2 then (s.scaleOf w v.d (v.row0 + i) (v.col0 + j)).2 else 0
      convInt v.d.fmt v.d.w z (x i j)
    let s := (List.zip (List.range v.rows) rows).foldl (fun s (i, r) =>
      (s.putRow w v.d (v.row0 + i) v.col0 (r.map fun y => ofInt v.d.w y.1)).cleanRow w v.d (v.row0 + i) v.col0 v.cols) s
    (s.retagView w v, rows.foldl (fun f r => r.foldl (fun f y => f ||| y.2) f) 0)
  | some m =>
    let lines := if v.d.kmajor then v.cols else v.rows
    let k := if v.d.kmajor then v.rows else v.cols
    let at' (l i : Nat) : Option FV := if v.d.kmajor then x i l else x l i
    let gs := (List.range lines).map fun l => (List.range (k / 32)).map fun g =>
      convGroup m ((List.range 32).map fun i => at' l (32 * g + i))
    let pat (i j : Nat) : Nat :=
      let (l, n) := if v.d.kmajor then (j, i) else (i, j)
      (((gs.getD l []).getD (n / 32) (0, [], 0)).2.1).getD (n % 32) 0
    let s := (List.range v.rows).foldl (fun s i =>
      (s.putRow w v.d (v.row0 + i) v.col0 ((List.range v.cols).map (pat i))).cleanRow w v.d (v.row0 + i) v.col0 v.cols) s
    let s := (List.zip (List.range lines) gs).foldl (fun s (l, gl) =>
      (List.zip (List.range gl.length) gl).foldl (fun s (g, y) =>
        let (r, c) := if v.d.kmajor then (v.row0 + 32 * g, v.col0 + l) else (v.row0 + l, v.col0 + 32 * g)
        s.putByte w v.d (v.d.sideAt r c) y.1) s) s
    (s.retagView w v, gs.foldl (fun f gl => gl.foldl (fun f y => f ||| y.2.2) f) 0)

/-! Poison (R268, R393). -/

/-- The stored planes an array plane is formed from (R262); the side plane stands after the others. -/
def Desc.formedOf (d : Desc) (q : Nat) : List Nat :=
  match bfqM d.fmt with
  | some m => (if q < m then [q] else []) ++ (if 2 ≤ q && q - 2 < m then [q - 2] else []) ++ [m, m + 1, m + 2]
  | none => if d.fmt = 2 then List.range (min q (d.w - 1) + 1) else [q]

/-- The stored planes read of a block that presents n array planes (R129). -/
def View.reads (v : View) (n : Nat) : List Nat :=
  if v.d.fmt < 2 then (List.range n).map fun i => v.lo + i
  else ((List.range n).flatMap v.d.formedOf).dedup.filter fun p => p < v.d.stored

/-- Whether a byte read of an operand view cannot be read: its planes up to those its tags trim away, its exponents, its scale
entries (R129, R268). -/
def State.viewPoison (s : State) (w : Who) (v : View) (mode : AccMode) (untrim : Nat → Nat → Bool) : Bool :=
  v.cells.any (fun (r, c) => (v.reads (s.presented w v untrim r c)).any (fun p => s.tPoison w v.d (v.d.planeAt r c p) 1)
    || ((bfqM v.d.fmt).isSome && s.tPoison w v.d (v.d.sideAt r c) 1))
  || (v.readsScales mode && v.scaleCells.any fun x => match v.d.scaleAddr x.1 x.2 with
    | some a => (s.flatPoison w.q w.b 0 a 8).isSome
    | none => false)

/-- Whether the first rows and columns of an accumulator cannot be read. -/
def State.accPoison (s : State) (uid acc : Nat) (mode : AccMode) (rows cols : Nat) : Bool :=
  (List.range rows).any fun i => s.poisoned (accAt uid acc (512 * i)) (4 * cols)
    || (mode == .int64 && s.poisoned (accAt uid (acc + 1) (512 * i)) (4 * cols))

/-! Steps and cycles (R257, R260 to R262). -/

/-- The stream of an instruction: the copy's channel and number. -/
def PmaKind.copyOf : PmaKind → Option (Nat × Nat)
  | .mma _ _ _ _ (some (_, ch, n)) => some (ch.toNat, n)
  | .mmac _ _ _ _ (some (ch, n)) .. => some (ch.toNat, n)
  | _ => none

/-- Whether the streamed operand is B. -/
def PmaKind.streamsB : PmaKind → Bool
  | .mma _ _ _ _ (some (b, _)) => b
  | _ => true

/-- Planes of the operand blocks: for A, by 64-row block then slab; for B, by slab then 64-column block; each (trimmed,
full). -/
structure Plan where
  a : List (List (Nat × Nat))
  b : List (List (Nat × Nat))
  deriving DecidableEq, Repr

/-- Planes of a view's blocks, in ascending index order, grouped by block row. -/
def State.blockPlanes (s : State) (w : Who) (v : View) (untrim : Nat → Nat → Bool) : List (List (Nat × Nat)) :=
  (List.range (v.rows / v.d.blkRows)).map fun i => (List.range (v.cols / v.d.blkCols)).map fun j =>
    (s.presented w v untrim (v.row0 + i * v.d.blkRows) (v.col0 + j * v.d.blkCols), v.planes)

/-- The plan of an instruction as its blocks stand, its accumulator in its mode. -/
def State.planIn (s : State) (w : Who) (t : Task) (k : PmaKind) : Plan :=
  match k with
  | .mma _ a b _ _ =>
    let va := View.of a
    let vb := View.of b
    ⟨s.blockPlanes w va (s.untrim w t va (if k.streamsB then none else k.copyOf)),
      s.blockPlanes w vb (s.untrim w t vb (if k.streamsB then k.copyOf else none))⟩
  | .mmac _ src _ b _ trim fmt wd c sa z =>
    let vb := View.of b
    ⟨((s.mmacA t.uid src t fmt wd c.toNat sa.toNat z trim).2.1).map fun x => [x],
      s.blockPlanes w vb (s.untrim w t vb k.copyOf)⟩
  | _ => ⟨[], []⟩

/-- Σ over A blocks, B blocks and slabs of the products of their planes (R260). -/
def Plan.sum (p : Plan) (pa pb : Nat × Nat → Nat) : Nat :=
  (p.a.map fun row => ((List.zip row p.b).map fun (x, bs) => (bs.map fun y => pa x * pb y).sum).sum).sum

/-- Steps, and what trimming saved. -/
def Plan.steps (p : Plan) : Nat := p.sum (·.1) (·.1)
def Plan.saved (p : Plan) : Nat := p.sum (·.2) (·.2) - p.steps

/-- The steps counted for power tokens: a streamed operand untrimmed (R261). -/
def Plan.charged (p : Plan) (k : PmaKind) : Nat :=
  match k.copyOf with
  | none => p.steps
  | some _ => if k.streamsB then p.sum (·.1) (·.2) else p.sum (·.2) (·.1)

/-- The fixed part of an instruction's cycles (R257). -/
def PmaKind.fixed : PmaKind → Nat
  | .mzero .. => 14
  | .mma .. => 14
  | .mmac .. => 142
  | .mcvt h .. => 14 + 2 * (View.of h).rows
  | .madda .. => 142
  | .ptrim h =>
    let v := View.of h
    if v.d.loc != 1 then 0
    else if v.d.isElem then 14
    else 14 + ((v.d.blocksOf v.row0 v.col0 v.rows v.cols).filter fun x => v.d.has x.1 x.2).length * v.d.stored
  | .pxpose h .. => let v := View.of h; 14 + 2 * v.rows * cdiv v.cols 128

/-- The view of a streamed operand. -/
def PmaKind.streamView (k : PmaKind) : Option View :=
  match k, k.copyOf with
  | .mma _ a b _ _, some _ => some (View.of (if k.streamsB then b else a))
  | .mmac _ _ _ b .., some _ => some (View.of b)
  | _, _ => none

/-- The plane and block groups of a streamed operand in step order: array plane, block row, block column (R262). -/
def View.groups (v : View) : List (Nat × Nat × Nat) :=
  let top := if v.d.fmt < 2 then v.hi else v.planes - 1
  let low := if v.d.fmt < 2 then v.lo else 0
  (List.range (top + 1 - low)).flatMap fun i =>
    (List.range (v.rows / v.d.blkRows)).flatMap fun r => (List.range (v.cols / v.d.blkCols)).map fun c => (top - i, r, c)

/-- Whether the copy that feeds a view has delivered what an array plane of a block is formed from (R262). -/
def State.planeFed (s : State) (w : Who) (v : View) (copy : Nat × Nat) (q r c : Nat) : Bool :=
  let off := v.d.blkOff (v.d.blkIndex (v.row0 + r * v.d.blkRows) (v.col0 + c * v.d.blkCols))
  (v.d.formedOf q).all fun p =>
    match s.spadLoc w.b (v.d.base + off + 1024 * p) with
    | some (some l) => s.fedKiB w.uid copy.1 copy.2 (l.a / 1024)
    | _ => true

/-! Start. -/

/-- The mode change an instruction makes (R259); one that fails makes none (R268). -/
def State.startMode (s : State) (o : PmaOp) : State :=
  match o.kind with
  | .mma mode _ _ acc _ => s.needMode o.uid acc mode
  | .mmac mode _ acc .. => s.needMode o.uid acc mode
  | _ => s

/-- The plan of an instruction. -/
def State.planOf (s : State) (w : Who) (o : PmaOp) : Plan :=
  match (s.startMode o).task? o.uid with
  | some t => (s.startMode o).planIn w t o.kind
  | none => ⟨[], []⟩

/-- Whether the writes an instruction must see have performed at .brick: every store-class access and vector store of its own
and older blocks of its context (R258). -/
def State.pmaSees (s : State) (o : PmaOp) : Bool :=
  s.writes.all fun w => w.uid != o.uid || o.ord < w.ord || w.cmd != 0 || w.performedAt .brick

/-- Take tokens: from the context's held ones while it is bound, then from the bucket (R261); none where there are too few. -/
def State.takeTokens (s : State) (b : Nat) (o : PmaOp) (n : Nat) : Option State :=
  let bound := (s.ctx o.ctx).uid == o.uid
  let held := if bound then (s.ctx o.ctx).held else 0
  let fromHeld := min held n
  let rest := 256 * (n - fromHeld)
  if rest ≤ (s.brick b).bucket then
    let s := if bound then s.modCtx o.ctx fun x => { x with held := x.held - fromHeld } else s
    some (s.modBrick b fun x => { x with bucket := x.bucket - rest })
  else none

/-- PMA_START (R257 to R261): the front of the queue starts once what it must see has performed and its tokens are there. -/
def execPmaStart (brick : Nat) (s : State) : Res :=
  let b := s.brick brick
  match b.run, b.pma with
  | none, o :: rest =>
    match s.task? o.uid with
    | none => .next (s.setBrick brick { b with pma := rest })
    | some t =>
      if !s.pmaSees o || s.cycle brick < o.since then .next s
      else
        let now := s.cycle brick
        let w : Who := ⟨t.part, brick, o.uid⟩
        let plan := s.planOf w o
        let isMul : Bool := match o.kind with
          | .mma .. | .mmac .. => true
          | _ => false
        let cost := if isMul then cdiv (o.kind.fixed + plan.charged o.kind) 4096 else 0
        match s.takeTokens brick o cost with
        | none => .next (if b.stallAt.isSome then s else s.setBrick brick { b with stallAt := some now })
        | some s' =>
          let stall := match b.stallAt with
            | some t0 => now - t0
            | none => 0
          let s' := if isMul && (s'.ctx o.ctx).uid == o.uid then s'.modCtx o.ctx fun x =>
              { x with mxstall := x.mxstall + BitVec.ofNat 64 stall, mxissue := x.mxissue + 1 } else s'
          let streamed := o.kind.copyOf.isSome
          let run : PmaRun :=
            { op := o, freeAt := now + o.kind.fixed + (if streamed then 0 else plan.steps), w := 0, idx := 0 }
          .next (s'.modBrick brick fun x => { x with pma := rest, run := some run, stallAt := none })
  | _, _ => .next s

/-! Streaming. -/

/-- The steps of one group: the partner blocks' planes (R260). -/
def Plan.groupSteps (p : Plan) (streamsB : Bool) (r c : Nat) : Nat :=
  if streamsB then (p.a.map fun row => (row.getD r (0, 0)).1).sum
  else ((p.b.getD c []).map (·.1)).sum

/-- Planes the streamed block presents. -/
def Plan.streamPlanes (p : Plan) (streamsB : Bool) (r c : Nat) : Nat :=
  (((if streamsB then p.b else p.a).getD r []).getD c (0, 0)).1

/-- Whether the tag that a streamed block is read with stands (R262): it is read untrimmed, or its copy has written the tag. -/
def State.tagStands (s : State) (w : Who) (t : Task) (v : View) (copy : Nat × Nat) (r c : Nat) : Bool :=
  let r0 := v.row0 + r * v.d.blkRows
  let c0 := v.col0 + c * v.d.blkCols
  s.untrim w t v (some copy) r0 c0 || s.openedBlk w.uid copy.1 copy.2 ((List.range v.d.blkKiB).filterMap fun p =>
    match s.spadLoc w.b (v.d.base + v.d.blkOff (v.d.blkIndex r0 c0) + 1024 * p) with
    | some (some l) => some (l.a / 1024)
    | _ => none)

/-- MMA_STREAM_STEP (R262): the next group of the streamed operand: its steps, once its planes have arrived; nothing where
its block's tag trims the plane away. -/
def execMmaStreamStep (brick : Nat) (s : State) : Res :=
  match (s.brick brick).run with
  | none => .next s
  | some r =>
    match r.op.kind.streamView, r.op.kind.copyOf, s.task? r.op.uid with
    | some v, some copy, some t =>
      let w : Who := ⟨t.part, brick, r.op.uid⟩
      match v.groups[r.idx]? with
      | none => .next s
      | some (q, i, j) =>
        if !s.tagStands w t v copy i j then .next s
        else
          let sb := r.op.kind.streamsB
          let plan := s.planOf w r.op
          let top := plan.streamPlanes sb i j + (if v.d.fmt < 2 then v.lo else 0)
          let now := s.cycle brick
          if top ≤ q then .next (s.modBrick brick fun b => { b with run := some { r with idx := r.idx + 1 } })
          else if s.planeFed w v copy q i j then
            let n := plan.groupSteps sb i j
            .next (s.modBrick brick fun b => { b with run := some { r with
              idx := r.idx + 1, w := r.w + (now - r.freeAt), freeAt := max now r.freeAt + n } })
          else .next s
    | _, _, _ => .next s

/-! Completion. -/

/-- How an instruction ends. -/
inductive PmaEnd
  | ok (s : State) (fl : FFlags)
  | fail (cause : Nat)

/-- The fields of a pair of operand views' magnitude widths. -/
def bfqPair (fa fb : Nat) : Option (Nat × Nat) :=
  match bfqM fa, bfqM fb with
  | some a, some b => some (a, b)
  | _, _ => none

/-- Set the overflow bit where an instruction overflowed (R91). -/
def State.noteOvf (s : State) (uid acc : Nat) (o : Bool) : State := if o then s.modTask uid fun t => t.setOvf acc true else s

/-- PXPOSE's array element (R266), and whether it cannot be read. -/
def State.pxRead (s : State) (w : Who) (a n : Nat) : Nat × Bool :=
  match s.readFlat w.q w.b 0 a n, s.flatPoison w.q w.b 0 a n with
  | some bs, none => (leNat bs, false)
  | _, _ => (0, true)

/-- The work of an instruction (R259 to R266). An integer mode raises no flag (R95). -/
def State.pmaWork (s : State) (w : Who) (t : Task) (o : PmaOp) : PmaEnd :=
  match o.kind with
  | .mzero mode acc => .ok (s.enterMode o.uid acc mode) 0
  | .mma mode a b acc _ =>
    let va := View.of a
    let vb := View.of b
    let ua := s.untrim w t va (if o.kind.streamsB then none else o.kind.copyOf)
    let ub := s.untrim w t vb (if o.kind.streamsB then o.kind.copyOf else none)
    let s := s.startMode o
    if s.viewPoison w va mode ua || s.viewPoison w vb mode ub || s.accPoison o.uid acc mode va.rows vb.cols then .fail 0x0F
    else
      let as := (List.range va.rows).map (s.lineOf w va ua)
      let bs := (List.range vb.cols).map (s.lineOf w vb ub)
      let (s, ovf, fl) := s.multiply o.uid acc mode (bfqPair va.d.fmt vb.d.fmt) as bs
      .ok (s.noteOvf o.uid acc ovf) fl
  | .mmac mode src acc b _ trim fmt wd c sa z =>
    let vb := View.of b
    let ub := s.untrim w t vb o.kind.copyOf
    let s := s.startMode o
    let t := (s.task? o.uid).getD t
    if s.viewPoison w vb mode ub || s.accPoison o.uid acc mode 128 vb.cols || s.accPoison o.uid src (t.modeOf src) 128 128 then
      .fail 0x0F
    else
      let (as, _, f) := s.mmacA o.uid src t fmt wd c.toNat sa.toNat z trim
      let bs := (List.range vb.cols).map (s.lineOf w vb ub)
      let (s, ovf, fl) := s.multiply o.uid acc mode (bfqPair fmt vb.d.fmt) as bs
      .ok (s.noteOvf o.uid acc ovf) (if mode = .fp32 then f ||| fl else 0)
  | .mcvt h acc c =>
    let v := View.of h
    if s.accPoison o.uid acc (t.modeOf acc) v.rows v.cols || (v.d.fmt == 2 && v.cells.any fun x => match v.d.scaleAddr x.1 x.2 with
        | some a => (s.flatPoison w.q w.b 0 a 8).isSome
        | none => false) then .fail 0x0F
    else let (s, fl) := s.mcvt w t v acc c.toNat; .ok s fl
  | .madda src acc =>
    let mode := t.modeOf acc
    if t.modeOf src != mode then .fail 0x10
    else if s.accPoison o.uid acc mode 128 128 || s.accPoison o.uid src mode 128 128 then .fail 0x0F
    else
      let step (x y : Nat) : Nat × Bool × FFlags := match mode with
        | .fp32 => let (r, f) := accAdd x y; (r, false, f)
        | .int32 => let z := asInt 32 x + asInt 32 y; (ofInt 32 z, z < -(2 ^ 31 : Nat) || (2 ^ 31 : Nat) ≤ z, 0)
        | .int64 => let z := asInt 64 x + asInt 64 y; (ofInt 64 z, z < -(2 ^ 63 : Nat) || (2 ^ 63 : Nat) ≤ z, 0)
      let (s, ovf, fl) := (List.range 128).foldl (fun (st : State × Bool × FFlags) i =>
        let (s, ovf, fl) := st
        let row := (List.range 128).map fun j => step (s.accElem o.uid acc mode i j) (s.accElem o.uid src mode i j)
        (s.setAccRow o.uid acc mode i (row.map (·.1)), row.foldl (fun a x => a || x.2.1) ovf, row.foldl (fun a x => a ||| x.2.2) fl))
        (s, false, 0)
      .ok (s.noteOvf o.uid acc ovf) fl
  | .ptrim h =>
    let v := View.of h
    if v.d.isElem then .ok s 0
    else .ok ((v.d.blocksOf v.row0 v.col0 v.rows v.cols).foldl (fun s x => if v.d.has x.1 x.2 then s.retag w v.d x.1 x.2 else s) s) 0
  | .pxpose h e unpack base pitch =>
    let v := View.of h
    if unpack then
      let bad := v.cells.any fun (r, c) => (List.range v.d.stored).any fun p => s.tPoison w v.d (v.d.planeAt r c p) 1
      if bad then .fail 0x0F
      else
        let (id, s) := s.newId
        .ok ((List.range v.rows).foldl (fun s i =>
          let bs := (List.range v.cols).flatMap fun j =>
            let x := s.patAt w v.d (v.row0 + i) (v.col0 + j) 0 (v.d.stored - 1)
            leBytes e (if v.d.fmt = 0 then ofInt (8 * e) (asInt v.d.w x) else x)
          ((piecesOf (pxAddr base pitch e i 0).toNat bs.length).foldl (fun (y : State × List Byte) p =>
            (match y.1.flatLoc w.q w.b p.1 .write with
              | some l =>
                if l.sp != .dram then y.1.writeNow l (y.2.take p.2) (y.1.flatPte w.q w.b p.1 .write)
                else
                  let (wid, s) := y.1.newId
                  s.enterCache { id := wid, uid := o.uid, ord := o.ord, die := dieOfBrick w.b, brick := w.b, loc := l,
                                 bytes := y.2.take p.2, cached := true, cmd := id, rel := none, deps := [], flat := p.1,
                                 pte := y.1.flatPte w.q w.b p.1 .write, trk := o.trk, part := w.q, num := (7, o.num) }
              | none => y.1, y.2.drop p.2)) (s, bs)).1) s) 0
    else
      let rows := (List.range v.rows).map fun i => (List.range v.cols).map fun j => s.pxRead w (pxAddr base pitch e i j).toNat e
      if rows.any fun r => r.any (·.2) then .fail 0x0F
      else
        let s := (List.zip (List.range v.rows) rows).foldl (fun s (i, r) =>
          (s.putRow w v.d (v.row0 + i) v.col0 (r.map fun x => x.1 % 2 ^ v.d.w)).cleanRow w v.d (v.row0 + i) v.col0 v.cols) s
        .ok (s.retagView w v) 0

/-- A tl7 instruction fails (R268): the task ends by a fault, or only a record is written where it has ended already, and no further stamp or continuation. -/
def State.pmaFail (s : State) (t : Task) (o : PmaOp) (cause : Nat) : State × Nat :=
  let r : FaultRec := { cause := cause, source := 1, graph := t.graph, blk := o.blk, task := t.frame, ctxId := ctxIdOf o.ctx,
                        engine := 8, cmd := o.num }
  let s := s.graphError t.part t.graph
  if t.live then
    let (s, a) := s.report t.part { r with flags := 4 }
    let s := match t.phase with
      | .bound c => s.freeCtx c
      | _ => s.unqueue t.uid
    (s.modTask t.uid fun t => { t with phase := .ending none cause, saved := false }, a)
  else (s.modTask t.uid fun t => { t with mute := true }).report t.part r

/-- PMA_COMPLETE (R257, R268): the work is done, its flags reach the context, its number finishes. -/
def execPmaComplete (brick : Nat) (s : State) : Res :=
  match (s.brick brick).run with
  | none => .next s
  | some r =>
    let o := r.op
    match s.task? o.uid with
    | none => .next (s.modBrick brick fun b => { b with run := none })
    | some t =>
      let left := match o.kind.streamView with
        | some v => decide (r.idx < v.groups.length)
        | none => false
      if left || s.cycle brick < r.freeAt then .next s
      else
        let w : Who := ⟨t.part, brick, o.uid⟩
        let plan := s.planOf w o
        let now := s.cycle brick
        match s.pmaWork w t o with
        | .ok s fl =>
          let s := s.freeConflicts brick o.uid
          let s := s.modBrick brick fun b => { b with run := none }
          let s := if (s.ctx o.ctx).uid == o.uid then s.modCtx o.ctx fun x =>
              { x with fpmode := fpmodeOr x.fpmode fl, trimsave := x.trimsave + BitVec.ofNat 64 plan.saved,
                       pmaAt := (now, fpmodeOr (if x.pmaAt.1 = now then x.pmaAt.2 else 0) fl) } else s
          let s := match o.kind with
            | .mma .. | .mmac .. => s.modTask o.uid fun t => { t with mstat := (plan.steps, plan.saved, r.w) }
            | _ => s
          .next ((s.tlFinish o.uid 7 o.num none false).applyDrops o.uid)
        | .fail cause =>
          let s := s.modBrick brick fun b => { b with run := none }
          let (s, a) := s.pmaFail t o cause
          .next (((s.tlFinish o.uid 7 o.num (some a) false).sweepGraphs t.part).applyDrops o.uid)

end Sys2Proof.Machine
end

