-- ==== Sys2Proof/Machine/Dispatch.lean ====
section
/-!
DEFINITION. One arm per constructor of Instr, each one direct call of its meaning; an instruction without a meaning is
rejected by name.
-/

namespace Sys2Proof.Machine

/-- The meaning of an instruction or step. -/
def exec (i : Instr) (s : State) : Host.Outcome State Fault Refusal :=
  match i with
  | .gread r t1 t0 => Sys2Proof.Machine.execGread r t1 t0 s
  | .xread k r t1 t0 => Sys2Proof.Machine.execXread k r t1 t0 s
  | .gwrite pr r => Sys2Proof.Machine.execGwrite pr r s
  | .xwrite pr k r => Sys2Proof.Machine.execXwrite pr k r s
  | .mov pr t1 t0 => Sys2Proof.Machine.execMov pr t1 t0 s
  | .movl pr t3 t2 t1 t0 => Sys2Proof.Machine.execMovl pr t3 t2 t1 t0 s
  | .null pr t1 t0 => Sys2Proof.Machine.execNull pr t1 t0 s
  | .genc c t0 => Sys2Proof.Machine.execGenc c t0 s
  | .gencn c t0 => Sys2Proof.Machine.execGencn c t0 s
  | .appc c t0 => Sys2Proof.Machine.execAppc c t0 s
  | .gencl pr c t1 t0 => Sys2Proof.Machine.execGencl pr c t1 t0 s
  | .add pr w t1 t0 => Sys2Proof.Machine.execAdd pr w t1 t0 s
  | .sub pr w t1 t0 => Sys2Proof.Machine.execSub pr w t1 t0 s
  | .mul pr w t1 t0 => Sys2Proof.Machine.execMul pr w t1 t0 s
  | .mulh pr n w t1 t0 => Sys2Proof.Machine.execMulh pr n w t1 t0 s
  | .div pr n w t1 t0 => Sys2Proof.Machine.execDiv pr n w t1 t0 s
  | .rem pr n w t1 t0 => Sys2Proof.Machine.execRem pr n w t1 t0 s
  | .and pr w t1 t0 => Sys2Proof.Machine.execAnd pr w t1 t0 s
  | .or pr w t1 t0 => Sys2Proof.Machine.execOr pr w t1 t0 s
  | .xor pr w t1 t0 => Sys2Proof.Machine.execXor pr w t1 t0 s
  | .andn pr w t1 t0 => Sys2Proof.Machine.execAndn pr w t1 t0 s
  | .shl pr w t1 t0 => Sys2Proof.Machine.execShl pr w t1 t0 s
  | .shr pr w t1 t0 => Sys2Proof.Machine.execShr pr w t1 t0 s
  | .sar pr w t1 t0 => Sys2Proof.Machine.execSar pr w t1 t0 s
  | .rot pr w t1 t0 => Sys2Proof.Machine.execRot pr w t1 t0 s
  | .min pr n w t1 t0 => Sys2Proof.Machine.execMin pr n w t1 t0 s
  | .max pr n w t1 t0 => Sys2Proof.Machine.execMax pr n w t1 t0 s
  | .bits pr k w t1 t0 => Sys2Proof.Machine.execBits pr k w t1 t0 s
  | .ext pr sw n w t1 t0 => Sys2Proof.Machine.execExt pr sw n w t1 t0 s
  | .sel pr w t1 t0 => Sys2Proof.Machine.execSel pr w t1 t0 s
  | .madd pr w t1 t0 => Sys2Proof.Machine.execMadd pr w t1 t0 s
  | .addi pr w imm t0 => Sys2Proof.Machine.execAddi pr w imm t0 s
  | .muli pr w imm t0 => Sys2Proof.Machine.execMuli pr w imm t0 s
  | .andi pr w imm t0 => Sys2Proof.Machine.execAndi pr w imm t0 s
  | .ori pr w imm t0 => Sys2Proof.Machine.execOri pr w imm t0 s
  | .xori pr w imm t0 => Sys2Proof.Machine.execXori pr w imm t0 s
  | .shli pr w imm t0 => Sys2Proof.Machine.execShli pr w imm t0 s
  | .shri pr w imm t0 => Sys2Proof.Machine.execShri pr w imm t0 s
  | .sari pr w imm t0 => Sys2Proof.Machine.execSari pr w imm t0 s
  | .mini pr n w imm t0 => Sys2Proof.Machine.execMini pr n w imm t0 s
  | .maxi pr n w imm t0 => Sys2Proof.Machine.execMaxi pr n w imm t0 s
  | .tcmp pr c w t1 t0 => Sys2Proof.Machine.execTcmp pr c w t1 t0 s
  | .tcmpi pr c w imm t0 => Sys2Proof.Machine.execTcmpi pr c w imm t0 s
  | .fcmp pr c d t1 t0 => Sys2Proof.Machine.execFcmp pr c d t1 t0 s
  | .tbit pr clr t1 t0 => Sys2Proof.Machine.execTbit pr clr t1 t0 s
  | .fadd pr d rm t1 t0 => Sys2Proof.Machine.execFadd pr d rm t1 t0 s
  | .fsub pr d rm t1 t0 => Sys2Proof.Machine.execFsub pr d rm t1 t0 s
  | .fmul pr d rm t1 t0 => Sys2Proof.Machine.execFmul pr d rm t1 t0 s
  | .fdiv pr d rm t1 t0 => Sys2Proof.Machine.execFdiv pr d rm t1 t0 s
  | .fsqrt pr d rm t1 t0 => Sys2Proof.Machine.execFsqrt pr d rm t1 t0 s
  | .fma pr d rm t1 t0 => Sys2Proof.Machine.execFma pr d rm t1 t0 s
  | .fmin pr d t1 t0 => Sys2Proof.Machine.execFmin pr d t1 t0 s
  | .fmax pr d t1 t0 => Sys2Proof.Machine.execFmax pr d t1 t0 s
  | .fcvt pr code t1 t0 => Sys2Proof.Machine.execFcvt pr code t1 t0 s
  | .fclass pr d t1 t0 => Sys2Proof.Machine.execFclass pr d t1 t0 s
  | .fsgn pr d k t1 t0 => Sys2Proof.Machine.execFsgn pr d k t1 t0 s
  | .ldb pr ls imm t0 => Sys2Proof.Machine.execLdb pr ls imm t0 s
  | .ldbn pr ls imm t0 => Sys2Proof.Machine.execLdbn pr ls imm t0 s
  | .ldh pr ls imm t0 => Sys2Proof.Machine.execLdh pr ls imm t0 s
  | .ldhn pr ls imm t0 => Sys2Proof.Machine.execLdhn pr ls imm t0 s
  | .ldw pr ls imm t0 => Sys2Proof.Machine.execLdw pr ls imm t0 s
  | .ldwn pr ls imm t0 => Sys2Proof.Machine.execLdwn pr ls imm t0 s
  | .ldd pr ls imm t0 => Sys2Proof.Machine.execLdd pr ls imm t0 s
  | .lda pr ls sc d t0 => Sys2Proof.Machine.execLda pr ls sc d t0 s
  | .stb pr ls imm => Sys2Proof.Machine.execStb pr ls imm s
  | .sth pr ls imm => Sys2Proof.Machine.execSth pr ls imm s
  | .stw pr ls imm => Sys2Proof.Machine.execStw pr ls imm s
  | .std pr ls imm => Sys2Proof.Machine.execStd pr ls imm s
  | .stl pr ls sc d => Sys2Proof.Machine.execStl pr ls sc d s
  | .amo pr ls op d sc o t1 t0 => Sys2Proof.Machine.execAmo pr ls op d sc o t1 t0 s
  | .cas pr ls d sc o t1 t0 => Sys2Proof.Machine.execCas pr ls d sc o t1 t0 s
  | .famo pr ls op sc o t1 t0 => Sys2Proof.Machine.execFamo pr ls op sc o t1 t0 s
  | .fence pr sc k t1 t0 => Sys2Proof.Machine.execFence pr sc k t1 t0 s
  | .fencer pr sc k hm flat t1 t0 => Sys2Proof.Machine.execFencer pr sc k hm flat t1 t0 s
  | .fencerArm pr hm flat t1 t0 => Sys2Proof.Machine.execFencerArm pr hm flat t1 t0 s
  | .fencerDisarm pr hm flat t1 t0 => Sys2Proof.Machine.execFencerDisarm pr hm flat t1 t0 s
  | .fwait pr t1 t0 => Sys2Proof.Machine.execFwait pr t1 t0 s
  | .mwait pr sc c t1 t0 => Sys2Proof.Machine.execMwait pr sc c t1 t0 s
  | .pref pr ls imm => Sys2Proof.Machine.execPref pr ls imm s
  | .br pr e off => Sys2Proof.Machine.execBr pr e off s
  | .bri pr e => Sys2Proof.Machine.execBri pr e s
  | .callb pr e off => Sys2Proof.Machine.execCallb pr e off s
  | .retb pr e => Sys2Proof.Machine.execRetb pr e s
  | .tend pr e code => Sys2Proof.Machine.execTend pr e code s
  | .tendOp0 pr e => Sys2Proof.Machine.execTendOp0 pr e s
  | .yield pr e off => Sys2Proof.Machine.execYield pr e off s
  | .trap pr n => Sys2Proof.Machine.execTrap pr n s
  | .tspawn pr cont t1 t0 => Sys2Proof.Machine.execTspawn pr cont t1 t0 s
  | .tsend pr slot dec => Sys2Proof.Machine.execTsend pr slot dec s
  | .tsendh pr h slot => Sys2Proof.Machine.execTsendh pr h slot s
  | .tfork pr n t1 t0 => Sys2Proof.Machine.execTfork pr n t1 t0 s
  | .tself pr k t1 t0 => Sys2Proof.Machine.execTself pr k t1 t0 s
  | .tkill pr => Sys2Proof.Machine.execTkill pr s
  | .bara pr sc t1 t0 => Sys2Proof.Machine.execBara pr sc t1 t0 s
  | .barw pr sc t1 t0 => Sys2Proof.Machine.execBarw pr sc t1 t0 s
  | .qtkt pr t1 t0 => Sys2Proof.Machine.execQtkt pr t1 t0 s
  | .qfill pr => Sys2Proof.Machine.execQfill pr s
  | .qpop pr t1 t0 => Sys2Proof.Machine.execQpop pr t1 t0 s
  | .qpeek pr t1 t0 => Sys2Proof.Machine.execQpeek pr t1 t0 s
  | .qocc pr t1 t0 => Sys2Proof.Machine.execQocc pr t1 t0 s
  | .qinit pr lg => Sys2Proof.Machine.execQinit pr lg s
  | .vld pr ty m vd => Sys2Proof.Machine.execVld pr ty m vd s
  | .vlds pr ty m vd => Sys2Proof.Machine.execVlds pr ty m vd s
  | .vldx pr ty m vd vb => Sys2Proof.Machine.execVldx pr ty m vd vb s
  | .vst pr ty m va => Sys2Proof.Machine.execVst pr ty m va s
  | .vsts pr ty m va => Sys2Proof.Machine.execVsts pr ty m va s
  | .vstx pr ty m va vb => Sys2Proof.Machine.execVstx pr ty m va vb s
  | .vbcst pr ty m vd => Sys2Proof.Machine.execVbcst pr ty m vd s
  | .vmov pr ty m vd va => Sys2Proof.Machine.execVmov pr ty m vd va s
  | .vadd pr ty m vd va vb => Sys2Proof.Machine.execVadd pr ty m vd va vb s
  | .vsub pr ty m vd va vb => Sys2Proof.Machine.execVsub pr ty m vd va vb s
  | .vmul pr ty m vd va vb => Sys2Proof.Machine.execVmul pr ty m vd va vb s
  | .vfma pr ty m vd va vb => Sys2Proof.Machine.execVfma pr ty m vd va vb s
  | .vdiv pr ty m vd va vb => Sys2Proof.Machine.execVdiv pr ty m vd va vb s
  | .vmin pr ty m vd va vb => Sys2Proof.Machine.execVmin pr ty m vd va vb s
  | .vmax pr ty m vd va vb => Sys2Proof.Machine.execVmax pr ty m vd va vb s
  | .vabs pr ty m vd va => Sys2Proof.Machine.execVabs pr ty m vd va s
  | .vneg pr ty m vd va => Sys2Proof.Machine.execVneg pr ty m vd va s
  | .vand pr ty m vd va vb => Sys2Proof.Machine.execVand pr ty m vd va vb s
  | .vor pr ty m vd va vb => Sys2Proof.Machine.execVor pr ty m vd va vb s
  | .vxor pr ty m vd va vb => Sys2Proof.Machine.execVxor pr ty m vd va vb s
  | .vshl pr ty m vd va vb amt => Sys2Proof.Machine.execVshl pr ty m vd va vb amt s
  | .vshr pr ty m vd va vb amt => Sys2Proof.Machine.execVshr pr ty m vd va vb amt s
  | .vsar pr ty m vd va vb amt => Sys2Proof.Machine.execVsar pr ty m vd va vb amt s
  | .vcmp pr ty m md va vb c => Sys2Proof.Machine.execVcmp pr ty m md va vb c s
  | .vsel pr ty m vd va vb => Sys2Proof.Machine.execVsel pr ty m vd va vb s
  | .vcvt pr ty m vd va src part => Sys2Proof.Machine.execVcvt pr ty m vd va src part s
  | .vred pr ty m va op t1 t0 => Sys2Proof.Machine.execVred pr ty m va op t1 t0 s
  | .vscan pr ty m vd va op => Sys2Proof.Machine.execVscan pr ty m vd va op s
  | .vperm pr ty m vd va vb => Sys2Proof.Machine.execVperm pr ty m vd va vb s
  | .vrcp pr ty m vd va => Sys2Proof.Machine.execVrcp pr ty m vd va s
  | .vrsq pr ty m vd va => Sys2Proof.Machine.execVrsq pr ty m vd va s
  | .vexp2 pr ty m vd va => Sys2Proof.Machine.execVexp2 pr ty m vd va s
  | .vlog2 pr ty m vd va => Sys2Proof.Machine.execVlog2 pr ty m vd va s
  | .vsplt pr m vd va => Sys2Proof.Machine.execVsplt pr m vd va s
  | .vgetl pr ty va t1 t0 => Sys2Proof.Machine.execVgetl pr ty va t1 t0 s
  | .vsetl pr ty vd => Sys2Proof.Machine.execVsetl pr ty vd s
  | .mset pr k md ma mb t1 t0 => Sys2Proof.Machine.execMset pr k md ma mb t1 t0 s
  | .vplane pr ty m vd va unpack => Sys2Proof.Machine.execVplane pr ty m vd va unpack s
  | .vacrd pr ty m vd acc q => Sys2Proof.Machine.execVacrd pr ty m vd acc q s
  | .vacwr pr ty m va acc q => Sys2Proof.Machine.execVacwr pr ty m va acc q s
  | .hdef pr hd => Sys2Proof.Machine.execHdef pr hd s
  | .hset pr hd hs f => Sys2Proof.Machine.execHset pr hd hs f s
  | .hadv pr hd hs => Sys2Proof.Machine.execHadv pr hd hs s
  | .hget pr hs f t1 t0 => Sys2Proof.Machine.execHget pr hs f t1 t0 s
  | .mzero pr mode acc t1 t0 => Sys2Proof.Machine.execMzero pr mode acc t1 t0 s
  | .mma pr mode stream ha hb acc sideB chan t1 t0 => Sys2Proof.Machine.execMma pr mode stream ha hb acc sideB chan t1 t0 s
  | .mmac pr mode stream src hb acc chan trim fmt w t1 t0 => Sys2Proof.Machine.execMmac pr mode stream src hb acc chan trim fmt w t1 t0 s
  | .mcvt pr hd acc t1 t0 => Sys2Proof.Machine.execMcvt pr hd acc t1 t0 s
  | .madda pr src acc t1 t0 => Sys2Proof.Machine.execMadda pr src acc t1 t0 s
  | .ptrim pr h t1 t0 => Sys2Proof.Machine.execPtrim pr h t1 t0 s
  | .pxpose pr h e unpack t1 t0 => Sys2Proof.Machine.execPxpose pr h e unpack t1 t0 s
  | .mstat pr acc t1 t0 => Sys2Proof.Machine.execMstat pr acc t1 t0 s
  | .xcopy pr rel hd hs chan stamp t1 t0 => Sys2Proof.Machine.execXcopy pr rel hd hs chan stamp t1 t0 s
  | .xcopyf pr rel chan stamp t1 t0 => Sys2Proof.Machine.execXcopyf pr rel chan stamp t1 t0 s
  | .xchain pr rel chan t1 t0 => Sys2Proof.Machine.execXchain pr rel chan t1 t0 s
  | .xwptr pr chan t1 t0 => Sys2Proof.Machine.execXwptr pr chan t1 t0 s
  | .waitt pr sc trapErr tl t1 t0 => Sys2Proof.Machine.execWaitt pr sc trapErr tl t1 t0 s
  | .rdtl pr tl t1 t0 => Sys2Proof.Machine.execRdtl pr tl t1 t0 s
  | .xgath pr rel lg cnt t1 t0 => Sys2Proof.Machine.execXgath pr rel lg cnt t1 t0 s
  | .xscat pr rel lg cnt t1 t0 => Sys2Proof.Machine.execXscat pr rel lg cnt t1 t0 s
  | .xred pr rel t1 t0 => Sys2Proof.Machine.execXred pr rel t1 t0 s
  | .xired pr rel t1 t0 => Sys2Proof.Machine.execXired pr rel t1 t0 s
  | .xpkl pr rel t1 t0 => Sys2Proof.Machine.execXpkl pr rel t1 t0 s
  | .nput pr rel t1 t0 => Sys2Proof.Machine.execNput pr rel t1 t0 s
  | .nget pr rel t1 t0 => Sys2Proof.Machine.execNget pr rel t1 t0 s
  | .namo pr rel t1 t0 => Sys2Proof.Machine.execNamo pr rel t1 t0 s
  | .xdisc pr rel chan t1 t0 => Sys2Proof.Machine.execXdisc pr rel chan t1 t0 s
  | .gcfg pr c => Sys2Proof.Machine.execGcfg pr c s
  | .garg pr op c reg => Sys2Proof.Machine.execGarg pr op c reg s
  | .gsend pr op c => Sys2Proof.Machine.execGsend pr op c s
  | .grecv pr op c => Sys2Proof.Machine.execGrecv pr op c s
  | .greconf pr op c => Sys2Proof.Machine.execGreconf pr op c s
  | .gstat pr op c t1 t0 => Sys2Proof.Machine.execGstat pr op c t1 t0 s
  | .gdrain pr c free => Sys2Proof.Machine.execGdrain pr c free s
  | .ctlrd pr reg t1 t0 => Sys2Proof.Machine.execCtlrd pr reg t1 t0 s
  | .ctlwr pr reg => Sys2Proof.Machine.execCtlwr pr reg s
  | .ctlset pr reg => Sys2Proof.Machine.execCtlset pr reg s
  | .ctlclr pr reg => Sys2Proof.Machine.execCtlclr pr reg s
  | .eret pr => Sys2Proof.Machine.execEret pr s
  | .ctxsv pr t1 t0 => Sys2Proof.Machine.execCtxsv pr t1 t0 s
  | .ctxld pr => Sys2Proof.Machine.execCtxld pr s
  | .ttinv pr k => Sys2Proof.Machine.execTtinv pr k s
  | .leaseAdd pr => Sys2Proof.Machine.execLeaseAdd pr s
  | .leaseDrop pr => Sys2Proof.Machine.execLeaseDrop pr s
  | .ptok pr t1 t0 => Sys2Proof.Machine.execPtok pr t1 t0 s
  | .hint pr k => Sys2Proof.Machine.execHint pr k s
  | .haltd pr code => Sys2Proof.Machine.execHaltd pr code s
  | .cycrd pr t1 t0 => Sys2Proof.Machine.execCycrd pr t1 t0 s
  | .idle pr => Sys2Proof.Machine.execIdle pr s
  | .launchWindowWrite q off data => Sys2Proof.Machine.execLaunchWindowWrite q off data s
  | .launchAccept q => Sys2Proof.Machine.execLaunchAccept q s
  | .tokenApply die n => Sys2Proof.Machine.execTokenApply die n s
  | .tkillApply die n => Sys2Proof.Machine.execTkillApply die n s
  | .spawnRetry ctx => Sys2Proof.Machine.execSpawnRetry ctx s
  | .leaseEstablish uid => Sys2Proof.Machine.execLeaseEstablish uid s
  | .taskBind brick => Sys2Proof.Machine.execTaskBind brick s
  | .taskAging brick => Sys2Proof.Machine.execTaskAging brick s
  | .blockMap ctx addr => Sys2Proof.Machine.execBlockMap ctx addr s
  | .blockCommit ctx => Sys2Proof.Machine.execBlockCommit ctx s
  | .trapTaken ctx => Sys2Proof.Machine.execTrapTaken ctx s
  | .contextSuspend ctx => Sys2Proof.Machine.execContextSuspend ctx s
  | .taskWake uid => Sys2Proof.Machine.execTaskWake uid s
  | .wakeTimeout uid => Sys2Proof.Machine.execWakeTimeout uid s
  | .watchdogExpiry ctx => Sys2Proof.Machine.execWatchdogExpiry ctx s
  | .taskCompletion uid => Sys2Proof.Machine.execTaskCompletion uid s
  | .accumulatorRelease uid => Sys2Proof.Machine.execAccumulatorRelease uid s
  | .idleWake ctx => Sys2Proof.Machine.execIdleWake ctx s
  | .debugHalt ctx => Sys2Proof.Machine.execDebugHalt ctx s
  | .writePerform wid => Sys2Proof.Machine.execWritePerform wid s
  | .atomicPerform ctx slot => Sys2Proof.Machine.execAtomicPerform ctx slot s
  | .monitorWrite ctx slot => Sys2Proof.Machine.execMonitorWrite ctx slot s
  | .monitorPoll ctx slot => Sys2Proof.Machine.execMonitorPoll ctx slot s
  | .fencePerform uid n => Sys2Proof.Machine.execFencePerform uid n s
  | .qfillHome id => Sys2Proof.Machine.execQfillHome id s
  | .qinitHome id => Sys2Proof.Machine.execQinitHome id s
  | .barrierArrival id => Sys2Proof.Machine.execBarrierArrival id s
  | .copyExecute brick chan n => Sys2Proof.Machine.execCopyExecute brick chan n s
  | .chainRecord brick chan => Sys2Proof.Machine.execChainRecord brick chan s
  | .gatherScatterExecute id n => Sys2Proof.Machine.execGatherScatterExecute id n s
  | .xredExecute id n => Sys2Proof.Machine.execXredExecute id n s
  | .xiredExecute id n => Sys2Proof.Machine.execXiredExecute id n s
  | .xpklExecute id n => Sys2Proof.Machine.execXpklExecute id n s
  | .pklQueryScore id => Sys2Proof.Machine.execPklQueryScore id s
  | .discardExecute brick chan => Sys2Proof.Machine.execDiscardExecute brick chan s
  | .pageDeath q page => Sys2Proof.Machine.execPageDeath q page s
  | .engineCommandFinish id => Sys2Proof.Machine.execEngineCommandFinish id s
  | .pmaStart brick => Sys2Proof.Machine.execPmaStart brick s
  | .mmaStreamStep brick => Sys2Proof.Machine.execMmaStreamStep brick s
  | .pmaComplete brick => Sys2Proof.Machine.execPmaComplete brick s
  | .networkPacketSend id => Sys2Proof.Machine.execNetworkPacketSend id s
  | .networkAck id rtt data reason => Sys2Proof.Machine.execNetworkAck id rtt data reason s
  | .packetRetransmit id => Sys2Proof.Machine.execPacketRetransmit id s
  | .destinationTimeout dev => Sys2Proof.Machine.execDestinationTimeout dev s
  | .networkArrival op => Sys2Proof.Machine.execNetworkArrival op s
  | .gcfgApply die c => Sys2Proof.Machine.execGcfgApply die c s
  | .greconfApply die c => Sys2Proof.Machine.execGreconfApply die c s
  | .reconfToken die c op => Sys2Proof.Machine.execReconfToken die c op s
  | .gargApply die c op => Sys2Proof.Machine.execGargApply die c op s
  | .gsendArrival die c op => Sys2Proof.Machine.execGsendArrival die c op s
  | .grecvDeliver die c op => Sys2Proof.Machine.execGrecvDeliver die c op s
  | .gdrainComplete die c => Sys2Proof.Machine.execGdrainComplete die c s
  | .configFetch die c op => Sys2Proof.Machine.execConfigFetch die c op s
  | .srcRound die c op => Sys2Proof.Machine.execSrcRound die c op s
  | .snkToken die c op => Sys2Proof.Machine.execSnkToken die c op s
  | .mapToken die c op => Sys2Proof.Machine.execMapToken die c op s
  | .filtToken die c op => Sys2Proof.Machine.execFiltToken die c op s
  | .coalToken die c op => Sys2Proof.Machine.execCoalToken die c op s
  | .isectToken die c op => Sys2Proof.Machine.execIsectToken die c op s
  | .partToken die c op => Sys2Proof.Machine.execPartToken die c op s
  | .gathToken die c op => Sys2Proof.Machine.execGathToken die c op s
  | .scatToken die c op => Sys2Proof.Machine.execScatToken die c op s
  | .sredToken die c op => Sys2Proof.Machine.execSredToken die c op s
  | .exqToken die c op => Sys2Proof.Machine.execExqToken die c op s
  | .exqTimer die c op => Sys2Proof.Machine.execExqTimer die c op s
  | .exqRetry die c op => Sys2Proof.Machine.execExqRetry die c op s
  | .dpreempt die val => Sys2Proof.Machine.execDpreempt die val s
  | .preemptSave ctx => Sys2Proof.Machine.execPreemptSave ctx s
  | .drepriop die val => Sys2Proof.Machine.execDrepriop die val s
  | .dteardown q gid => Sys2Proof.Machine.execDteardown q gid s
  | .teardownComplete q gid => Sys2Proof.Machine.execTeardownComplete q gid s
  | .dplace die addr => Sys2Proof.Machine.execDplace die addr s
  | .dsplitApply brick => Sys2Proof.Machine.execDsplitApply brick s
  | .timeSliceExpiry ctx => Sys2Proof.Machine.execTimeSliceExpiry ctx s
  | .drainSlotFree brick k => Sys2Proof.Machine.execDrainSlotFree brick k s
  | .registerWrite q off val => Sys2Proof.Machine.execRegisterWrite q off val s
  | .fqanswer q val => Sys2Proof.Machine.execFqanswer q val s
  | .fqheadWrite q val => Sys2Proof.Machine.execFqheadWrite q val s
  | .fqlostClear q val => Sys2Proof.Machine.execFqlostClear q val s
  | .evreq q val => Sys2Proof.Machine.execEvreq q val s
  | .evictionComplete q => Sys2Proof.Machine.execEvictionComplete q s
  | .patrolScrub pier addr kind => Sys2Proof.Machine.execPatrolScrub pier addr kind s
  | .intervalBoundary x => Sys2Proof.Machine.execIntervalBoundary x s
  | .vfStep course => Sys2Proof.Machine.execVfStep course s
  | .droopEvent x => Sys2Proof.Machine.execDroopEvent x s
  | .droopRecovery x => Sys2Proof.Machine.execDroopRecovery x s
  | .stallSample course stalled bound => Sys2Proof.Machine.execStallSample course stalled bound s
  | .governorAction course => Sys2Proof.Machine.execGovernorAction course s
  | .boostNotice course => Sys2Proof.Machine.execBoostNotice course s
  | .boostExpiry course => Sys2Proof.Machine.execBoostExpiry course s
  | .thermalShutdown => Sys2Proof.Machine.execThermalShutdown s
  | .droopcntClear q val => Sys2Proof.Machine.execDroopcntClear q val s
  | .throtcntClear q val => Sys2Proof.Machine.execThrotcntClear q val s
  | .netstatClear q val => Sys2Proof.Machine.execNetstatClear q val s
  | .pintstatClear q val => Sys2Proof.Machine.execPintstatClear q val s
  | .hostMemoryAccess r => Sys2Proof.Machine.execHostMemoryAccess r s
  | .ideKeySetup q => Sys2Proof.Machine.execIdeKeySetup q s
  | .tdispStateChange q st => Sys2Proof.Machine.execTdispStateChange q st s
  | .attestationReport q nonce => Sys2Proof.Machine.execAttestationReport q nonce s
  | .partcfg arg0 arg1 => Sys2Proof.Machine.execPartcfg arg0 arg1 s
  | .netcfg arg0 arg1 key => Sys2Proof.Machine.execNetcfg arg0 arg1 key s
  | .dbgen arg0 arg1 => Sys2Proof.Machine.execDbgen arg0 arg1 s
  | .dbgresume arg0 arg1 => Sys2Proof.Machine.execDbgresume arg0 arg1 s
  | .fwstage arg0 arg1 => Sys2Proof.Machine.execFwstage arg0 arg1 s
  | .fwapply => Sys2Proof.Machine.execFwapply s
  | .mgmtreset => Sys2Proof.Machine.execMgmtreset s
  | .packageReset => Sys2Proof.Machine.execPackageReset s
  | .partitionReset q => Sys2Proof.Machine.execPartitionReset q s
  | .managementFlr => Sys2Proof.Machine.execManagementFlr s
  | .bootSequence => Sys2Proof.Machine.execBootSequence s
  | .gdrainArrival die c => Sys2Proof.Machine.execGdrainArrival die c s

end Sys2Proof.Machine
end

