-- ==== Sys2Proof/Machine/Sched.lean ====
section
/-!
DEFINITION. The order in which the machine's own steps are taken when no agenda names one (log entry 6): no rule fixes it.
-/

namespace Sys2Proof.Machine

/-- A step of the machine itself: the meaning of one event with its arguments. -/
abbrev Act := State → Host.Outcome State Fault Refusal

/-- The instruction that starts at a slot of a block; the second word of an X format is none (R47). -/
def Blk.instr (b : Blk) (n : Nat) : Option Instr := (b.members.find? fun m => m.1 == n).map fun m => m.2

/-- Slots of a context's blocks in flight that may fire, oldest block first. -/
def State.readySlots (s : State) (c : Nat) (early : Bool) : List Focus :=
  (List.range (s.ctx c).blks.length).flatMap fun k =>
    match s.blk? c k with
    | none => []
    | some b =>
      if b.firm.isSome then []
      else (b.members.filter fun (n, i) => b.canFire n i).map fun (n, _) => ⟨c, k, n, early⟩

/-- A list begun at its n-th element, counted around: the default order favours nobody for long. -/
def rotated {α : Type} (n : Nat) (l : List α) : List α := l.drop (n % l.length) ++ l.take (n % l.length)

/-- The firings of every bound context: the contexts from the n-th on, each one's slots in ascending order. -/
def State.readyFires (s : State) (n : Nat) : List Focus :=
  (rotated n (s.ctxs.map fun c => c.1)).flatMap fun c => s.readySlots c false

/-- Whether a firing move did something: its slot left the idle state, or its block holds a trap or is gone. -/
def State.progressed (s t : State) (f : Focus) : Bool :=
  match s.blk? f.ctx f.blk, t.blk? f.ctx f.blk with
  | some b, some b' => (b.slot f.slot).st != (b'.slot f.slot).st || b.traps != b'.traps
  | some _, none => true
  | none, _ => false

/-- Loads that only an unresolved lower LSID holds back (log entry 9). -/
def State.earlyFires (s : State) : List Focus := (s.ctxs.map fun c => c.1).flatMap fun c => s.readySlots c true

/-- The slots of a context's oldest block that execute. -/
def State.busySlots (s : State) (c : Nat) : List Nat :=
  match s.blk? c 0 with
  | some b => (b.members.filter fun m => (b.slot m.1).st == .busy).map fun m => m.1
  | none => []

/-- The steps a context may take. A block is mapped while no older one is in flight. -/
def State.ctxEvents (s : State) (c : Nat) : List Act :=
  (s.busySlots c).flatMap (fun n => [execAtomicPerform c n, execMonitorWrite c n])
    ++ [execTrapTaken c, execSpawnRetry c, execBlockCommit c, execDebugHalt c, execPreemptSave c, execWatchdogExpiry c, execIdleWake c]
    ++ (match (s.ctx c).nextAddr with
      | some a => if (s.ctx c).blks.isEmpty then [execBlockMap c a] else []
      | none => [])
    ++ [execContextSuspend c, execTimeSliceExpiry c]

/-- The steps a task may take. -/
def taskEvents (x : Nat × Task) : List Act :=
  [execLeaseEstablish x.1, execTaskCompletion x.1, execAccumulatorRelease x.1, execTaskWake x.1, execWakeTimeout x.1]
    ++ (x.2.fences.filter fun f => !f.done).map fun f => execFencePerform x.1 f.num

/-- The steps of a brick, its engines and its array. -/
def brickEvents (x : Nat × Brick) : List Act :=
  let b := x.1
  [execTaskBind b, execTaskAging b, execDsplitApply b, execPmaStart b, execMmaStreamStep b, execPmaComplete b]
    ++ [0, 1].flatMap (fun ch => [execChainRecord b ch, execCopyExecute b ch 63, execDiscardExecute b ch])
    ++ x.2.drains.map fun k => execDrainSlotFree b k.1

/-- The steps of an engine command. -/
def cmdEvents (x : Nat × Cmd) : List Act :=
  [execGatherScatterExecute x.1 15, execXredExecute x.1 15, execXiredExecute x.1 15, execPklQueryScore x.1, execXpklExecute x.1 15,
   execNetworkPacketSend x.1, execPacketRetransmit x.1, execEngineCommandFinish x.1]

/-- The steps of a fabric operator. -/
def opEvents (d c op : Nat) : List Act :=
  [execReconfToken d c op, execGargApply d c op, execGsendArrival d c op, execGrecvDeliver d c op, execConfigFetch d c op, execSrcRound d c op,
   execSnkToken d c op, execMapToken d c op, execFiltToken d c op, execCoalToken d c op, execIsectToken d c op, execPartToken d c op,
   execGathToken d c op, execScatToken d c op, execSredToken d c op, execExqToken d c op, execExqTimer d c op, execExqRetry d c op]

/-- The operators whose steps may do something in a context: those it holds, and those a waiting command names. -/
def Die.groutOps (x : Die) (c : Nat) : List Nat :=
  let held := match kget? c x.grout with
    | some g => g.ops.map fun o => o.1
    | none => []
  let named := (x.gq.filter fun m => m.c == c).filterMap fun m => match m.kind with
    | .garg op .. | .gsend op .. | .grecv op _ => some op
    | _ => none
  held ++ named.filter fun op => !held.contains op

/-- The steps of a die. -/
def dieEvents (x : Nat × Die) : List Act :=
  let d := x.1
  (List.range x.2.inbox.length).flatMap (fun n => [execTokenApply d n, execTkillApply d n])
    ++ (x.2.gq.map fun m => m.c).dedup.flatMap (fun c => [execGcfgApply d c, execGreconfApply d c, execGdrainArrival d c])
    ++ x.2.grout.flatMap (fun g => (x.2.groutOps g.1).flatMap (fun o => opEvents d g.1 o) ++ [execGdrainComplete d g.1])
    ++ (match x.2.plBusy with
      | some _ => [execDplace d 0]
      | none => [])

/-- The steps of a partition. -/
def State.partEvents (s : State) (x : Nat × Part) : List Act :=
  let tearing := ((s.diesOf x.1).flatMap fun d => ((s.die d).graphs.filter fun g => g.2.teardown).map fun g => g.1).dedup
  [execLaunchAccept x.1, execEvictionComplete x.1] ++ tearing.map (fun g => execTeardownComplete x.1 g.toNat)
    ++ if x.2.resetPending then [execPartitionReset x.1] else []

/-- The steps of a course. -/
def courseEvents (x : Nat × Course) : List Act :=
  [execDroopRecovery (sensed x.1 x.2.rail)]

/-- A boundary with quiet sensors. -/
def quietSensors : Sensors := ⟨[], [], 0, 0, [], sramSetMV⟩

/-- The steps that are due at a device time: they are taken before it goes on (R400, R402, R407, R408, R413, R437). -/
def State.dueEvents (s : State) : List Act :=
  (s.courses.map fun x => execVfStep x.1) ++ execIntervalBoundary quietSensors :: execThermalShutdown :: s.courses.flatMap fun x =>
    (x.2.sample.toList.map fun k => execStallSample x.1 k.1 k.2)
      ++ [execGovernorAction x.1, execBoostNotice x.1, execBoostExpiry x.1]

/-- Every step the machine may take of itself, the interval boundary apart. -/
def State.defaultEvents (s : State) : List Act :=
  (s.ctxs.map fun c => c.1).flatMap s.ctxEvents
    ++ s.writes.map (fun w => execWritePerform w.id)
    ++ s.homeOps.flatMap (fun h => [execBarrierArrival h.id, execQinitHome h.id, execQfillHome h.id])
    ++ s.cmds.flatMap cmdEvents ++ s.bricks.flatMap brickEvents ++ s.tasks.flatMap taskEvents
    ++ s.dies.flatMap dieEvents ++ s.parts.flatMap s.partEvents
    ++ (if s.pkg.busy then [execPartcfg 0 0] else []) ++ [execBootSequence] ++ s.courses.flatMap courseEvents
    ++ s.pkg.replies.flatMap (fun r => [execNetworkPacketSend r.id, execPacketRetransmit r.id])
    ++ (s.pkg.dests.map fun d => d.dev).dedup.map (fun d => execDestinationTimeout d)

/-- Whether a step did something, the counter of free values apart. -/
def State.changed (s t : State) : Bool := { t with free := s.free } != s

end Sys2Proof.Machine
end

