-- ==== Sys2Proof/Machine/Step.lean ====
section
/-!
DEFINITION. One step (log entry 6): the next move of the agenda, or with none the first move of the default order that
does something. A firing move decodes the slot's words from the block in flight and runs that instruction.
-/

namespace Sys2Proof.Machine

/-- Fire one slot: fetch its words from its block, decode, run. -/
def fireAt (f : Focus) (s : State) : Host.Outcome State Fault Refusal :=
  match (s.blk? f.ctx f.blk).bind fun b => b.instr f.slot with
  | none => .next s
  | some i => exec i { s with focus := some f }

/-- One move. -/
def runMove (m : Move) (s : State) : Host.Outcome State Fault Refusal :=
  match m with
  | .fire f => fireAt f s
  | .event i => if i.encodes || (s.pkg.boot = .off && !actsOff i) then .next s else exec i s
  | .tick n => .next (s.pass n)

/-- The first firing of a list that does something; with none, the last resort. -/
def tryFires (last : State → Host.Outcome State Fault Refusal) : List Focus → State → Host.Outcome State Fault Refusal
  | [], s => last s
  | f :: fs, s =>
    match fireAt f s with
    | .next t => if s.progressed t f then .next t else tryFires last fs s
    | o => o

/-- The first event of a list that does something; with none, the last resort. -/
def tryEvents (last : State → Host.Outcome State Fault Refusal) : List Act → State → Host.Outcome State Fault Refusal
  | [], s => last s
  | e :: es, s =>
    match e s with
    | .next t => if s.changed t then .next t else tryEvents last es s
    | o => o

/-- Device time passes. -/
def idleStep (s : State) : Host.Outcome State Fault Refusal := runMove (.tick 100) s

/-- A step by default takes 1 ns. Firings and the machine's other steps are tried first by turns, each list begun further on
from step to step; then firings ahead of an unresolved lower LSID; then time passes. -/
def timedStep (s : State) : Host.Outcome State Fault Refusal :=
  let s := s.pass 1
  let fs := s.readyFires (s.now / 2)
  let es := rotated (s.now / 2) s.defaultEvents
  let late := tryFires idleStep s.earlyFires
  if s.now % 2 = 0 then tryFires (tryEvents late es) fs s else tryEvents (tryFires late fs) es s

/-- The step taken with no agenda: one that is due now, else the next in turn; a device that is off does nothing. -/
def defaultStep (s : State) : Host.Outcome State Fault Refusal :=
  if s.pkg.boot = .off then .next s else tryEvents timedStep s.dueEvents s

/-- The machine's step. -/
def step (s : State) : Host.Outcome State Fault Refusal :=
  match s.agenda with
  | m :: rest => runMove m { s with agenda := rest }
  | [] => defaultStep s

/-- The predicate token that lets an instruction fire. -/
def prTok : Pr → Option Tok
  | .always => none
  | .onFalse => some (.s 0)
  | .onTrue => some (.s 1)

/-- A block in flight whose slot 0 holds an instruction with every operand at a scalar 0. -/
def probeBlk (ws : List Word32) : Blk :=
  let i := instrAt ws 0
  let pr := match i with
    | some i => prTok (prOf i)
    | none => none
  { addr := 0, ord := 1, hdr := List.replicate 12 0, body := ws,
    slots := ws.map fun _ => { Slot.fresh with op0 := some (.s 0), op1 := some (.s 0), op2 := some (.s 0), pd := pr },
    gw := [], vw := [], hw := [], mw := [], vs := [], hs := [], ms := [], stores := [], reads := [], effs := [],
    raised := [], exit := none, traps := [], pinned := false, resv := [], grants := [], tileroot := 0 }

/-- A task with nothing but its identity. -/
def probeTask : Task :=
  { uid := 1, part := 0, die := 0,
    cls := { addr := 0, entry := 0, spill := 0, spillSize := 0, kinds := [0], prio := 0, placement := 0, accUnits := 0,
             noSteal := false, longWait := false, counts := [], lease := 0, stamp := 0, cont := 0 },
    graph := 1, cont := 0, frame := 0, slots := [], launch := none, origin := 0, near := none, prio := 0,
    phase := .bound 0, readyAt := 0, passed := 0, brick := 0, lease := [], pins := [], tensors := [], added := [], addPins := [], drops := [],
    tls := List.replicate 8 Timeline.zero, fenceNewest := 0, fences := [], seen := [], trackers := [], ords := 0,
    save := none, saved := false, wake := .now, wokeAt := 0, accUnits := 0, accMode := [], accOvf := [],
    mstat := (0, 0, 0), copies := [], mute := false, torn := false, deps := [] }

/-- The state in which step fetches and runs the instruction whose bits are w as its next: the words stand in slot 0 of a
block in flight of context 0, bound to a task, every operand has arrived as a scalar 0, and the agenda's next move
fires that slot. It stands for a loaded and bound program (log entry 6). -/
def State.withFetchWord (s : State) (nbits w : Nat) : State :=
  { s with
    agenda := .fire ⟨0, 0, 0, false⟩ :: s.agenda
    ctxs := kset 0 { Ctx.reset with uid := 1, blks := [probeBlk (tableWords nbits w)] } s.ctxs
    tasks := kset 1 probeTask s.tasks }

end Sys2Proof.Machine
end

