-- ==== Sys2Proof/Safety.lean ====
section
/-!
DEFINITION. What counts as a safe run, the invariant of the memories' form, and the words in which the statements of
Certificates/ are made: when a slot fires, what a firing answers, and what it leaves unchanged.
-/

namespace Sys2Proof.Safety

open Sys2Proof.Machine

/-- A step that answers a next state. -/
def Goes (o : Host.Outcome State Fault Refusal) : Prop := ∃ t, o = .next t

/-- Every memory of the state is in its canonical form. -/
def MemOk (s : State) : Prop :=
  Memory.wf s.dram = true ∧ Memory.wf s.spad = true ∧ Memory.wf s.host = true ∧ Memory.wf s.acc = true

/-- The focused slot holds an instruction that has not fired, in a block in flight that holds no trap that stands. -/
structure Idle (s : State) (f : Focus) (b : Blk) : Prop where
  focus : s.focus = some f
  blk : s.blk? f.ctx f.blk = some b
  quiet : b.firm = none
  idle : (b.slot f.slot).st = .idle

/-- The focused slot may fire as i on the operands ops: they have arrived, the predicate matches (R51), and in a stream it
is the slot's turn (R57, R325). -/
structure Fires (s : State) (f : Focus) (b : Blk) (i : Instr) (ops : List Tok) : Prop extends Idle s f b where
  ready : (b.slot f.slot).ready i = .go ops
  turn : b.streamReady f.slot i = true

/-- Whenever i may fire it does: its slot is done and the listed tokens have gone to its targets. -/
def Sends (i : Instr) (toks : List Tok → List Tok) : Prop :=
  ∀ s f b ops, Fires s f b i ops → exec i s = .next (s.finish f i (toks ops))

/-- Whenever i may fire, one scalar goes to both its targets. -/
def Gives (i : Instr) (val : List Tok → Word) : Prop := Sends i fun ops => both (val ops)

/-- R158: an instruction of two operands at 64 bits, and its W form, which works on the low 32 bits of each and
sign-extends. -/
def Two (mk : Bool → Instr) (op : Word → Word → Word) (opW : BitVec 32 → BitVec 32 → BitVec 32) : Prop :=
  Gives (mk false) (fun ops => op (opw ops 0) (opw ops 1)) ∧
  Gives (mk true) (fun ops => (opW ((opw ops 0).setWidth 32) ((opw ops 1).setWidth 32)).signExtend 64)

/-- R160: an instruction of one operand and a sign-extended immediate. -/
def Imm (mk : Bool → Instr) (imm : BitVec 9) (op : Word → Word → Word) (opW : BitVec 32 → BitVec 32 → BitVec 32) : Prop :=
  Gives (mk false) (fun ops => op (opw ops 0) (imm.signExtend 64)) ∧
  Gives (mk true) (fun ops => (opW ((opw ops 0).setWidth 32) ((imm.signExtend 64).setWidth 32)).signExtend 64)

/-- The integer conditions of R70 and R162 on n-bit values, on signed or unsigned numbers. -/
def CondSays {n : Nat} (c : Cond) (x y : BitVec n) : Prop :=
  match c with
  | .eq => x = y | .ne => x ≠ y
  | .lt => x.toInt < y.toInt | .le => x.toInt ≤ y.toInt | .gt => y.toInt < x.toInt | .ge => y.toInt ≤ x.toInt
  | .ltn => x.toNat < y.toNat | .len => x.toNat ≤ y.toNat | .gtn => y.toNat < x.toNat | .gen => y.toNat ≤ x.toNat

/-! Accesses to memory. -/

/-- An access of n bytes at a that the address check of R189 lets pass: its place, its leaf entry, and the state with the
translation cached. -/
structure Allowed (s : State) (f : Focus) (a : Word) (n : Nat) (acc : Acc) (t : Task) (l : PLoc) (pte : Nat) (s' : State) :
    Prop where
  task : s.taskOf f.ctx = some t
  ok : s.check t (brickOfCtx f.ctx) a n acc = (.ok l pte, s')

/-- A read that can be made now: the stores of older blocks are known, no operation of the task to those bytes and no write of
its own to a part of them is on its way (R284, R288), it goes ahead of no lower LSID or may do so (R56), no poisoned word is
met (R393), and no higher LSID of its block has taken other bytes of its word at two moments. -/
structure Readable (s : State) (f : Focus) (b : Blk) (a : Word) (n : Nat) (acc : Acc) (v : Sees) (t : Task) (l : PLoc)
    (pte : Nat) (s' : State) : Prop extends Allowed s f a n acc t l pte s' where
  known : (s'.ctx f.ctx).storesKnown f.blk = true
  home : s'.homeAhead f.ctx f.blk t l n = false
  own : s'.partOwn f.ctx f.blk t.uid l n = false
  turn : ∀ k, v = .lsid k → b.ahead k = true → f.early = true
  clean : s'.blockPoison f.ctx f.blk t.uid l n v = true → s'.dying pte = true
  whole : ∀ k j r, v = .lsid k → b.higher k l = some (j, r) → r.mixed = true →
    r.loc.a ≤ l.a ∧ l.a + n ≤ r.loc.a + r.bytes.length

/-- How a read sees the stores of the other kind in its block to the same bytes: a free choice for each byte (R232). -/
def crossOf (s : State) (b : Blk) (l : PLoc) (n : Nat) (v : Sees) : Nat := if b.crosses v l n then s.drawNat.1 else 0

/-- What a read of the focused block takes: its bytes, the pending writes seen, and the bytes from the memory; a page that is
dying or dead reads zero (R384). -/
def readGot (s : State) (f : Focus) (b : Blk) (t : Task) (l : PLoc) (pte n : Nat) (v : Sees) : List Byte × List Nat × List Byte :=
  s.blockRead f.ctx f.blk t.uid l n v (s.dying pte) (crossOf s b l n v)

/-- Its bytes. -/
def readBytes (s : State) (f : Focus) (b : Blk) (t : Task) (l : PLoc) (pte n : Nat) (v : Sees) : List Byte :=
  (readGot s f b t l pte n v).1

/-- The note of a read that a block keeps. -/
def readNote (s : State) (f : Focus) (b : Blk) (t : Task) (l : PLoc) (pte n : Nat) (v : Sees) (a : Word) : ReadRec :=
  let g := readGot s f b t l pte n v
  ⟨f.slot, v, l, g.1, g.2.1, a.toNat, g.2.2, s.partOwn f.ctx f.blk t.uid l.word 8⟩

/-- No younger block of the focused one holds a spill record reserved for a spawn. -/
def NoSpills (s : State) (f : Focus) : Prop := ∀ b ∈ (s.ctx f.ctx).blks.drop (f.blk + 1), b.resv = []

/-- Every register, special register and exception register of every context is as before; PTOK's tokens, the counter of
bank conflicts and the blocks in flight are not compared. -/
def RegsKept (s t : State) : Prop := ∀ c,
  let x := s.ctx c
  let y := t.ctx c
  y.uid = x.uid ∧ y.g = x.g ∧ y.v = x.v ∧ y.h = x.h ∧ y.m = x.m ∧ y.pc = x.pc ∧ y.prev = x.prev ∧ y.fpmode = x.fpmode ∧
  y.poolsplit = x.poolsplit ∧ y.mxstall = x.mxstall ∧ y.mxissue = x.mxissue ∧ y.trimsave = x.trimsave ∧ y.priv = x.priv ∧
  y.trapvec = x.trapvec ∧ y.trapcause = x.trapcause ∧ y.trapinfo = x.trapinfo ∧ y.savearea = x.savearea

/-- Every byte of every memory reads as before. -/
def MemKept (s t : State) : Prop := ∀ sp a, mread a (t.cells sp) = mread a (s.cells sp)

/-- Every byte of every memory outside n bytes at l reads as before. -/
def MemKeptBut (l : PLoc) (n : Nat) (s t : State) : Prop :=
  ∀ sp a, (sp = l.sp → a < l.a ∨ l.a + n ≤ a) → mread a (t.cells sp) = mread a (s.cells sp)

/-! Vectors. -/

/-- What a lane-wise instruction does (R229, R230): in stream order it writes its destination, whose active lanes hold the
operation's results and whose other lanes are as before, and notes the flags of its active lanes. The operation takes the
rounding mode, the lane's number, its source lanes and its old value. -/
def LaneWise (i : Instr) (ty : ElemTy) (m : BitVec 3) (vd : BitVec 5) (srcs : List (BitVec 5))
    (op : List Tok → Rm → Nat → List Nat → Nat → Nat × FFlags) : Prop :=
  ∀ s f b ops vs old mk rm, Fires s f b i ops → (s.ctx f.ctx).streamVs f.blk (srcs.map (·.toNat)) = some vs →
    (s.ctx f.ctx).streamV f.blk vd.toNat = some old → (s.ctx f.ctx).streamM f.blk m.toNat = some mk →
    (s.ctx f.ctx).modeAt f.blk .dyn = some rm →
    let lane (k : Nat) : Nat × FFlags := op ops rm k (vs.map fun v => laneOf v ty.bytes k) (laneOf old ty.bytes k)
    let fl := ((activeLanes ty mk).map fun k => (lane k).2).foldl (· ||| ·) 0
    ∃ r : VecVal, exec i s = .next (((s.setV f vd.toNat r).flag f fl).finish f i []) ∧
      ∀ k, k < ty.lanes → laneOf r ty.bytes k =
        if mk.getLsbD k then (lane k).1 % 2 ^ (8 * ty.bytes) else laneOf old ty.bytes k

/-- An instruction that writes a v register in stream order, lane by lane. -/
def WritesLanes (i : Instr) (s : State) (f : Focus) (ty : ElemTy) (vd : BitVec 5) (fl : FFlags) (lane : Nat → Nat) : Prop :=
  ∃ r : VecVal, exec i s = .next (((s.setV f vd.toNat r).flag f fl).finish f i []) ∧
    ∀ k, k < ty.lanes → laneOf r ty.bytes k = lane k

/-- The number a value is, where it is finite. -/
def numOf (v : FV) : Option ℚ :=
  match v with
  | .zero _ => some 0
  | .fin neg m e => some ((if neg then -1 else 1) * m * (2 : ℚ) ^ e)
  | _ => none

/-! Timelines. -/

/-- The state after a timeline instruction has fired (R250): its slot is done, and numbers that are fixed go out. -/
def takesNumber (s : State) (f : Focus) : State :=
  (s.modBlk f.ctx f.blk fun b => b.setSlot f.slot { b.slot f.slot with st := .done, sent := false }).flush f.ctx

/-- A trap held with the focused block. -/
def traps (s : State) (f : Focus) (cause : Nat) (info : Word) : State :=
  s.modBlk f.ctx f.blk fun b => (b.setSt f.slot .done).hold cause info (some f.slot)

/-! Blocks. -/

/-- b is the oldest block of a context, and t the task bound to it. -/
structure Oldest (s : State) (c : Nat) (b : Blk) (t : Task) : Prop where
  blk : s.blk? c 0 = some b
  task : s.taskOf c = some t
  uid : t.uid = (s.ctx c).uid
  live : t.torn = false

/-- The oldest block of a context may commit through an exit (R61): it holds no trap, it is settled and owes nothing, no QFILL
of it carries a poisoned word (R223), and no read of it took bytes in part from one of its stores (R284); and no change of the
task's lease waits. -/
structure Commits (s : State) (c : Nat) (b : Blk) (t : Task) (e : ExitRec) : Prop extends Oldest s c b t where
  quiet : b.trap = none
  settled : b.settled = true
  owes : b.unmet = none
  exit : b.exit = some e
  fills : s.fillBad c b t = none
  whole : b.partials = []
  adds : (s.ctx c).leaseAdds = []
  drops : t.drops = []

/-- A register file after some writes, each register written once: a register written holds its value, the others are as
before. -/
def PutIn {α : Type} (n : Nat) (old new : Nat → Option α) (ws : KMap (Option α)) : Prop :=
  (ws.map (·.1)).Nodup → ∀ r, r < n →
    (∀ v, (r, some v) ∈ ws → new r = some v) ∧ ((∀ v, (r, some v) ∉ ws) → new r = old r)

/-- A home operation that leaves for an address has been appended. -/
def HomeSent (s u : State) (t : Task) (br addr : Nat) (p : PLoc → HomeKind → Prop) : Prop :=
  ∀ l, s.flatLoc t.part br addr .write = some l →
    ∃ h, u.homeOps = s.homeOps ++ [h] ∧ h.uid = t.uid ∧ p l h.kind

/-- A token or a kill has been put into some distributor's inbox for a frame. -/
def Sent (u : State) (t : Task) (frame : Nat) (k : MsgKind) : Prop :=
  ∃ d m, m ∈ (u.die d).inbox ∧ m.frame = frame ∧ m.graph = t.graph ∧ m.kind = k

/-- A fault record of a partition has been reported (R387, R389) from a state that differs in nothing the record or the
queue depends on: the queue's registers and every byte of memory are as the one operation that reports leaves them. -/
def Reports (s u : State) (q : Nat) (r : FaultRec) : Prop :=
  let w := (s.report q r).1
  (u.part q).seq = (w.part q).seq ∧ (u.part q).fqtail = (w.part q).fqtail ∧ (u.part q).fqlost = (w.part q).fqlost ∧
    (u.part q).intstat = (w.part q).intstat ∧ ∀ sp, u.cells sp = w.cells sp

/-! Engines and the fabric. -/

/-- n bytes of one live page, or of a scratchpad window, at a flat address that a command reaches, whose 64 KiB are already
counted in flight for it (R381). -/
structure Reach (s : State) (c : Cmd) (acc : Acc) (a n : Nat) (l : PLoc) (pte : Nat) : Prop where
  byte : s.flatByte c.who a acc = .ok l pte
  one : a % 2 ^ 16 + n ≤ 2 ^ 16
  live : s.discOf pte = 0
  counted : l.sp = .dram → c.flights.contains (l.a / 2 ^ 16 * 2 ^ 16) = true

/-- No die's cache holds a write of n bytes at l, and a die's cache has room for one more write of them. -/
structure Calm (s : State) (die : Nat) (l : PLoc) (n : Nat) : Prop where
  none : ∀ w ∈ s.writes, w.cached = true → w.loc.sp = l.sp → overlaps w.loc.a w.bytes.length l.a n = false
  room : s.dirtyLines die + ((l.a + n - 1) / 128 - l.a / 128 + 1) ≤ dieLines

/-- n bytes a footing command reaches at their home, on one page of live DRAM that is counted in flight for it. -/
structure Footed (s : State) (c : Cmd) (acc : Acc) (a n : Nat) (t : Trans) : Prop where
  walk : s.footWalk c a acc = .ok t
  dram : t.host = false
  one : a % 2 ^ 16 + n ≤ 2 ^ 16
  some : 0 < n
  live : s.discOf t.pte = 0
  counted : c.flights.contains ((t.loc a).a / 2 ^ 16 * 2 ^ 16) = true
  calm : ∀ die, Calm s die (t.loc a) n

/-- Every page of a range that a footing command touches in device DRAM is counted in flight for it. -/
def Counted (s : State) (c : Cmd) (acc : Acc) (a n : Nat) : Prop := ∀ p ∈ piecesOf a n, ∀ t, s.footWalk c p.1 acc = .ok t →
  t.host = false → c.flights.contains ((t.loc p.1).a / 2 ^ 16 * 2 ^ 16) = true

/-- n bytes at a place that are no in-flight count of a command's parts, which a step may lower (R381). -/
def Uncounted (c : Cmd) (l : PLoc) (n : Nat) : Prop :=
  l.sp = .dram → ∀ p ∈ c.flights, l.a + n ≤ countAt p + 4 ∨ countAt p + 8 ≤ l.a

/-- Every byte of every memory outside n bytes at l and outside the in-flight counts of a command's parts reads as before. -/
def MemKeptFly (c : Cmd) (l : PLoc) (n : Nat) (s t : State) : Prop :=
  ∀ sp a, (sp = l.sp → a < l.a ∨ l.a + n ≤ a) → Uncounted c ⟨sp, a⟩ 1 → mread a (t.cells sp) = mread a (s.cells sp)

/-- A scratchpad tensor whose blocks a brick reaches whole, from an offset of the scratchpads on, and over whose bytes no die's
cache holds a write (R116, R124). -/
structure InPool (s : State) (b : Nat) (d : Desc) (at' : Nat) : Prop where
  spad : d.loc = 1
  reached : ∀ i, i < d.blkOff (cdiv d.rows d.blkRows * cdiv d.cols d.blkCols) →
    s.spadLoc b (d.base + i) = some (some ⟨.spad, at' + i⟩)
  none : ∀ w ∈ s.writes, w.cached = true → w.loc.sp = .spad →
    overlaps w.loc.a w.bytes.length at' (d.blkOff (cdiv d.rows d.blkRows * cdiv d.cols d.blkCols)) = false

/-- What stands at an operator after it has sent tokens on its outputs: one for each destination (R303). -/
def emitted (e : GEntry) (ts : List (Nat × FTok)) : List (Nat × Nat × Nat × FTok) :=
  ts.flatMap fun x => (e.outs.filter fun y => y.1 == x.1).flatMap fun y => y.2.map fun d => (x.1, d.1, d.2, x.2)

/-- Whether pair j of a token is present (R302). -/
def pairAt (m : BitVec 16) (j : Nat) : Bool := m.getLsbD (2 * j) && m.getLsbD (2 * j + 1)

/-- A write that an operator may make (R323), and where: inside its lease ranges, on one live page it may write. -/
structure FabWrites (s : State) (k : OpId) (a n : Nat) (l : PLoc) : Prop where
  low : a < 2 ^ 57
  leased : covered (s.fabLease k) a n = true
  may : s.canWrite (s.fpart k.die) (dieAgent k.die) a n = true
  loc : s.flatLoc (s.fpart k.die) (dieAgent k.die) a .write = some l
  one : a % 2 ^ 16 + n ≤ 2 ^ 16
  live : s.discOf (s.flatPte (s.fpart k.die) (dieAgent k.die) a .write) = 0
  calm : Calm s k.die l n

/-- Bytes as the agents of a die read them. -/
def DieSees (s : State) (die : Nat) (l : PLoc) (bs : List Byte) : Prop := (s.viewRead die 0 l bs.length).1 = bs

/-- A step of an operator that leaves it as asked, before what it has sent moves on to queues with room. -/
def OpSteps (i : Instr) (s : State) (k : OpId) (p : State → FOp → Prop) : Prop :=
  ∃ w : State, exec i s = .next (w.pump k.die k.c) ∧ p w (w.fop k)

/-- An operator of a fabric context may take the token at its input 0 (R303, R309). -/
structure Takes (s : State) (k : OpId) (kind : Nat) (e : GEntry) (l : BitVec 512) (m : BitVec 16) (eos : Bool) : Prop where
  entry : s.opEntry k kind = some e
  tok : headTok (s.fop k).q0 = some (l, m, eos)

end Sys2Proof.Safety
end

