-- ==== Sys2Proof/Certificates/Slice0/Obligations.lean ====
section
/-!
DEFINITION. The statements about the model, for the provers. Each says in its docstring which rules of spec/ it formalises, and
names the log entry of a choice of the model's own that it rests on. The words they are made in stand in Sys2Proof/Safety.lean.
-/

open Sys2Proof Sys2Proof.Machine Sys2Proof.Safety

/-- The step, and the model's agenda (log entry 6): a firing move runs the instruction that the words of its slot decode to,
as its slot's own; an event runs its meaning, but in a package that is off none but a package reset and a write of the host's
own memory; a tick lets time pass, to the next interval boundary at most; each takes its move off the agenda. A package that is
off does nothing by itself. With a word placed by withFetchWord, the next step runs its instruction. -/
def Obligations.StepRunsTheDecodedInstruction : Prop := ∀ (s : State) (rest : List Move),
  let s' : State := { s with agenda := rest }
  (∀ (f : Focus) (b : Blk) (i : Instr) tail, s.agenda = .fire f :: rest → s.blk? f.ctx f.blk = some b →
    f.slot ∈ slotStarts false 0 b.body → decode (b.body.drop f.slot) = .ok (i, tail) →
    step s = exec i { s' with focus := some f }) ∧
  (∀ f : Focus, s.agenda = .fire f :: rest → s.blk? f.ctx f.blk = none → step s = .next s') ∧
  (∀ i, s.agenda = .event i :: rest → i.encodes = false → s.pkg.boot ≠ .off → step s = exec i s') ∧
  (s.agenda = .event .packageReset :: rest → step s = exec .packageReset s') ∧
  (∀ a data, s.agenda = .event (.hostMemoryAccess (.hostWrite a data)) :: rest →
    step s = exec (.hostMemoryAccess (.hostWrite a data)) s') ∧
  (∀ i, s.agenda = .event i :: rest → i.encodes = true ∨ (s.pkg.boot = .off ∧ i ≠ .packageReset ∧
    ∀ a data, i ≠ .hostMemoryAccess (.hostWrite a data)) → step s = .next s') ∧
  (∀ n, s.agenda = .tick n :: rest → ∃ u : State, step s = .next u ∧ u.agenda = rest ∧
    u.now = (if s.now + n ≤ s.pkg.boundary + 1000 then s.now + n else max s.now (s.pkg.boundary + 1000)) ∧
    MemKept s u ∧ RegsKept s u) ∧
  (s.agenda = [] → s.pkg.boot = .off → step s = .next s) ∧
  (∀ nbits w i, decodeTableWord nbits w = some i → ∃ u : State, u.agenda = s.agenda ∧ u.focus = some ⟨0, 0, 0, false⟩ ∧
    u.cells = s.cells ∧ step (s.withFetchWord nbits w) = exec i u)

/-- No step is refused or stops: from every state the machine goes on, whatever it fires and whatever happens (log entry 6). -/
def Obligations.EveryStepGoesOn : Prop := ∀ s : State, ∃ t : State, step s = .next t

/-- R139 to R150, sanity: words written out from the encoding tables decode to the instruction they stand for. -/
def Obligations.WordsOfTheTablesDecode : Prop :=
  decode [0x01#7 ++ 0#1 ++ 6#6 ++ 0x106#9 ++ 0x085#9] = .ok (.gread 6 0x106 0x085, []) ∧
  decode [0x02#7 ++ 3#2 ++ 5#6 ++ 0#17] = .ok (.gwrite .onTrue 5, []) ∧
  decode [0x0C#7 ++ 0#2 ++ 1#5 ++ 0x81#9 ++ 0x82#9] = .ok (.add .always true 0x81 0x82, []) ∧
  decode [0x20#7 ++ 2#2 ++ 0#5 ++ 0x1FF#9 ++ 0x82#9] = .ok (.addi .onFalse false 0x1FF 0x82, []) ∧
  decode [0x704E0C85#32] = .ok (.fadd .always true .rup 0x106 0x085, []) ∧
  decode [0xD2040000#32] = .ok (.tsend .always 0 true, []) ∧
  decode [0xC8000005#32] = .ok (.tend .always 0 5, []) ∧
  decode [0xC8000100#32] = .ok (.tendOp0 .always 0, []) ∧
  decode [0x16000085#32, 7#32] = .ok (.gencl .always 7 0 0x085, []) ∧
  decode [0xF8000083#32, 0x11#32] = .ok (.ctlrd .always 0x011 0 0x083, []) ∧
  decode [0x70140085#32] = .error .unassigned ∧ decode [0x6E800000#32] = .error .reservedMajor ∧
  decode [0xD2080000#32] = .error .unassigned ∧ decode [0x16000085#32] = .error .truncated

/-- R46 to R48, R139 to R150: every well-formed instruction with an encoding is what its words decode to, with every operand
at every value the encoding admits, and the words after it are left. -/
def Obligations.DecodeOfEncodeIsTheInstruction : Prop := ∀ (i : Instr) (rest : List Word32),
  i.encodes = true → i.wf = true → decode (encode i ++ rest) = .ok (i, rest)

/-- R63, R139, R151: words that decode are the encoding of the well-formed instruction they decode to, so no two encodings
mean the same and no reserved bit is passed over; a reserved major is code 0x10 whatever its other fields hold. -/
def Obligations.DecodedWordsAreTheirOwnEncoding : Prop := ∀ (ws rest : List Word32) (i : Instr) (w : Word32),
  (decode ws = .ok (i, rest) → i.encodes = true ∧ i.wf = true ∧ ws = encode i ++ rest) ∧
  (isReserved (w.toNat / 2 ^ 25) = true → decode (w :: ws) = .error .reservedMajor)

/-- The model's memories: every step keeps each of them in its canonical form, addresses strictly rising and no byte equal to
what an unlisted address reads as (log entry 4), so that equal memories are equal data. -/
def Obligations.EveryStepKeepsTheMemoriesCanonical : Prop := ∀ s t : State, MemOk s → step s = .next t → MemOk t

/-- R350, R373, R396, R399, R409, R414, R419, R428, R432, R435: the machine after package reset has the register values the
tables state, no partition, nothing in flight and the boot at its start. The memories list nothing, in their canonical form;
what they read as is the model's choice (log entry 4). -/
def Obligations.ResetIsAsTheTablesState : Prop :=
  let s := State.reset
  MemOk s ∧ s.pkg.boot = .rom ∧ s.now = 0 ∧ s.pkg.netid = 0 ∧ s.pkg.mbstat = 0 ∧ s.pkg.inflow = 256 * 2064 ∧
  s.writes = [] ∧ s.cmds = [] ∧ s.tasks = [] ∧
  (∀ q, let p := s.part q
    p.configured = false ∧ p.xlctrl = 0 ∧ p.xlroot = 0 ∧ p.xltrapvec = 0 ∧ p.fqbase = 0 ∧ p.fqsize = 64 ∧ p.fqhead = 0 ∧
    p.fqtail = 0 ∧ p.fqlost = 0 ∧ p.evstat = 0 ∧ p.ecccorr = 0 ∧ p.eccunc = 0 ∧ p.scrubper = 24 ∧ p.tileroot = 0 ∧
    p.pwrctl = 3 ∧ p.vffloor = 0 ∧ p.vfceil = 9 ∧ p.govthr = 0x4000C000 ∧ p.droopcnt = 0 ∧ p.netjob = 0 ∧ p.nettgt = 2000 ∧
    p.inten = 0 ∧ p.intstat = 0 ∧ p.queue = [] ∧ p.tdisp = 0 ∧ p.debugOn = false) ∧
  (∀ d, let x := s.die d
    x.ctrl = 0 ∧ x.poolBase = 0 ∧ x.poolSize = 16384 ∧ x.saveBase = 0 ∧ x.saveSize = 0 ∧ x.slice = 0 ∧ x.frames = []) ∧
  (∀ b, (s.brick b).rfu = 4 ∧ (s.brick b).accu = 32) ∧ (∀ p, (s.pier p).owner = none) ∧
  (∀ c, (s.course c).vf = 9 ∧ (s.course c).cur = 9 ∧ (s.course c).target = 9 ∧ (s.course c).tceil = 15) ∧
  (∀ c, (s.ctx c).uid = 0 ∧ (s.ctx c).blks = [])

/-- R159: what the integer register instructions of two and three operands send, at 64 bits and in the W form.
R161: BITS counts leading and trailing zero bits and set bits and reverses bits and bytes; EXT extends.
R160: the immediate instructions compute as their register counterparts on the sign-extended immediate; a shift amount
is its low 6 bits, or 5 in the W form. -/
def Obligations.IntegerInstructionsGiveTheTabledResults : Prop :=
  (∀ (pr : Pr) (t1 t0 : Target),
  Two (.add pr · t1 t0) (· + ·) (· + ·) ∧
  Two (.sub pr · t1 t0) (· - ·) (· - ·) ∧
  Two (.mul pr · t1 t0) (· * ·) (· * ·) ∧
  Two (.mulh pr false · t1 t0) (fun x y => (x.signExtend 128 * y.signExtend 128).extractLsb' 64 64)
    (fun x y => (x.signExtend 64 * y.signExtend 64).extractLsb' 32 32) ∧
  Two (.mulh pr true · t1 t0) (fun x y => (x.setWidth 128 * y.setWidth 128).extractLsb' 64 64)
    (fun x y => (x.setWidth 64 * y.setWidth 64).extractLsb' 32 32) ∧
  Two (.div pr false · t1 t0)
    (fun x y => if y = 0 then BitVec.allOnes 64 else BitVec.ofInt 64 (x.toInt.tdiv y.toInt))
    (fun x y => if y = 0 then BitVec.allOnes 32 else BitVec.ofInt 32 (x.toInt.tdiv y.toInt)) ∧
  Two (.div pr true · t1 t0)
    (fun x y => if y = 0 then BitVec.allOnes 64 else BitVec.ofNat 64 (x.toNat / y.toNat))
    (fun x y => if y = 0 then BitVec.allOnes 32 else BitVec.ofNat 32 (x.toNat / y.toNat)) ∧
  Two (.rem pr false · t1 t0)
    (fun x y => if y = 0 then x else BitVec.ofInt 64 (x.toInt.tmod y.toInt))
    (fun x y => if y = 0 then x else BitVec.ofInt 32 (x.toInt.tmod y.toInt)) ∧
  Two (.rem pr true · t1 t0)
    (fun x y => if y = 0 then x else BitVec.ofNat 64 (x.toNat % y.toNat))
    (fun x y => if y = 0 then x else BitVec.ofNat 32 (x.toNat % y.toNat)) ∧
  Two (.and pr · t1 t0) (· &&& ·) (· &&& ·) ∧
  Two (.or pr · t1 t0) (· ||| ·) (· ||| ·) ∧
  Two (.xor pr · t1 t0) (· ^^^ ·) (· ^^^ ·) ∧
  Two (.andn pr · t1 t0) (fun x y => x &&& ~~~y) (fun x y => x &&& ~~~y) ∧
  Two (.shl pr · t1 t0) (fun x y => x <<< (y.extractLsb' 0 6).toNat) (fun x y => x <<< (y.extractLsb' 0 5).toNat) ∧
  Two (.shr pr · t1 t0) (fun x y => x >>> (y.extractLsb' 0 6).toNat) (fun x y => x >>> (y.extractLsb' 0 5).toNat) ∧
  Two (.sar pr · t1 t0) (fun x y => x.sshiftRight (y.extractLsb' 0 6).toNat)
    (fun x y => x.sshiftRight (y.extractLsb' 0 5).toNat) ∧
  Two (.rot pr · t1 t0) (fun x y => x.rotateLeft (y.extractLsb' 0 6).toNat)
    (fun x y => x.rotateLeft (y.extractLsb' 0 5).toNat) ∧
  Two (.min pr false · t1 t0) (fun x y => if x.toInt ≤ y.toInt then x else y) (fun x y => if x.toInt ≤ y.toInt then x else y) ∧
  Two (.min pr true · t1 t0) (fun x y => if x.toNat ≤ y.toNat then x else y) (fun x y => if x.toNat ≤ y.toNat then x else y) ∧
  Two (.max pr false · t1 t0) (fun x y => if x.toInt ≤ y.toInt then y else x) (fun x y => if x.toInt ≤ y.toInt then y else x) ∧
  Two (.max pr true · t1 t0) (fun x y => if x.toNat ≤ y.toNat then y else x) (fun x y => if x.toNat ≤ y.toNat then y else x) ∧
  Gives (.sel pr false t1 t0) (fun ops => if (opw ops 0).getLsbD 0 then opw ops 1 else opw ops 2) ∧
  Gives (.sel pr true t1 t0)
    (fun ops => ((if (opw ops 0).getLsbD 0 then opw ops 1 else opw ops 2).setWidth 32).signExtend 64) ∧
  Gives (.madd pr false t1 t0) (fun ops => opw ops 0 * opw ops 1 + opw ops 2) ∧
  Gives (.madd pr true t1 t0) (fun ops => ((opw ops 0 * opw ops 1 + opw ops 2).setWidth 32).signExtend 64)) ∧
  (∀ (pr : Pr) (t1 t0 : Target),
  let one (mk : Bool → Instr) (op : Word → Word) (opW : BitVec 32 → BitVec 32) : Prop :=
    Gives (mk false) (fun ops => op (opw ops 0)) ∧
    Gives (mk true) (fun ops => (opW ((opw ops 0).setWidth 32)).signExtend 64)
  one (.bits pr .clz · t1 t0) BitVec.clz BitVec.clz ∧
  one (.bits pr .ctz · t1 t0) BitVec.ctz BitVec.ctz ∧
  one (.bits pr .popc · t1 t0) BitVec.cpop BitVec.cpop ∧
  one (.bits pr .brev · t1 t0) BitVec.reverse BitVec.reverse ∧
  one (.bits pr .bswap · t1 t0)
    (fun x => x.extractLsb' 0 8 ++ x.extractLsb' 8 8 ++ x.extractLsb' 16 8 ++ x.extractLsb' 24 8 ++
      x.extractLsb' 32 8 ++ x.extractLsb' 40 8 ++ x.extractLsb' 48 8 ++ x.extractLsb' 56 8)
    (fun x => x.extractLsb' 0 8 ++ x.extractLsb' 8 8 ++ x.extractLsb' 16 8 ++ x.extractLsb' 24 8) ∧
  ∀ w : Bool,
    let fin (x : Word) : Word := if w then (x.setWidth 32).signExtend 64 else x
    Gives (.ext pr .b8 false w t1 t0) (fun ops => fin (((opw ops 0).setWidth 8).signExtend 64)) ∧
    Gives (.ext pr .b16 false w t1 t0) (fun ops => fin (((opw ops 0).setWidth 16).signExtend 64)) ∧
    Gives (.ext pr .b32 false w t1 t0) (fun ops => fin (((opw ops 0).setWidth 32).signExtend 64)) ∧
    Gives (.ext pr .b8 true w t1 t0) (fun ops => fin (((opw ops 0).setWidth 8).setWidth 64)) ∧
    Gives (.ext pr .b16 true w t1 t0) (fun ops => fin (((opw ops 0).setWidth 16).setWidth 64)) ∧
    Gives (.ext pr .b32 true w t1 t0) (fun ops => fin (((opw ops 0).setWidth 32).setWidth 64))) ∧
  (∀ (pr : Pr) (imm : BitVec 9) (t0 : Target),
  Imm (.addi pr · imm t0) imm (· + ·) (· + ·) ∧
  Imm (.muli pr · imm t0) imm (· * ·) (· * ·) ∧
  Imm (.andi pr · imm t0) imm (· &&& ·) (· &&& ·) ∧
  Imm (.ori pr · imm t0) imm (· ||| ·) (· ||| ·) ∧
  Imm (.xori pr · imm t0) imm (· ^^^ ·) (· ^^^ ·) ∧
  Imm (.shli pr · imm t0) imm (fun x y => x <<< (y.extractLsb' 0 6).toNat) (fun x y => x <<< (y.extractLsb' 0 5).toNat) ∧
  Imm (.shri pr · imm t0) imm (fun x y => x >>> (y.extractLsb' 0 6).toNat) (fun x y => x >>> (y.extractLsb' 0 5).toNat) ∧
  Imm (.sari pr · imm t0) imm (fun x y => x.sshiftRight (y.extractLsb' 0 6).toNat)
    (fun x y => x.sshiftRight (y.extractLsb' 0 5).toNat) ∧
  Imm (.mini pr false · imm t0) imm (fun x y => if x.toInt ≤ y.toInt then x else y)
    (fun x y => if x.toInt ≤ y.toInt then x else y) ∧
  Imm (.mini pr true · imm t0) imm (fun x y => if x.toNat ≤ y.toNat then x else y)
    (fun x y => if x.toNat ≤ y.toNat then x else y) ∧
  Imm (.maxi pr false · imm t0) imm (fun x y => if x.toInt ≤ y.toInt then y else x)
    (fun x y => if x.toInt ≤ y.toInt then y else x) ∧
  Imm (.maxi pr true · imm t0) imm (fun x y => if x.toNat ≤ y.toNat then y else x)
    (fun x y => if x.toNat ≤ y.toNat then y else x))

/-- R162, R164: a compare sends 1 when its condition holds of the operands, else 0; TBIT tests one bit. -/
def Obligations.ComparesSendOneWhenTheConditionHolds : Prop :=
  ∀ (pr : Pr) (c : Cond) (imm : BitVec 9) (t1 t0 : Target) s f b ops,
    let tok (i : Instr) (p : Prop) : Prop := Fires s f b i ops →
      (p → exec i s = .next (s.finish f i (both 1))) ∧ (¬ p → exec i s = .next (s.finish f i (both 0)))
    tok (.tcmp pr c false t1 t0) (CondSays c (opw ops 0) (opw ops 1)) ∧
    tok (.tcmp pr c true t1 t0) (CondSays c ((opw ops 0).setWidth 32) ((opw ops 1).setWidth 32)) ∧
    tok (.tcmpi pr c false imm t0) (CondSays c (opw ops 0) (imm.signExtend 64)) ∧
    tok (.tcmpi pr c true imm t0) (CondSays c ((opw ops 0).setWidth 32) (imm.signExtend 32)) ∧
    tok (.tbit pr false t1 t0) ((opw ops 0).getLsbD ((opw ops 1).extractLsb' 0 6).toNat = true) ∧
    tok (.tbit pr true t1 t0) ((opw ops 0).getLsbD ((opw ops 1).extractLsb' 0 6).toNat = false)

/-- R51, R54, R57: how a slot stands. One that holds a null, as an operand or as its predicate, resolves on it; one whose
predicate does not match is off, and a vector instruction then sends null (R230); one whose predicate, where it has one, matches
and whose operands are all there may fire on them; any other waits. One whose stream turn has not come waits too. -/
def Obligations.EveryInstructionWaitsOrResolvesBeforeItFires : Prop := ∀ (i : Instr) s f b, i.encodes = true → Idle s f b →
  let x := b.slot f.slot
  let args := [x.op0, x.op1, x.op2].take (nOpsOf i)
  let holdsNull : Prop := some Tok.null ∈ args ∨ x.pd = some .null
  let matching (m : Bool) : Prop := match prOf i with
    | .always => m = true
    | .onTrue => ∃ p, x.pd = some (.s p) ∧ p.getLsbD 0 = m
    | .onFalse => ∃ p, x.pd = some (.s p) ∧ p.getLsbD 0 = !m
  (holdsNull → x.ready i = .null) ∧
  (¬ holdsNull → matching false → x.ready i = .off) ∧
  (¬ holdsNull → matching true → (∀ o ∈ args, o ≠ none) → x.ready i = .go (args.filterMap id)) ∧
  (¬ holdsNull → matching true → (∃ o ∈ args, o = none) → x.ready i = .wait) ∧
  (¬ holdsNull → ¬ matching true → ¬ matching false → x.ready i = .wait) ∧
  (x.ready i = .wait → exec i s = .next s) ∧
  (x.ready i = .off → vecMember i = false →
    exec i s = .next ((s.modBlk f.ctx f.blk fun b => b.setSt f.slot .off).flush f.ctx)) ∧
  (x.ready i = .off → vecMember i = true → exec i s = .next ((s.modBlk f.ctx f.blk fun b =>
    (b.setSt f.slot .off).deliverAll f.slot ((targetsOf i).map fun t => (t, .null))).flush f.ctx)) ∧
  (x.ready i = .null →
    exec i s = .next ((s.modBlk f.ctx f.blk fun b => b.resolveNull f.slot i).flush f.ctx)) ∧
  (∀ ops, x.ready i = .go ops → b.streamReady f.slot i = false → exec i s = .next s)

/-- R52: a token goes to the operand it names; a second one there raises BAD_TARGET reason 0x01, and one that the operand
does not accept reason 0x02, held with the block. Target 0 is none. That a second one of a refused width too is reason 0x01 is the
model's choice (log entry 30). -/
def Obligations.TokensArriveOncePerOperandAndOfAnAcceptedWidth : Prop :=
  ∀ (b : Blk) (send : Nat) (t : Target) (tok : Tok) (n op : Nat), t.toNat = 128 * op + n → n < 128 →
    let refused (reason : Nat) : Blk := { b with traps := b.traps ++ [⟨3, badTargetInfo reason n op send, some send, some (t, tok)⟩] }
    (t = 0 → b.deliver send t tok = b) ∧
    (t ≠ 0 → (b.slot n).got op = true → b.deliver send t tok = refused 1) ∧
    (t ≠ 0 → (b.slot n).got op = false → ((instrAt b.body n).any fun i => acceptsTok i op tok) = false →
      b.deliver send t tok = refused 2) ∧
    (t ≠ 0 → n < b.slots.length → (b.slot n).got op = false → ((instrAt b.body n).any fun i => acceptsTok i op tok) = true →
      (b.deliver send t tok).traps = b.traps ∧ ((b.deliver send t tok).slot n).got op = true ∧
      (b.deliver send t tok).slot n = (b.slot n).put op tok send ∧
      ∀ m, m ≠ n → (b.deliver send t tok).slot m = b.slot m)

/-- R153 to R157: what the plumbing and constant instructions send, and what GWRITE and XWRITE resolve.
R53, R63, R153: g0 reads zero and m0 reads all ones, and a write of either resolves nothing and is discarded; in the
oldest block every other register reads as the context holds it. -/
def Obligations.PlumbingMovesReadsAndWritesTokens : Prop :=
  (∀ (pr : Pr) (t3 t2 t1 t0 : Target) s f b,
  (∀ r ops v, Fires s f b (.gread r t1 t0) ops → (s.ctx f.ctx).entryG f.blk r.toNat = some v →
    exec (.gread r t1 t0) s = .next (s.finish f (.gread r t1 t0) (both v))) ∧
  (∀ k r ops x, Fires s f b (.xread k r t1 t0) ops → (s.ctx f.ctx).entryTok f.blk k r.toNat = some x →
    exec (.xread k r t1 t0) s = .next (s.finish f (.xread k r t1 t0) [x, x])) ∧
  (∀ r ops, Fires s f b (.gwrite pr r) ops → r ≠ 0 → exec (.gwrite pr r) s =
    .next ((s.modBlk f.ctx f.blk fun b => b.resolveG f.slot r.toNat (some (opw ops 0))).finish f (.gwrite pr r) [])) ∧
  (∀ k r ops, Fires s f b (.xwrite pr k r) ops → ¬(k = .m ∧ r = 0) → exec (.xwrite pr k r) s =
    .next ((s.modBlk f.ctx f.blk fun b => b.resolveX f.slot k r.toNat ops.head?).finish f (.xwrite pr k r) [])) ∧
  (∀ x, Fires s f b (.mov pr t1 t0) [x] → exec (.mov pr t1 t0) s = .next (s.finish f (.mov pr t1 t0) [x, x])) ∧
  (∀ x, Fires s f b (.movl pr t3 t2 t1 t0) [x] →
    exec (.movl pr t3 t2 t1 t0) s = .next (s.finish f (.movl pr t3 t2 t1 t0) [x, x, x, x])) ∧
  (targetsOf (.movl pr t3 t2 t1 t0) = [t0, t1, t2, t3]) ∧
  Sends (.null pr t1 t0) (fun _ => [.null, .null]) ∧
  (∀ c : BitVec 16, Gives (.genc c t0) (fun _ => c.signExtend 64) ∧ Gives (.gencn c t0) (fun _ => c.setWidth 64) ∧
    Gives (.appc c t0) (fun ops => BitVec.ofNat 64 ((opw ops 0).toNat * 2 ^ 16 + c.toNat))) ∧
  (∀ c : Word32, Gives (.gencl pr c t1 t0) (fun _ => c.signExtend 64))) ∧
  (∀ s c k pr f b ops,
  (s.ctx c).entryG k 0 = some 0 ∧ (s.ctx c).entryM k 0 = some (BitVec.allOnes 128) ∧
  (s.ctx c).streamM k 0 = some (BitVec.allOnes 128) ∧
  (∀ r, 0 < r → r < 64 → (s.ctx c).entryG 0 r = (s.ctx c).g[r]?) ∧
  (∀ r, r < 32 → (s.ctx c).entryV 0 r = (s.ctx c).v[r]?) ∧
  (∀ r, r < 16 → (s.ctx c).entryH 0 r = (s.ctx c).h[r]?) ∧
  (∀ r, 0 < r → r < 8 → (s.ctx c).entryM 0 r = (s.ctx c).m[r]?) ∧
  (Fires s f b (.gwrite pr 0) ops → exec (.gwrite pr 0) s = .next (s.finish f (.gwrite pr 0) [])) ∧
  (Fires s f b (.xwrite pr .m 0) ops → exec (.xwrite pr .m 0) s = .next (s.finish f (.xwrite pr .m 0) [])))

/-- R98, R99, R165 to R168: a scalar floating-point instruction reads the low bits its width names, works in its format in
its rounding mode, sends the pattern and notes the flags with its block. -/
def Obligations.FloatInstructionsSendThePatternAndNoteTheFlags : Prop :=
  ∀ (pr : Pr) (d : Bool) (rm m : Rm) (t1 t0 : Target) s f b ops, (s.ctx f.ctx).modeAt f.blk rm = some m →
    let F := if d then fp64 else fp32
    let x := (opw ops 0).toNat % 2 ^ F.width
    let y := (opw ops 1).toNat % 2 ^ F.width
    let z := (opw ops 2).toNat % 2 ^ F.width
    let sends (i : Instr) (r : Nat × FFlags) : Prop := Fires s f b i ops →
      exec i s = .next ((s.flag f r.2).finish f i (both (BitVec.ofNat 64 r.1)))
    sends (.fadd pr d rm t1 t0) (F.add m x y) ∧ sends (.fsub pr d rm t1 t0) (F.sub m x y) ∧
    sends (.fmul pr d rm t1 t0) (F.mul m x y) ∧ sends (.fdiv pr d rm t1 t0) (F.div m x y) ∧
    sends (.fsqrt pr d rm t1 t0) (F.sqrt m x) ∧ sends (.fma pr d rm t1 t0) (F.fma m x y z) ∧
    sends (.fmin pr d t1 t0) (F.minmax false x y) ∧ sends (.fmax pr d t1 t0) (F.minmax true x y) ∧
    sends (.fclass pr d t1 t0) (F.fclass x, flagIf flagNV (F.val x).snan) ∧
    (∀ k, sends (.fsgn pr d k t1 t0) (fsgnVal k F x y)) ∧
    (∀ c, sends (.fcmp pr c d t1 t0) (fcmpVal c F x y)) ∧
    (∀ code : BitVec 5, fcvtRm code.toNat = rm → sends (.fcvt pr code t1 t0) (fcvtVal code.toNat m (opw ops 0).toNat))

/-- R98, R165: the special cases of the scalar arithmetic in each format: canonical NaNs with NV for a signalling operand or
an invalid operation, infinities, divisions by zero and signed zeros.
R98: a number a format represents rounds to itself in every mode, with no flag; subnormals are kept. -/
def Obligations.FloatSpecialCasesAreThoseOfTheTable : Prop :=
  (∀ F ∈ [fp32, fp64, bf16], ∀ (rm : Rm) (x y z : Nat) (n k : Bool),
    let nan (nv : Bool) : Nat × FFlags := (F.qnan, if nv then flagNV else 0)
    (∀ a b, F.val x = .nan a → F.val y = .nan b → F.add rm x y = nan (a || b) ∧ F.mul rm x y = nan (a || b)) ∧
    (∀ a, F.val x = .nan a → (F.val y).isNan = false → F.add rm x y = nan a ∧ F.sub rm x y = nan a ∧ F.mul rm x y = nan a ∧
      F.div rm x y = nan a ∧ F.sqrt rm x = nan a) ∧
    (F.val x = .inf n → F.val y = .inf (!n) → F.add rm x y = nan true) ∧
    (F.val x = .inf n → F.val y = .inf n → F.add rm x y = (F.infS n, 0) ∧ F.sub rm x y = nan true ∧ F.div rm x y = nan true) ∧
    (F.val x = .inf n → F.val y = .zero k → F.mul rm x y = nan true ∧ F.mul rm y x = nan true ∧ F.fma rm x y z = nan true) ∧
    (F.val x = .zero n → F.val y = .zero k → F.div rm x y = nan true ∧
      F.add rm x y = (F.zeroS (if n = k then n else decide (rm = .rdn)), 0)) ∧
    (∀ m e, F.val x = .fin n m e → F.val y = .zero k → F.div rm x y = (F.infS (n != k), flagDZ)) ∧
    (∀ m e, F.val x = .fin true m e → F.sqrt rm x = nan true) ∧
    (F.val x = .zero n → F.sqrt rm x = (F.zeroS n, 0)) ∧
    F.val F.qnan = .nan false ∧ fp32.qnan = 0x7FC00000 ∧ fp64.qnan = 0x7FF8000000000000 ∧ bf16.qnan = 0x7FC0) ∧
  (∀ F ∈ [fp32, fp64, bf16], ∀ (rm : Rm) (x : Nat), x < 2 ^ F.width → (F.val x).isNan = false → F.ofFV rm (F.val x) = (x, 0))

/-- R169 to R173: an exit that fires first names the block's successor or ends the task; a second exit raises
COMMIT_VIOLATION reason 0x02, with no item in TRAPINFO (the model's choice, log entry 35); CALLB also resolves g63 with the next sequential block address, YIELD is noted for commit.
R60, R174: TRAP raises USER_TRAP with its number as TRAPINFO, held with the block; an indirect exit to an address that
is no multiple of 16 raises MISALIGNED with the address. -/
def Obligations.ExitsNameTheSuccessorOrTheExitCode : Prop :=
  (∀ (pr : Pr) (e : BitVec 3) (off : BitVec 20) (code : BitVec 8) s f b ops,
    let there := (BitVec.ofInt 64 (b.addr + 16 * off.toInt)).toNat
    let exits (i : Instr) (x : ExitRec) (more : Blk → Blk) : Prop := Fires s f b i ops →
      (b.exit = none → exec i s = .next ((s.modBlk f.ctx f.blk fun b => more { b with exit := some x }).finish f i [])) ∧
      (b.exit ≠ none → exec i s =
        .next ((s.modBlk f.ctx f.blk fun b => more (b.hold 4 (violationInfo 2 f.slot 0 0) (some f.slot))).finish f i []))
    exits (.br pr e off) (.to f.slot there) id ∧
    exits (.callb pr e off) (.to f.slot there) (fun b => b.resolveG f.slot 63 (some (BitVec.ofNat 64 (seqAddr b.addr b.len)))) ∧
    exits (.yield pr e off) (.to f.slot there) (fun b => { b with effs := kset f.slot .yield b.effs }) ∧
    exits (.tend pr e code) (.tend f.slot code.toNat) id ∧
    exits (.tendOp0 pr e) (.tend f.slot ((opw ops 0).toNat % 2 ^ 32)) id ∧
    ((opw ops 0).toNat % 16 = 0 → exits (.bri pr e) (.to f.slot (opw ops 0).toNat) id ∧
      exits (.retb pr e) (.to f.slot (opw ops 0).toNat) id)) ∧
  (∀ (pr : Pr) (e : BitVec 3) (n : BitVec 8) s f b ops,
    let holds (i : Instr) (cause : Nat) (info : Word) : Prop := Fires s f b i ops →
      exec i s = .next (traps s f cause info)
    holds (.trap pr n) 0x0B (n.setWidth 64) ∧
    ((opw ops 0).toNat % 16 ≠ 0 → holds (.bri pr e) 5 (opw ops 0) ∧ holds (.retb pr e) 5 (opw ops 0)))

/-- R175 to R179: a control register reads at the value R177 gives it, and a write is noted for commit; a privileged register
in a user context raises PRIVILEGE with the subop and the register as TRAPINFO.
R183 to R185, R434: PTOK moves n tokens at once or none, HINT changes nothing, CYCRD sends CYCLE and the device time,
HALTD needs the partition's debug policy. -/
def Obligations.ControlRegistersReadWriteAndCheckPrivilege : Prop :=
  (∀ (pr : Pr) (reg : BitVec 12) (t1 t0 : Target) s f b ops,
    let x := s.ctx f.ctx
    let may : Prop := reg.toNat < 0x100 ∨ x.priv = true
    (Fires s f b (.ctlrd pr reg t1 t0) ops → f.blk = 0 ∨ ctlNeedsOldest reg.toNat = false → may →
      exec (.ctlrd pr reg t1 t0) s = .next (s.finish f (.ctlrd pr reg t1 t0) (both (s.ctlValue f.ctx f.blk reg.toNat)))) ∧
    (∀ i op, (i, op) ∈ [(Instr.ctlwr pr reg, 1), (.ctlset pr reg, 2), (.ctlclr pr reg, 3)] → Fires s f b i ops → f.blk = 0 →
      (may → exec i s = .next ((s.eff f (.ctl op reg.toNat (opw ops 0))).finish f i [])) ∧
      (¬ may → exec i s = .next (traps s f 0x0C (BitVec.ofNat 64 (op + 256 * reg.toNat))))) ∧
    (Fires s f b (.ctlrd pr reg t1 t0) ops → f.blk = 0 → ¬ may → exec (.ctlrd pr reg t1 t0) s =
      .next (traps s f 0x0C (BitVec.ofNat 64 (256 * reg.toNat)))) ∧
    s.ctlValue f.ctx f.blk 0x010 = x.poolsplit ∧ s.ctlValue f.ctx f.blk 0x011 = x.fpmode ∧ s.ctlValue f.ctx f.blk 0x021 = x.mxissue ∧
    s.ctlValue f.ctx f.blk 0x024 = x.bankconf ∧ s.ctlValue f.ctx f.blk 0x025 = x.trimsave ∧ s.ctlValue f.ctx f.blk 0x100 = x.trapvec ∧
    s.ctlValue f.ctx f.blk 0x101 = x.trapcause ∧ s.ctlValue f.ctx f.blk 0x102 = x.trapinfo ∧ s.ctlValue f.ctx f.blk 0x103 = x.savearea ∧
    (s.blk? f.ctx f.blk = some b → s.ctlValue f.ctx f.blk 0x111 = b.tileroot)) ∧
  (∀ (pr : Pr) (t1 t0 : Target) (code : BitVec 8) s f b ops q,
    let br := brickOfCtx f.ctx
    let n := (opw ops 0).toNat
    (Fires s f b (.ptok pr t1 t0) ops → 1 ≤ n → n ≤ 64 → 256 * n ≤ (s.brick br).bucket → (s.ctx f.ctx).held + n ≤ 64 →
      exec (.ptok pr t1 t0) s = .next (((((s.modBrick br fun x => { x with bucket := x.bucket - 256 * n }).modCtx f.ctx fun x =>
        { x with held := x.held + n }).modBlk f.ctx f.blk fun k => { k with grants := kset f.slot n k.grants })).finish f
          (.ptok pr t1 t0) (both 1))) ∧
    (Fires s f b (.ptok pr t1 t0) ops →
      n = 0 ∨ 64 < n ∨ (s.brick br).bucket < 256 * n ∨ 64 < (s.ctx f.ctx).held + n →
      exec (.ptok pr t1 t0) s = .next (s.finish f (.ptok pr t1 t0) (both 0))) ∧
    (∀ k, Sends (.hint pr k) fun _ => []) ∧
    (Fires s f b (.cycrd pr t1 t0) ops → exec (.cycrd pr t1 t0) s = .next (s.finish f (.cycrd pr t1 t0)
      [.s (BitVec.ofNat 64 (s.cycle br)), .s (BitVec.ofNat 64 s.now)])) ∧
    (Fires s f b (.haltd pr code) ops → s.partOfBrick br = some q →
      ((s.part q).debugOn = true → exec (.haltd pr code) s = .next ((s.eff f (.haltd code.toNat)).finish f (.haltd pr code) [])) ∧
      ((s.part q).debugOn = false → exec (.haltd pr code) s = .next (traps s f 0x0C 0x0B))))

/-- R150, R176 to R186: the privileged instructions in a privileged context note their effect for the commit of their block,
once it is the oldest; LEASE of a length of 0 or above 2^40 raises TRANSLATION with its base. CTXSV holds the full record of the
context as it stood at its block's entry, its resume block its own block (the model's choice, log entry 46).
R150: in a user context every privileged instruction raises PRIVILEGE with its subop as TRAPINFO, and changes nothing
but its own slot and block. -/
def Obligations.PrivilegedInstructionsLeaveTheirEffectForCommit : Prop :=
  (∀ (pr : Pr) s f b ops,
  let x := s.ctx f.ctx
  let leaves (i : Instr) (e : CEff) : Prop := Fires s f b i ops → f.blk = 0 → x.priv = true →
    exec i s = .next ((s.eff f e).finish f i [])
  leaves (.eret pr) .eret ∧
  (∀ k, leaves (.ttinv pr k) (.ttinv k (opw ops 0))) ∧
  (opw ops 1 ≠ 0 → (opw ops 1).toNat ≤ 2 ^ 40 →
    leaves (.leaseAdd pr) (.leaseAdd (opw ops 0).toNat (opw ops 1).toNat) ∧
    leaves (.leaseDrop pr) (.leaseDrop (opw ops 0).toNat (opw ops 1).toNat)) ∧
  (opw ops 1 = 0 ∨ 2 ^ 40 < (opw ops 1).toNat → ∀ i ∈ [Instr.leaseAdd pr, .leaseDrop pr],
    Fires s f b i ops → f.blk = 0 → x.priv = true → exec i s = .next (traps s f 7 (opw ops 0))) ∧
  leaves (.idle pr) (.idle ((opw ops 0).toNat % 2 ^ 32)) ∧
  (∀ t1 t0 t blk, Fires s f b (.ctxsv pr t1 t0) ops → f.blk = 0 → x.priv = true → s.taskOf f.ctx = some t →
    s.blk? f.ctx 0 = some blk → (opw ops 0).toNat % 64 = 0 → s.pmaBusy (brickOfCtx f.ctx) t.uid = false →
    s.checkRange t (brickOfCtx f.ctx) (opw ops 0) (fullMasks (naccOf x.poolsplit)).size 1 .write = none →
    s.accBad t.uid (fullMasks (naccOf x.poolsplit)) = false →
    let fenced := (x.blks.map fun b => (b.members.filter fun m => takesFence m.2).length).sum
    let y := x.atEntry
    let bytes := s.saveRecord { t.atEntry x.entry with fenceNewest := t.fenceNewest - fenced } y y.regs y.fpmode
      (fullMasks (naccOf x.poolsplit)) true blk.addr
    exec (.ctxsv pr t1 t0) s = .next ((s.eff f (.ctxsv (opw ops 0).toNat bytes)).finish f (.ctxsv pr t1 t0)
      (both (BitVec.ofNat 64 bytes.length)))) ∧
  (∀ t fixed bytes, Fires s f b (.ctxld pr) ops → f.blk = 0 → x.priv = true → s.taskOf f.ctx = some t →
    (opw ops 0).toNat % 64 = 0 → s.checkRange t (brickOfCtx f.ctx) (opw ops 0) 512 1 .read = none →
    s.readFlat t.part (brickOfCtx f.ctx) t.uid (opw ops 0).toNat 512 = some fixed →
    recordNa fixed ≤ naccOf x.poolsplit →
    s.checkRange t (brickOfCtx f.ctx) (opw ops 0) (masksOf fixed).size 1 .read = none →
    s.flatPoison t.part (brickOfCtx f.ctx) t.uid (opw ops 0).toNat (masksOf fixed).size = none →
    s.readFlat t.part (brickOfCtx f.ctx) t.uid (opw ops 0).toNat (masksOf fixed).size = some bytes →
    exec (.ctxld pr) s = .next ((s.eff f (.ctxld bytes)).finish f (.ctxld pr) []))) ∧
  (∀ (pr : Pr) (k : InvKind) (t1 t0 : Target) s f b ops i sub, (i, sub) ∈ [(Instr.eret pr, 0x04), (.ctxsv pr t1 t0, 0x05),
      (.ctxld pr, 0x06), (.ttinv pr k, 0x07), (.leaseAdd pr, 0x08), (.leaseDrop pr, 0x08), (.idle pr, 0x0D)] →
    Fires s f b i ops → f.blk = 0 → (s.ctx f.ctx).priv = false →
    exec i s = .next (traps s f 0x0C (BitVec.ofNat 64 sub)))

/-- R190, R191: every load waits for the stores of older blocks and for what its task has on its way to those bytes, sends the
bytes its block sees, sign-extended or not, and notes the read with its block; one that goes ahead of a lower LSID does so too
(log entry 9).
R29, R56, R232, R287: a read gives the bytes at their home where no store in view overlaps them, and the bytes of a store of
its own block with a lower LSID that covers them; a store with a higher LSID is not seen, and a dying or dead page reads zero. -/
def Obligations.LoadsSendTheBytesTheirBlockSees : Prop :=
  (∀ (pr : Pr) (ls : BitVec 5) (imm : BitVec 9) (sc : Scope) (d : Bool) (t0 : Target) s f b ops,
    let at' (n : Nat) : Word := opw ops 0 + imm.signExtend 64 * BitVec.ofNat 64 n
    let sends (i : Instr) (a : Word) (n : Nat) (conv : Word → Word) (alone : Prop) : Prop :=
      (∀ t l pte s', Fires s f b i ops → Readable s f b a n .read (.lsid ls.toNat) t l pte s' →
        ∃ u : State, exec i s = .next (u.finish f i [.s (conv (leWord (readBytes s' f b t l pte n (.lsid ls.toNat))))]) ∧
          (alone → u.blk? f.ctx f.blk = some { b with reads := b.reads ++ [readNote s' f b t l pte n (.lsid ls.toNat) a] })) ∧
      (∀ t l pte s', Fires s f b i ops → Allowed s f a n .read t l pte s' →
        (s'.ctx f.ctx).storesKnown f.blk = false ∨ s'.homeAhead f.ctx f.blk t l n = true ∨
          s'.partOwn f.ctx f.blk t.uid l n = true ∨ (b.ahead ls.toNat = true ∧ f.early = false) → exec i s = .next s)
    sends (.ldb pr ls imm t0) (at' 1) 1 (fun x => (x.setWidth 8).signExtend 64) True ∧
    sends (.ldbn pr ls imm t0) (at' 1) 1 id True ∧
    sends (.ldh pr ls imm t0) (at' 2) 2 (fun x => (x.setWidth 16).signExtend 64) True ∧
    sends (.ldhn pr ls imm t0) (at' 2) 2 id True ∧
    sends (.ldw pr ls imm t0) (at' 4) 4 (fun x => (x.setWidth 32).signExtend 64) True ∧
    sends (.ldwn pr ls imm t0) (at' 4) 4 id True ∧
    sends (.ldd pr ls imm t0) (at' 8) 8 id True ∧
    sends (.lda pr ls sc d t0) (opw ops 0) (if d then 8 else 4) id (b.loadsAbove ls.toNat none = [])) ∧
  (∀ (s : State) (c k uid i n cross : Nat) (l : PLoc) (b : Blk) (dead : Bool), (s.ctx c).blks[k]? = some b → b.higher i l = none →
    l.a % 8 + n ≤ 8 →
    ((∀ w ∈ s.writes, w.loc.sp = l.sp → overlaps w.loc.a w.bytes.length l.a n = false) →
      (∀ x ∈ (s.ctx c).blks.take (k + 1), ∀ w ∈ x.stores, w.loc.sp = l.sp →
        overlaps l.a n w.loc.a w.bytes.length = false) →
      (s.blockRead c k uid l n (.lsid i) dead cross).1 = if dead then List.replicate n 0 else mreadN l.a n (s.cells l.sp)) ∧
    (∀ pre w post j, b.stores = pre ++ w :: post → w.lsid = some j → j < i → w.performed = none → w.loc = l →
      w.bytes.length = n →
      (∀ x ∈ post, (∃ m, x.lsid = some m ∧ i ≤ m) ∨ overlaps l.a n x.loc.a x.bytes.length = false) →
      (s.blockRead c k uid l n (.lsid i) dead cross).1 = w.bytes))

/-- R189: the address check, in its order: past the flat space or at a hole of the windows TRANSLATION, misaligned
MISALIGNED, outside the lease LEASE_VIOLATION, no translation TRANSLATION, each with the address; and what the memory
instructions do with it. That a page which is mapped but not resident counts as one with no translation is the model's choice
(log entry 51). -/
def Obligations.AddressChecksTrapInTheirOrder : Prop :=
  (∀ (s : State) (t : Task) (br : Nat) (a : Word) (n : Nat) (acc : Acc),
    let win := s.spadLoc br a.toNat
    (2 ^ 57 ≤ a.toNat → s.check t br a n acc = (.bad 7 a, s)) ∧
    (a.toNat < 2 ^ 57 → win = some none → s.check t br a n acc = (.bad 7 a, s)) ∧
    (∀ l, a.toNat < 2 ^ 57 → win = some (some l) → s.check t br a n acc = (if a.toNat % n = 0 then .ok l 0 else .bad 5 a, s)) ∧
    (a.toNat < 2 ^ 57 → win = none → a.toNat % n ≠ 0 → s.check t br a n acc = (.bad 5 a, s)) ∧
    (a.toNat < 2 ^ 57 → win = none → a.toNat % n = 0 → t.inLease a.toNat n = false → s.check t br a n acc = (.bad 6 a, s)) ∧
    (∀ x s', a.toNat < 2 ^ 57 → win = none → a.toNat % n = 0 → t.inLease a.toNat n = true →
      s.xlate (unitOf br) t.part a.toNat acc = (x, s') → s.check t br a n acc = match x with
        | .ok tr => (.ok (tr.loc a.toNat) tr.pte, s')
        | _ => (.bad 7 a, s'))) ∧
  (∀ (pr : Pr) (ls : BitVec 5) (imm : BitVec 9) (sc : Scope) (d : Bool) (o : Order) (amo : AmoOp) (famo : FamoOp)
      (t1 t0 : Target) s f b ops i a n acc t c x s',
    let at' (n : Nat) : Word := opw ops 0 + imm.signExtend 64 * BitVec.ofNat 64 n
    let dw := if d then 8 else 4
    (i, a, n, acc) ∈ [(Instr.ldb pr ls imm t0, at' 1, 1, Acc.read), (.ldbn pr ls imm t0, at' 1, 1, .read),
      (.ldh pr ls imm t0, at' 2, 2, .read), (.ldhn pr ls imm t0, at' 2, 2, .read), (.ldw pr ls imm t0, at' 4, 4, .read),
      (.ldwn pr ls imm t0, at' 4, 4, .read), (.ldd pr ls imm t0, at' 8, 8, .read), (.lda pr ls sc d t0, opw ops 0, dw, .read),
      (.stb pr ls imm, at' 1, 1, .write), (.sth pr ls imm, at' 2, 2, .write), (.stw pr ls imm, at' 4, 4, .write),
      (.std pr ls imm, at' 8, 8, .write), (.stl pr ls sc d, opw ops 0, dw, .write),
      (.amo pr ls amo d sc o t1 t0, opw ops 0, dw, .write), (.cas pr ls d sc o t1 t0, opw ops 0, dw, .write),
      (.famo pr ls famo sc o t1 t0, opw ops 0, famoBytes famo, .write)] →
    Fires s f b i ops → s.taskOf f.ctx = some t → s.check t (brickOfCtx f.ctx) a n acc = (.bad c x, s') →
    exec i s = .next (traps s' f c x))

/-- R192, R193: a store that passes the address check is held with its block: the low bytes of its operand, little-endian,
in LSID order; it changes no memory before its block commits. Higher-LSID loads of its block that went ahead and read its bytes
are performed again, after it; where that cannot be, R56's order cannot be met, and the store is never performed (log entry 9).
R286 to R294: a write that has left its brick goes into the die cache, where its die sees it, or reaches its home, whose
bytes it then changes and no others where no die's cache holds a write of them; it waits for an earlier write of the same bytes
and for what its release covers. One to a dying page changes no byte. -/
def Obligations.StoresAreHeldWithTheirBlock : Prop :=
  (∀ (pr : Pr) (ls : BitVec 5) (imm : BitVec 9) (sc : Scope) (d : Bool) s f b ops,
    let at' (n : Nat) : Word := opw ops 0 + imm.signExtend 64 * BitVec.ofNat 64 n
    let holds (i : Instr) (a : Word) (n : Nat) (rel : Option Scope) : Prop := ∀ t l pte s', Fires s f b i ops →
      Allowed s f a n .write t l pte s' →
      let w : StoreRec := ⟨some ls.toNat, f.slot, l, leBytes n (opw ops 1).toNat, rel, a.toNat, pte, none⟩
      let early := b.readAbove ls.toNat l n
      (early = [] →
        exec i s = .next (((s'.modBlk f.ctx f.blk fun b => b.resolveLsid f.slot i).hold f w).finish f i []) ∧
        (s'.hold f w).blk? f.ctx f.blk = some { b with stores := insertStore w b.stores }) ∧
      ((∀ m ∈ early, b.canRefire m f.slot = true) → exec i s =
        .next ((((s'.again f early).modBlk f.ctx f.blk fun b => b.resolveLsid f.slot i).hold f w).finish f i [])) ∧
      ((∃ m ∈ early, b.canRefire m f.slot = false) → b.lsidTaken f.slot ls.toNat = false →
        exec i s = .next (s.modBlk f.ctx f.blk fun b => b.setSt f.slot .stuck))
    holds (.stb pr ls imm) (at' 1) 1 none ∧ holds (.sth pr ls imm) (at' 2) 2 none ∧ holds (.stw pr ls imm) (at' 4) 4 none ∧
    holds (.std pr ls imm) (at' 8) 8 none ∧ holds (.stl pr ls sc d) (opw ops 0) (if d then 8 else 4) (some sc)) ∧
  (∀ (s : State) (wid : Nat) (w : Write),
  s.writes.find? (fun x => x.id == wid) = some w →
  let after := s.writeStep w
  (s.writeReady w = false → exec (.writePerform wid) s = .next s) ∧
  (s.writeReady w = true → exec (.writePerform wid) s = .next (((s.writeBanks w).writeStep w).applyDrops w.uid)) ∧
  (w.nextLevel = .cache → ∃ ws, after.writes = ws ++ [{ w with cached := true }] ∧ ∀ x ∈ ws, x ∈ s.writes ∧ x.id ≠ w.id) ∧
  (w.nextLevel = .home → (∀ x ∈ after.writes, x ∈ s.writes ∧ x.id ≠ w.id) ∧
    (w.cached = true ∨ (∀ x ∈ s.writes, x.cached = true → x.loc.sp = w.loc.sp →
        overlaps x.loc.a x.bytes.length w.loc.a w.bytes.length = false) →
      (s.discOf w.pte = 0 → after.homeRead w.loc w.bytes.length = w.bytes ∧ MemKeptBut w.loc w.bytes.length s after) ∧
      (s.discOf w.pte = 1 → MemKept s after))))

/-- R194 to R198, R298: an atomic waits, busy, for its block to be the oldest and for what comes before it in its block; one that
depends on a higher-LSID read of its bytes is never performed (log entry 9); at its home it reads and writes in one step,
sends the value from before, and pins its block. -/
def Obligations.AtomicsReadAndWriteTheirHomeInOneStep : Prop :=
  (∀ (pr : Pr) (ls : BitVec 5) (op : AmoOp) (fo : FamoOp) (d : Bool) (sc : Scope) (o : Order) (t1 t0 : Target) s f b ops
      i n t l pte s',
    (i, n) ∈ [(Instr.amo pr ls op d sc o t1 t0, if d then 8 else 4), (.cas pr ls d sc o t1 t0, if d then 8 else 4),
      (.famo pr ls fo sc o t1 t0, famoBytes fo)] →
    Fires s f b i ops → Allowed s f (opw ops 0) n .write t l pte s' →
    (l.sp ≠ .host ∨ hostAtomic i = true → (∀ m ∈ b.readAbove ls.toNat l n, f.slot ∉ b.after [m]) → exec i s =
      .next ((s'.modBlk f.ctx f.blk fun b => b.resolveLsid f.slot i).modBlk f.ctx f.blk fun b => b.setSt f.slot .busy)) ∧
    (l.sp ≠ .host ∨ hostAtomic i = true → b.lsidTaken f.slot ls.toNat = false →
      (∃ m ∈ b.readAbove ls.toNat l n, f.slot ∈ b.after [m]) →
      exec i s = .next (s.modBlk f.ctx f.blk fun b => b.setSt f.slot .stuck)) ∧
    (l.sp = .host → hostAtomic i = false → exec i s = .next (traps s' f 8 (opw ops 0)))) ∧
  (∀ (s : State) (c slot n k : Nat) (f : Focus) (b : Blk) (i : Instr) t l pte sc o s',
    s.findBusy c slot (fun i => (atomicShape i).isSome) = some (f, b, i) → f.blk = 0 → s.taskOf c = some t →
    atomicShape i = some (n, sc, o) → storeLsid i = some k →
    let ops := (b.slot slot).ops i
    s.check t (brickOfCtx c) (opw ops 0) n .write = (.ok l pte, s') → s'.discOf pte = 0 → b.lowerKnown k = true →
    s.mayGo f b i t = true → b.beforeAtomic k l n (Order.rels o) = [] →
    s.pendingAt (dieOfCtx c) t.uid l n = [] → s.homePending t.uid l n = false →
    (∀ w ∈ s.writes, w.cached = true → w.loc.sp = l.sp → overlaps w.loc.a w.bytes.length l.word.a 8 = false) →
    (Order.rels o = true ∨ t.fenceNewest ≠ 0 → s.relReady t b = true) → s'.poisoned l n = false → l.a % 8 + n ≤ 8 →
    let old := leNat (s.homeRead l n)
    ∃ u : State, exec (.atomicPerform c slot) s = .next (u.finish f i (both (BitVec.ofNat 64 old))) ∧
      (u.blk? c 0).map (·.pinned) = some true ∧
      (NoSpills s f → b.resv = [] → MemKeptBut l n s u ∧
        u.homeRead l n = match atomicNew i old ops with
          | some x => leBytes n x
          | none => s.homeRead l n)) ∧
  (∀ (s : State) (c slot k : Nat) (f : Focus) (b : Blk) (i : Instr) t,
    s.findBusy c slot (fun i => (atomicShape i).isSome) = some (f, b, i) → s.taskOf c = some t → storeLsid i = some k →
    (∃ n l pte s', (atomicShape i).map (·.1) = some n ∧
      s.check t (brickOfCtx c) (opw ((b.slot slot).ops i) 0) n .write = (.ok l pte, s')) →
    f.blk ≠ 0 ∨ b.lowerKnown k = false ∨ s.mayGo f b i t = false → exec (.atomicPerform c slot) s = .next s) ∧
  (∀ (pr : Pr) (ls : BitVec 5) (d : Bool) (sc : Scope) (o : Order) (t1 t0 : Target) (v : Nat) ops,
    let n := if d then 64 else 32
    let y := BitVec.ofNat n v
    let x := (opw ops 1).setWidth n
    let new (op : AmoOp) (z : BitVec n) : Prop := atomicNew (.amo pr ls op d sc o t1 t0) v ops = some z.toNat
    let fnew (op : FamoOp) (z : Nat) : Prop := atomicNew (.famo pr ls op sc o t1 t0) v ops = some z
    new .add (y + x) ∧ new .and (y &&& x) ∧ new .or (y ||| x) ∧ new .xor (y ^^^ x) ∧ new .swap x ∧
    new .smin (if y.toInt < x.toInt then y else x) ∧ new .smax (if y.toInt < x.toInt then x else y) ∧
    new .nmin (if y.toNat < x.toNat then y else x) ∧ new .nmax (if y.toNat < x.toNat then x else y) ∧
    atomicNew (.cas pr ls d sc o t1 t0) v ops =
      (if v = x.toNat then some ((opw ops 2).setWidth n).toNat else none) ∧
    fnew .fadd32 (fp32.add .rne v ((opw ops 1).toNat % 2 ^ 32)).1 ∧ fnew .fadd64 (fp64.add .rne v (opw ops 1).toNat).1 ∧
    fnew .fmin32 (fp32.minmax false v ((opw ops 1).toNat % 2 ^ 32)).1 ∧
    fnew .fmax32 (fp32.minmax true v ((opw ops 1).toNat % 2 ^ 32)).1 ∧
    fnew .faddbf ((bf16.add .rne (v % 2 ^ 16) ((opw ops 1).toNat % 2 ^ 16)).1
      + 2 ^ 16 * (bf16.add .rne (v / 2 ^ 16 % 2 ^ 16) ((opw ops 1).toNat / 2 ^ 16 % 2 ^ 16)).1) ∧
    fnew .fmin64 (fp64.minmax false v (opw ops 1).toNat).1 ∧ fnew .fmax64 (fp64.minmax true v (opw ops 1).toNat).1)

/-- R199 to R202, R206, R207: a fence sends the token of its number and is recorded with its task; arming and disarming
tell what they will do and leave it for commit; FWAIT waits for the fence of its token; a fence performs once its covered
work has.
R208, R209: MWAIT sends the first value it reads that satisfies its condition, and until then stays busy, reading again
on a write or a poll; PREF does nothing to any value and never traps. -/
def Obligations.FencesSendTokensAndPerformAfterTheirWork : Prop :=
  ((∀ (pr : Pr) (sc : Scope) (k : FenceKind) (hm : BitVec 16) (flat : Bool) (t1 t0 : Target) (s : State) f b ops t,
    s.taskOf f.ctx = some t →
    let n := (b.slot f.slot).num
    let token := BitVec.ofNat 64 (0xFE * 2 ^ 56 + n)
    let noted (rs : Option (List (Option (Nat × Nat)))) : State :=
      s.modTask t.uid fun t => { t with fences := t.fences ++ [⟨n, b.ord, sc, k, rs, false⟩] }
    let fence := Instr.fence pr sc k t1 t0
    let fencer := Instr.fencer pr sc k hm flat t1 t0
    let arm := Instr.fencerArm pr hm flat t1 t0
    let disarm := Instr.fencerDisarm pr hm flat t1 t0
    let fwait := Instr.fwait pr t1 t0
    (Fires s f b fence ops → exec fence s = .next ((noted none).finish f fence (both token))) ∧
    (∀ rs, s.namedRanges f hm flat ops = .ok rs →
      (Fires s f b fencer ops → f.blk = 0 → exec fencer s = .next ((noted (some (rs.map fun r =>
        (keepsTracker (s.freeTrackers t) r.2.1).bind fun k => (kget? k (s.freeTrackers t)).bind fun x =>
          if x.arm < b.ord then some (k, x.arm) else none))).finish f fencer (both token))) ∧
      (Fires s f b arm ops → exec arm s =
        .next ((s.eff f (.arm rs)).finish f arm (both (maskOf (armAll 0 rs (s.freeTrackers t)).2)))) ∧
      (Fires s f b disarm ops → exec disarm s = .next ((s.eff f (.disarm rs)).finish f disarm
        (both (maskOf ((rs.filter fun r => (ownTracker (s.freeTrackers t) r.2.1).isSome).map (·.1))))))) ∧
    (∀ c x i, i ∈ [fencer, arm, disarm] → s.namedRanges f hm flat ops = .bad c x → Fires s f b i ops →
      exec i s = .next (traps s f c x)) ∧
    (Fires s f b fwait ops →
      (fenceNum (opw ops 0) = none → exec fwait s = .next (s.finish f fwait (both 1))) ∧
      (∀ m, fenceNum (opw ops 0) = some m → t.fenceNewest < m → exec fwait s = .next (s.finish f fwait (both 1))) ∧
      (∀ m, fenceNum (opw ops 0) = some m → m ≤ t.fenceNewest → (∃ r ∈ t.fences, r.num = m ∧ r.done = true) →
        exec fwait s = .next ((s.afterWait f).finish f fwait (both 0))) ∧
      (∀ m, fenceNum (opw ops 0) = some m → m ≤ t.fenceNewest → (∀ r ∈ t.fences, r.num = m → r.done = false) →
        exec fwait s = .next s)) ∧
    (0 < n → n < 2 ^ 32 → fenceNum token = some n)) ∧
  (∀ (s : State) (uid n : Nat) t, s.task? uid = some t →
    let mark (r : FenceRec) : FenceRec := if r.num = n ∧ s.fenceReady t r = true then { r with done := true } else r
    exec (.fencePerform uid n) s = .next (s.setTask uid { t with fences := t.fences.map mark }) ∧
    ∀ r ∈ t.fences, s.fenceReady t r = true → r.ord ≤ t.ords + 1 ∧
      (r.kind ≠ .acq → r.ranges = none → ∀ w ∈ s.writes, w.uid = t.uid → w.ord < r.ord → w.performedAt r.sc = true))) ∧
  (∀ (pr : Pr) (sc : Scope) (c : MCond) (t1 t0 : Target) (s : State) f b ops,
    let i := Instr.mwait pr sc c t1 t0
    let sat (v : Word) : Prop := match c with
      | .ne => v ≠ opw ops 1
      | .ge => (opw ops 1).toNat ≤ v.toNat
    let reads (s : State) (v : Word) : Prop := ∃ t l pte s', Readable s f b (opw ops 0) 8 .read .none t l pte s' ∧
      v = leWord (readBytes s' f b t l pte 8 .none)
    (∀ v, Fires s f b i ops → reads s v →
      (sat v → ∃ u : State, exec i s = .next (u.finish f i (both v))) ∧
      (¬ sat v → exec i s = .next (s.modBlk f.ctx f.blk fun b => b.setSt f.slot .busy))) ∧
    (∀ ctx slot v, s.findBusy ctx slot isMwait = some (f, b, i) → (b.slot f.slot).ops i = ops → reads s v →
      (sat v → ∃ u : State, exec (.monitorWrite ctx slot) s = .next (u.finish f i (both v))) ∧
      (¬ sat v → exec (.monitorWrite ctx slot) s = .next s)) ∧
    (∀ slot v t l pte s', s.findBusy f.ctx slot isMwait = some (f, b, i) → f.slot = slot → (b.slot slot).ops i = ops →
      Allowed s f (opw ops 0) 8 .read t l pte s' → l.sp = .host → reads s' v →
      (sat v → ∃ u : State, exec (.monitorPoll f.ctx slot) s = .next (u.finish f i (both v))) ∧
      (¬ sat v → exec (.monitorPoll f.ctx slot) s = .next s')) ∧
    (∀ ls imm, Sends (.pref pr ls imm) fun _ => []))

/-- R210 to R216, R354: TSPAWN and TFORK reserve a frame, send its id and leave its allocation for commit, tried again from
the oldest block where none was free and its die allocates; token sends and kills leave at commit; TSELF sends the task's own words. -/
def Obligations.SpawnsReserveAndSendsLeaveAtCommit : Prop :=
  (∀ (pr : Pr) (c : Bool) (n : BitVec 2) (slot : BitVec 3) (dec : Bool) (h : BitVec 4) (t1 t0 : Target) (s : State) f b ops t,
    s.taskOf f.ctx = some t →
    let die := dieOfCtx f.ctx
    let target := (opw ops 0).toNat % 2 ^ 20
    (∀ i cont fills fork, (i, cont, fills, fork) ∈
        [(Instr.tspawn pr c t1 t0, if c then some (opw ops 1) else none, [], false),
         (.tfork pr n t1 t0, none, (List.range n.toNat).map fun k => opw ops (k + 1), true)] →
      Fires s f b i ops →
      (s.tearing die t.graph = true → exec i s = .next (s.finish f i [.null, .null])) ∧
      (s.tearing die t.graph = false → (s.die die).ctrl.getLsbD 0 = true → s.classSettled f t (opw ops 0).toNat = true →
        (∀ cls, s.readClass t.part die (opw ops 0).toNat = .ok cls → contOk (cont.getD 0) = true →
          fills.length ≤ cls.scalars →
          (∀ r s', s.reserve die f.slot t = (some r, s') →
            exec i s = .next (((s'.modBlk f.ctx f.blk fun b => { b with resv := b.resv ++ [r] }).eff f
              (.spawn r cls (cont.getD cls.cont) fills fork)).finish f i (both (BitVec.ofNat 64 (die * 2 ^ 16 + r.idx))))) ∧
          (∀ s', s.reserve die f.slot t = (none, s') →
            exec i s = .next (s'.modBlk f.ctx f.blk fun b => b.setSt f.slot .busy))) ∧
        (s.readClass t.part die (opw ops 0).toNat = .rejected → exec i s =
          .next (traps s f 2 (BitVec.ofNat 64 (1 + (opw ops 0).toNat / 64 * 2 ^ 8)))))) ∧
    (Fires s f b (.tsend pr slot dec) ops → exec (.tsend pr slot dec) s = .next ((s.eff f
      (.send target slot.toNat dec (if dec then 0 else opw ops 1))).finish f (.tsend pr slot dec) [])) ∧
    (∀ x, (s.ctx f.ctx).streamH f.blk h.toNat = some x → Fires s f b (.tsendh pr h slot) ops →
      exec (.tsendh pr h slot) s = .next ((s.eff f (.sendh target slot.toNat x)).finish f (.tsendh pr h slot) [])) ∧
    (Fires s f b (.tkill pr) ops → exec (.tkill pr) s = .next ((s.eff f (.kill target)).finish f (.tkill pr) [])) ∧
    (∀ k w, (k, w) ∈ [(SelfSel.frame, BitVec.ofNat 64 t.frame), (.cls, BitVec.ofNat 64 t.cls.addr), (.graph, t.graph)] →
      Fires s f b (.tself pr k t1 t0) ops →
      exec (.tself pr k t1 t0) s = .next (s.finish f (.tself pr k t1 t0) (both w)))) ∧
  (∀ (s : State) ctx b t n i cont fills fork, s.blk? ctx 0 = some b → s.taskOf ctx = some t → b.firm = none →
    b.members.find? (fun m => (b.slot m.1).st == .busy && (spawnShape m.2 []).isSome) = some (n, i) →
    let f : Focus := ⟨ctx, 0, n, false⟩
    let ops := (b.slot n).ops i
    spawnShape i ops = some (cont, fills, fork) →
    (s.tearing (dieOfCtx ctx) t.graph = true → exec (.spawnRetry ctx) s = .next (s.finish f i [.null, .null])) ∧
    (s.tearing (dieOfCtx ctx) t.graph = false → (s.die (dieOfCtx ctx)).ctrl.getLsbD 0 = false →
      exec (.spawnRetry ctx) s = .next s) ∧
    (s.tearing (dieOfCtx ctx) t.graph = false → (s.die (dieOfCtx ctx)).ctrl.getLsbD 0 = true →
    (∀ s' id, s.spawn f t (opw ops 0) cont fills fork = .ok s' id →
      exec (.spawnRetry ctx) s = .next (s'.finish f i (both (BitVec.ofNat 64 id)))) ∧
    (∀ s', s.spawn f t (opw ops 0) cont fills fork = .full s' → exec (.spawnRetry ctx) s =
      .next (traps s' f 0x0A (opw ops 0)))))

/-- R217 to R220: BARA sends the phase it reads and leaves its arrival for commit; BARW completes on a phase above its
token; the home counts an arrival in one step, and the last one of a phase writes the course into the history, clears the
count and advances the phase. -/
def Obligations.BarriersCountArrivalsAndAdvanceTheirPhase : Prop :=
  (∀ (pr : Pr) (sc : Scope) (t1 t0 : Target) (s : State) f b ops t l pte s',
    let a := opw ops 0
    let bara := Instr.bara pr sc t1 t0
    let barw := Instr.barw pr sc t1 t0
    let r := BarRec.of (readBytes s' f b t l pte 64 .none)
    let phase := both (BitVec.ofNat 64 r.phase)
    Readable s f b a 64 .read .none t l pte s' → l.sp ≠ .host →
    (∀ l' pte' s'', Fires s f b bara ops → Allowed s f a 64 .write t l' pte' s'' → l'.sp ≠ .host →
      (r.ok = true → ∃ u : State, exec bara s = .next ((u.eff f (.arrive a.toNat sc)).finish f bara phase)) ∧
      (r.ok = false → ∃ u : State, exec bara s = .next (traps u f 0x13 a))) ∧
    (Fires s f b barw ops →
      (r.ok = true → (opw ops 1).toNat < r.phase → ∃ u : State, exec barw s = .next (u.finish f barw phase)) ∧
      (r.ok = true → r.phase ≤ (opw ops 1).toNat → exec barw s = .next s) ∧
      (r.ok = false → ∃ u : State, exec barw s = .next (traps u f 0x13 a)))) ∧
  (∀ (s : State) (id : Nat) (h : HomeOp) addr l sc, s.homeOps.find? (fun h => h.id == id) = some h →
    h.kind = .arrive addr l sc →
    let r := BarRec.of (s.homeRead l 64)
    let rest := s.homeOps.filter fun x => x.id != id
    let ready : Prop := s.depsDone h.deps .dev = true ∧ s.homeQuiet h = true
    let clean : Prop := (∀ w ∈ s.writes, w.cached = true → w.loc.sp = l.sp → overlaps w.loc.a w.bytes.length l.a 64 = false) ∧
      s.poisoned l 64 = false ∧ s.discOf (s.homePte h) = 0
    let noDrops : Prop := ∀ t, s.task? h.uid = some t → t.drops = []
    let course := courseOfBrick h.brick
    (¬ ready → exec (.barrierArrival id) s = .next s) ∧
    (ready → clean → noDrops → r.ok = true →
      let last : Prop := r.arrived + 1 = r.expected
      ∃ u : State, exec (.barrierArrival id) s = .next u ∧ u.homeOps = rest ∧ MemKeptBut l 24 s u ∧
        (last → mreadN l.a 24 (u.cells l.sp) = leBytes 8 (r.phase + 1) ++ leBytes 4 r.expected ++ leBytes 4 0 ++
          (r.hist.set (r.phase % 4) (course / 10 * 2 ^ 9 + course % 10 * 2 ^ 5)).flatMap (leBytes 2)) ∧
        (¬ last → mreadN l.a 24 (u.cells l.sp) =
          leBytes 8 r.phase ++ leBytes 4 r.expected ++ leBytes 4 (r.arrived + 1) ++ r.hist.flatMap (leBytes 2))) ∧
    (ready → clean → r.ok = false → exec (.barrierArrival id) s = .next (((({ s with homeOps := rest }.report h.part
      { cause := 0x13, source := 3, graph := h.graph, blk := h.blk, addr := addr, task := h.taskId, ctxId := h.ctxId }).1).graphError
        h.part h.graph).applyDrops h.uid)))

/-- R136, R137, R222 to R225: a ticket is issued only while the ring has room, an entry is popped only once its full bit is
set, each from the oldest block in one step at the home and pinning the block; QPEEK and QOCC read; QFILL and QINIT leave
for commit.
R137, R221, R223: at the ring's home, QINIT writes the header and clears the full bits, and QFILL writes the entry of its
ticket and sets its full bit; a ticket that is not issued, already taken or full changes nothing in the ring and is
reported. A poisoned header, which also is reported and changes nothing, is the model's reading (log entry 75). -/
def Obligations.RingInstructionsIssueAndPopInOrder : Prop :=
  (∀ (pr : Pr) (lg : BitVec 5) (t1 t0 : Target) (s : State) f b ops acc (r : RingHdr) (w : Who) (l : PLoc) pte s',
    let a := opw ops 0
    let qtkt := Instr.qtkt pr t1 t0
    let qfill := Instr.qfill pr
    let qpop := Instr.qpop pr t1 t0
    let qpeek := Instr.qpeek pr t1 t0
    let qocc := Instr.qocc pr t1 t0
    let entry := a.toNat + 64 + r.head % r.cap * (if r.big then 32 else 8)
    let value (bs : List Byte) : Word := if r.big then BitVec.ofNat 64 entry else leWord bs
    let may (i : Instr) (g : Bool) : Prop := ∃ b' t, s'.blk? f.ctx f.blk = some b' ∧ s'.taskOf f.ctx = some t ∧
      s'.mayGo f b' i t = g
    let pinned := (s'.modBlk f.ctx f.blk fun b => { b with pinned := true }).squashReaders f.ctx f.blk l 64
    (∀ t l pte s'', Fires s f b (.qinit pr lg) ops → Allowed s f a 64 .write t l pte s'' → l.sp ≠ .host →
      ((opw ops 1).toNat / 2) % 4 = 0 →
      s.checkRange t (brickOfCtx f.ctx) (opw ops 1 &&& ~~~7) ((2 ^ lg.toNat + 63) / 64 * 8) 1 .write = none →
      exec (.qinit pr lg) s = .next ((s.eff f (.qinit a.toNat lg.toNat (opw ops 1))).finish f (.qinit pr lg) [])) ∧
    (s.ringHdr f a acc = .ok r w l pte s' →
    (Fires s f b qtkt ops → acc = .write →
      (f.blk = 0 → r.occ < r.cap → may qtkt true → exec qtkt s =
        .next ((pinned.writeNow l (leBytes 8 (r.ticket + 1)) pte).finish f qtkt (both (BitVec.ofNat 64 r.ticket)))) ∧
      (f.blk ≠ 0 ∨ r.cap ≤ r.occ ∨ may qtkt false → exec qtkt s = .next s)) ∧
    (Fires s f b qfill ops → acc = .write → r.big = false →
      exec qfill s = .next ((s'.eff f (.qfill a.toNat (opw ops 1) (opw ops 2))).finish f qfill [])) ∧
    (∀ t, Fires s f b qfill ops → acc = .write → r.big = true → s.taskOf f.ctx = some t → 
      s'.checkRange t (brickOfCtx f.ctx) (opw ops 2) 32 8 .read = none →
      exec qfill s = .next ((s'.eff f (.qfill a.toNat (opw ops 1) (opw ops 2))).finish f qfill [])) ∧
    (Fires s f b qpop ops → acc = .write → s'.ringBitBad w r r.head = none →
      (f.blk ≠ 0 ∨ s'.ringFull w r r.head = false → exec qpop s = .next s) ∧
      (∀ bs, f.blk = 0 → may qpop true → s'.ringFull w r r.head = true → s'.ringRead w entry 8 = some bs →
        s'.flatPoison w.q w.b 0 entry 8 = none → exec qpop s =
          .next (((pinned.ringMark w r r.head false).writeNow ⟨l.sp, l.a + 8⟩ (leBytes 8 (r.head + 1)) pte).finish f qpop
            [.s (value bs), .s (BitVec.ofNat 64 r.head)]))) ∧
    (Fires s f b qpeek ops → acc = .read → s'.ringBitBad w r r.head = none →
      (s'.ringFull w r r.head = false → exec qpeek s = .next (s'.finish f qpeek (both 0))) ∧
      (∀ bs, s'.ringFull w r r.head = true → s'.ringRead w entry 8 = some bs → s'.flatPoison w.q w.b 0 entry 8 = none →
        exec qpeek s = .next (s'.finish f qpeek [.s (value bs), .s 1]))) ∧
    (Fires s f b qocc ops → acc = .read → r.head ≤ r.ticket → r.ticket < 2 ^ 64 → exec qocc s =
      .next (s'.finish f qocc [.s (BitVec.ofNat 64 (r.ticket - r.head)), .s (BitVec.ofNat 64 r.head)])))) ∧
  (∀ (s : State) (id : Nat) (h : HomeOp),
  s.homeOps.find? (fun h => h.id == id) = some h →
  let rest : State := { s with homeOps := s.homeOps.filter fun y => y.id != id }
  let w : Who := ⟨h.part, h.brick, h.uid⟩
  (s.homeQuiet h = false → exec (.qfillHome id) s = .next s ∧ exec (.qinitHome id) s = .next s) ∧
  (s.homeQuiet h = true →
    (∀ a l lg x, h.kind = .qinit a l lg x →
      let arr := (x &&& ~~~7).toNat
      exec (.qinitHome id) s = .next (((rest.writeNow l
        (leBytes 16 0 ++ leBytes 8 arr ++ leBytes 4 (2 ^ lg) ++ leBytes 1 (x.toNat % 2)) (s.homePte h)).writeFlat h.part h.brick
          arr (List.replicate ((2 ^ lg + 63) / 64 * 8) 0)).applyDrops h.uid)) ∧
    (∀ a l tk v data, h.kind = .qfill a l tk v data →
      let home := rest.drainLines l 64 fun _ => false
      let dead := home.dying (home.homePte h)
      let r := RingHdr.of (if dead then List.replicate 64 0 else home.homeRead l 64)
      let t := tk.toNat
      let clean : Prop := (home.poisoned l 64 = false ∨ dead = true) ∧ (r.ok = true → home.ringBitBad w r t = none)
      let may : Prop := r.ok = true ∧ r.head ≤ t ∧ t < r.ticket ∧ home.ringFull w r t = false
      (clean → may → exec (.qfillHome id) s = .next (((home.writeFlat h.part h.brick
        (a + 64 + t % r.cap * (if r.big then 32 else 8)) (data.take (if r.big then 32 else 8))).ringMark w r t true).applyDrops h.uid)) ∧
      let misuse : FaultRec := { cause := 0x12, source := 3, graph := h.graph, blk := h.blk, addr := a, task := h.taskId,
                                 ctxId := h.ctxId, item := t }
      (clean → ¬ may → exec (.qfillHome id) s =
        .next (((home.report h.part misuse).1.graphError h.part h.graph).applyDrops h.uid)) ∧
      (home.poisoned l 64 = true → dead = false → exec (.qfillHome id) s =
        .next (((home.report h.part { misuse with cause := 0x0F }).1.graphError h.part h.graph).applyDrops h.uid)))))

/-- R29, R188: an instruction acts on registers only through the commit of its block: whatever fires, or fails to, every
register, exception register and mode of every context is as before (PTOK's tokens and the count of bank conflicts apart),
and no command, write or home operation has left a brick.
R29, R192: no instruction changes a byte of memory when it fires, or sends a pending write on, where neither its block nor a
younger one gives back a frame's record with it, but for QTKT and QPOP, which act at the ring's home, and TSPAWN and TFORK,
which may reserve a spill record; QFILL, QPEEK and QOCC first send home what a die's cache holds of the ring's header. -/
def Obligations.FiringChangesNoRegisterAndNoMemory : Prop :=
  (∀ (i : Instr) (s t : State), i.encodes = true → exec i s = .next t →
  RegsKept s t ∧ t.writes.Sublist s.writes ∧ t.homeOps = s.homeOps ∧ t.cmds = s.cmds) ∧
  (∀ (i : Instr) (s t : State) f, i.encodes = true → exec i s = .next t →
  s.focus = some f → (∀ b ∈ (s.ctx f.ctx).blks.drop f.blk, b.resv = []) →
  (match i with
    | .qtkt .. | .qpop .. | .tspawn .. | .tfork .. => False
    | .qfill .. | .qpeek .. | .qocc .. => ∀ w ∈ s.writes, w.cached = false
    | _ => True) → MemKept s t ∧ t.writes = s.writes)

/-- R231, R234: a vector load reads its active lanes in ascending order and keeps the others; a vector store holds the active
lanes with its block, in ascending order; lane i of the three forms is at base + i × size, base + i × step, and base + the
signed index lane × size; the first lane whose address fails its check gives the
trap, before any lane is read. -/
def Obligations.VectorMemoryMovesItsActiveLanes : Prop :=
  ∀ (pr : Pr) (ty : ElemTy) (m : BitVec 3) (vd vb : BitVec 5) (s : State) f b ops ix old mk,
    let x := s.ctx f.ctx
    let at' : List LaneAddr := [.unit (opw ops 0), .stride (opw ops 0) (opw ops 1), .index (opw ops 0) (lanesOf ty ix)]
    x.streamV f.blk vb.toNat = some ix → x.streamV f.blk vd.toNat = some old → x.streamM f.blk m.toNat = some mk →
    let lanes := (List.range ty.lanes).filter fun i => mk.getLsbD i
    (∀ i a, (i, a) ∈ [(Instr.vld pr ty m vd, at'.getD 0 (.unit 0)), (.vlds pr ty m vd, at'.getD 1 (.unit 0)),
        (.vldx pr ty m vd vb, at'.getD 2 (.unit 0))] → Fires s f b i ops →
      (∀ t, s.taskOf f.ctx = some t →
        (∀ s₁, checkLanes t (brickOfCtx f.ctx) ty a .read lanes s = (none, s₁) →
          (∀ s' ls, loadLanes f ty a lanes (lanesOf ty old) s₁ = (.bytes [] s', ls) →
            exec i s = .next ((s'.setV f vd.toNat (ofLanes ty.bytes ls)).finish f i [])) ∧
          (∀ s' c w ls, loadLanes f ty a lanes (lanesOf ty old) s₁ = (.trap s' c w, ls) → exec i s = .next (traps s' f c w)) ∧
          (∀ k l pte s', lanes = [k] → Readable s₁ f b (a.at ty k) ty.bytes .read (.vec f.slot) t l pte s' →
            ∃ (u : State) (r : VecVal), exec i s = .next ((u.setV f vd.toNat r).finish f i []) ∧
              laneOf r ty.bytes k = leNat (readBytes s' f b t l pte ty.bytes (.vec f.slot)) ∧
              ∀ j, j < ty.lanes → j ≠ k → laneOf r ty.bytes j = laneOf old ty.bytes j)) ∧
        (∀ c w s₁, checkLanes t (brickOfCtx f.ctx) ty a .read lanes s = (some (c, w), s₁) → exec i s = .next (traps s₁ f c w)))) ∧
    (∀ i a t, (i, a) ∈ [(Instr.vst pr ty m vd, at'.getD 0 (.unit 0)), (.vsts pr ty m vd, at'.getD 1 (.unit 0)),
        (.vstx pr ty m vd vb, at'.getD 2 (.unit 0))] → Fires s f b i ops → s.taskOf f.ctx = some t →
      (∀ s', storeLanes f t ty a (lanesOf ty old) lanes s = .done s' [] → exec i s = .next (s'.finish f i [])) ∧
      (∀ k l pte s', lanes = [k] → Allowed s f (a.at ty k) ty.bytes .write t l pte s' →
        exec i s = .next ((s'.hold f ⟨none, f.slot, l, leBytes ty.bytes (laneOf old ty.bytes k), none, (a.at ty k).toNat, pte,
          none⟩).finish f i [])) ∧
      (∀ s' c w, storeLanes f t ty a (lanesOf ty old) lanes s = .trap s' c w → exec i s = .next (traps
        (s'.modBlk f.ctx f.blk fun b => { b with stores := b.stores.filter fun x => x.slot != f.slot }) f c w))) ∧
    (∀ base step k, (LaneAddr.unit base).at ty k = base + BitVec.ofNat 64 (k * ty.bytes) ∧
      (LaneAddr.stride base step).at ty k = base + BitVec.ofNat 64 k * step ∧
      (LaneAddr.index base (lanesOf ty ix)).at ty k = if k < ty.lanes then
        base + BitVec.ofInt 64 ((BitVec.ofNat (8 * ty.bytes) (laneOf ix ty.bytes k)).toInt * ty.bytes) else base)

/-- R103, R229, R235 to R237, R244: what the lane-wise vector instructions put into each active lane. The approximate functions
have R103's exact cases and flags; every other result of VRCP and VRSQ lies within its bound of an enclosure that holds the exact
result, and of VEXP2 and VLOG2 within its bound of the enclosure the model computes (log entry 8), or is that enclosure's nearest
value. Which value inside the bound comes out is free. -/
def Obligations.VectorLanesComputeTheTabledResults : Prop :=
  ∀ (pr : Pr) (ty : ElemTy) (m : BitVec 3) (vd va vb : BitVec 5) (amt : BitVec 6),
    let n := 8 * ty.bytes
    let z (x : Nat) : BitVec n := BitVec.ofNat n x
    let one (i : Instr) (op : Rm → Nat → Nat → Nat × FFlags) : Prop :=
      LaneWise i ty m vd [va] fun _ rm _ xs o => op rm (xs.getD 0 0) o
    let two (i : Instr) (op : Rm → Nat → Nat → Nat → Nat × FFlags) : Prop :=
      LaneWise i ty m vd [va, vb] fun _ rm _ xs o => op rm (xs.getD 0 0) (xs.getD 1 0) o
    LaneWise (.vbcst pr ty m vd) ty m vd [] (fun ops _ _ _ _ => ((opw ops 0).toNat, 0)) ∧
    one (.vmov pr ty m vd va) (fun _ x _ => (x, 0)) ∧
    two (.vand pr ty m vd va vb) (fun _ x y _ => (x &&& y, 0)) ∧
    two (.vor pr ty m vd va vb) (fun _ x y _ => (x ||| y, 0)) ∧
    two (.vxor pr ty m vd va vb) (fun _ x y _ => (x ^^^ y, 0)) ∧
    (∀ F, ty.fmt = some F →
      two (.vadd pr ty m vd va vb) (fun rm x y _ => F.add rm x y) ∧ two (.vsub pr ty m vd va vb) (fun rm x y _ => F.sub rm x y) ∧
      two (.vmul pr ty m vd va vb) (fun rm x y _ => F.mul rm x y) ∧ two (.vdiv pr ty m vd va vb) (fun rm x y _ => F.div rm x y) ∧
      two (.vfma pr ty m vd va vb) (fun rm x y o => F.fma rm x y o) ∧
      two (.vmin pr ty m vd va vb) (fun _ x y _ => F.minmax false x y) ∧
      two (.vmax pr ty m vd va vb) (fun _ x y _ => F.minmax true x y) ∧
      one (.vabs pr ty m vd va) (fun _ x _ => fsgnVal .abs F x 0) ∧ one (.vneg pr ty m vd va) (fun _ x _ => fsgnVal .neg F x 0)) ∧
    (ty.fmt = none →
      two (.vadd pr ty m vd va vb) (fun _ x y _ => (x + y, 0)) ∧
      two (.vsub pr ty m vd va vb) (fun _ x y _ => ((z x - z y).toNat, 0)) ∧
      two (.vmul pr ty m vd va vb) (fun _ x y _ => (x * y, 0)) ∧
      (ty = .n32 → two (.vdiv pr ty m vd va vb) (fun _ x y _ => (if y = 0 then 2 ^ n - 1 else x / y, 0))) ∧
      (ty ≠ .n32 → two (.vdiv pr ty m vd va vb)
        (fun _ x y _ => (if y = 0 then 2 ^ n - 1 else (BitVec.ofInt n ((z x).toInt.tdiv (z y).toInt)).toNat, 0))) ∧
      (ty = .n32 →
        two (.vmin pr ty m vd va vb) (fun _ x y _ => (Nat.min x y, 0)) ∧ two (.vmax pr ty m vd va vb) (fun _ x y _ => (Nat.max x y, 0))) ∧
      (ty ≠ .n32 →
        two (.vmin pr ty m vd va vb) (fun _ x y _ => (if (z x).toInt ≤ (z y).toInt then x else y, 0)) ∧
        two (.vmax pr ty m vd va vb) (fun _ x y _ => (if (z x).toInt ≤ (z y).toInt then y else x, 0))) ∧
      one (.vabs pr ty m vd va) (fun _ x _ => ((if (z x).toInt < 0 then -z x else z x).toNat, 0)) ∧
      one (.vneg pr ty m vd va) (fun _ x _ => ((-z x).toNat, 0)) ∧
      two (.vshl pr ty m vd va vb amt) (fun _ x y _ => (x * 2 ^ (if amt = 0 then y % n else amt.toNat % n), 0)) ∧
      two (.vshr pr ty m vd va vb amt) (fun _ x y _ => (x / 2 ^ (if amt = 0 then y % n else amt.toNat % n), 0)) ∧
      two (.vsar pr ty m vd va vb amt)
        (fun _ x y _ => (((z x).sshiftRight (if amt = 0 then y % n else amt.toNat % n)).toNat, 0))) ∧
    (∀ F, ty.fmt = some F → ty ≠ .bf16 →
      one (.vrcp pr ty m vd va) (fun _ x _ => Fn.eval .rcp F x) ∧ one (.vrsq pr ty m vd va) (fun _ x _ => Fn.eval .rsq F x) ∧
      one (.vexp2 pr ty m vd va) (fun _ x _ => Fn.eval .exp2 F x) ∧ one (.vlog2 pr ty m vd va) (fun _ x _ => Fn.eval .log2 F x)) ∧
    (ty = .bf16 →
      one (.vrcp pr ty m vd va) (fun _ x _ => Fn.evalBf .rcp x) ∧ one (.vrsq pr ty m vd va) (fun _ x _ => Fn.evalBf .rsq x) ∧
      one (.vexp2 pr ty m vd va) (fun _ x _ => Fn.evalBf .exp2 x) ∧ one (.vlog2 pr ty m vd va) (fun _ x _ => Fn.evalBf .log2 x)) ∧
    (∀ F w, F = fp32 ∨ F = fp64 →
      let gives (fn : Fn) (r : Nat) (fl : FFlags) : Prop := Fn.eval fn F w = (r, fl)
      let nearly (fn : Fn) (y : Encl) (fl : FFlags) : Prop :=
        ∃ r, gives fn r fl ∧ (y.near F fn.bound (F.val r) = true ∨ r = y.nearest F)
      let unit := F.bias * 2 ^ F.fw
      (∀ fn nv, F.val w = .nan nv → gives fn F.qnan (if nv then flagNV else 0)) ∧
      (∀ sg, F.val w = .zero sg → gives .rcp (F.infS sg) flagDZ ∧ gives .rsq (F.infS sg) flagDZ ∧ gives .exp2 unit 0 ∧
        gives .log2 (F.infS true) flagDZ) ∧
      (∀ sg, F.val w = .inf sg → gives .rcp (F.zeroS sg) 0 ∧ gives .exp2 (if sg then 0 else F.inf) 0 ∧
        (sg = true → gives .rsq F.qnan flagNV ∧ gives .log2 F.qnan flagNV) ∧
        (sg = false → gives .rsq 0 0 ∧ gives .log2 F.inf 0)) ∧
      (w = unit → gives .rcp unit 0 ∧ gives .rsq unit 0 ∧ gives .log2 0 0) ∧
      (∀ sg c e, F.val w = .fin sg c e →
        let x : ℚ := c * (2 : ℚ) ^ e
        let holds (y : Encl) (p : ℚ → Prop) (q : ℚ → Prop) : Prop := p (y.lo * (2 : ℚ) ^ y.e) ∧ q (y.hi * (2 : ℚ) ^ y.e)
        (∃ y : Encl, y.neg = sg ∧ holds y (· * x ≤ 1) (1 ≤ · * x) ∧ nearly .rcp y 0) ∧
        (sg = true → gives .rsq F.qnan flagNV ∧ gives .log2 F.qnan flagNV) ∧
        (sg = false → (∃ y : Encl, y.neg = false ∧ holds y (fun v => v * v * x ≤ 1) (fun v => 1 ≤ v * v * x) ∧ nearly .rsq y 0) ∧
          ((∃ k : ℤ, x = (2 : ℚ) ^ k) → ∃ r, gives .log2 r 0 ∧ ∀ k : ℤ, x = (2 : ℚ) ^ k →
            numOf (F.val r) = some (k : ℚ)) ∧
          ((∀ k : ℤ, x ≠ (2 : ℚ) ^ k) → nearly .log2 (log2Encl c e) 0)) ∧
        (∀ k : ℤ, (if sg then -x else x) = k → F.qmin ≤ k → k ≤ F.bias → ∃ r, gives .exp2 r 0 ∧
          numOf (F.val r) = some ((2 : ℚ) ^ k)) ∧
        (F.bias + 1 ≤ (if sg then -x else x) → gives .exp2 F.inf flagOF) ∧
        ((∀ k : ℤ, (if sg then -x else x) ≠ k) → (if sg then -x else x) < F.bias + 1 →
          nearly .exp2 (exp2Encl F sg c e) 0 ∨ (nearly .exp2 (exp2Encl F sg c e) flagOF ∧ gives .exp2 F.inf flagOF))))

/-- R238 to R243, R245, R246: compares, selections, conversions, scans, permutations, slices and planes, lane by lane, with the
old lane where the mask is off; VRED's sum of integer lanes. -/
def Obligations.VectorShufflesAndReductionsFollowTheirLanes : Prop :=
  ∀ (pr : Pr) (ty src : ElemTy) (m md : BitVec 3) (vd va vb : BitVec 5) (c : VCond) (op : RedOp) (part : BitVec 3) (pk : Bool)
    (t1 t0 : Target) (s : State) f b ops x y old mk rm,
    let X := s.ctx f.ctx
    X.streamV f.blk va.toNat = some x → X.streamV f.blk vb.toNat = some y → X.streamV f.blk vd.toNat = some old →
    X.streamM f.blk m.toNat = some mk → X.modeAt f.blk .dyn = some rm →
    let n := ty.bytes
    let was (k : Nat) := laneOf old n k
    let on (k : Nat) (v : Nat) : Nat := if mk.getLsbD k then v else was k
    (Fires s f b (.vcmp pr ty m md va vb c) ops → ∃ r, exec (.vcmp pr ty m md va vb c) s =
      .next (((s.setM f md.toNat r).flag f (flagIf flagNV ((activeLanes ty mk).any fun k =>
        (vcond c ty (laneOf x n k) (laneOf y n k)).2))).finish f (.vcmp pr ty m md va vb c) []) ∧
      ∀ k, k < 128 → r.getLsbD k = (decide (k < ty.lanes) && mk.getLsbD k && (vcond c ty (laneOf x n k) (laneOf y n k)).1)) ∧
    (Fires s f b (.vsel pr ty m vd va vb) ops → WritesLanes (.vsel pr ty m vd va vb) s f ty vd 0 fun k =>
      if mk.getLsbD k then laneOf x n k else laneOf y n k) ∧
    (Fires s f b (.vperm pr ty m vd va vb) ops → WritesLanes (.vperm pr ty m vd va vb) s f ty vd 0 fun k =>
      on k (laneOf x n (laneOf y n k % ty.lanes))) ∧
    (Fires s f b (.vcvt pr ty m vd va src part) ops → ∃ fl, WritesLanes (.vcvt pr ty m vd va src part) s f ty vd fl fun k =>
      match cvtFrom ty.lanes src.lanes part.toNat k with
      | some j => on k ((cvtLane ty src rm (laneOf x src.bytes j)).1 % 2 ^ (8 * n))
      | none => was k) ∧
    (Fires s f b (.vscan pr ty m vd va op) ops → WritesLanes (.vscan pr ty m vd va op) s f ty vd
      (vscanVal op ty mk (lanesOf ty x) (lanesOf ty old)).2 fun k =>
        (vscanVal op ty mk (lanesOf ty x) (lanesOf ty old)).1.getD k 0 % 2 ^ (8 * n)) ∧
    (Fires s f b (.vsplt pr m vd va) ops → ∃ fl, WritesLanes (.vsplt pr m vd va) s f .s16 vd fl fun k =>
      if mk.getLsbD (k % 16) then
        ((splitX (laneOf x 8 (k % 16)) (opw ops 0).toInt).1 / 2 ^ (16 * (k / 16)) % 2 ^ 16).toNat else laneOf old 2 k) ∧
    (Fires s f b (.vplane pr ty m vd va pk) ops → ∃ r : VecVal,
      exec (.vplane pr ty m vd va pk) s = .next ((s.setV f vd.toNat r).finish f (.vplane pr ty m vd va pk) []) ∧
      ∀ k p, k < ty.lanes → p < 8 * n →
        (pk = false → r.getLsbD (ty.lanes * p + k) = (mk.getLsbD k && x.getLsbD (8 * n * k + p))) ∧
        (pk = true → r.getLsbD (8 * n * k + p) = if mk.getLsbD k then x.getLsbD (ty.lanes * p + k) else old.getLsbD (8 * n * k + p))) ∧
    (Fires s f b (.vred pr ty m va op t1 t0) ops → exec (.vred pr ty m va op t1 t0) s =
      .next ((s.flag f (vredVal op ty mk (lanesOf ty x)).2).finish f (.vred pr ty m va op t1 t0)
        (both (vredVal op ty mk (lanesOf ty x)).1)) ∧
      (ty.fmt = none → vredVal .add ty mk (lanesOf ty x) = (BitVec.ofInt 64
        (((List.range ty.lanes).map fun k => if mk.getLsbD k then ty.int (laneOf x n k) else 0).sum), 0)))

/-- R247, R248: single lanes go out as tokens and come in from operands; MSET combines masks and counts their bits.
R249: VACRD reads and VACWR writes a chunk of an accumulator row, once the older tl7 instructions that write it have
completed; the reads of younger blocks come after it (R258). A row, accumulator or mode that does not fit raises HANDLE_INVALID
with item 0xF, and a poisoned word UNCORRECTABLE_MEMORY, whose TRAPINFO of 0 is the model's reading (log entry 47). -/
def Obligations.LanesMasksAndAccumulatorRowsMove : Prop :=
  (∀ (pr : Pr) (ty : ElemTy) (md ma mb : BitVec 3) (vd : BitVec 5) (t1 t0 : Target) (s : State) f b ops x p q,
    let X := s.ctx f.ctx
    X.streamV f.blk vd.toNat = some x → X.streamM f.blk ma.toNat = some p → X.streamM f.blk mb.toNat = some q →
    let k := (opw ops 0).toNat % ty.lanes
    let v := laneOf x ty.bytes k
    (Fires s f b (.vgetl pr ty vd t1 t0) ops → exec (.vgetl pr ty vd t1 t0) s = .next (s.finish f (.vgetl pr ty vd t1 t0)
      (both (if ty.fmt = none ∧ ty ≠ .n32 then (BitVec.ofNat (8 * ty.bytes) v).signExtend 64 else BitVec.ofNat 64 v)))) ∧
    (Fires s f b (.vsetl pr ty vd) ops → WritesLanes (.vsetl pr ty vd) s f ty vd 0 fun j =>
      if j = k then (opw ops 1).toNat % 2 ^ (8 * ty.bytes) else laneOf x ty.bytes j) ∧
    (∀ kd r, (kd, r) ∈ [(MsetKind.and, p &&& q), (.or, p ||| q), (.not, ~~~p)] → Fires s f b (.mset pr kd md ma mb t1 t0) ops →
      exec (.mset pr kd md ma mb t1 t0) s = .next ((s.setM f md.toNat r).finish f (.mset pr kd md ma mb t1 t0) [])) ∧
    (Fires s f b (.mset pr .popc md ma mb t1 t0) ops → exec (.mset pr .popc md ma mb t1 t0) s =
      .next (s.finish f (.mset pr .popc md ma mb t1 t0)
        (both (BitVec.ofNat 64 (((List.range 128).filter fun i => p.getLsbD i).length))))) ∧
    s.setM f 0 p = s) ∧
  (∀ (pr : Pr) (ty : ElemTy) (m : BitVec 3) (vd : BitVec 5) (acc : BitVec 4) (q : BitVec 6) (s : State) f b ops t old mk,
    let X := s.ctx f.ctx
    let row := (opw ops 0).toNat
    let units := if ty = .s64 then [acc.toNat, acc.toNat + 1] else [acc.toNat]
    let na := naccOf X.poolsplit
    let fits : Prop := (∀ u ∈ units, u < na) ∧ row < 128 ∧
      t.modeOf acc.toNat = (match ty with | .f32 => .fp32 | .s64 => .int64 | _ => .int32)
    let place (k : Nat) : List PLoc := units.map fun u =>
      accAt t.uid u ((row * 128 + ((if ty = .s64 then 16 else 32) * q.toNat + k)) * 4)
    let rd := Instr.vacrd pr ty m vd acc q
    let wr := Instr.vacwr pr ty m vd acc q
    s.taskOf f.ctx = some t → X.streamV f.blk vd.toNat = some old → X.streamM f.blk m.toNat = some mk →
    s.accPending f t units = false →
    (Fires s f b rd ops → fits → (∀ k, k < ty.lanes → mk.getLsbD k = true → ∀ l ∈ place k, s.poisoned l 4 = false) →
      ∃ r : VecVal, exec rd s = .next (((s.setV f vd.toNat r).squashAfter f.ctx f.blk).finish f rd []) ∧ ∀ k, k < ty.lanes → laneOf r ty.bytes k =
        if mk.getLsbD k then
          leNat ((place k).flatMap fun l => (s.blockRead f.ctx f.blk t.uid l 4 (.vec f.slot) false 0).1) % 2 ^ (8 * ty.bytes)
        else laneOf old ty.bytes k) ∧
    (∀ k l, Fires s f b rd ops → fits → k < ty.lanes → mk.getLsbD k = true → l ∈ place k → s.poisoned l 4 = true →
      exec rd s = .next (traps s f 0x0F 0)) ∧
    (Fires s f b wr ops → fits → ∃ u : State, exec wr s = .next (u.finish f wr []) ∧ RegsKept s u ∧ (NoSpills s f → MemKept s u) ∧
      ∀ b', u.blk? f.ctx f.blk = some b' → ∀ w, (w ∈ b'.stores ↔ w ∈ b.stores ∨ ∃ k h l, k < ty.lanes ∧ mk.getLsbD k = true ∧
        (place k)[h]? = some l ∧
        w = ⟨none, f.slot, l, leBytes 4 (laneOf old ty.bytes k / 2 ^ (32 * h)), none, 0, 0, none⟩)) ∧
    (∀ i ∈ [rd, wr], Fires s f b i ops → ¬ fits → exec i s = .next (traps s f 0x10 0xF)))

/-- R252 to R256: HDEF makes the full view of a descriptor in memory; HSET and HADV change a usable handle's field or origin;
HGET sends a field of any handle and never traps; a handle that may not be used raises HANDLE_INVALID with its register, and
for a view that HSET or HADV would leave empty or without planes the register is hd (the model's reading, log entry 47). -/
def Obligations.HandleInstructionsDefineChangeAndReadHandles : Prop :=
  ∀ (pr : Pr) (hd hs : BitVec 4) (k : HField) (g : HGetF) (t1 t0 : Target) (s : State) f b ops,
    let X := s.ctx f.ctx
    let hdef := Instr.hdef pr hd
    let hset := Instr.hset pr hd hs k
    let hadv := Instr.hadv pr hd hs
    let legal (y : HandleVal) : Prop := (View.of y).rows ≠ 0 ∧ (View.of y).cols ≠ 0 ∧ (View.of y).windowOk = true
    (∀ t l pte s', Fires s f b hdef ops → Readable s f b (opw ops 0) 32 .read .none t l pte s' →
      let x := leNat (readBytes s' f b t l pte 32 .none)
      ((Desc.ofNat x).ok = true → ∃ u : State, exec hdef s =
        .next ((u.setH f hd.toNat (BitVec.ofNat 512 (handleOf x))).finish f hdef [])) ∧
      ((Desc.ofNat x).ok = false → ∃ u, exec hdef s = .next (traps u f 0x10 (hd.setWidth 64)))) ∧
    (∀ h, X.streamH f.blk hs.toNat = some h →
      let x := h.toNat
      let moved (y : Nat) : HandleVal := BitVec.ofNat 512 (handleStatus y)
      let v := (opw ops 0).toNat
      let stepped := hput (hput x 256 32 ((x / 2 ^ 256 + v) % 2 ^ 32)) 288 32 ((x / 2 ^ 288 + (opw ops 1).toNat) % 2 ^ 32)
      ((View.of h).usable = true →
        (Fires s f b hset ops →
          (legal (moved (hsetVal k x v)) → exec hset s =
            .next ((s.setH f hd.toNat (moved (hsetVal k x v))).finish f hset [])) ∧
          (¬ legal (moved (hsetVal k x v)) → exec hset s = .next (traps s f 0x10 (hd.setWidth 64)))) ∧
        (Fires s f b hadv ops →
          (legal (moved stepped) → exec hadv s = .next ((s.setH f hd.toNat (moved stepped)).finish f hadv [])) ∧
          (¬ legal (moved stepped) → exec hadv s = .next (traps s f 0x10 (hd.setWidth 64))))) ∧
      ((View.of h).usable = false → ∀ i ∈ [hset, hadv], Fires s f b i ops →
        exec i s = .next (traps s f 0x10 (hs.setWidth 64))) ∧
      (Fires s f b (.hget pr hs g t1 t0) ops → exec (.hget pr hs g t1 t0) s = .next (s.finish f (.hget pr hs g t1 t0)
        (both (BitVec.ofNat 64 (match g with
          | .row0 => x / 2 ^ 256 % 2 ^ 32
          | .col0 => x / 2 ^ 288 % 2 ^ 32
          | .shape => x / 2 ^ 320 % 2 ^ 32
          | .window => x / 2 ^ 352 % 2 ^ 9
          | .status => x / 2 ^ 368 % 2 ^ 3
          | .d0 => x % 2 ^ 64
          | .d1 => x / 2 ^ 64 % 2 ^ 64
          | .d2 => x / 2 ^ 128 % 2 ^ 64
          | .d3 => x / 2 ^ 192 % 2 ^ 64))))))

/-- R250, R251, R257 to R267: a matrix-array instruction whose handles, accumulators and copy number pass the checks leaves
for commit and takes a number on timeline 7; otherwise it raises HANDLE_INVALID with the first handle that fails, or 0xF for
an accumulator or a copy number, LEASE_VIOLATION for a scale entry or a tensor, TRANSLATION for bytes of a view that no
scratchpad holds, or the trap of its array, whose rows pass the checks of R189 in their order. That formats which do not pair
name hb (log entry 47) and that PTRIM asks for its tensor in the lease (log entry 49) are the model's readings. -/
def Obligations.ArrayInstructionsAreCheckedAndLeaveForCommit : Prop :=
  ∀ (pr : Pr) (md : AccMode) (st : Bool) (ha hb acc src : BitVec 4) (sb ch tr unp : Bool) (fmt : BitVec 5) (w : BitVec 4)
    (e : PxSize) (t1 t0 : Target) (s : State) f b ops t a h,
    let X := s.ctx f.ctx
    let na := naccOf X.poolsplit
    let va := View.of a
    let vb := View.of h
    let bad (x : BitVec 4) : Host.Outcome State Fault Refusal := .next (traps s f 0x10 (x.setWidth 64))
    let leaves (k : PmaKind) : Host.Outcome State Fault Refusal := .next (takesNumber (s.eff f (.pma k)) f)
    let hole (vs : List View) : Option Nat := vs.findSome? fun v => s.spadHole (brickOfCtx f.ctx) v
    let scale (vs : List View) : Option Nat :=
      vs.findSome? fun v => if v.readsScales md = true then scaleOutside t v.d v.scaleCells else none
    let checked (i : Instr) (sc : Option Nat) (vs : List View) (k : PmaKind) : Prop :=
      (∀ x, sc = some x → exec i s = .next (traps s f 6 (BitVec.ofNat 64 x))) ∧
      (∀ x, sc = none → hole vs = some x → exec i s = .next (traps s f 7 (BitVec.ofNat 64 x))) ∧
      (sc = none → hole vs = none → exec i s = leaves k)
    let fed (n : Nat) : Prop := st = true → s.copyOk f t ch n = true
    s.taskOf f.ctx = some t → X.streamH f.blk ha.toNat = some a → X.streamH f.blk hb.toNat = some h →
    (Fires s f b (.mzero pr md acc t1 t0) ops →
      (accOk md acc.toNat na = true → exec (.mzero pr md acc t1 t0) s = leaves (.mzero md acc.toNat)) ∧
      (accOk md acc.toNat na = false → exec (.mzero pr md acc t1 t0) s = bad 0xF)) ∧
    (let i := Instr.mma pr md st ha hb acc sb ch t1 t0
     let n := (opw ops 0).toNat
     let okB : Prop := bOk vb va.cols = true ∧ pairOk md va.d.fmt vb.d.fmt = true
     Fires s f b i ops →
      (aOk va = false → exec i s = bad ha) ∧ (aOk va = true → ¬ okB → exec i s = bad hb) ∧
      (aOk va = true → okB → accOk md acc.toNat na = false ∨ ¬ fed n → exec i s = bad 0xF) ∧
      (aOk va = true → okB → accOk md acc.toNat na = true → fed n →
        checked i (scale [va, vb]) [va, vb] (.mma md a h acc.toNat (if st then some (sb, ch, n) else none)))) ∧
    (let i := Instr.mmac pr md st src hb acc ch tr fmt w t1 t0
     let n := (opw ops 2).toNat
     let okB : Prop := bOk vb 128 = true ∧ pairOk md fmt.toNat vb.d.fmt = true
     let okAcc : Prop := accOk md acc.toNat na = true ∧ src.toNat < na ∧ src ≠ acc ∧ ¬(md = .int64 ∧ src.toNat = acc.toNat + 1)
     Fires s f b i ops →
      (¬ okB → exec i s = bad hb) ∧ (okB → ¬ okAcc ∨ ¬ fed n → exec i s = bad 0xF) ∧
      (okB → okAcc → fed n → checked i (scale [vb]) [vb] (.mmac md src.toNat acc.toNat h
        (if st then some (ch, n) else none) tr fmt.toNat (w.toNat + 1) ((opw ops 0).setWidth 32) ((opw ops 1).setWidth 32)
        ((opw ops 1).toNat / 2 ^ 32 % 2 ^ 16)))) ∧
    (let i := Instr.mcvt pr hb acc t1 t0
     Fires s f b i ops →
      (mcvtOk vb = false → exec i s = bad hb) ∧ (mcvtOk vb = true → na ≤ acc.toNat → exec i s = bad 0xF) ∧
      (mcvtOk vb = true → acc.toNat < na → checked i (if vb.d.fmt = 2 then scaleOutside t vb.d vb.cells else none) [vb]
        (.mcvt h acc.toNat ((opw ops 0).setWidth 32)))) ∧
    (Fires s f b (.madda pr src acc t1 t0) ops →
      (src.toNat < na → acc.toNat < na → exec (.madda pr src acc t1 t0) s = leaves (.madda src.toNat acc.toNat)) ∧
      (na ≤ src.toNat ∨ na ≤ acc.toNat → exec (.madda pr src acc t1 t0) s = bad 0xF)) ∧
    (Fires s f b (.ptrim pr hb t1 t0) ops →
      (vb.usable = false → exec (.ptrim pr hb t1 t0) s = bad hb) ∧
      (vb.usable = true → (vb.d.tiled = true → vb.d.id ∈ t.tensors) → exec (.ptrim pr hb t1 t0) s = leaves (.ptrim h)) ∧
      (vb.usable = true → vb.d.tiled = true → vb.d.id ∉ t.tensors →
        exec (.ptrim pr hb t1 t0) s = .next (traps s f 6 (BitVec.ofNat 64 vb.d.base)))) ∧
    (let i := Instr.pxpose pr hb e unp t1 t0
     let n := match e with | .e1 => 1 | .e2 => 2 | .e4 => 4
     let ok : Prop := vb.usable = true ∧ vb.d.loc = 1 ∧ intFmt vb.d.fmt = true ∧ vb.inside = true ∧ (vb.d.w + 7) / 8 ≤ n
     let row (k : Nat) : Word := opw ops 0 + BitVec.ofNat 64 k * opw ops 1
     let rows := (List.range vb.rows).findSome? fun k =>
       s.checkRange t (brickOfCtx f.ctx) (row k) (vb.cols * n) n (if unp then .write else .read)
     Fires s f b i ops → (¬ ok → exec i s = bad hb) ∧ (∀ c x, ok → rows = some (c, x) → exec i s = .next (traps s f c x)) ∧
      (ok → rows = none → checked i none [vb] (.pxpose h n unp (opw ops 0).toNat (opw ops 1)))) ∧
    (∀ x n al acc', let br := brickOfCtx f.ctx
      let fa := x.toNat
      let hole' : Prop := 2 ^ 57 ≤ fa ∨ s.spadLoc br fa = some none
      (hole' → s.checkRange t br x n al acc' = some (7, x)) ∧
      (¬ hole' → fa % al ≠ 0 → s.checkRange t br x n al acc' = some (5, x)) ∧
      (¬ hole' → fa % al = 0 → t.inLease fa n = false → s.checkRange t br x n al acc' = some (6, x)) ∧
      (¬ hole' → fa % al = 0 → t.inLease fa n = true → ((∀ p ∈ piecesOf fa n, s.flatLoc t.part br p.1 acc' ≠ none) ↔
        s.checkRange t br x n al acc' = none))) ∧
    (Fires s f b (.mstat pr acc t1 t0) ops →
      (acc.toNat < na → s.tl7Open f t = false → exec (.mstat pr acc t1 t0) s = .next ((s.squashAfter f.ctx f.blk).finish f (.mstat pr acc t1 t0)
        [.s (BitVec.ofNat 64 (t.mstat.1 % 2 ^ 32 + 2 ^ 32 * t.mstat.2.1)),
         .s (BitVec.ofNat 64 (t.mstat.2.2 % 2 ^ 32 + 2 ^ 32 * (t.ovfOf acc.toNat).toNat + 2 ^ 33 * (match t.modeOf acc.toNat with
          | .fp32 => 0
          | .int32 => 1
          | .int64 => 2)))])) ∧
      (acc.toNat < na → s.tl7Open f t = true → exec (.mstat pr acc t1 t0) s = .next s) ∧
      (na ≤ acc.toNat → exec (.mstat pr acc t1 t0) s = bad 0xF))

/-- R250, R251, R269, R270, R275 to R282: an engine command whose addresses and handles pass the checks leaves for commit,
with its operands, and takes a number on its timeline; the first check that fails gives the trap. What of R189 is asked of a
command's addresses (of XGATH's and XSCAT's table its window and alignment only) is the model's reading (log entry 36). -/
def Obligations.EngineCommandsAreCheckedAndLeaveForCommit : Prop :=
  ∀ (pr : Pr) (rel : Option Scope) (hd hs : BitVec 4) (ch st : Bool) (lg : BitVec 3) (cnt : BitVec 16) (t1 t0 : Target)
    (s : State) f b ops t,
    let X := s.ctx f.ctx
    let o (k : Nat) := opw ops k
    let n (k : Nat) := (opw ops k).toNat
    let chk (k m size : Nat) (acc : Acc) : Option (Nat × Word) := s.engCheck f t (o k) m size acc
    let e := 4 * 2 ^ lg.toNat
    let after := (n 1 + n 2 + 7) / 8 * 8
    let does (i : Instr) (trap : Option (Nat × Word)) (tl : Nat) (k : CmdKind) : Prop := Fires s f b i ops →
      (trap = none → exec i s = .next (takesNumber (s.eff f (.cmd tl k rel)) f)) ∧
      (∀ c a, trap = some (c, a) → exec i s = .next (traps s f c a))
    let hole : Prop := 2 ^ 57 ≤ n 0 ∨ s.spadLoc (brickOfCtx f.ctx) (n 0) = some none
    let gath (acc : Acc) := firstTrap [if hole then some (7, o 0) else if n 0 % e ≠ 0 then some (5, o 0) else none,
      chk 1 (4 * (cnt.toNat + 1)) 4 .read, chk 2 (e * (cnt.toNat + 1)) e acc]
    s.taskOf f.ctx = some t →
    (∀ d h, X.streamH f.blk hd.toNat = some d → X.streamH f.blk hs.toNat = some h →
      does (.xcopy pr rel hd hs ch st t1 t0)
        ((if st then chk 0 8 8 .write else none) <|> copyTrap t (naccOf X.poolsplit) hd hs (View.of d) (View.of h)) ch.toNat
        (.copy d h (if st then some (n 0) else none))) ∧
    does (.xcopyf pr rel ch st t1 t0) (firstTrap [chk 0 1 1 .read, chk 1 1 1 .write, if n 2 = 0 ∨ 2 ^ 32 < n 2 then some (7, o 1) else none,
        chk 0 (n 2) 1 .read, chk 1 (n 2) 1 .write, if st then s.engCheck f t (BitVec.ofNat 64 after) 8 8 .write else none]) ch.toNat
      (.copyf (n 0) (n 1) (n 2) (if st then some after else none)) ∧
    does (.xchain pr rel ch t1 t0) (chk 0 64 64 .read) ch.toNat (.chain (n 0)) ∧
    does (.xgath pr rel lg cnt t1 t0) (gath .write) 2 (.gath (n 0) (n 1) (n 2) e (cnt.toNat + 1)) ∧
    does (.xscat pr rel lg cnt t1 t0) (gath .read) 2 (.scat (n 0) (n 1) (n 2) e (cnt.toNat + 1)) ∧
    does (.xred pr rel t1 t0) (chk 0 192 64 .read) 3 (.xred (n 0)) ∧
    does (.xired pr rel t1 t0) (chk 0 64 64 .read) 4 (.xired (n 0)) ∧
    does (.xpkl pr rel t1 t0) (chk 0 128 64 .read) 5 (.xpkl (n 0)) ∧
    does (.xdisc pr rel ch t1 t0) (firstTrap [chk 0 1 1 .write,
        if n 0 % 2 ^ 16 ≠ 0 ∨ n 1 % 2 ^ 16 ≠ 0 then some (5, o 0) else none,
        if n 1 = 0 ∨ 2 ^ 40 < n 1 then some (7, o 0) else none, chk 0 (n 1) (2 ^ 16) .write]) ch.toNat (.disc (n 0) (n 1)) ∧
    (∀ x m size acc, let br := brickOfCtx f.ctx
      let fa := x.toNat
      let hole' : Prop := 2 ^ 57 ≤ fa ∨ 2 ^ 57 < fa + m ∨ s.spadLoc br fa = some none
      (hole' → s.engCheck f t x m size acc = some (7, x)) ∧
      (¬ hole' → fa % size ≠ 0 → s.engCheck f t x m size acc = some (5, x)) ∧
      (¬ hole' → fa % size = 0 → s.spadLoc br fa = none →
        (t.inLease fa m = false → s.engCheck f t x m size acc = some (6, x)) ∧
        (t.inLease fa m = true → (s.pageBars br t.part fa acc = true ↔ s.engCheck f t x m size acc = some (7, x))))) ∧
    (∀ i amo k l pte s', (i, amo, k) ∈ [(Instr.nput pr rel t1 t0, false, CmdKind.nput (n 0)), (.nget pr rel t1 t0, false, .nget (n 0)),
        (.namo pr rel t1 t0, true, .namo (n 0))] → Fires s f b i ops → chk 0 64 64 .read = none →
      Readable s f b (o 0) 64 .read .none t l pte s' →
      let bs := readBytes s' f b t l pte 64 .none
      let len := if amo then 8 else field bs 16 4
      (len = 0 ∨ t.inLease (field bs 0 8) len = true →
        ∃ u : State, exec i s = .next (takesNumber (u.eff f (.cmd 6 k rel)) f)) ∧
      (len ≠ 0 → t.inLease (field bs 0 8) len = false →
        ∃ u, exec i s = .next (traps u f 6 (BitVec.ofNat 64 (field bs 0 8)))))

/-- R250: numbers of one timeline go out in program order, each one more than the one before: a fired instruction whose
earlier ones are all resolved sends the newest number held before its block, plus those fired below it, plus one.
R273, R274, R296: RDTL sends a timeline's value and the newest number held, XWPTR the write pointer and its number; WAITT
sends 0 at once for 0, waits for the value and for the writes of the commands up to it, unless no such command exists, and sends
the status token or raises ENGINE_ERROR. -/
def Obligations.TimelinesNumberAndReport : Prop :=
  (∀ (b : Blk) (newest n tl : Nat),
  ((b.slot n).sent = true ∨ b.tlFixed tl n = false → b.sendNum newest n tl = b) ∧
  (∀ i, (b.slot n).sent = false → b.tlFixed tl n = true → n < b.slots.length → instrAt b.body n = some i →
    let num := newest + 1 + b.tlFired tl n
    b.sendNum newest n tl = (b.setSlot n { b.slot n with sent := true, num := num }).deliverAll n
      ((targetsOf i).map fun t => (t, .s (BitVec.ofNat 64 num)))) ∧
  (∀ m, n ≤ m → b.tlFired tl n ≤ b.tlFired tl m) ∧
  (∀ m, n < m → n ∈ b.tlMembers tl → (b.slot n).st = .done → b.tlFired tl n < b.tlFired tl m)) ∧
  (∀ (pr : Pr) (sc : Scope) (te ch : Bool) (tl : BitVec 3) (t1 t0 : Target) (s : State) f b ops t, s.taskOf f.ctx = some t →
    let x := t.tl tl.toNat
    let n := (opw ops 0).toNat
    let waitt := Instr.waitt pr sc te tl t1 t0
    let none' : Prop := s.heldBefore f tl.toNat t < n
    let fails := x.fails.filter fun e => e.1 ≤ n
    let acquired : Prop := ∀ w ∈ s.writes, w.uid = t.uid → w.cmd ≠ 0 → w.num.1 = tl.toNat → w.num.2 ≤ n →
      w.performedAt sc = true
    let goes : Prop := (none' → s.olderFixed f tl.toNat = true) ∧ (¬ none' → n ≤ x.val ∧ acquired)
    (Fires s f b (.rdtl pr tl t1 t0) ops → exec (.rdtl pr tl t1 t0) s = .next (s.finish f (.rdtl pr tl t1 t0)
      [.s (BitVec.ofNat 64 x.val), .s (BitVec.ofNat 64 (x.newest +
        (((s.ctx f.ctx).blks.take (f.blk + 1)).map fun b => b.tlFired tl.toNat 128).sum))])) ∧
    (Fires s f b (.xwptr pr ch t1 t0) ops → exec (.xwptr pr ch t1 t0) s = .next (s.finish f (.xwptr pr ch t1 t0)
      [.s (BitVec.ofNat 64 (s.pointerOf t ch.toNat).1), .s (BitVec.ofNat 64 (s.pointerOf t ch.toNat).2)])) ∧
    (Fires s f b waitt ops →
      (n = 0 → exec waitt s = .next ((s.afterWait f).finish f waitt (both 0))) ∧
      (n ≠ 0 → ¬ goes → exec waitt s = .next s) ∧
      (n ≠ 0 → goes →
        (te = false ∨ fails = [] → exec waitt s = .next ((s.afterWait f).finish f waitt
          (both (statusToken x n + (if none' then 4 else 0))))) ∧
        (∀ m a, te = true → lowestFail fails = some (m, a) →
          exec waitt s = .next (traps s f 0x0E (BitVec.ofNat 64 a))))) ∧
    (fails = [] → statusToken x n = if n ∈ x.allFill then 2 else 0) ∧
    (∀ m a, lowestFail fails = some (m, a) → (m, a) ∈ fails ∧ (∀ e ∈ fails, m ≤ e.1) ∧ statusToken x n =
      BitVec.ofNat 64 (2 ^ 32 * (m % 2 ^ 32) + 2 ^ 8 * min 255 fails.length + (if n ∈ x.allFill then 3 else 1))))

/-- R325 to R327: a GROUT command leaves for commit when its context's owner and its address allow it; otherwise it raises
GROUT_CONFIG with its reason, context and operator. GCFG reserves its context; GSTAT sends the
tokens accepted and the status. Which of two traps of one instruction is raised is log entry 47's. -/
def Obligations.GroutCommandsAreCheckedAndLeaveForCommit : Prop :=
  ∀ (pr : Pr) (op : BitVec 8) (c reg : BitVec 4) (fr : Bool) (t1 t0 : Target) (s : State) f b ops t, s.taskOf f.ctx = some t →
    let a := opw ops 0
    let br := brickOfCtx f.ctx
    let ok (x : Word) (n : Nat) (acc : Acc) : Prop := ∃ l pte s', s.check t br x n acc = (.ok l pte, s')
    let image : Prop := ok a 64 .read ∧ ok (a + 64) 64 .read
    let cfg := Instr.gcfg pr c
    (Fires s f b cfg ops →
      (s.gcfgOk f t c.toNat = true → image → exec cfg s =
        .next (((s.eff f (.grout c.toNat (.gcfg a.toNat))).gReserve f t.uid c.toNat).finish f cfg [])) ∧
      (s.gcfgOk f t c.toNat = false → exec cfg s =
        .next (traps s f 0x11 (BitVec.ofNat 64 (1 + 2 ^ 8 * c.toNat + 2 ^ 12 * 0xFF))))) ∧
    (∀ i o k check, (i, o, k, check) ∈ [(Instr.garg pr op c reg, op.toNat, GKind.garg op.toNat reg.toNat a, True),
        (.gsend pr op c, op.toNat, .gsend op.toNat (a.setWidth 512) ((opw ops 1).setWidth 16) ((opw ops 1).getLsbD 16), ok a 64 .read),
        (.grecv pr op c, op.toNat, .grecv op.toNat a.toNat, ok a 64 .write ∧ ok (a + 64) 8 .write),
        (.greconf pr op c, op.toNat, .greconf op.toNat a.toNat, image),
        (.gdrain pr c fr, 0xFF, .gdrain a.toNat (opw ops 1) fr, ok a 8 .write)] → Fires s f b i ops →
      (s.gUseOk f t c.toNat = true → check → exec i s = .next ((s.eff f (.grout c.toNat k)).finish f i [])) ∧
      (s.gUseOk f t c.toNat = false → exec i s =
        .next (traps s f 0x11 (BitVec.ofNat 64 (2 + 2 ^ 8 * c.toNat + 2 ^ 12 * o))))) ∧
    (Fires s f b (.gstat pr op c t1 t0) ops →
      let g := s.fctx (dieOfCtx f.ctx) c.toNat
      let o := s.fop ⟨dieOfCtx f.ctx, c.toNat, op.toNat⟩
      let held := (o.q0.filter fun t => match t with
        | .tok .. => true
        | .reconf _ => false).length
      exec (.gstat pr op c t1 t0) s = .next (s.finish f (.gstat pr op c t1 t0) [.s (BitVec.ofNat 64 o.accepted),
        .s (BitVec.ofNat 64 (o.cached.toNat + 2 * o.isOpen.toNat + 4 * min held 4 + 2 ^ 8 * g.faulted.toNat +
          2 ^ 9 * g.owner.isSome.toNat + 2 ^ 10 * g.errStop.toNat))]))

/-- R29, R61, R62, R99: a settled block that owes nothing commits: its register writes, its floating-point flags and its
stores become visible together, its successor is next and memory waits for the stores; with TEND the context is free and the
task ending. A block that owes something raises COMMIT_VIOLATION reason 0x01 with the first item it owes; one whose QFILL would
carry a poisoned word raises UNCORRECTABLE_MEMORY with the word's address (R223). Flags of tl7 instructions that complete in the
cycle of the commit come after its writes (R179). -/
def Obligations.CommitMakesABlocksWritesVisible : Prop := ∀ (s : State) (c : Nat) (b : Blk) t, Oldest s c b t →
  (b.trap ≠ none ∨ b.settled = false → exec (.blockCommit c) s = .next s) ∧
  (∀ cls n, b.trap = none → b.settled = true → b.unmet = some (cls, n) → exec (.blockCommit c) s =
    .next (s.modBlk c 0 fun b => b.hold 4 (violationInfo 1 0xFF cls n) none)) ∧
  (∀ e a, b.trap = none → b.settled = true → b.unmet = none → b.exit = some e → s.fillBad c b t = some a →
    exec (.blockCommit c) s = .next (s.modBlk c 0 fun b => b.hold 0x0F (BitVec.ofNat 64 a) none)) ∧
  (∀ slot succ, Commits s c b t (.to slot succ) → b.effs = [] → ∃ u, exec (.blockCommit c) s = .next u ∧
    let x := s.ctx c
    let y := u.ctx c
    y.uid = x.uid ∧ y.pc = succ ∧ y.prev = b.addr ∧ y.priv = x.priv ∧ y.fpmode = x.fpmode ||| (b.flags.setWidth 64 <<< 4) |||
      (if x.pmaAt.1 = s.cycle (brickOfCtx c) then x.pmaAt.2 else 0) ∧
    PutIn 64 (x.g[·]?) (y.g[·]?) b.gw ∧
    PutIn 32 (x.v[·]?) (y.v[·]?) (b.vw ++ b.vs.map fun w => (w.2.1, some w.2.2)) ∧
    PutIn 16 (x.h[·]?) (y.h[·]?) (b.hw ++ b.hs.map fun w => (w.2.1, some w.2.2)) ∧
    PutIn 8 (x.m[·]?) (y.m[·]?) (b.mw ++ (b.ms.filter fun w => w.2.1 ≠ 0).map fun w => (w.2.1, some w.2.2)) ∧
    y.trapvec = x.trapvec ∧ y.trapcause = x.trapcause ∧ y.trapinfo = x.trapinfo ∧ y.savearea = x.savearea ∧
    y.poolsplit = x.poolsplit ∧ y.mxstall = x.mxstall ∧ y.mxissue = x.mxissue ∧ y.bankconf = x.bankconf ∧
    (∀ c', c' ≠ c → u.ctx c' = s.ctx c') ∧
    (let held := b.stores.filter fun w => w.performed.isNone && w.loc.sp != .acc
     ∃ new, u.writes = s.writes ++ new ∧ new.map (fun w => (w.loc, w.bytes.length, w.rel)) =
        held.map (fun w => (w.loc, w.bytes.length, w.rel)) ∧
      ((∀ w ∈ b.stores, ∀ w' ∈ b.stores, w.loc.sp = w'.loc.sp → w.lsid.isSome ≠ w'.lsid.isSome →
          overlaps w.loc.a w.bytes.length w'.loc.a w'.bytes.length = false) →
        new.map (fun w => (w.loc, w.bytes)) = held.map fun w => (w.loc, w.bytes))) ∧
    (NoSpills s ⟨c, 0, 0, false⟩ → (∀ w ∈ b.stores, w.loc.sp = .acc → w.pte = 0) → ∀ sp a, sp ≠ .acc → mread a (u.cells sp) = mread a (s.cells sp)) ∧
    (∃ t', u.task? t.uid = some t' ∧ t'.ords = b.ord)) ∧
  (∀ slot code, Commits s c b t (.tend slot code) → b.effs = [] → ∃ u t', exec (.blockCommit c) s = .next u ∧
    (u.ctx c).uid = 0 ∧ (u.ctx c).blks = [] ∧ u.task? t.uid = some t' ∧ t'.phase = .ending (some code) 0)

/-- R176, R179, R182, R186, R188, R210 to R223, R251, R324: what an instruction noted when it fired takes effect, or leaves
the brick, when its block commits: control writes, register loads and records, lease and translation changes, trackers, spawns,
tokens, home operations, commands and fabric messages. A LEASE drop takes effect at once, or waits while the task still has work
on its way. How a commit treats a block's own commands and what it squashes is log entry 46's. -/
def Obligations.NotedEffectsLeaveAtCommit : Prop := ∀ (s : State) (c : Nat) (b : Blk) t slot succ (n : Nat) (e : CEff),
  Commits s c b t (.to slot succ) → b.effs = [(n, e)] → b.stores = [] → e ≠ .yield →
  ∃ u, exec (.blockCommit c) s = .next u ∧
    let x := s.ctx c
    let y := u.ctx c
    let br := brickOfCtx c
    (match e with
      | .leaseAdd .. => True
      | _ => y.pc = succ) ∧ match e with
    | .ctl op r v =>
      (r = 0x011 → y.fpmode = fpmodeWrite (ctlNew op x.fpmode v) ||| (b.flags.setWidth 64 <<< 4) |||
        (if x.pmaAt.1 = s.cycle br then x.pmaAt.2 else 0)) ∧
      (r = 0x100 → y.trapvec = ctlNew op x.trapvec v &&& ~~~0xF) ∧
      (r = 0x101 → y.trapcause = ctlNew op x.trapcause v &&& 0xFF) ∧ (r = 0x102 → y.trapinfo = ctlNew op x.trapinfo v) ∧
      (r = 0x103 → y.savearea = ctlNew op x.savearea v &&& ~~~0x3F) ∧
      (let q := (s.partOfBrick br).getD 0
       let p := s.part q
       r = 0x111 → p.xlctrl.getLsbD 0 = false → p.tileOps.cyc ≠ s.now →
        (u.part q).tileroot = ctlNew op p.tileroot v &&& 0x01FFFFFFFFF00001) ∧
      (let k := courseOfBrick br
       let co := s.course k
       (r = 0x200 → co.vfOps.cyc ≠ co.milliCycles s.now / 1000 → (u.course k).vf = ctlNew op co.vf v &&& 0xF) ∧
       (r = 0x203 → co.limOps.cyc ≠ co.milliCycles s.now / 1000 → (u.course k).curlim = ctlNew op co.curlim v &&& 0xFFFF))
    | .eret => y.priv = false
    | .idle k => y.idle = some (s.cycle br + k) ∧ y.blks = []
    | .haltd code => y.haltReq = some (code, b.addr) ∧ y.blks = []
    | .ctxld bs => y.g = (x.loadRegs bs).g ∧ y.v = (x.loadRegs bs).v ∧ y.h = (x.loadRegs bs).h ∧ y.m = (x.loadRegs bs).m
    | .leaseAdd base len => ∀ ps, NoSpills s ⟨c, 0, 0, false⟩ → s.addPages (unitOf br) t.part 0 base len = .ok ps →
      y.pc = succ ∧ ∃ t', u.task? t.uid = some t' ∧ (base, len) ∈ t'.added ∧ (base, len, ps.dedup) ∈ t'.addPins
    | .leaseDrop base len => ∃ t', u.task? t.uid = some t' ∧
      let works : Prop := (∃ k ∈ u.cmds, k.2.uid = t.uid) ∨ (∃ h ∈ u.homeOps, h.uid = t.uid) ∨
        (∃ w ∈ u.writes, w.uid = t.uid ∧ overlaps w.flat w.bytes.length base len = true) ∨
        (∃ k ∈ u.bricks, (∃ o ∈ k.2.pma, o.uid = t.uid) ∨ ∃ o, k.2.run = some o ∧ o.op.uid = t.uid) ∨
        ∃ r ∈ t'.seen, ∃ w ∈ u.writes, w.id = r.wid
      ((base, len) ∉ t.added → t'.added = t.added ∧ t'.drops = []) ∧
      ((base, len) ∈ t.added → works → t'.added = t.added ∧ t'.drops = [(base, len)]) ∧
      ((base, len) ∈ t.added → ¬ works → t'.added = t.added.erase (base, len) ∧ t'.drops = [])
    | .ttinv kind v =>
      let kept (e : Trans) : Prop := e.host = false ∧ s.pagePinned e.phys e.size = true
      (∀ e ∈ (u.part t.part).tlb, (match kind with
        | .page => e.1 / 2048 * 2 ^ 16 / e.2.size = v.toNat / e.2.size
        | .table => False
        | .all => True) → kept e.2) ∧
      ∀ e ∈ (u.part t.part).tiles, (match kind with
        | .page => e.2.flat / e.2.page.size = v.toNat / e.2.page.size
        | .table => e.1 / 4 / 2 ^ 40 = v.toNat % 2 ^ 16
        | .all => True) → kept e.2.page
    | .ctxsv a bs =>
      let ps := (recordRuns bs.length).flatMap fun r => piecesOf (a + r.1) r.2
      (∀ p ∈ ps, s.flatLoc t.part br p.1 .write ≠ none) → ∃ new, u.writes = s.writes ++ new ∧
        new.map (fun w => (w.flat, w.bytes)) = ps.map fun p => (p.1, (bs.drop (p.1 - a)).take p.2)
    | .arm ranges => ∃ t', u.task? t.uid = some t' ∧ t'.trackers =
      (armAll b.ord ranges (t.trackers.filter fun k => !(k.2.retiring && !u.trkBusy t.uid k.1))).1
    | .disarm ranges => ∃ t', u.task? t.uid = some t' ∧ t'.trackers = t.trackers.map fun k =>
      if k.1 ∈ ranges.filterMap (fun r => ownTracker t.trackers r.2.1) then (k.1, { k.2 with retiring := true }) else k
    | .spawn r cls cont fills fork => s.tearing r.die t.graph = false →
      let slots := fillScalars fills (initSlots cls.kinds cls.counts)
      (fork = false ∨ slots.all FSlot.full = false →
        ∃ fr, kget? r.idx (u.die r.die).frames = some fr ∧ fr.cls = cls ∧ fr.cont = cont ∧ fr.graph = t.graph ∧ fr.slots = slots) ∧
      (fork = true → slots.all FSlot.full = true → kget? r.idx (u.die r.die).frames = none ∧
        ∃ uid t', u.task? uid = some t' ∧ t'.phase = .firing none ∧ t'.frame = r.die * 2 ^ 16 + r.idx ∧ t'.cls = cls ∧
          t'.cont = cont ∧ t'.graph = t.graph ∧ t'.slots = slots)
    | .send fr sl dec v => Sent u t fr (if dec then .dec sl else .fill sl v)
    | .sendh fr sl v => Sent u t fr (.fillh sl v)
    | .kill fr => Sent u t fr .kill
    | .arrive a sc => HomeSent s u t br a fun l k => k = .arrive a l sc
    | .qinit a lg v => HomeSent s u t br a fun l k => k = .qinit a l lg v
    | .qfill a tk v => HomeSent s u t br a fun l k => k = .qfill a l tk v (s.fillData t br a v)
    | .cmd tl kind rel => ∃ id cmd, u.cmd? id = some cmd ∧ cmd.uid = t.uid ∧ cmd.kind = kind ∧ cmd.rel = rel ∧ cmd.tl = tl ∧
      cmd.arrived.isSome = rel.isNone ∧
      cmd.num = (t.tl tl).newest + 1 + b.tlFired tl n ∧ (tl = 0 → id ∈ (u.brick br).chan0) ∧ (tl = 1 → id ∈ (u.brick br).chan1)
    | .pma kind => ∃ op ∈ (u.brick br).pma, op.uid = t.uid ∧ op.kind = kind ∧ op.num = (t.tl 7).newest + 1 + b.tlFired 7 n
    | .grout k kind => ∃ m ∈ (u.die (dieOfCtx c)).gq, m.uid = t.uid ∧ m.c = k ∧ (match kind with
      | .gsend op _ _ eos => ∃ l m', m.kind = .gsend op l m' eos
      | _ => m.kind = kind)
    | _ => True

/-- R33, R39, R385, R386: a trap held with the oldest block goes to the handler of a user context that has one, unless the
block is pinned or the cause is NO_SAFE_POINT or COMMIT_VIOLATION (which ends the task, R62): the full record goes to SAVEAREA, TRAPCAUSE and TRAPINFO are set, and the
context is privileged at TRAPVEC with every register as it was; otherwise the task ends by a fault and its context is free. The
reserved bytes of the record are not written (R4). A trap that depends on a load ahead of lower LSIDs waits until its block is
settled (R56, R190). That a COMMIT_VIOLATION never goes to the handler is the model's reading (log entry 35). -/
def Obligations.TrapsGoToTheHandlerOrEndTheTask : Prop := ∀ (s : State) (c : Nat) (b : Blk) t r, Oldest s c b t →
  (b.trap = none ∨ b.firm = none ∧ b.settled = false → exec (.trapTaken c) s = .next s) ∧
  (b.firm = some r ∨ b.firm = none ∧ b.settled = true ∧ b.trap = some r →
    let x := s.ctx c
    let handled : Prop := x.trapvec ≠ 0 ∧ x.priv = false ∧ b.pinned = false ∧ r.cause ≠ 0x0D ∧ r.cause ≠ 4
    (handled → s.pmaBusy (brickOfCtx c) t.uid = true → exec (.trapTaken c) s = .next s) ∧
    (handled → s.pmaBusy (brickOfCtx c) t.uid = false →
      let d := s.discardFrom c 0
      d.accBad t.uid (fullMasks (naccOf x.poolsplit)) = false →
      let bytes := d.saveRecord ((d.task? t.uid).getD t) (d.ctx c) x.regs x.fpmode (fullMasks (naccOf x.poolsplit)) true b.addr
      ∃ u, exec (.trapTaken c) s = .next u ∧
        let y := u.ctx c
        y.trapcause = BitVec.ofNat 64 r.cause ∧ y.trapinfo = r.info ∧ y.priv = true ∧ y.pc = x.trapvec.toNat ∧ y.blks = [] ∧
        y.uid = x.uid ∧ y.g = x.g ∧ y.v = x.v ∧ y.h = x.h ∧ y.m = x.m ∧ y.fpmode = x.fpmode ∧ y.trapvec = x.trapvec ∧
        y.savearea = x.savearea ∧ y.poolsplit = x.poolsplit ∧ y.prev = x.prev ∧
        (∀ c', c' ≠ c → u.ctx c' = s.ctx c') ∧
        ∀ sp, u.cells sp = ((recordRuns bytes.length).foldl (fun m r => m.writeFlat t.part (brickOfCtx c) (x.savearea.toNat + r.1)
          ((bytes.drop r.1).take r.2)) d).cells sp) ∧
    (¬ handled → ∃ u t', exec (.trapTaken c) s = .next u ∧ (u.ctx c).uid = 0 ∧ u.task? t.uid = some t' ∧
      t'.phase = .ending none r.cause))

/-- R29, R41 to R64: a block whose words pass the map-time checks is mapped as the youngest, at the address the youngest
block's exit names, or at the context's own; one that fails a check is mapped with its trap, whose code and slot are its
TRAPINFO. A fetch that fails, and what it reports, is log entry 45's. -/
def Obligations.BlocksAreCheckedWhenTheyAreMapped : Prop := ∀ (s : State) (c addr : Nat) t, s.taskOf c = some t →
  let x := s.ctx c
  let ord := t.ords + 1 + x.blks.length
  let gets (b : Blk) : Prop := ∃ u, exec (.blockMap c addr) s = .next u ∧ (u.ctx c).blks = x.blks ++ [b]
  let refused (r : TrapRec) : Prop := ∃ h, gets (refusedBlk addr ord h r)
  (s.mayFetch c t = false → exec (.blockMap c addr) s = .next s) ∧
  (s.mayFetch c t = true → x.fetchWait = none → x.fetchFail = none → (∀ a, x.nextAddr = some a → a = addr) →
    (∀ hdr body, s.fetchBlock t.part (brickOfCtx c) t.uid addr = .ok hdr body →
      (mapCheck (naccOf x.poolsplit) hdr body = none → gets (newBlk addr ord t.fenceNewest (s.part t.part).tileroot hdr body)) ∧
      (∀ code slot, mapCheck (naccOf x.poolsplit) hdr body = some (code, slot) →
        refused ⟨if code < 0x10 then 1 else 2, BitVec.ofNat 64 (code + 2 ^ 8 * slot), none, none⟩)) ∧
    (s.fetchBlock t.part (brickOfCtx c) t.uid addr = .outside → refused ⟨1, BitVec.ofNat 64 (1 + 2 ^ 8 * 0xFF), none, none⟩) ∧
    (∀ a, s.fetchBlock t.part (brickOfCtx c) t.uid addr = .poison a → refused ⟨0x0F, BitVec.ofNat 64 a, none, none⟩) ∧
    (∀ a, s.fetchBlock t.part (brickOfCtx c) t.uid addr = .absent a →
      (x.nextAddr = none → exec (.blockMap c addr) s = .next s) ∧
      (x.nextAddr = some addr → (s.part t.part).fqFull = true → ∃ u, exec (.blockMap c addr) s = .next u ∧
        (u.ctx c).fetchWait = some ((s.part t.part).seq, addr) ∧ (u.ctx c).blks = x.blks)))

/-- R17, R18, R19, R20, R216, R352, R392: a token whose release has performed fills its slot or counts it down; the frame then fires, as a
task of its class with its slots, or stays with the slot changed. A token that its frame refuses changes no frame and is
reported as BAD_TARGET. It waits while a record that the tag store does not hold is fetched; a record that cannot be read
ends its frame. A kill frees the frame it names. That a record the queue drops takes a sequence number is log entry 21's. -/
def Obligations.TokensAndKillsReachTheirFrames : Prop := ∀ (s : State) (die n q : Nat) (m : Msg),
  s.message die n = some m → (s.pier (pierOfDie die)).owner = some q → s.tearing die m.graph = false →
  s.depsDone (s.msgDeps die m) .dev = true → m.frame / 2 ^ 16 = die →
  let idx := m.frame % 2 ^ 16
  let gone (u : State) : Prop := ((s.die die).frames.map (·.1)).Pairwise (· < ·) → kget? idx (u.die die).frames = none
  let token : Prop := m.kind ≠ .kill
  (token → kget? idx (s.die die).frames = none → ∃ u : State, exec (.tokenApply die n) s = .next u ∧
    (u.die die).frames = (s.die die).frames ∧ Reports (s.graphError q m.graph) u q
      { cause := 3, source := 2, graph := m.graph, addr := m.kind.low, task := m.taskId, ctxId := m.ctxId,
        cmd := m.kind.mode * 2 ^ 23 + m.kind.slot * 2 ^ 20 + m.frame }) ∧
  ∀ f : Frame, kget? idx (s.die die).frames = some f →
    let here : Prop := s.untagged die m = none ∧ s.recordBad die f = false
    (m.kind = .kill → f.graph = m.graph → ∃ u : State, exec (.tkillApply die n) s = .next u ∧ gone u) ∧
    (m.kind = .kill → f.graph ≠ m.graph → ∃ u : State, exec (.tkillApply die n) s = .next u ∧
      (u.die die).frames = (s.die die).frames) ∧
    (token → s.recordBad die f = true → ∃ u : State, exec (.tokenApply die n) s = .next u ∧ gone u) ∧
    (∀ r, token → f.place = .pool r → s.recordBad die f = false → ∃ u : State, exec (.tokenApply die n) s = .next u ∧
      kget? idx (u.die die).frames = some { f with place := .tag r } ∧ (u.die die).inbox = (s.die die).inbox) ∧
    (token → here → (f.graph ≠ m.graph ∨ (f.slots[m.kind.slot]?).bind (fun x => x.apply m.kind) = none) →
      ∃ u : State, exec (.tokenApply die n) s = .next u ∧ (u.die die).frames = (s.die die).frames ∧
        (u.part q).seq = if (s.part q).seq + 1 = 2 ^ 32 then 0 else (s.part q).seq + 1) ∧
    (token → here → f.graph = m.graph → ∀ x y : FSlot, f.slots[m.kind.slot]? = some x → x.apply m.kind = some y →
      let slots := f.slots.set m.kind.slot y
      (slots.all FSlot.full = false → ∃ u : State, exec (.tokenApply die n) s = .next u ∧
        kget? idx (u.die die).frames = some { f with slots := slots }) ∧
      (slots.all FSlot.full = true → ∃ (u : State) (t : Task), exec (.tokenApply die n) s = .next u ∧ gone u ∧
        u.task? s.nextUid = some t ∧ t.slots = slots ∧ t.cls = f.cls ∧ t.graph = f.graph ∧ t.cont = f.cont ∧
        t.part = f.part ∧ t.frame = m.frame ∧ t.prio = f.override.getD f.cls.prio ∧ t.phase = .firing none))

/-- R21, R22, R356, R417: a 64-byte half written to the launch window is staged, and the second half puts the record into the
queue; a function with an IDE stream takes none off it (R424). The record at its head is rejected with its cause, or becomes a frame of its class with its slots filled, which
fires when they are all full. -/
def Obligations.LaunchRecordsAreStagedQueuedAndTaken : Prop := ∀ (s : State) (q off : Nat) (data : List Byte),
  let p := s.part q
  (s.offStream q = false → exec (.launchWindowWrite q off data) s = .next s) ∧
  (s.offStream q = true → p.configured = true → data.length = 64 → off % 64 = 0 → off < 0x10000 →
    (off % 128 = 0 → ∃ u : State, exec (.launchWindowWrite q off data) s = .next u ∧
      kget? (off / 128) (u.part q).staged = some data ∧ (u.part q).queue = p.queue) ∧
    (∀ h, off % 128 ≠ 0 → kget? (off / 128) p.staged = some h → p.queue.length < 64 →
      ∃ u : State, exec (.launchWindowWrite q off data) s = .next u ∧ (u.part q).queue = p.queue ++ [⟨h ++ data, 0⟩]) ∧
    (∀ h, off % 128 ≠ 0 → kget? (off / 128) p.staged = some h → 64 ≤ p.queue.length →
      exec (.launchWindowWrite q off data) s = .next s) ∧
    (off % 128 ≠ 0 → kget? (off / 128) p.staged = none → ∃ u : State, exec (.launchWindowWrite q off data) s = .next u ∧
      Reports s u q { cause := 2, reason := 1, source := 2 })) ∧
  ∀ (r : Launch) (rest : List Launch), p.queue = r :: rest →
    (∀ d c, s.launchTry q r = (d, .reject c) → ∃ u : State, exec (.launchAccept q) s = .next u ∧
      (u.part q).queue = rest ∧ Reports s u q { cause := c, source := 2, graph := r.graph, addr := r.cls }) ∧
    (∀ d x cls hs, s.launchTry q r = (d, .accept x cls hs) → ∃ u : State, exec (.launchAccept q) s = .next u ∧
      (u.part q).queue = rest ∧
      let slots := fillHandles hs (fillScalars ((r.present 0 16 4).map (BitVec.ofNat 64)) (initSlots cls.kinds cls.counts))
      let stamp := field r.bytes 64 8
      let launch := if stamp = 0 then none else some (stamp, BitVec.ofNat 64 (field r.bytes 72 8))
      (slots.all FSlot.full = false → ∃ idx f, kget? idx (u.die d).frames = some f ∧ f.cls = cls ∧ f.graph = r.graph ∧
        f.cont = cls.cont ∧ f.slots = slots ∧ f.launch = launch ∧ f.part = q) ∧
      (slots.all FSlot.full = true → ∃ t, u.task? s.nextUid = some t ∧ t.cls = cls ∧ t.graph = r.graph ∧
        t.cont = cls.cont ∧ t.slots = slots ∧ t.launch = launch ∧ t.part = q ∧ t.phase = .firing none))

/-- R23, R24, R26, R27, R113, R210, R359, R360, R365: a fired task for which everything that a fork's release covers has
performed, and whose lease can be established, holds its ranges and pins and is
ready on a brick, one whose lease fails ends with the cause; a brick with a free context and register-file unit binds the
first candidate that fits, whose slots stand in g1 to g8 and h0 to h7 and whose other registers hold the binding values. -/
def Obligations.TasksAreLeasedAndBound : Prop := ∀ (s : State) (uid : Nat) (t : Task), s.task? uid = some t → t.uid = uid →
  (t.phase = .firing none → s.depsDone t.deps .dev = false → exec (.leaseEstablish uid) s = .next s) ∧
  (t.phase = .firing none → s.depsDone t.deps .dev = true →
    (∀ x, s.leaseScan t = .ok x → s.placeBricks t ≠ [] → ∃ (u : State) (t' : Task), exec (.leaseEstablish uid) s = .next u ∧
      u.task? uid = some t' ∧ t'.phase = .ready ∧ t'.lease = x.ranges ∧ (∀ p ∈ x.pages, p ∈ t'.pins) ∧
      (∀ d ∈ x.tensors, d.id ∈ t'.tensors) ∧ uid ∈ (u.brick t'.brick).readyAll ∧
      admits t.cls.placement t.origin t'.brick = true) ∧
    (∀ c a i, s.leaseScan t = .fail c a i → ∃ (u : State) (t' : Task), exec (.leaseEstablish uid) s = .next u ∧
      u.task? uid = some t' ∧ t'.phase = .ending none c ∧ t'.pins = []) ∧
    (∀ a i, s.leaseScan t = .absent a i → (s.part t.part).fqFull = true → ∃ (u : State) (t' : Task),
      exec (.leaseEstablish uid) s = .next u ∧ u.task? uid = some t' ∧ t'.phase = .firing (some (s.part t.part).seq))) ∧
  ∀ (brick save : Nat) (rest : List Nat), (s.boundCtxs brick).length < min 4 (s.brick brick).rfu →
    (s.boundCtxs brick = [] → (s.brick brick).pending = none) →
    (s.die (dieOfBrick brick)).ctrl.getLsbD 0 = true → s.unblocked brick (s.candidates brick) = uid :: rest →
    s.fits brick t = true → t.save = some (save, slotBytes t.cls.accUnits) → t.saved = false →
    ∃ (u : State) (c : Nat) (t' : Task), exec (.taskBind brick) s = .next u ∧ brickOfCtx c = brick ∧ (s.ctx c).uid = 0 ∧
      u.task? uid = some t' ∧ t'.phase = .bound c ∧ t'.brick = brick ∧ t'.accUnits = t.cls.accUnits ∧
      let y := u.ctx c
      y.uid = uid ∧ y.pc = t.cls.entry ∧ y.blks = [] ∧ y.priv = false ∧ y.fpmode = 0 ∧
      (∀ i, i < 8 → y.g[i + 1]? = some (slotG t.slots i) ∧ y.h[i]? = some (slotH t.slots i)) ∧
      (∀ i, i = 0 ∨ (9 ≤ i ∧ i < 64) → y.g[i]? = some 0) ∧ (∀ i, 8 ≤ i → i < 16 → y.h[i]? = some 0) ∧
      (∀ i, i < 32 → y.v[i]? = some 0) ∧ (∀ i, i < 8 → y.m[i]? = some (BitVec.allOnes 128)) ∧
      y.trapvec = (s.part t.part).xltrapvec ∧ y.savearea = BitVec.ofNat 64 save ∧
      y.poolsplit = poolsplitOf (s.brick brick) t.cls.accUnits ∧ (∀ c', c' ≠ c → u.ctx c' = s.ctx c') ∧
      ∀ sp a, sp ≠ .acc → mread a (u.cells sp) = mread a (s.cells sp)

/-- R25, R34, R36, R186, R365 to R368: a task that waits long enough, or is pre-empted, at an unpinned safe point is saved and
its context freed; a suspended task wakes once its condition holds, or after 250 us; its drain slot is freed once everything it
sent out is done; a ready task that has waited 250 us goes up one level; requests for pre-emption change no register.
R25, R36, R367, R370: the second half of a suspension, said of the task: its wake-up, its aging and its drain slot. That a level a
task has aged to stays its priority is log entry 52's. -/
def Obligations.TasksSuspendWakeAndAge : Prop :=
  (∀ (s : State) (c : Nat) (t : Task), s.taskOf c = some t →
  t.uid = (s.ctx c).uid → t.uid ≠ 0 →
  let x := s.ctx c
  let br := brickOfCtx c
  (∀ b n i k, s.waiter c = some (b, n, i) → x.priv = false → x.halted = false → x.haltReq = none →
    (t.cls.longWait = true ∨ x.didAt + 20000 ≤ s.now) → (s.brick br).readyAll ≠ [] →
    b.pinned = false → b.safe = true → (s.brick br).freeDrain = some k → s.pmaBusy br t.uid = false →
    s.accBad t.uid (liveMasks t b.hdr) = false →
    ∃ (u : State) (t' : Task), exec (.contextSuspend c) s = .next u ∧ (u.ctx c).uid = 0 ∧ (u.ctx c).blks = [] ∧
      u.task? t.uid = some t' ∧ t'.phase = .suspended ∧ t'.saved = true ∧ t'.wake = s.wakeOf c t b n i ∧
      t'.brick = br ∧ t'.wokeAt = s.now ∧ kget? k (u.brick br).drains = some ⟨t.uid⟩) ∧
  (∀ b bs k, x.blks = b :: bs → (s.brick br).freeDrain = some k → x.preemptAt.isSome = true → b.safe = true →
    b.pinned = false → b.trap = none → x.priv = false → x.halted = false → x.haltReq = none → t.torn = false →
    s.pmaBusy br t.uid = false →
    (s.accBad t.uid (liveMasks t b.hdr) = false → ∃ (u : State) (t' : Task), exec (.preemptSave c) s = .next u ∧
      (u.ctx c).uid = 0 ∧ (u.ctx c).blks = [] ∧ u.task? t.uid = some t' ∧ t'.phase = .ready ∧ t'.saved = true ∧
      t'.brick = br ∧ (∃ p, t.uid ∈ (u.brick br).dq p ∧ p = s.pushPrio t) ∧ kget? k (u.brick br).drains = some ⟨t.uid⟩) ∧
    (s.accBad t.uid (liveMasks t b.hdr) = true → ∃ u : State, exec (.preemptSave c) s = .next u ∧ (u.ctx c).uid = 0)) ∧
  (wbits (s.die (dieOfCtx c)).slice 0 16 ≠ 0 → x.runSince + 1000 * wbits (s.die (dieOfCtx c)).slice 0 16 ≤ s.now →
    (s.brick br).readyAll.any (fun u => s.levelOf u ≤ t.prio) = true → x.halted = false →
    ∃ u : State, exec (.timeSliceExpiry c) s = .next u ∧ (u.ctx c).preemptAt.isSome = true ∧ RegsKept s u ∧ MemKept s u) ∧
  (∀ val : Nat, val.testBit 7 = true ∨ val = c / 4 % 80 →
    ∃ u : State, exec (.dpreempt (dieOfCtx c) val) s = .next u ∧ (u.ctx c).preemptAt.isSome = true ∧ RegsKept s u ∧
      MemKept s u) ∧
  (∀ n, x.idle = some n → n ≤ s.cycle br ∨ (s.brick br).readyAll ≠ [] →
    ∃ u : State, exec (.idleWake c) s = .next u ∧ (u.ctx c).idle = none ∧ RegsKept s u ∧ MemKept s u) ∧
  (∀ t0, x.preemptAt = some t0 → t0 + 100000 ≤ s.now → x.halted = false → t.torn = false →
    ∃ (u : State) (t' : Task), exec (.watchdogExpiry c) s = .next u ∧ (u.ctx c).uid = 0 ∧
      u.task? t.uid = some t' ∧ t'.phase = .ending none 0x0D)) ∧
  (∀ (s : State) (uid : Nat) (t : Task), s.task? uid = some t → t.uid = uid →
  let pushed (u : State) : Prop := ∃ t' : Task, u.task? uid = some t' ∧ t'.phase = .ready ∧ t'.brick = t.brick ∧
    t'.prio = s.pushPrio t ∧ (u.brick t.brick).dq (s.pushPrio t) = (s.brick t.brick).dq (s.pushPrio t) ++ [uid]
  (t.phase = .suspended → s.woken t = true → ∃ u : State, exec (.taskWake uid) s = .next u ∧ pushed u ∧ MemKept s u ∧
    RegsKept s u) ∧
  (t.phase = .suspended → s.woken t = false → exec (.taskWake uid) s = .next s) ∧
  (t.phase = .suspended → t.wokeAt + 250000 ≤ s.now → ∃ u : State, exec (.wakeTimeout uid) s = .next u ∧ pushed u ∧
    MemKept s u ∧ RegsKept s u) ∧
  ((s.brick t.brick).readyAll = [uid] → t.prio ≠ 0 → t.prio < 4 → t.readyAt + 250000 ≤ s.now →
    ∃ (u : State) (t' : Task), exec (.taskAging t.brick) s = .next u ∧ u.task? uid = some t' ∧ t'.prio = t.prio - 1 ∧
      t'.readyAt = s.now ∧ (u.brick t.brick).dq (t.prio - 1) = [uid] ∧ MemKept s u ∧ RegsKept s u) ∧
  (∀ brick k a n, kget? k (s.brick brick).drains = some ⟨uid⟩ → s.drained t = true → t.save = some (a, n) →
    t.phase = .suspended →
    let vals := leBytes 8 t.fenceNewest ++ (List.range 8).flatMap (fun i => leBytes 8 (t.tl i).val)
      ++ (List.range 8).flatMap fun i => leBytes 8 (t.tl i).newest
    exec (.drainSlotFree brick k) s = .next ((s.writeFlat t.part brick (a + 56) vals).modBrick brick fun x =>
      { x with drains := kdel k x.drains })) ∧
  (∀ brick k, kget? k (s.brick brick).drains = some ⟨uid⟩ → s.drained t = false → exec (.drainSlotFree brick k) s = .next s))

/-- R37, R38, R39, R113, R361, R434: an ended task whose work is done writes its class's stamp and its launch record's, sends
its continuation unless a fault ended it, and gives back its lease; its accumulator units are free once nothing of it can
touch them. One of whose tl7 instructions failed after its end writes and sends nothing (R268). A context whose HALTD block has
committed halts with its full record at SAVEAREA. -/
def Obligations.TasksCompleteAndContextsHalt : Prop := ∀ (s : State) (uid : Nat) (t : Task), s.task? uid = some t → t.uid = uid →
  (∀ code cause, t.phase = .ending code cause →
    (s.settledTask t = false → exec (.taskCompletion uid) s = .next s) ∧
    (s.settledTask t = true →
      let a := (s.zeroRange .acc (accAt uid 0 0).a (2 ^ 24)).modTask uid fun t => { t with accUnits := 0 }
      let rel (w : State) : State := ((w.leaseRelease uid).delTask uid).sweepGraphs t.part
      (t.torn = true → s.tornDrained t.die t.part t.graph = false → exec (.taskCompletion uid) s = .next s) ∧
      (t.torn = true → s.tornDrained t.die t.part t.graph = true → exec (.taskCompletion uid) s = .next (rel a)) ∧
      (t.torn = false → t.mute = true → exec (.taskCompletion uid) s = .next (rel a)) ∧
      (t.torn = false → t.mute = false →
        let c := if t.cls.stamp = 0 then a else a.writeFlat t.part t.brick t.cls.stamp (leBytes 8 (match code with
          | some n => n % 2 ^ 64
          | none => 0xFFFFFFFFFFFFFF00 ||| cause % 2 ^ 64))
        let l := match t.launch with
          | none => c
          | some (at', v) => c.writeFlat t.part t.brick at' (leBytes 8 (match code with
            | some _ => v.toNat
            | none => 0xFFFFFFFFFFFFFF00 ||| cause % 2 ^ 64))
        let sends (n : Nat) : Prop := code = some n ∧ wbits t.cont 23 2 ∈ [1, 2]
        ((∀ n, ¬ sends n) → exec (.taskCompletion uid) s = .next (rel l)) ∧
        (∀ n, sends n → ∃ m : Msg, exec (.taskCompletion uid) s = .next (rel (l.sendMsg t.part m)) ∧
          m.frame = wbits t.cont 0 20 ∧ m.graph = t.graph ∧ m.sender = t.frame ∧ m.kind =
            if wbits t.cont 23 2 = 1 then .fill (wbits t.cont 20 3) (BitVec.ofNat 64 n) else .dec (wbits t.cont 20 3))))) ∧
  ((t.phase = .suspended ∨ t.phase = .ready ∨ ∃ code cause, t.phase = .ending code cause) → t.accUnits ≠ 0 →
    s.pmaBusy t.brick uid = false → s.cmds.all (fun c => c.2.uid != uid || !c.2.aliases) = true →
    ∃ (u : State) (t' : Task), exec (.accumulatorRelease uid) s = .next u ∧ u.task? uid = some t' ∧ t'.accUnits = 0 ∧
      RegsKept s u ∧ ∀ sp a, sp ≠ .acc → mread a (u.cells sp) = mread a (s.cells sp)) ∧
  (∀ c code addr, (s.ctx c).uid = uid → (s.ctx c).haltReq = some (code, addr) → s.pmaBusy (brickOfCtx c) uid = false →
    s.accBad uid (fullMasks (naccOf (s.ctx c).poolsplit)) = false →
    let x := s.ctx c
    let bytes := s.saveRecord t x x.regs x.fpmode (fullMasks (naccOf x.poolsplit)) true x.pc
    ∃ u : State, exec (.debugHalt c) s = .next u ∧ (u.ctx c).halted = true ∧ (u.ctx c).haltReq = none ∧ RegsKept s u ∧
      Reports ((recordRuns bytes.length).foldl (fun m r => m.writeFlat t.part (brickOfCtx c) (x.savearea.toNat + r.1)
          ((bytes.drop r.1).take r.2)) s) u t.part
        { cause := 0x0B, reason := 0xDB, graph := t.graph, blk := addr, addr := x.savearea.toNat, task := t.frame,
          ctxId := ctxIdOf c, item := code })

/-- R350, R362, R364, R371, R372: the controls of a distributor. DREPRIOP sets the graph's priority, whether it is live yet or
not, and moves its ready tasks to that level; DTEARDOWN starts the teardown of a graph on every die of the partition and frees
its frames, and once nothing of the graph is left its status clears; DPLACE walks its list, moves the pages named and counts
those that a lease pins, and waits at one that is in flight; a split takes effect when its brick has no bound context. What an
entry may name and where a page goes in its pier is the model's choice (log entry 39). -/
def Obligations.DistributorControlsAct : Prop := ∀ (s : State) (q die : Nat), (s.pier (pierOfDie die)).owner = some q →
  (∀ val, ∃ (u : State) (r : GraphRec), exec (.drepriop die val) s = .next u ∧
    ((s.die die).repriog, r) ∈ (u.die die).graphs ∧ r.prio = some (val % 4) ∧ MemKept s u ∧ RegsKept s u ∧
    ∀ uid t, s.task? uid = some t → t.die = die → t.graph = (s.die die).repriog → t.phase = .ready →
      ∃ t' : Task, u.task? uid = some t' ∧ t'.prio = val % 4 ∧ t'.readyAt = s.now ∧ uid ∈ (u.brick t.brick).dq (val % 4)) ∧
  (∀ gid : Nat, ∃ u : State, exec (.dteardown q gid) s = .next u ∧
    ∀ d ∈ s.diesOf q, u.tearing d (BitVec.ofNat 64 gid) = true ∧
      ∀ f ∈ (u.die d).frames, ¬ (f.2.graph = BitVec.ofNat 64 gid ∧ f.2.part = q)) ∧
  (∀ gid : Nat, let g := BitVec.ofNat 64 gid
    s.tearing die g = true → die ∈ s.diesOf q → s.tasks.any (fun t => t.2.part == q && t.2.graph == g) = false →
    (∀ d ∈ s.diesOf q, s.graphFctxs d q g = [] ∧ (s.die d).gq.any (fun m => m.part == q && m.graph == g) = false) →
    ∃ u : State, exec (.teardownComplete q gid) s = .next u ∧ (∀ d ∈ s.diesOf q, u.tearing d g = false) ∧
      MemKept s u ∧ RegsKept s u) ∧
  (∀ addr, (s.die die).plBusy = none → ∃ u : State, exec (.dplace die addr) s = .next u ∧
    (u.die die).plBusy = some (addr / 16 * 16) ∧ MemKept s u) ∧
  (∀ addr a bs, (s.die die).plBusy = some a → s.readFlat q (dieAgent die) 0 a 16 = some bs →
    let placed (w : State) : Host.Outcome State Fault Refusal := .next (w.modDie die fun d => { d with plBusy := some (a + 16) })
    (∀ p, s.flatPoison q (dieAgent die) 0 a 16 = some p → ∃ u : State, exec (.dplace die addr) s = .next u ∧
      (u.die die).plBusy = none ∧ Reports s u q { cause := 0x0F, source := 2, addr := p }) ∧
    (s.flatPoison q (dieAgent die) 0 a 16 = none →
      (leNat bs = 0 → exec (.dplace die addr) s = .next (s.modDie die fun d => { d with plBusy := none })) ∧
      (leNat bs ≠ 0 → s.placePage q (leNat bs) = none → exec (.dplace die addr) s = placed s) ∧
      (∀ p, leNat bs ≠ 0 → s.placePage q (leNat bs) = some p →
        let dest := field bs 8 8
        (s.pagePinned p.phys p.size = true → exec (.dplace die addr) s =
          placed (s.modDie die fun d => { d with plSkipped := min 65535 (d.plSkipped + 1) })) ∧
        (s.pagePinned p.phys p.size = false → s.pageInFlight p.phys p.size = true → exec (.dplace die addr) s = .next s) ∧
        (s.pagePinned p.phys p.size = false → s.pageInFlight p.phys p.size = false →
          ((s.pier (dest % 8)).owner = some q → exec (.dplace die addr) s = placed (s.movePage q p (dest % 8) (dest / 8))) ∧
          ((s.pier (dest % 8)).owner ≠ some q → exec (.dplace die addr) s = placed s) ∧
          (p.phys / Config.pierSpan = dest % 8 → MemKept s (s.movePage q p (dest % 8) (dest / 8)) ∧
            ∀ i, i < p.size / 2 ^ 16 →
              kget? (p.phys / 2 ^ 16 + i) (s.movePage q p (dest % 8) (dest / 8)).places = some (dest / 8)))))) ∧
  (∀ brick r a, (s.brick brick).pending = some (r, a) → s.boundCtxs brick = [] →
    ∃ u : State, exec (.dsplitApply brick) s = .next u ∧ (u.brick brick).rfu = r ∧ (u.brick brick).accu = a ∧
      (u.brick brick).pending = none ∧ MemKept s u ∧ RegsKept s u) ∧
  (∀ brick p, (s.brick brick).pending = some p → s.boundCtxs brick ≠ [] → exec (.dsplitApply brick) s = .next s)

/-- R130, R132, R134, R275 to R277: the command at the front of a copy channel delivers its next byte, which the die then
reads, and its write pointer moves on; its stamp follows its last byte; a chain's record is taken once its VALID bit is set
and closed with its control word when its job is done. -/
def Obligations.CopyChannelsDeliverInOrder : Prop := ∀ (s : State) (brick chan : Nat) (c : Cmd),
  s.chanCmd brick chan = some c → s.cmd? c.id = some c →
  let die := dieOfBrick c.brick
  let sees (u : State) (l : PLoc) (n : Nat) : List Byte := (u.viewRead die 0 l n).1
  let waits (jb : Job) : State := if jb.usesSpad then s.freeConflicts brick c.uid else s
  let flat (src dst len : Nat) : State := waits (.flat src dst len)
  let paid (s : State) (l : PLoc) : State := if l.sp = .host then s.performAll (upToLast die (s.payload c.id) s.writes) else s
  let uncounted (l : PLoc) (n : Nat) : Prop := l.sp = .dram → ∀ a ∈ c.flights, l.a + n ≤ countAt a + 4 ∨ countAt a + 8 ≤ l.a
  (∀ src dst len st l p l' p', c.kind = .copyf src dst len st → c.running = true → c.abort = false → c.pos < len →
    Reach (flat src dst len) c .read (src + c.pos) 1 l p → Reach (flat src dst len) c .write (dst + c.pos) 1 l' p' →
    s.readPoison die 0 l 1 = false → Calm s die l' 1 → uncounted l' 1 → ∃ (u : State) (c' : Cmd), exec (.copyExecute brick chan 0) s = .next u ∧ sees u l' 1 = sees s l 1 ∧
      u.cmd? c.id = some c' ∧ c'.pos = c.pos + 1 ∧ c'.wptr = (if c.stopped then c.wptr else c.wptr + 1) ∧
      c'.ended = false) ∧
  (∀ hd hs st s1, let jb := Job.tile ⟨View.of hd, View.of hs⟩
    c.kind = .copy hd hs st → c.running = true → c.abort = false → c.pos < jb.bytes →
    (waits jb).jobByte c jb c.pos = .ok s1 →
    exec (.copyExecute brick chan 0) s = .next ((s1.modCmd c.id fun c =>
      { c with pos := c.pos + 1, wptr := if c.stopped then c.wptr else c.wptr + 1 }).landPassed c.id jb)) ∧
  (∀ src dst len a l p, c.kind = .copyf src dst len (some a) → c.running = true → c.abort = false → len ≤ c.pos →
    c.recBad = false → Reach (flat src dst len) c .write a 8 l p → a % 8 = 0 → Calm s die l 8 → (paid s l).discOf p = 0 → ∃ (u : State) (c' : Cmd),
      exec (.copyExecute brick chan 0) s = .next u ∧ sees u l 8 = leBytes 8 c.num ∧ u.cmd? c.id = some c' ∧
      c'.ended = true) ∧
  (∀ p t bs, c.kind = .chain p → s.task? c.uid = some t → c.recBusy = false → c.abort = false → s.recRead c t c.recAddr 64 = .ok bs →
    ((field bs 56 1).testBit 0 = false → exec (.chainRecord brick chan) s = .next (s.recFly c c.recAddr)) ∧
    (∀ x y, let s0 := s.recFly c c.recAddr
      let c0 := (s0.cmd? c.id).getD c
      (field bs 56 1).testBit 0 = true → field bs 45 1 = 1 → s0.recRead c0 t (field bs 8 8) 32 = .ok x →
      s0.recRead c0 t (field bs 16 8) 32 = .ok y → recFault t (bs ++ x ++ y) = none → ∃ (u : State) (c' : Cmd),
      exec (.chainRecord brick chan) s = .next u ∧ u.cmd? c.id = some c' ∧ c'.params = bs ++ x ++ y ∧ c'.recBusy = true ∧
      c'.running = true ∧ c'.pos = 0) ∧
    ((field bs 56 1).testBit 0 = true → field bs 45 1 ≠ 1 → recFault t bs = none → ∃ (u : State) (c' : Cmd),
      exec (.chainRecord brick chan) s = .next u ∧ u.cmd? c.id = some c' ∧ c'.params = bs ∧ c'.recBusy = true ∧
      c'.running = true ∧ c'.pos = 0)) ∧
  (∀ a l p, c.kind = .chain a → c.recBusy = true → c.running = false → c.recAddr % 64 = 0 →
    Reach s c .write (c.recAddr + 56) 8 l p → Calm s die l 8 → (paid s l).discOf p = 0 → uncounted l 8 →
    let x := field c.params 56 8
    ∃ (u : State) (c' : Cmd), exec (.copyExecute brick chan 0) s = .next u ∧ u.cmd? c.id = some c' ∧ c'.recBusy = false ∧
      c'.recAddr = field c.params 0 8 ∧ c'.recOrd = c.recOrd + 1 ∧
      c'.ended = (x.testBit 1 || field c.params 0 8 = 0 || c.abort) ∧
      sees u l 8 = leBytes 8 (hput (hput x 0 1 0) (if c.recBad then 3 else 2) 1 1))

/-- R282, R384: a discard takes the pages of its range one by one; a page whose bytes are discarded reads zero from then on,
dying while something is in flight to it and dead otherwise; a dying page dies once nothing is. That a 32 MiB page partly covered goes
whole is log entry 26's.
R135, R272, R273: a command whose work has ended finishes: its number reaches its timeline, which moves on to it when
it is the next, a failure keeps its record's address there, and the command leaves its channel. That a record the queue drops takes a sequence
number is log entry 21's. -/
def Obligations.DiscardsZeroAndCommandsFinish : Prop :=
  (∀ (s : State),
  let apart (t : Trans) : Prop := t.pte ≠ 0 ∧ (t.host = true ∨ pteAddr t.pte + 8 ≤ t.phys ∨
    t.phys + t.size ≤ pteAddr t.pte)
  let gone (u : State) (t : Trans) (d : Nat) : Prop := (∀ a, t.phys ≤ a → a < t.phys + t.size →
    mread a (u.cells (t.loc 0).sp) = 0) ∧ (apart t → u.discOf t.pte = d)
  (∀ brick chan c base len t, s.chanCmd brick chan = some c → c.kind = .disc base len → c.abort = false → c.pos < len →
    s.walk c.part (base + c.pos) .write = .ok t →
    let next := ((base + c.pos) / t.size + 1) * t.size - base
    ∃ (u : State) (c' : Cmd), exec (.discardExecute brick chan) s = .next u ∧
      gone u t (if t.host = false ∧ s.pageInFlight t.phys t.size = true then 1 else 2) ∧ u.cmd? c.id = some c' ∧
      c'.pos = next ∧ c'.wptr = min next len ∧ c'.ended = decide (len ≤ next)) ∧
  (∀ brick chan c base len, s.chanCmd brick chan = some c → c.kind = .disc base len → len ≤ c.pos →
    ∃ (u : State) (c' : Cmd), exec (.discardExecute brick chan) s = .next u ∧ u.cmd? c.id = some c' ∧ c'.ended = true ∧
      MemKept s u) ∧
  (∀ q page t, (s.walk q page .any = .ok t ∨ s.walk q page .any = .absent t) → t.disc = 1 → s.pageInFlight t.phys t.size = false →
    ∃ u : State, exec (.pageDeath q page) s = .next u ∧ gone u t 2) ∧
  (∀ q page t, (s.walk q page .any = .ok t ∨ s.walk q page .any = .absent t) → t.disc ≠ 1 ∨ s.pageInFlight t.phys t.size = true →
    exec (.pageDeath q page) s = .next s)) ∧
  (∀ (s : State) (id : Nat) (c : Cmd) (t : Task),
  s.cmd? id = some c → c.id = id → s.task? c.uid = some t → c.tl < t.tls.length →
  (c.ended = false → exec (.engineCommandFinish id) s = .next s) ∧
  (c.ended = true → ∃ (u : State) (t' : Task), exec (.engineCommandFinish id) s = .next u ∧ u.task? c.uid = some t' ∧
    let x := t.tl c.tl
    let y := t'.tl c.tl
    y.newest = x.newest ∧ y.last = c.num ∧ y.lastPtr = c.wptr ∧ x.val ≤ y.val ∧ (c.num = x.val + 1 → c.num ≤ y.val) ∧
    (x.val < c.num → c.num ≤ y.val ∨ c.num ∈ y.fin) ∧
    y.allFill = x.allFill ++ (if c.allFill then [c.num] else []) ∧
    (c.fail = none → y.fails = x.fails) ∧
    (∀ f, c.fail = some f → ∃ a, y.fails = x.fails ++ [(c.num, a)] ∧ (a = 0 ∨ a = (s.part c.part).fqNext) ∧
      (u.part c.part).seq = if (s.part c.part).seq + 1 = 2 ^ 32 then 0 else (s.part c.part).seq + 1) ∧
    (∀ tl, tl ≠ c.tl → t'.tl tl = t.tl tl) ∧ c.id ∉ (u.brick c.brick).chan0 ∧ c.id ∉ (u.brick c.brick).chan1 ∧
    ((s.cmds.map (·.1)).Pairwise (· < ·) → u.cmd? id = none) ∧ RegsKept s u))

/-- R278, R391: a gather or a scatter whose turn it is moves its next element between the table, at the place its index
names, and its list, and its write pointer moves on by the element's size; an element whose table address fails its check ends
it, and every later one fails with it.
R330 to R334: a reduction's block is accepted or refused with its reason; each element of its destination is the sum of
its sources' elements by R333's tree, which for INT32 is their sum modulo 2^32. -/
def Obligations.GathersReductionsAndScattersMoveTheirElements : Prop :=
  (∀ (s : State) (id : Nat) (c : Cmd) (t : Task),
  s.cmd? id = some c → c.id = id → s.task? c.uid = some t → c.ended = false → s.relIssued c = true →
  (∀ x ∈ s.cmds, x.2.uid = c.uid → x.2.tl = 2 → c.num ≤ x.2.num) →
  (∀ table index other size count (scat : Bool) li pi lt pt lo po, (c.kind = if scat then .scat table index other size count
      else .gath table index other size count) → c.pos < count →
    Reach s c .read (index + 4 * c.pos) 4 li pi → s.readPoison (dieOfBrick c.brick) 0 li 4 = false →
    let at' := (table + leNat (s.engRead (dieOfBrick c.brick) li pi 4) * size) % 2 ^ 64
    let o := other + c.pos * size
    let acc : Acc := if scat then .write else .read
    (s.check t c.brick (BitVec.ofNat 64 at') size acc).1 = .ok lt pt → s.discOf pt = 0 →
    (lt.sp = .dram → c.flights.contains (lt.a / 2 ^ 16 * 2 ^ 16) = true) →
    Reach s c (if scat then .read else .write) o size lo po →
    let src := if scat then lo else lt
    let dst := if scat then lt else lo
    s.readPoison (dieOfBrick c.brick) 0 src size = false → Calm s (dieOfBrick c.brick) dst size →
    ∃ (u : State) (c' : Cmd), exec (.gatherScatterExecute id 0) s = .next u ∧
      (u.viewRead (dieOfBrick c.brick) 0 dst size).1 = (s.viewRead (dieOfBrick c.brick) 0 src size).1 ∧
      u.cmd? id = some c' ∧ c'.pos = c.pos + 1 ∧ c'.wptr = c.wptr + size ∧ c'.ended = false) ∧
  (∀ table index other size count (scat : Bool) li pi cause a, (c.kind = if scat then .scat table index other size count
      else .gath table index other size count) → c.pos < count → c.fail = none →
    Reach s c .read (index + 4 * c.pos) 4 li pi → s.readPoison (dieOfBrick c.brick) 0 li 4 = false →
    let x := leNat (s.engRead (dieOfBrick c.brick) li pi 4)
    let at' := (table + x * size) % 2 ^ 64
    (s.check t c.brick (BitVec.ofNat 64 at') size (if scat then .write else .read)).1 = .bad cause a →
    ∃ (u : State) (c' : Cmd), exec (.gatherScatterExecute id 0) s = .next u ∧ u.cmd? id = some c' ∧ c'.ended = true ∧
      c'.fail = some ⟨cause, 0, c.pos, at', x⟩ ∧ c'.failCount = count - c.pos ∧ c'.flights = [] ∧ MemKeptFly c ⟨.dram, 0⟩ 0 s u) ∧
  (∀ table index other size count, c.kind = .gath table index other size count → count ≤ c.pos →
    ∃ (u : State) (c' : Cmd), exec (.gatherScatterExecute id 0) s = .next u ∧ u.cmd? id = some c' ∧ c'.ended = true ∧
      c'.flights = [] ∧ MemKeptFly c ⟨.dram, 0⟩ 0 s u)) ∧
  (∀ (s : State) (id p : Nat) (c : Cmd) (t : Task), c.kind = .xred p →
  c.id = id → s.cmd? id = some c → s.footCmd id 3 = some (c, t) →
  (c.running = false → c.fail = none →
    (s.xredBad t c p = none → ∃ (u : State) (c' : Cmd), exec (.xredExecute id 0) s = .next u ∧ u.cmd? id = some c' ∧
      c'.running = true ∧ c'.fail = none ∧ MemKept s u) ∧
    (∀ r a, s.xredBad t c p = some (r, a) → ∃ (u : State) (c' : Cmd), exec (.xredExecute id 0) s = .next u ∧
      u.cmd? id = some c' ∧ c'.ended = true ∧ c'.fail = some ⟨0x0E, r, 0, a, 0⟩ ∧ MemKept s u)) ∧
  (c.running = false → c.fail ≠ none → ∃ (u : State) (c' : Cmd), exec (.xredExecute id 0) s = .next u ∧ u.cmd? id = some c' ∧
    c'.ended = true ∧ c'.fail = c.fail ∧ MemKept s u) ∧
  (∀ a why, c.running = true → c.pos < c.par 4 4 → c.fail = none →
    let n := c.xredSize
    (s.unread c (c.xredSrcs.map fun a => (a + n * c.pos, n)) <|> s.unwritten c [(c.par 160 8 + n * c.pos, n)]) = some (a, why) →
    ∃ (u : State) (c' : Cmd), exec (.xredExecute id 0) s = .next u ∧ u.cmd? id = some c' ∧ c'.ended = true ∧
      c'.fail = some ⟨0x0E, why, c.pos, a, 0⟩ ∧ c'.flights = [] ∧ MemKeptFly c ⟨.dram, 0⟩ 0 s u) ∧
  (∀ vals tr, c.running = true → c.pos < c.par 4 4 → 2 ≤ c.par 0 1 → c.par 0 1 ≤ 16 →
    let n := c.xredSize
    let dst := c.par 160 8 + n * c.pos
    (c.xredSrcs.map fun a => (s.footGets c (a + n * c.pos) n).map leNat) = vals.map .ok →
    (∀ a ∈ c.xredSrcs, Counted s c .read (a + n * c.pos) n) → Footed s c .write dst n tr →
    Uncounted c (tr.loc dst) n →
    ∃ (u : State) (c' : Cmd), exec (.xredExecute id 0) s = .next u ∧ u.cmd? id = some c' ∧ c'.pos = c.pos + 1 ∧
      c'.ended = false ∧ MemKeptFly c (tr.loc dst) n s u ∧
      u.homeRead (tr.loc dst) n = leBytes n (xredTree (xredOp (c.par 1 1)) 5 vals) ∧
      (c.par 1 1 = 2 → u.homeRead (tr.loc dst) n = leBytes n vals.sum)) ∧
  (∀ tr, c.running = true → c.par 4 4 ≤ c.pos → c.fail = none → c.par 168 8 ≠ 0 → Footed s c .write (c.par 168 8) 8 tr →
    Uncounted c (tr.loc (c.par 168 8)) 8 →
    ∃ (u : State) (c' : Cmd), exec (.xredExecute id 0) s = .next u ∧ u.cmd? id = some c' ∧ c'.ended = true ∧
      u.homeRead (tr.loc (c.par 168 8)) 8 = leBytes 8 (c.par 176 8)))

/-- R335 to R339: an indexed reduction starts each slot at its identity, then works on its commands in order, element by
element: a gather adds or maximises a weighted table element into a slot, a scatter adds a weighted slot element into the
table; a command that fails is noted and passed over. -/
def Obligations.IndexedReductionsWorkInOrder : Prop := ∀ (s : State) (id p : Nat) (c : Cmd) (t : Task), c.kind = .xired p →
  c.id = id → s.cmd? id = some c → s.footCmd id 4 = some (c, t) → c.running = true →
  let x := c.xired
  let inits := if x.init then x.slots * x.len else 0
  let j := (c.pos - inits) / x.len
  let e := (c.pos - inits) % x.len
  (∀ tr, c.pos < inits → Footed s c .write (x.dest + 4 * c.pos) 4 tr → Uncounted c (tr.loc (x.dest + 4 * c.pos)) 4 → ∃ (u : State) (c' : Cmd),
    exec (.xiredExecute id 0) s = .next u ∧ u.cmd? id = some c' ∧ c'.pos = c.pos + 1 ∧
    u.homeRead (tr.loc (x.dest + 4 * c.pos)) 4 = leBytes 4 (s.initVal c (c.pos / x.len) x.count 0)) ∧
  (∀ r a, inits ≤ c.pos → j < x.count → e = 0 → s.xiredItem c j = .error (r, a) → c.fail = none → ∃ (u : State) (c' : Cmd),
    exec (.xiredExecute id 0) s = .next u ∧ u.cmd? id = some c' ∧ c'.pos = c.pos + x.len ∧
    c'.fail = some ⟨0x0E, r, j, a, 0⟩ ∧ c'.ended = false ∧ MemKeptFly c ⟨.dram, 0⟩ 0 s u) ∧
  (∀ (it : XItem) vs bs tr, inits ≤ c.pos → 0 < x.len → j < x.count → it.op ≤ 2 →
    (e = 0 → s.xiredItem c j = .ok (it, vs) ∧ Counted s c .read it.row (x.len * it.sz) ∧
      Counted s c .read it.slot (x.len * 4) ∧ Counted s c .write (it.at' 0).1 (x.len * (it.at' 0).2)) →
    let a := if it.op = 2 then it.row + it.sz * e else it.slot + 4 * e
    let n := if it.op = 2 then it.sz else 4
    (e ≠ 0 → c.item = it ∧ (kget 0 [] c.work).map BitVec.toNat = vs ∧ kget? (a / 2 ^ 16) c.held = some tr) →
    Footed s c .write a n tr → Uncounted c (tr.loc a) n → s.footGet c a n = .ok bs →
    let old := leNat bs
    let v := lget vs e 0
    ∃ (u : State) (c' : Cmd), exec (.xiredExecute id 0) s = .next u ∧ u.cmd? id = some c' ∧ c'.pos = c.pos + 1 ∧
      c'.ended = false ∧ MemKeptFly c (tr.loc a) n s u ∧ u.homeRead (tr.loc a) n = leBytes n (
        if it.op = 0 then (fp32.fma .rne it.w (widen it.sz v) old).1
        else if it.op = 1 then (fp32.minmax true old (mul32 it.w (widen it.sz v))).1
        else if it.sz = 4 then (fp32.fma .rne it.w v old).1
        else (bf16.fmaV .rne (fp32.val it.w) (fp32.val v) (bf16.val old)).1)) ∧
  (∀ tr, inits ≤ c.pos → x.count ≤ j → c.fail = none → x.flag ≠ 0 → Footed s c .write x.flag 8 tr →
    Uncounted c (tr.loc x.flag) 8 →
    ∃ (u : State) (c' : Cmd), exec (.xiredExecute id 0) s = .next u ∧ u.cmd? id = some c' ∧ c'.ended = true ∧
      u.homeRead (tr.loc x.flag) 8 = leBytes 8 x.val)

/-- R340 to R347: with its footing die's tokens a query is scored and its K rows chosen; forward mode then writes the weighted
sum of those rows, and backward mode adds the weighted gradients to them, element by element. -/
def Obligations.ProductKeyLookupsScoreGatherAndScatter : Prop := ∀ (s : State) (id p : Nat) (c : Cmd) (t : Task),
  c.kind = .xpkl p → c.id = id → s.cmd? id = some c → s.footCmd id 5 = some (c, t) → c.running = true →
  let x := c.xpkl
  let need := 256 * cdiv (2 * cdiv (x.nk * x.h) 1024) 4096
  let qa := x.q + c.pos * 2 * x.h * x.qsz
  (x.back = false → c.pos < x.nq → c.work = [] → (s.pier c.pier).bucket < need → exec (.pklQueryScore id) s = .next s) ∧
  (x.back = false → c.pos < x.nq → c.work = [] → need ≤ (s.pier c.pier).bucket →
    let reads := [(qa, 2 * x.h * x.qsz), (x.k1, 2 * x.h * x.nk), (x.k2, 2 * x.h * x.nk)]
    (∀ a r, s.unread c reads = some (a, r) → c.fail = none → ∃ (u : State) (c' : Cmd), exec (.pklQueryScore id) s = .next u ∧
      u.cmd? id = some c' ∧ c'.pos = c.pos + 1 ∧ c'.fail = some ⟨0x0E, r, c.pos, a, 0⟩ ∧ MemKeptFly c ⟨.dram, 0⟩ 0 s u) ∧
    (s.unread c reads = none → (∀ y ∈ reads, Counted s c .read y.1 y.2) →
      let q := s.footElems c qa (2 * x.h) x.qsz
      let one := topK x.k (scoreHalf x.h (q.take x.h) (s.footElems c x.k1 (x.nk * x.h) 2))
      let two := topK x.k (scoreHalf x.h (q.drop x.h) (s.footElems c x.k2 (x.nk * x.h) 2))
      let sel := topK x.k (one.flatMap fun a => two.map fun b => (add32 a.1 b.1, a.2 * x.nk + b.2))
      ∃ (u : State) (c' : Cmd), exec (.pklQueryScore id) s = .next u ∧ u.cmd? id = some c' ∧ c'.pos = c.pos ∧
        kget? 0 c'.work = some (sel.map fun y => BitVec.ofNat 32 y.2) ∧
        kget? 1 c'.work = some (sel.map fun y => BitVec.ofNat 32 y.1) ∧
        (u.pier c.pier).bucket = (s.pier c.pier).bucket - need ∧ MemKeptFly c ⟨.dram, 0⟩ 0 s u)) ∧
  (∀ rs cs, x.back = false → c.pos < x.nq → kget? 0 c.work = some rs → kget? 1 c.work = some cs →
    let reads := rs.map fun r => (x.rowAt r.toNat, x.dv * x.vsz)
    (∃ (u : State) (c' : Cmd), exec (.xpklExecute id 0) s = .next u ∧ u.cmd? id = some c' ∧ c'.pos = c.pos + 1 ∧
      c'.work = []) ∧
    (∀ a r, s.unread c reads = some (a, r) → c.fail = none → ∃ (u : State) (c' : Cmd), exec (.xpklExecute id 0) s = .next u ∧
      u.cmd? id = some c' ∧ c'.fail = some ⟨0x0E, r, c.pos, a, 0⟩ ∧ MemKeptFly c ⟨.dram, 0⟩ 0 s u) ∧
    (∀ tr, x.index = 0 → x.weight = 0 → s.unread c reads = none → (∀ y ∈ reads, Counted s c .read y.1 y.2) →
      let vals := rs.map fun r => s.footElems c (x.rowAt r.toNat) x.dv x.vsz
      let out := x.rows + 4 * c.pos * x.dv
      Footed s c .write out (4 * x.dv) tr → Uncounted c (tr.loc out) (4 * x.dv) →
        ∃ u : State, exec (.xpklExecute id 0) s = .next u ∧ MemKeptFly c (tr.loc out) (4 * x.dv) s u ∧
        ∀ j, j < x.dv → u.homeRead ⟨.dram, (tr.loc out).a + 4 * j⟩ 4 = leBytes 4
          ((List.zip (pklWeights x.soft (cs.map BitVec.toNat)) vals).foldl
            (fun acc y => (fp32.fma .rne y.1 (lget y.2 j 0) acc).1) 0))) ∧
  (x.back = true → c.pos < x.nq * x.k →
    let i := c.pos
    (∀ r a, s.pklItem c i = .error (r, a) → c.fail = none → ∃ (u : State) (c' : Cmd), exec (.xpklExecute id 0) s = .next u ∧
      u.cmd? id = some c' ∧ c'.pos = i + 1 ∧ c'.fail = some ⟨0x0E, r, i, a, 0⟩ ∧ MemKeptFly c ⟨.dram, 0⟩ 0 s u) ∧
    (∀ r w g tr, s.pklItem c i = .ok (r, w, g) → Counted s c .write (x.rowAt r) (x.dv * x.vsz) →
      (x.grad ≠ 0 → Footed s c .write (x.grad + 4 * i) 4 tr ∧ Uncounted c (tr.loc (x.grad + 4 * i)) 4) → ∃ (u : State) (c' : Cmd),
        exec (.xpklExecute id 0) s = .next u ∧ u.cmd? id = some c' ∧ c'.pos = i + 1 ∧
        kget? (i + 1) c'.work = some (([r, w] ++ g).map (BitVec.ofNat 32)) ∧
        kget? 0 c'.work = some (kget 0 [] c.work ++ [BitVec.ofNat 32 (4096 * i)]) ∧
        (x.grad = 0 → MemKeptFly c ⟨.dram, 0⟩ 0 s u) ∧
        (x.grad ≠ 0 → MemKeptFly c (tr.loc (x.grad + 4 * i)) 4 s u ∧ u.homeRead (tr.loc (x.grad + 4 * i)) 4 =
          leBytes 4 (dot32 g (s.footElems c (x.rowAt r) x.dv x.vsz))))) ∧
  (∀ l i j it bs tr, x.back = true → x.nq * x.k ≤ c.pos → i < 2 ^ 20 → j < 4096 → kget? 0 c.work = some l →
    let s1 := if x.sorted then s else s.drawNat.2
    let n := if x.sorted then 0 else s.drawNat.1 % l.length
    l[n]? = some (BitVec.ofNat 32 (4096 * i + j)) → kget? (i + 1) c.work = some it →
    let w := (lget it 1 0).toNat
    let g := (lget it (j + 2) 0).toNat
    let a := x.rowAt (lget it 0 0).toNat + x.vsz * j
    (x.grad = 0 → j = 0 → s1.unread c [(x.rowAt (lget it 0 0).toNat, x.dv * x.vsz)] = none) →
    kget? (a / 2 ^ 16) c.held = some tr → Footed s1 c .write a x.vsz tr → Uncounted c (tr.loc a) x.vsz →
    s1.footGet c a x.vsz = .ok bs →
    ∃ (u : State) (c' : Cmd), exec (.xpklExecute id 0) s = .next u ∧ u.cmd? id = some c' ∧ MemKeptFly c (tr.loc a) x.vsz s u ∧
      kget? 0 c'.work = some (if j + 1 < x.dv then l.set n (BitVec.ofNat 32 (4096 * i + j + 1)) else l.eraseIdx n) ∧
      u.homeRead (tr.loc a) x.vsz = leBytes x.vsz (if x.vsz = 4 then (fp32.fma .rne w g (leNat bs)).1
        else (bf16.fmaV .rne (fp32.val w) (fp32.val g) (bf16.val (leNat bs))).1))

/-- R257 to R262: the instruction at the front of a brick's tl7 queue starts once what it must see has performed and its
power tokens are there; a streamed operand's groups are stepped in order as its copy delivers them.
R91 to R95, R257, R259, R260, R267, R268: once its last step is done a tl7 instruction completes: its work is done, its
flags reach FPMODE and its number its timeline. MZERO leaves its accumulator zero in its mode with its overflow bit clear, and MMA
adds to each accumulator element the slabs of its row of A and its column of B in order, in each of the three modes, its overflow
bit set where one overflows. One that fails ends its task. Operands are read at completion (log entry 10).
R96, R97, R127, R257, R263 to R266, R268: the values of the other tl7 instructions. MMAC multiplies the converted
elements of its source accumulator by B into its accumulator; MCVT's destination holds the converted elements, a BFQ group its
exponent too; MADDA adds element by element, in INT32 and INT64 modulo the width with the overflow bit set where a sum does not
fit, and ends the task with HANDLE_INVALID where the modes differ; PTRIM's tags are w′ − 1 of R127's table; PXPOSE packs the low
bits of the array's elements, and unpacks the tensor's, extended. Operands are read at completion (log entry 10). -/
def Obligations.MatrixInstructionsStartStreamAndComplete : Prop :=
  (∀ (s : State) (br : Nat) (o : PmaOp) (t : Task),
  s.task? o.uid = some t → t.uid = o.uid →
  let b := s.brick br
  let now := s.cycle br
  let w : Who := ⟨t.part, br, o.uid⟩
  let plan := s.planOf w o
  let mul : Bool := match o.kind with
    | .mma .. | .mmac .. => true
    | _ => false
  let cost := if mul then cdiv (o.kind.fixed + plan.charged o.kind) 4096 else 0
  let held := if (s.ctx o.ctx).uid = o.uid then (s.ctx o.ctx).held else 0
  let rest := 256 * (cost - min held cost)
  (∀ q, b.run = none → b.pma = o :: q → s.pmaSees o = false ∨ now < o.since → exec (.pmaStart br) s = .next s) ∧
  (∀ q, b.run = none → b.pma = o :: q → s.pmaSees o = true → o.since ≤ now → b.bucket < rest → ∃ u : State,
    exec (.pmaStart br) s = .next u ∧ (u.brick br).run = none ∧ (u.brick br).pma = b.pma ∧
    (u.brick br).stallAt = some (b.stallAt.getD now) ∧ (u.brick br).bucket = b.bucket ∧ MemKept s u ∧ RegsKept s u) ∧
  (∀ q, b.run = none → b.pma = o :: q → s.pmaSees o = true → o.since ≤ now → rest ≤ b.bucket → ∃ u : State,
    exec (.pmaStart br) s = .next u ∧ (u.brick br).pma = q ∧ (u.brick br).bucket = b.bucket - rest ∧
    (u.brick br).run = some
      { op := o, freeAt := now + o.kind.fixed + (if o.kind.copyOf.isSome then 0 else plan.steps), w := 0, idx := 0 } ∧
    ((s.ctx o.ctx).uid = o.uid → (u.ctx o.ctx).held = held - min held cost ∧
      (u.ctx o.ctx).mxissue = (s.ctx o.ctx).mxissue + (if mul then 1 else 0) ∧
      (u.ctx o.ctx).mxstall = (s.ctx o.ctx).mxstall + (if mul then BitVec.ofNat 64 (match b.stallAt with
        | some t0 => now - t0
        | none => 0) else 0))) ∧
  (∀ r v copy q i j, b.run = some r → r.op = o → o.kind.streamView = some v → o.kind.copyOf = some copy →
    v.groups[r.idx]? = some (q, i, j) →
    let top := plan.streamPlanes o.kind.streamsB i j + (if v.d.fmt < 2 then v.lo else 0)
    let stands := s.tagStands w t v copy i j
    (stands = false → exec (.mmaStreamStep br) s = .next s) ∧
    (stands = true → q < top → s.planeFed w v copy q i j = false → exec (.mmaStreamStep br) s = .next s) ∧
    (stands = true → top ≤ q ∨ s.planeFed w v copy q i j = true → ∃ u : State, exec (.mmaStreamStep br) s = .next u ∧ MemKept s u ∧ RegsKept s u ∧
      (u.brick br).run = some (if q < top then { r with
          idx := r.idx + 1, w := r.w + (now - r.freeAt)
          freeAt := max now r.freeAt + plan.groupSteps o.kind.streamsB i j }
        else { r with idx := r.idx + 1 })))) ∧
  (∀ (s : State) (br : Nat) (r : PmaRun) (t : Task),
  (s.brick br).run = some r → s.task? r.op.uid = some t → t.uid = r.op.uid → 7 < t.tls.length →
  (∀ v, r.op.kind.streamView = some v → v.groups.length ≤ r.idx) →
  let o := r.op
  let w : Who := ⟨t.part, br, o.uid⟩
  (s.cycle br < r.freeAt → exec (.pmaComplete br) s = .next s) ∧
  (r.freeAt ≤ s.cycle br →
    (∀ s1 fl, s.pmaWork w t o = .ok s1 fl → s1.task? o.uid ≠ none → (∀ t1, s1.task? o.uid = some t1 → 7 < t1.tls.length) →
      ∃ (u : State) (t' : Task), exec (.pmaComplete br) s = .next u ∧ (u.brick br).run = none ∧
      u.task? o.uid = some t' ∧ (o.num ≤ (t'.tl 7).val ∨ o.num ∈ (t'.tl 7).fin) ∧
      (t.drops = [] → ∀ sp, u.cells sp = s1.cells sp) ∧
      ((s1.ctx o.ctx).uid = o.uid → (u.ctx o.ctx).fpmode = (s1.ctx o.ctx).fpmode ||| (fl.setWidth 64 <<< 4)) ∧
      (∀ c, c ≠ o.ctx → (∀ t1, s1.task? o.uid = some t1 → t1.phase ≠ .bound c) → u.ctx c = s1.ctx c)) ∧
    (∀ mode acc, o.kind = .mzero mode acc → ∃ (u : State) (t' : Task), exec (.pmaComplete br) s = .next u ∧
      u.task? o.uid = some t' ∧ t'.modeOf acc = mode ∧ t'.ovfOf acc = false ∧
      (∀ i j, i < 128 → j < 128 → u.accElem o.uid acc mode i j = 0) ∧
      (t.drops = [] → ∀ sp a, sp ≠ .acc → mread a (u.cells sp) = mread a (s.cells sp))) ∧
    (∀ mode a b acc st i j, o.kind = .mma mode a b acc st →
      let z := s.startMode o
      let va := View.of a
      let vb := View.of b
      let ua := s.untrim w t va (if o.kind.streamsB then none else o.kind.copyOf)
      let ub := s.untrim w t vb (if o.kind.streamsB then o.kind.copyOf else none)
      z.viewPoison w va mode ua = false → z.viewPoison w vb mode ub = false → z.accPoison o.uid acc mode va.rows vb.cols = false →
      va.rows ≤ 128 → vb.cols ≤ 128 → i < va.rows → j < vb.cols →
      let y (i j : Nat) : Nat × Bool × FFlags :=
        ((List.range ((z.lineOf w va ua i).vals.length / 128)).foldl
          (slabStep mode (bfqPair va.d.fmt vb.d.fmt) (z.lineOf w va ua i) (z.lineOf w vb ub j))
          (z.accElem o.uid acc mode i j, false, 0))
      ∃ (u : State) (t' : Task), exec (.pmaComplete br) s = .next u ∧ u.task? o.uid = some t' ∧ t'.modeOf acc = mode ∧
        u.accElem o.uid acc mode i j = (y i j).1 % (if mode = .int64 then 2 ^ 64 else 2 ^ 32) ∧
        t'.mstat = ((s.planOf w o).steps, (s.planOf w o).saved, r.w) ∧
        (t'.ovfOf acc = true ↔ (∃ tz, z.task? o.uid = some tz ∧ tz.ovfOf acc = true)
          ∨ ∃ i j, i < va.rows ∧ j < vb.cols ∧ (y i j).2.1 = true)) ∧
    (∀ cause, s.pmaWork w t o = .fail cause → t.phase = .bound o.ctx → ∃ (u : State) (t' : Task),
      exec (.pmaComplete br) s = .next u ∧ u.task? o.uid = some t' ∧ t'.phase = .ending none cause ∧
      (u.ctx o.ctx).uid = 0 ∧ (u.brick br).run = none))) ∧
  (∀ (s : State) (br : Nat) (r : PmaRun) (t : Task),
  (s.brick br).run = some r → s.task? r.op.uid = some t → t.uid = r.op.uid → 7 < t.tls.length →
  (∀ v, r.op.kind.streamView = some v → v.groups.length ≤ r.idx) → r.freeAt ≤ s.cycle br →
  let o := r.op
  let w : Who := ⟨t.part, br, o.uid⟩
  let goes (p : State → Task → Prop) : Prop := ∃ (u : State) (t' : Task), exec (.pmaComplete br) s = .next u ∧
    u.task? o.uid = some t' ∧ (o.num ≤ (t'.tl 7).val ∨ o.num ∈ (t'.tl 7).fin) ∧ p u t'
  (∀ mode src acc b st trim fmt wd c sa zp i j, o.kind = .mmac mode src acc b st trim fmt wd c sa zp →
    let z := s.startMode o
    let vb := View.of b
    let ub := s.untrim w t vb o.kind.copyOf
    ∀ tz, z.task? o.uid = some tz → z.viewPoison w vb mode ub = false → z.accPoison o.uid acc mode 128 vb.cols = false →
    z.accPoison o.uid src (tz.modeOf src) 128 128 = false → vb.cols ≤ 128 → i < 128 → j < vb.cols →
    let x (k : Nat) : Option FV := convProd (accVal (tz.modeOf src) (z.accElem o.uid src (tz.modeOf src) i k)) (fp32.val c.toNat)
    let zz : Int := if fmt = 2 then ((zp % 2 ^ wd : Nat) : Int) else 0
    let ints : Line := ⟨(List.range 128).map fun k => (convInt fmt wd ((zp % 2 ^ wd : Nat) : Int) (x k)).1 - zz, [], [sa.toNat]⟩
    let gs (m : Nat) := (List.range 4).map fun g => convGroup m ((List.range 32).map fun k => x (32 * g + k))
    let val (m p : Nat) : Int :=
      let mag : Nat := p % 2 ^ m * (if p.testBit (m + 1) then 4 else 1)
      if p.testBit m then -(mag : Int) else mag
    let a : Line := match bfqM fmt with
      | some m => ⟨(gs m).flatMap fun g => g.2.1.map (val m), (gs m).map (·.1), []⟩
      | none => ints
    goes fun u t' => t'.modeOf acc = mode ∧ u.accElem o.uid acc mode i j =
      (slabStep mode (bfqPair fmt vb.d.fmt) a (z.lineOf w vb ub j) (z.accElem o.uid acc mode i j, false, 0) 0).1
        % (if mode = .int64 then 2 ^ 64 else 2 ^ 32)) ∧
  (∀ h acc c at', o.kind = .mcvt h acc c →
    let v := View.of h
    let x (i j : Nat) : Option FV := convProd (accVal (t.modeOf acc) (s.accElem o.uid acc (t.modeOf acc) i j)) (fp32.val c.toNat)
    InPool s br v.d at' → mcvtOk v = true → v.row0 + v.rows ≤ v.d.rows → v.col0 + v.cols ≤ v.d.cols →
    s.accPoison o.uid acc (t.modeOf acc) v.rows v.cols = false →
    (v.d.fmt = 2 → ∀ y ∈ v.cells, ∀ a, v.d.scaleAddr y.1 y.2 = some a → s.flatPoison w.q w.b 0 a 8 = none) →
    goes fun u _ =>
      (∀ i j, bfqM v.d.fmt = none → i < v.rows → j < v.cols →
        u.patAt w v.d (v.row0 + i) (v.col0 + j) 0 (v.d.stored - 1) = ofInt v.d.w (convInt v.d.fmt v.d.w
          (if v.d.fmt = 2 then ((s.scaleOf w v.d (v.row0 + i) (v.col0 + j)).2 : Int) else 0) (x i j)).1) ∧
      (∀ m l g n, bfqM v.d.fmt = some m → n < 32 → l < (if v.d.kmajor then v.cols else v.rows) →
        32 * g + 32 ≤ (if v.d.kmajor then v.rows else v.cols) →
        let e := convGroup m ((List.range 32).map fun n => if v.d.kmajor then x (32 * g + n) l else x l (32 * g + n))
        let r := v.row0 + if v.d.kmajor then 32 * g + n else l
        let k := v.col0 + if v.d.kmajor then l else 32 * g + n
        u.patAt w v.d r k 0 (v.d.stored - 1) = e.2.1.getD n 0 ∧ u.expAt w v.d r k = e.1)) ∧
  (∀ src acc, o.kind = .madda src acc →
    let mode := t.modeOf acc
    let n := if mode = .int64 then 64 else 32
    let x (i j : Nat) : Nat := s.accElem o.uid acc mode i j
    let y (i j : Nat) : Nat := s.accElem o.uid src mode i j
    let sum (i j : Nat) : Int := asInt n (x i j) + asInt n (y i j)
    (t.modeOf src ≠ mode → t.phase = .bound o.ctx → ∃ (u : State) (t' : Task), exec (.pmaComplete br) s = .next u ∧
      u.task? o.uid = some t' ∧ t'.phase = .ending none 0x10) ∧
    (t.modeOf src = mode → s.accPoison o.uid acc mode 128 128 = false → s.accPoison o.uid src mode 128 128 = false →
      goes fun u t' => t'.modeOf acc = mode ∧
        (∀ i j, i < 128 → j < 128 → u.accElem o.uid acc mode i j =
          if mode = .fp32 then (accAdd (x i j) (y i j)).1 % 2 ^ 32 else (x i j + y i j) % 2 ^ n) ∧
        (t'.ovfOf acc = true ↔ t.ovfOf acc = true ∨ mode ≠ .fp32 ∧ ∃ i j, i < 128 ∧ j < 128 ∧
          (sum i j < -(2 ^ (n - 1) : Nat) ∨ (2 ^ (n - 1) : Nat) ≤ sum i j)))) ∧
  (∀ h at', o.kind = .ptrim h → InPool s br (View.of h).d at' → (View.of h).d.isElem = false →
    let v := View.of h
    let need (x z : Nat) : Nat := match bfqM v.d.fmt with
      | some m => max 1 (bitlen (x % 2 ^ m * if x.testBit (m + 1) then 4 else 1))
      | none =>
        if v.d.fmt = 0 then (if 2 ^ (v.d.w - 1) ≤ x then v.d.w else bitlen x + 1)
        else if v.d.fmt = 1 then max 1 (bitlen x)
        else max (bitlen x) (bitlen z) + 1
    goes fun u _ => ∀ b ∈ v.d.blocksOf v.row0 v.col0 v.rows v.cols, v.d.has b.1 b.2 = true →
      u.tagAt w v.d b.1 b.2 = if s.blkPoison w v.d b.1 b.2 then 0x1F
        else ((v.d.blkCells b.1 b.2).map fun y => need (s.patAt w v.d y.1 y.2 0 (v.d.stored - 1))
          (if v.d.fmt = 2 then (s.scaleOf w v.d y.1 y.2).2 else 0)).foldl max 1 - 1) ∧
  (∀ h e unpack base pitch at', o.kind = .pxpose h e unpack base pitch →
    let v := View.of h
    let elem (i j : Nat) : Nat := (pxAddr base pitch e i j).toNat
    InPool s br v.d at' → intFmt v.d.fmt = true → v.row0 + v.rows ≤ v.d.rows → v.col0 + v.cols ≤ v.d.cols →
    (unpack = false → (∀ i j, i < v.rows → j < v.cols → s.readFlat w.q w.b 0 (elem i j) e ≠ none ∧
        s.flatPoison w.q w.b 0 (elem i j) e = none) →
      goes fun u _ => ∀ i j, i < v.rows → j < v.cols → u.patAt w v.d (v.row0 + i) (v.col0 + j) 0 (v.d.stored - 1) =
        leNat ((s.readFlat w.q w.b 0 (elem i j) e).getD []) % 2 ^ v.d.w) ∧
    (∀ l, t.drops = [] → unpack = true → v.d.w ≤ 8 * e → v.cols * e ≤ pitch.toNat → base % 2 ^ 16 + v.rows * pitch.toNat ≤ 2 ^ 16 →
      base < 2 ^ 57 → s.flatLoc w.q w.b base .write = some l → s.discOf (s.flatPte w.q w.b base .write) = 0 →
      (∀ x ∈ s.writes, x.cached = true → x.loc.sp = l.sp → overlaps x.loc.a x.bytes.length l.a (v.rows * pitch.toNat) = false) →
      s.dirtyLines (dieOfBrick br) + v.rows * (v.cols * e / 128 + 2) ≤ dieLines →
      (l.sp = .spad → overlaps l.a (v.rows * pitch.toNat) at'
        (v.d.blkOff (cdiv v.d.rows v.d.blkRows * cdiv v.d.cols v.d.blkCols)) = false) →
      (∀ y ∈ v.cells, ∀ p, p < v.d.stored → s.tPoison w v.d (v.d.planeAt y.1 y.2 p) 1 = false) →
      goes fun u _ => ∀ i j, i < v.rows → j < v.cols →
        let x := s.patAt w v.d (v.row0 + i) (v.col0 + j) 0 (v.d.stored - 1)
        leNat (u.viewRead (dieOfBrick br) 0 ⟨l.sp, l.a + i * pitch.toNat + j * e⟩ e).1 =
          if v.d.fmt = 0 then ofInt (8 * e) (asInt v.d.w x) else x)))

/-- R272, R280, R281, R376, R426 to R429: a network command sends its packets in order within its destination's window. An
acknowledgement of a packet takes it off, widens the window or, once in a base, narrows it, and brings the data of a get or an
atomic home, piece by piece. A packet that has been unacknowledged too long is sent again, by its own timer, and a silent
destination is given up. A local range outside the lease or without a translation fails the command, and a page that is not
resident freezes it. The code and piece number of an acknowledgement are those of log entry 63.
R281, R299, R426, R429: an operation whose packets do not authenticate is discarded, and one that arrives for no window of
the device is refused; one that finds its window and its page is performed and answered, and its counter goes up by one; an
ordered one stands behind an earlier one of its stream that waits. An answer that brings bytes leaves in packets of at most
4,096 bytes within its destination's window. What authenticates where no partition has the job's key is log entry 63. -/
def Obligations.NetworkCommandsSendCompleteAndArrive : Prop :=
  (∀ (s : State) (id kind : Nat) (c : Cmd) (t : Task),
  s.cmd? id = some c → c.id = id → s.task? c.uid = some t → c.kind.net = some kind → c.ended = false →
  c.arrived.isSome = true → c.frozen = none →
  let r := NetRec.of c.params
  let port := s.pickPort r.dev r.ordered
  let d := s.dest (port / 4) r.dev
  let n := if kind = 0 then min 4096 (r.len - c.pos) else 0
  let ends (i : Instr) (f : FailRec) : Prop := ∃ (u : State) (c' : Cmd), exec i s = .next u ∧ u.cmd? id = some c' ∧
    c'.ended = true ∧ c'.fail = some f ∧ u.outbox = s.outbox
  let formed : Prop := c.fail = none ∧ NetRec.ok c.params (kind == 2) = true
  let leased : Prop := t.inLease r.locl (if kind = 2 then 8 else r.len) = true
  let valid : Prop := formed ∧ leased
  let sends : Prop := s.orderedBehind c r = false ∧ (if kind = 0 then c.pos < r.len else c.pos = 0) ∧ d.unacked + n ≤ d.w
  (r.ordered = true → port = r.dev % 16) ∧
  (r.ordered = false → port < 16 ∧ ∀ p, p < 16 → s.queued port ≤ s.queued p) ∧
  (∀ f, c.fail = some f → ends (.networkPacketSend id) f) ∧
  (c.fail = none → NetRec.ok c.params (kind == 2) = false → ends (.networkPacketSend id) ⟨0x0E, 0, 0, r.locl, 0⟩) ∧
  (formed → ¬ leased → ends (.networkPacketSend id) ⟨6, 0, 0, r.locl, 0⟩) ∧
  (valid → sends → s.netReadable c (r.locl + c.pos) n = none → ∃ (u : State) (c' : Cmd),
    exec (.networkPacketSend id) s = .next u ∧ u.cmd? id = some c' ∧ c'.pos = (if kind = 0 then c.pos + n else 1) ∧
    c'.pkts = c.pkts ++ [⟨c.pos, n, port, s.now⟩] ∧ u.outbox = s.outbox
      ++ [.packet id r.dev port c.pos (s.packetOp c kind ((s.readFlat c.part c.brick 0 (r.locl + c.pos) n).getD []))] ∧
    (u.dest (port / 4) r.dev).unacked = d.unacked + n ∧ u.queued port = s.queued port + n) ∧
  (valid → ¬ sends → exec (.networkPacketSend id) s = .next s) ∧
  (∀ x a, valid → sends → s.netReadable c (r.locl + c.pos) n = some (x, .bad a) →
    ends (.networkPacketSend id) ⟨7, 0, (a - r.locl) / 8, a, 0⟩) ∧
  (∀ x a, valid → sends → s.netReadable c (r.locl + c.pos) n = some (x, .poison a) →
    ends (.networkPacketSend id) ⟨0x0F, 0, (a - r.locl) / 8, a, 0⟩) ∧
  (∀ x a, valid → sends → s.netReadable c (r.locl + c.pos) n = some (x, .absent a) → (s.part c.part).fqFull = true →
    ∃ (u : State) (c' : Cmd), exec (.networkPacketSend id) s = .next u ∧ u.cmd? id = some c' ∧
      c'.frozen = some (s.part c.part).seq ∧ c'.pos = c.pos ∧ u.outbox = s.outbox) ∧
  (c.abort = false →
    (∀ k p rtt, kind = 0 → (c.pkts.find? fun p => p.place == 4096 * k) = some p →
      let e := s.dest (p.port / 4) r.dev
      let base := (e.samples.filter fun x => s.now ≤ x.1 + 10000000).foldl (fun b x => min b x.2) rtt
      let goal := base + (s.part c.part).nettgt.toNat % 2 ^ 16
      ∃ (u : State) (c' : Cmd), exec (.networkAck id rtt [] (256 * k)) s = .next u ∧ u.cmd? id = some c' ∧
        c'.wptr = c.wptr + p.n ∧ c'.pkts = c.pkts.erase p ∧ c'.ended = (decide (r.len ≤ c.pos) && (c.pkts.erase p).isEmpty) ∧
        u.queued p.port = s.queued p.port - p.n ∧ (u.dest (p.port / 4) r.dev).unacked = e.unacked - p.n ∧
        (u.dest (p.port / 4) r.dev).lastAck = s.now ∧
        (u.dest (p.port / 4) r.dev).w =
          if rtt ≤ goal then min 16777216 (e.w + 4096 * 4096 / e.w)
          else if e.lastDec = 0 ∨ e.lastDec + base ≤ s.now then max 4096 (e.w * (10 * rtt - 8 * (rtt - goal)) / (10 * rtt))
          else e.w) ∧
    (∀ k p rtt data code, (c.pkts.find? fun p => p.place == if kind = 0 then 4096 * k else 0) = some p →
      0 < code → code < 256 → c.fail = none →
      ends (.networkAck id rtt data (256 * k + code)) ⟨0x0E, code, 512 * k, r.locl + 4096 * k, 0⟩) ∧
    (∀ k p rtt data l pte, kind = 1 → (c.pkts.find? fun p => p.place == 0) = some p → 4096 * k < r.len →
      data.length = min 4096 (r.len - 4096 * k) → c.got.contains k = false → Reach s c .write (r.locl + 4096 * k) data.length l pte →
      Calm s (dieOfBrick c.brick) l data.length → Uncounted c l data.length → ∃ (u : State) (c' : Cmd),
        exec (.networkAck id rtt data (256 * k)) s = .next u ∧ u.cmd? id = some c' ∧ c'.wptr = c.wptr + data.length ∧
        c'.got = k :: c.got ∧ c'.ended = decide (r.len ≤ c.wptr + data.length) ∧ u.homeRead l data.length = data ∧
        MemKeptFly c l data.length s u) ∧
    (∀ p rtt data l pte, kind = 2 → (c.pkts.find? fun p => p.place == 0) = some p → Reach s c .write r.locl 8 l pte →
      Calm s (dieOfBrick c.brick) l 8 → Uncounted c l 8 → ∃ (u : State) (c' : Cmd),
        exec (.networkAck id rtt data 0) s = .next u ∧ u.cmd? id = some c' ∧ c'.ended = true ∧
        u.homeRead l 8 = leBytes 8 (leNat (data.take 8)) ∧ MemKeptFly c l 8 s u) ∧
    let late (p : NetPkt) : Prop := ∃ base, (s.dest (p.port / 4) r.dev).base s.now = some base ∧
      p.sentAt + max 50000 (10 * base) ≤ s.now
    ((∀ p ∈ c.pkts, ¬ late p) → exec (.packetRetransmit id) s = .next s) ∧
    (∀ p, s.pktDue r.dev c.pkts = some p → p ∈ c.pkts ∧ late p ∧ (s.netReadable c (r.locl + p.place) p.n = none → ∃ u : State,
      exec (.packetRetransmit id) s = .next u ∧ u.outbox = s.outbox ++ [.packet id r.dev p.port p.place
        (s.packetOp c kind ((s.readFlat c.part c.brick 0 (r.locl + p.place) p.n).getD []))] ∧
      (u.part c.part).netResent = min (2 ^ 32 - 1) ((s.part c.part).netResent + 1) ∧ MemKept s u))) ∧
  (∀ p rest, c.pkts = p :: rest → c.fail = none → (s.cmds.map (·.1)).Pairwise (· < ·) →
    (∀ e ∈ s.pkg.dests, e.dev = r.dev → e.packets = 0 ∨ e.lastAck + 100000000 ≤ s.now) → ∃ (u : State) (c' : Cmd),
      exec (.destinationTimeout r.dev) s = .next u ∧ u.cmd? id = some c' ∧ c'.ended = true ∧
      c'.fail = some ⟨0x0E, 3, p.place / 8, r.locl + p.place, 0⟩)) ∧
  (∀ (s : State),
  (∀ op : NetOp, s.pkg.boot ≠ .off →
    let refused (code : Nat) : Prop := ∃ u : State, exec (.networkArrival op) s = .next u ∧
      u.outbox = s.outbox ++ [.netReply op.src code (s.pickPort op.src op.stream.isSome) 0 []] ∧ MemKept s u
    let answers (u : State) (q : Nat) (bs : List Byte) : Prop := u.outbox = s.outbox ∧
      ∃ x ∈ u.pkg.replies, x.part = q ∧ x.dev = op.src ∧ x.ordered = op.stream.isSome ∧ x.data = bs ∧ x.pos = 0 ∧ x.pkts = []
    (s.netAuth op = false → exec (.networkArrival op) s = .next s) ∧
    (s.netAuth op = true →
    (s.netBehind op = true → ∃ u : State, exec (.networkArrival op) s = .next u ∧ u.pkg.netHeld = s.pkg.netHeld ++ [op] ∧
      u.outbox = s.outbox ∧ MemKept s u) ∧
    (s.netBehind op = false → s.netTarget op = none → refused 1) ∧
    (∀ q, s.netBehind op = false → s.netTarget op = some q →
      (op.kind ≠ 2 → s.netXlate q op.addr (netOpBytes op) (if op.kind = 1 then .read else .write) = .bad → refused 2) ∧
      (∀ n f, op.kind = 2 → namoOp op.amoOp op.amoSize = some (n, f) → op.addr % n ≠ 0 → refused 2) ∧
      (∀ t, s.netWalk q op.addr .write = .ok t → t.host = false → s.discOf t.pte = 0 → op.counter = 0 →
        (op.kind = 0 → op.data ≠ [] → op.addr % 2 ^ 16 + op.data.length ≤ 2 ^ 16 → Calm s 0 (t.loc op.addr) op.data.length →
          ∃ u : State, exec (.networkArrival op) s = .next u ∧ u.homeRead (t.loc op.addr) op.data.length = op.data ∧
          MemKeptBut (t.loc op.addr) op.data.length s u ∧
          u.outbox = s.outbox ++ [.netReply op.src 0 (s.pickPort op.src op.stream.isSome) 0 []]) ∧
        (∀ n f, op.kind = 2 → namoOp op.amoOp op.amoSize = some (n, f) → op.addr % n = 0 → Calm s 0 (t.loc op.addr) n →
          s.netPoison q op.addr n = false → ∃ u : State, exec (.networkArrival op) s = .next u ∧
          let old := leNat (s.homeRead (t.loc op.addr) n)
          u.homeRead (t.loc op.addr) n = leBytes n (f old op.operand.toNat) ∧ MemKeptBut (t.loc op.addr) n s u ∧
          answers u q (leBytes 8 old))) ∧
      (∀ t, op.kind = 1 → s.netWalk q op.addr .read = .ok t → t.host = false → s.discOf t.pte = 0 →
        0 < op.len → op.addr % 2 ^ 16 + op.len ≤ 2 ^ 16 → s.netPoison q op.addr op.len = false →
        let bs := s.homeRead (t.loc op.addr) op.len
        (op.counter = 0 → ∃ u : State, exec (.networkArrival op) s = .next u ∧ MemKept s u ∧ answers u q bs) ∧
        (∀ x, op.counter ≠ 0 → op.counter % 8 = 0 → s.netWalk q op.counter .write = .ok x → x.host = false →
          s.discOf x.pte = 0 → s.netPoison q op.counter 8 = false → Calm s 0 (x.loc op.counter) 8 →
          ∃ u : State, exec (.networkArrival op) s = .next u ∧
          u.homeRead (x.loc op.counter) 8 = leBytes 8 (leNat (s.homeRead (x.loc op.counter) 8) + 1) ∧
          MemKeptBut (x.loc op.counter) 8 s u ∧ answers u q bs))))) ∧
  (∀ id x, s.cmd? id = none → s.reply? id = some x → x.pos < x.data.length →
    let n := min 4096 (x.data.length - x.pos)
    let port := s.pickPort x.dev x.ordered
    let d := s.dest (port / 4) x.dev
    (d.w < d.unacked + n → exec (.networkPacketSend id) s = .next s) ∧
    (d.unacked + n ≤ d.w → ∃ (u : State) (y : Reply), exec (.networkPacketSend id) s = .next u ∧
      u.outbox = s.outbox ++ [.netReply x.dev 0 port x.pos ((x.data.drop x.pos).take n)] ∧
      u.reply? id = some y ∧ y.pos = x.pos + n ∧ y.data = x.data ∧ MemKept s u)))

/-- R307 to R309, R320 to R323, R327: a context is configured from a checked image, or faulted by one that fails its checks;
a reconfiguration's token enters at its entry operators, and an operator applies its new entry once the token has reached every
input; a draining context's EXQs flush, and once it is quiet it writes its completion word and, with .free, is free. What an image's
check names and when a context's pages are pinned is log entry 61.
R303, R308, R320, R322, R324, R327: an argument waits at an open operator, or for a new configuration that was asked for
before it, or applies to its parameters at once; a BRIDGE sends a task's token on, and meets each request in order with its
oldest token: lanes, then the status word, each where the context's lease ranges and the page allow it. An argument for an
operator absent from the image changes nothing. The order of these steps is that of log entry 62. -/
def Obligations.FabricContextsAndCommandsAct : Prop :=
  (∀ (s : State) (die c : Nat),
  let cmd (p : GKind → Bool) (m : GMsg) : Prop := s.gCommand die c p = some m
  let g := s.fctx die c
  let taken (u : State) (m : GMsg) : Prop := ∀ x ∈ (u.die die).gq, x.id ≠ m.id
  (∀ m a, cmd (fun k => match k with
      | .gcfg _ => true
      | _ => false) m → m.kind = .gcfg a → g.drain = none →
    (∀ o ∈ g.ops, o.2.due = none) →
    let s' := ((s.gAccept die m).fabFree die c).modFctx die c fun g => 
        { g with owner := some (m.part, m.graph), image := a, resv := g.resv.eraseP fun r => r.1 == m.uid && r.2.1 == m.ord }
    (∀ im, s'.checkImage die m.brick a = .ok im → ∃ u : State, exec (.gcfgApply die c) s = .next u ∧ taken u m ∧
      let h := u.fctx die c
      h.owner = some (m.part, m.graph) ∧ h.image = a ∧ h.leases = im.leases ∧ h.pins = im.pins ∧ h.faulted = false ∧
      h.errStop = false ∧ ((im.entries.map (·.op)).Nodup → ∀ e ∈ im.entries, (u.fop ⟨die, c, e.op⟩).entry = some e)) ∧
    (∀ x, s'.checkImage die m.brick a = .error x → ∃ u : State, exec (.gcfgApply die c) s = .next u ∧ taken u m ∧
      (u.fctx die c).faulted = true ∧ (u.fctx die c).errStop = true)) ∧
  (∀ m op a im, cmd (fun k => match k with
      | .greconf .. => true
      | _ => false) m → m.kind = .greconf op a → g.ops.any (fun o => o.2.next.isSome) = false → g.errStop = false →
    g.owner ≠ none → (s.fop ⟨die, c, op⟩).entry.isSome = true → (s.gAccept die m).checkImage die m.brick a = .ok im →
    ∃ u : State, exec (.greconfApply die c) s = .next u ∧ taken u m ∧
      let h := u.fctx die c
      h.image = a ∧ h.leases = im.leases ∧ h.oldLeases = g.leases ∧ h.reconfs = g.reconfs + 1 ∧ h.owner = g.owner) ∧
  (∀ op id ins new, (s.fop ⟨die, c, op⟩).next = some (id, ins, new) →
    let o := s.fop ⟨die, c, op⟩
    let here := ins.all fun i => headIs id (if i.1 = 0 then o.q0 else o.q1)
    let storing : Bool := groutKind op == some 10 && (!o.pend.isEmpty || o.eosPend)
    (here = false ∨ o.round ≠ none ∨ o.firing = true ∨ storing = true ∨ o.outq ≠ [] →
      exec (.reconfToken die c op) s = .next s) ∧
    (here = true → o.round = none → o.firing = false → storing = false → o.outq = [] →
      let o' := ({ o with q0 := dropReconf o.q0, q1 := dropReconf o.q1 } : FOp).install id new
      exec (.reconfToken die c op) s = .next (((s.modFop ⟨die, c, op⟩ fun _ =>
        if groutKind op = some 11 then o' else o'.forward id (bothDests o.entry new)).reconfDone die c).pump die c))) ∧
  (∀ m a v free, cmd (fun k => match k with
      | .gdrain .. => true
      | _ => false) m → m.kind = .gdrain a v free → g.drain = none →
    ∃ u : State, exec (.gdrainArrival die c) s = .next u ∧ taken u m ∧ (u.fctx die c).drain = some (a, v, free, m.brick, m.uid) ∧
      (∀ op, let o := s.fop ⟨die, c, op⟩
        groutKind op = some 10 → o.cnt ≠ 0 → o.firing = false → (u.fop ⟨die, c, op⟩).eosPend = true) ∧ MemKept s u) ∧
  (∀ a v free b uid, g.drain = some (a, v, free, b, uid) → g.ops.all (fun o => o.2.quiet) = true → s.fabQuiet die c = true →
    s.canWrite (s.fpart die) b a 8 = true → s.fabPoison die b a 8 .write = false →
    let word := v.toNat % 2 ^ 63 + g.faulted.toNat * 2 ^ 63
    let w := s.writeFlat (s.fpart die) b a (leBytes 8 word)
    exec (.gdrainComplete die c) s = .next (if free then w.fabFree die c else w.modFctx die c fun g => { g with drain := none })) ∧
  (∀ op, let o := s.fop ⟨die, c, op⟩
    (o.entry.isSome = true → o.cached = false → s.needsEntry ⟨die, c, op⟩ = true → (s.cachedCtxs die op).length < 4 → ∃ u : State,
      exec (.configFetch die c op) s = .next u ∧ (u.fop ⟨die, c, op⟩).cached = true ∧
      (u.fop ⟨die, c, op⟩).entry = o.entry ∧ MemKept s u) ∧
    (s.needsEntry ⟨die, c, op⟩ = false → exec (.configFetch die c op) s = .next s))) ∧
  (∀ (s : State) (die c op : Nat) (m : GMsg),
  let k : OpId := ⟨die, c, op⟩
  let o := s.fop k
  let g := s.fctx die c
  (∀ r v e, s.gCommand die c (fun x => match x with
      | .garg o _ _ => o == op
      | _ => false) = some m → m.kind = .garg op r v → o.entry = some e → r ≠ 7 →
    o.next.any (fun n => n.2.2.isNone) = false →
    (o.isOpen = true → ∃ u : State, exec (.gargApply die c op) s = .next u ∧ (u.fop k).entry = some e ∧
      (u.fop k).gargs = o.gargs ++ [(r, v, g.reconfs)] ∧ MemKept s u) ∧
    (∀ id ins new, o.isOpen = false → o.gargs = [] → o.next = some (id, ins, new) → id ≤ g.reconfs → ∃ u : State,
      exec (.gargApply die c op) s = .next u ∧ (u.fop k).entry = some e ∧ (u.fop k).gargs = [(r, v, g.reconfs)] ∧ MemKept s u) ∧
    (o.isOpen = false → o.gargs = [] → o.next.any (fun x => x.1 ≤ g.reconfs) = false → ∃ u : State, exec (.gargApply die c op) s = .next u ∧
      (u.fop k).entry = some { e with p := lset e.p r v } ∧ (u.fop k).gargs = [] ∧ MemKept s u)) ∧
  (∀ r v, s.gCommand die c (fun x => match x with
      | .garg o _ _ => o == op
      | _ => false) = some m → m.kind = .garg op r v → o.entry = none → o.next = none → o.gargs = [] → ∃ u : State,
    exec (.gargApply die c op) s = .next u ∧ u.fop k = o ∧ MemKept s u) ∧
  (∀ lanes mask eos e, s.gCommand die c (fun x => match x with
      | .gsend o .. => o == op
      | _ => false) = some m → m.kind = .gsend op lanes mask eos → g.drain = none → g.errStop = false → o.outq = [] →
    o.entry = some e → o.next.any (fun n => n.2.2.isNone) = false →
    (o.cached = false → exec (.gsendArrival die c op) s = .next s) ∧
    (o.cached = true → OpSteps (.gsendArrival die c op) s k fun w o' => o'.outq = emitted e [(0, .tok lanes mask eos)] ∧
      (∀ x ∈ (w.die die).gq, x.id ≠ m.id) ∧ MemKept s w)) ∧
  (∀ lanes mask eos, s.gCommand die c (fun x => match x with
      | .gsend o .. => o == op
      | _ => false) = some m → m.kind = .gsend op lanes mask eos → g.drain = none → g.errStop = false → o.outq = [] →
    o.entry = none → ∃ u : State, exec (.gsendArrival die c op) s = .next u ∧ (u.fctx die c).faulted = true ∧
      (u.fctx die c).errStop = true) ∧
  (∀ a, s.gCommand die c (fun x => match x with
      | .grecv o _ => o == op
      | _ => false) = some m → m.kind = .grecv op a → g.errStop = false → ∃ u : State,
    exec (.grecvDeliver die c op) s = .next u ∧ (u.fop k).recvs = o.recvs ++ [(a, m.brick)] ∧ (u.fop k).q0 = o.q0 ∧
    MemKept s u) ∧
  (∀ lanes mask eos rest a b rs, s.gCommand die c (fun x => match x with
      | .grecv o _ => o == op
      | _ => false) = none → o.q0 = .tok lanes mask eos :: rest → o.recvs = (a, b) :: rs → o.cached = true →
    let seq := o.rseq + 1
    let status := seq % 2 ^ 32 * 2 ^ 32 + eos.toNat * 2 ^ 16 + mask.toNat
    let w := s.modFop k fun o => { o with q0 := rest, recvs := rs, rseq := seq }
    let lanesOk : Prop := covered (w.fabLease k) a 64 = true ∧ w.canWrite (w.fpart die) b a 64 = true
    let statusOk (w : State) : Prop := w.canWrite (w.fpart die) b (a + 64) 8 = true ∧ w.fabPoison die b (a + 64) 8 .write = false
    ∃ w1 : State, (lanesOk → w1 = w.fabPut die c b a (leBytes 64 lanes.toNat)) ∧
      (¬ lanesOk → w1 = w.fabFault k 0x11 a false) ∧
      (covered (w1.fabLease k) (a + 64) 8 = false →
        exec (.grecvDeliver die c op) s = .next ((w1.fabFault k 0x11 (a + 64) false).pump die c)) ∧
      (covered (w1.fabLease k) (a + 64) 8 = true → ¬ statusOk w1 →
        exec (.grecvDeliver die c op) s = .next ((w1.fabFault k 0x16 (a + 64) false).pump die c)) ∧
      (covered (w1.fabLease k) (a + 64) 8 = true → statusOk w1 →
        exec (.grecvDeliver die c op) s = .next ((w1.fabPut die c b (a + 64) (leBytes 8 status)).pump die c))))

/-- R302, R313, R314, R317, R318: MAP and FILT work on a token lane by lane, PART sends each present pair to the output its key
names, GATH replaces each index by the table's word, SCAT writes each payload at its index, and SRED reduces a segment. -/
def Obligations.FabricOperatorsWorkOnTheirTokens : Prop := ∀ (s : State) (die c op : Nat) (e : GEntry) l m eos,
  let k : OpId := ⟨die, c, op⟩
  let o := s.fop k
  let ty := fabTy e
  (Takes s k 2 e l m eos → ∃ (l' : BitVec 512) (m' : BitVec 16),
    OpSteps (.mapToken die c op) s k (fun w o' => o'.q0 = o.q0.tail ∧ o'.outq = emitted e [(0, .tok l' m' eos)] ∧
      MemKept s w) ∧
    let f := wbits e.cfg 0 5
    (f ≠ 11 → m' = m ∧ ∀ i, i < 16 → ftLane l' i =
      if m.getLsbD i then BitVec.ofNat 32 (mapVal f ty (ftLane l i).toNat (e.par 0 % 2 ^ 32)) else ftLane l i) ∧
    (f = 11 → ∀ j, j < 8 → m'.getLsbD (2 * j) = pairAt m j ∧ m'.getLsbD (2 * j + 1) = false ∧ (pairAt m j = true →
      ftLane l' (2 * j) = BitVec.ofNat 32 (mapVal 11 ty (ftLane l (2 * j)).toNat (ftLane l (2 * j + 1)).toNat)))) ∧
  (Takes s k 3 e l m eos → ∃ m' : BitVec 16,
    OpSteps (.filtToken die c op) s k (fun w o' => o'.q0 = o.q0.tail ∧ o'.outq = emitted e [(0, .tok l m' eos)] ∧
      MemKept s w) ∧
    ∀ i, i < 16 → m'.getLsbD i =
      (m.getLsbD i && filtKeeps (wbits e.cfg 0 3) ty (ftLane l i).toNat (e.par 0 % 2 ^ 32))) ∧
  (Takes s k 6 e l m eos → ∃ ms : Nat → BitVec 16,
    let n := 2 ^ wbits e.cfg 6 3
    let goes (j : Nat) : Nat := (ftLane l (2 * j)).toNat / 2 ^ wbits e.cfg 0 6 % n
    OpSteps (.partToken die c op) s k (fun w o' => o'.q0 = o.q0.tail ∧ MemKept s w ∧
      o'.outq = emitted e ((List.range n).filterMap fun out =>
        if ms out = 0 && !eos then none else some (out, .tok l (ms out) eos))) ∧
    ∀ out, out < n → ∀ j, j < 8 → (ms out).getLsbD (2 * j) = (pairAt m j && goes j == out) ∧
      (ms out).getLsbD (2 * j + 1) = (pairAt m j && goes j == out)) ∧
  (∀ v : Nat → Nat, Takes s k 7 e l m eos →
    (∀ j, j < 8 → pairAt m j = true → s.fabPeek k (e.par 0 + 4 * (ftLane l (2 * j)).toNat) 4 = .val (v j)) →
    ∃ (l' : BitVec 512) (m' : BitVec 16),
      OpSteps (.gathToken die c op) s k (fun w o' => o'.q0 = o.q0.tail ∧ o'.outq = emitted e [(0, .tok l' m' eos)] ∧
        MemKept s w) ∧
      ∀ j, j < 8 → m'.getLsbD (2 * j) = pairAt m j ∧ m'.getLsbD (2 * j + 1) = pairAt m j ∧
        ftLane l' (2 * j + 1) = ftLane l (2 * j + 1) ∧
        ftLane l' (2 * j) = if pairAt m j then BitVec.ofNat 32 (v j) else ftLane l (2 * j)) ∧
  (∀ j z, Takes s k 8 e l m eos → ftPairs l m = [(j, ftLane l (2 * j), ftLane l (2 * j + 1))] →
    let a := e.par 0 + 4 * (ftLane l (2 * j)).toNat
    FabWrites s k a 4 z → exec (.scatToken die c op) s =
      .next ((((s.takeTok k 0).fabPut die c (dieAgent die) a (leBytes 4 (ftLane l (2 * j + 1)).toNat)).afterEos k eos).pump die c)) ∧
  (Takes s k 9 e l m eos →
    let f := sredOp e
    let acc := match o.acc.map BitVec.toNat, sredToken f ty l m with
      | some a, some b => (redOp f ty 32 (some a, 0) (some b, 0)).1
      | some a, none => some a
      | none, b => b
    (eos = false → OpSteps (.sredToken die c op) s k fun w o' => o'.q0 = o.q0.tail ∧ o'.outq = [] ∧
      o'.acc = acc.map (BitVec.ofNat 32) ∧ o'.results = o.results ∧ o'.nres = o.nres ∧ MemKept s w) ∧
    (eos = true → let rs := o.results ++ [BitVec.ofNat 32 (acc.getD (redEmpty f ty))]
      (o.nres + 1 < e.par 0 → rs.length < 16 → OpSteps (.sredToken die c op) s k fun w o' => o'.outq = [] ∧ o'.acc = none ∧
        o'.results = rs ∧ o'.nres = o.nres + 1 ∧ MemKept s w) ∧
      (e.par 0 ≤ o.nres + 1 → rs.length ≤ 16 → ∃ l' : BitVec 512,
        OpSteps (.sredToken die c op) s k (fun w o' => o'.acc = none ∧ o'.results = [] ∧ o'.nres = 0 ∧ MemKept s w ∧
          o'.outq = emitted e [(0, .tok l' (BitVec.ofNat 16 (2 ^ rs.length - 1)) true)]) ∧
        ∀ i, i < rs.length → rs[i]? = some (ftLane l' i))))

/-- R310 to R312, R315, R316, R319, R323: a SRC begins a round on its start and emits its elements or pairs in each of its modes,
the last token of a row with EOS, a row whose pointers fall as an empty one; of a shared round it emits the rows of its share. A
SNK stores each element, in turn or at its position, and closes its segments with their lengths; a COAL packs elements and
flushes at EOS; an ISECT keeps the pairs whose keys agree; an EXQ stores its elements, fires at the element that makes its count
p1, at an EOS, or when its buffer is old, and starts a task. The steps are those of log entry 62. -/
def Obligations.FabricOperatorsCollectAndDeliver : Prop := ∀ (s : State) (die c op : Nat) (e : GEntry) l m eos,
  let k : OpId := ⟨die, c, op⟩
  let o := s.fop k
  let x := SrcCfg.of e
  let xs := ftElems l m
  (∀ v n rest e', s.opEntry k 0 = some e → o.round = none → o.next = none → o.boundary.gargs = (7, v, n) :: rest →
    o.boundary.entry = some e' → ∃ u : State,
    exec (.srcRound die c op) s = .next u ∧ (u.fop k).round = some ⟨0, 0⟩ ∧ (u.fop k).gargs = rest ∧ (u.fop k).entry = some e' ∧
    ((SrcCfg.of e').mode ≠ 1 ∨ (SrcCfg.of e').shares = 0 → MemKept s u)) ∧
  (∀ r row a len i (v : Nat → Nat), s.opEntry k 0 = some e → o.round = some r →
    (if x.mode = 1 then
      s.rowFrom k x (x.p2 + 1) r.row = some row ∧ i = (if row = r.row then r.idx else 0) ∧
      (x.shares = 0 ∨ s.nnzOf k x ≠ 0) ∧ s.fabPeek k (x.p1 + 4 * row) 4 = .val a ∧
      s.fabPeek k (x.p1 + 4 * (row + 1)) 4 = .val (a + len) ∧ (i < len ∨ i = 0)
    else a = 0 ∧ len = x.p1 ∧ i = r.idx ∧ i < len ∧ (if x.mode = 3 then row = r.row ∧ row < x.p2 else row = 0)) →
    let per := if x.pair || x.mode = 2 then 8 else 16
    let n := min per (len - i)
    let ends : Bool := len ≤ i + n
    let words := if x.pair && x.mode != 2 then 2 * n else n
    let a0 := if len = 0 then 0 else a
    let s1 := if n = per then s else s.blank.2
    (∀ j, j < words → s1.fabPeek k (x.p0 + (if x.pair && x.mode != 2 then 8 else 4) * (a0 + i) + 4 * j) 4 = .val (v j)) →
    ∃ l' : BitVec 512,
      OpSteps (.srcRound die c op) s k (fun w o' => MemKept s w ∧
        o'.round = (if !ends then some ⟨row, i + n⟩ else if x.mode = 1 ∨ x.mode = 3 then some ⟨row + 1, 0⟩ else none) ∧
        o'.outq = emitted e [(0, .tok l' (BitVec.ofNat 16 (2 ^ (if x.pair || x.mode = 2 then 2 * n else n) - 1)) ends)]) ∧
      (x.mode ≠ 2 → ∀ j, j < words → ftLane l' j = BitVec.ofNat 32 (v j)) ∧
      (x.mode = 2 → ∀ j, j < n → ftLane l' (2 * j) = BitVec.ofNat 32 (v j) ∧
        ftLane l' (2 * j + 1) = BitVec.ofNat 32 (a0 + i + j))) ∧
  (∀ r row a b, s.opEntry k 0 = some e → o.round = some r → x.mode = 1 → x.shares = 0 → r = ⟨row, 0⟩ → row < x.p2 →
    s.fabPeek k (x.p1 + 4 * row) 4 = .val a → s.fabPeek k (x.p1 + 4 * (row + 1)) 4 = .val b → b < a → ∃ l' : BitVec 512,
    OpSteps (.srcRound die c op) s k fun w o' => (w.fctx die c).faulted = true ∧ o'.round = some ⟨row + 1, 0⟩ ∧
      o'.outq = emitted e [(0, .tok l' 0 true)]) ∧
  (∀ r, s.opEntry k 0 = some e → o.round = some r → x.mode = 1 ∨ x.mode = 3 → x.p2 ≤ r.row →
    OpSteps (.srcRound die c op) s k fun w o' => o'.round = none ∧ o'.outq = [] ∧ MemKept s w) ∧
  (∀ row z a b y, row < x.p2 → s.rowPtr k x 0 = some z → s.rowPtr k x row = some a → s.rowPtr k x (row + 1) = some b →
    s.rowPtr k x x.p2 = some y → a < b → z < y →
    (s.emitsRow k x row = true ↔ x.shares = 0 ∨ min (x.shares - 1) ((a - z) * x.shares / (y - z)) = x.share)) ∧
  (∀ y z, Takes s k 1 e l m eos → o.due = none → wbits e.cfg 0 2 = 0 → xs = [y] → eos = false →
    FabWrites s k (e.par 0 + 4 * o.snkPos) 4 z → OpSteps (.snkToken die c op) s k fun w o' => o'.q0 = o.q0.tail ∧
      o'.snkPos = o.snkPos + 1 ∧ o'.snkLen = o.snkLen + 1 ∧ DieSees w die z (leBytes 4 y.toNat)) ∧
  (∀ j v q z, Takes s k 1 e l m eos → o.due = none → wbits e.cfg 0 2 ≠ 0 → ftPairs l m = [(j, v, q)] → eos = false →
    FabWrites s k (e.par 0 + 4 * q.toNat) 4 z → OpSteps (.snkToken die c op) s k fun w o' => o'.q0 = o.q0.tail ∧
      o'.snkPos = o.snkPos ∧ DieSees w die z (leBytes 4 v.toNat)) ∧
  (∀ z, Takes s k 1 e l m eos → o.due = none → wbits e.cfg 0 2 = 0 → xs = [] → eos = true → e.par 1 ≠ 0 →
    o.snkEos + 1 < e.par 4 → FabWrites s k (e.par 1 + 4 * o.snkSeg) 4 z → OpSteps (.snkToken die c op) s k fun w o' =>
      o'.snkSeg = o.snkSeg + 1 ∧ o'.snkLen = 0 ∧ o'.snkEos = o.snkEos + 1 ∧ o'.due = none ∧ DieSees w die z (leBytes 4 o.snkLen)) ∧
  (Takes s k 1 e l m eos → o.due = none → wbits e.cfg 0 2 = 0 → xs = [] → eos = true → e.par 1 = 0 →
    let ends := e.par 4 ≤ o.snkEos + 1 ∧ e.par 2 ≠ 0
    let inside := covered (s.fabLease k) (e.par 2) 8
    OpSteps (.snkToken die c op) s k fun w o' => o'.snkSeg = o.snkSeg + 1 ∧ o'.snkLen = 0 ∧
      o'.snkEos = (if e.par 4 ≤ o.snkEos + 1 then 0 else o.snkEos + 1) ∧ o'.due = (if ends ∧ inside = true then some (e.par 2, lget e.p 3 0) else none) ∧
      (ends → inside = false → (w.fctx die c).faulted = true) ∧ (¬ ends ∨ inside = true → MemKept s w)) ∧
  (∀ a v, o.due = some (a, v) →
    (s.fabQuiet die c = false → exec (.snkToken die c op) s = .next s) ∧
    (s.fabQuiet die c = true → s.canWrite (s.fpart die) (dieAgent die) a 8 = true → s.fabPoison die (dieAgent die) a 8 .write = false →
      exec (.snkToken die c op) s = .next (((s.writeFlat (s.fpart die) (dieAgent die) a (leBytes 8 v.toNat)).modFop k
        fun o => { o with due := none }).reconfDone die c))) ∧
  (Takes s k 4 e l m eos → o.held = none →
    let all := o.pend ++ xs
    (eos = false → all.length < 16 → OpSteps (.coalToken die c op) s k fun w o' => o'.pend = all ∧ o'.outq = [] ∧
      o'.held = none ∧ o'.q0 = o.q0.tail ∧ MemKept s w) ∧
    (eos = true → all.length < 16 → ∃ l' : BitVec 512,
      OpSteps (.coalToken die c op) s k (fun w o' => o'.pend = [] ∧ o'.held = none ∧ o'.q0 = o.q0.tail ∧ MemKept s w ∧
        o'.outq = emitted e [(0, .tok l' (BitVec.ofNat 16 (2 ^ all.length - 1)) true)]) ∧
      ∀ i, i < all.length → all[i]? = some (ftLane l' i))) ∧
  (∀ j ka va kb vb, s.opEntry k 5 = some e → o.seg0 = [] → o.eos0 = false → o.last0 = none → o.seg1 = [(kb, vb)] →
    headTok o.q0 = some (l, m, false) → ftPairs l m = [(j, ka, va)] → o.keys.length < 7 →
    OpSteps (.isectToken die c op) s k fun w o' => o'.q0 = o.q0.tail ∧ o'.outq = [] ∧ MemKept s w ∧
      (ka = kb → o'.matches0 = o.matches0 ++ [(va, vb)] ∧ o'.keys = o.keys ++ [ka] ∧ o'.seg0 = [] ∧ o'.seg1 = []) ∧
      (ka < kb → o'.keys = o.keys ∧ o'.seg0 = [] ∧ o'.seg1 = [(kb, vb)]) ∧
      (kb < ka → o'.keys = o.keys ∧ (o.eos1 = false → o'.seg0 = [(ka, va)]) ∧ o'.seg1 = [])) ∧
  (∀ y z, Takes s k 10 e l m false → o.pend = [] → o.eosPend = false → o.firing = false → xs = [y] → 0 < o.cnt →
    o.cnt + 1 < e.par 1 →
    let a := exqBuf e o.buf + 64 + 4 * o.cnt
    FabWrites s k a 4 z → OpSteps (.exqToken die c op) s k fun w o' => o'.q0 = o.q0.tail ∧ o'.cnt = o.cnt + 1 ∧ o'.pend = [] ∧
      o'.firing = false ∧ DieSees w die z (leBytes 4 y.toNat)) ∧
  (∀ z z0 z1, Takes s k 10 e l m eos → o.pend = [] → o.eosPend = false → o.firing = false → 0 < o.cnt →
    s.dirtyLines die + 6 ≤ dieLines →
    let a := exqBuf e o.buf
    FabWrites s k a 8 z0 → FabWrites s k (a + 8) 8 z1 → z1 = ⟨z0.sp, z0.a + 8⟩ →
    (∀ y, xs = [y] → eos = false → o.cnt + 1 = e.par 1 → FabWrites s k (a + 64 + 4 * o.cnt) 4 z →
      z = ⟨z0.sp, z0.a + 64 + 4 * o.cnt⟩ → OpSteps (.exqToken die c op) s k fun w o' => o'.firing = true ∧
        o'.cnt = o.cnt + 1 ∧ o'.pend = [] ∧ o'.firstAt = s.now ∧ DieSees w die z (leBytes 4 y.toNat) ∧
        DieSees w die z1 (leBytes 8 (o.cnt + 1)) ∧ DieSees w die z0 (leBytes 8 1)) ∧
    (xs = [] → eos = true → OpSteps (.exqToken die c op) s k fun w o' => o'.firing = true ∧ o'.cnt = o.cnt ∧
        o'.firstAt = s.now ∧ DieSees w die z1 (leBytes 8 o.cnt) ∧ DieSees w die z0 (leBytes 8 1))) ∧
  (s.opEntry k 10 = some e → e.par 2 ≠ 0 → o.cnt ≠ 0 → o.firing = false →
    (s.now < o.firstAt + e.par 2 → exec (.exqTimer die c op) s = .next s) ∧
    (o.firstAt + e.par 2 ≤ s.now → ∃ u : State, exec (.exqTimer die c op) s = .next u ∧ (u.fop k).firing = true ∧
      (u.fop k).cnt = o.cnt ∧ (u.fop k).firstAt = s.now)) ∧
  (∀ cls, o.entry = some e → groutKind op = some 10 → o.firing = true → s.fabQuiet die c = true → o.firstAt ≤ s.now →
    s.readClass (s.fpart die) die (e.par 3) = .ok cls → 2 ≤ (cls.kinds.filter (· == 0)).length → o.gargs = [] →
    (s.die die).ctrl.getLsbD 0 = true → s.tearing die (s.fctx die c).graph = false →
    (s.freePool die = none → ∃ u : State, exec (.exqRetry die c op) s = .next u ∧ (u.fop k).firing = true ∧
      (u.fop k).firstAt = s.now + 1000 ∧ (u.die die).frames = (s.die die).frames) ∧
    (s.freePool die ≠ none → (s.takeIndex die).1 ≠ none →
      let slots := fillScalars [BitVec.ofNat 64 (exqBuf e o.buf), BitVec.ofNat 64 o.cnt] (initSlots cls.kinds cls.counts)
      ∃ u : State, exec (.exqRetry die c op) s = .next u ∧ (u.fop k).firing = false ∧ (u.fop k).cnt = 0 ∧
      (u.fop k).buf = (o.buf + 1) % max 1 (e.par 4) ∧
      (slots.all FSlot.full = true → ∃ t, u.task? s.nextUid = some t ∧ t.cls = cls ∧ t.slots = slots ∧
        t.graph = (s.fctx die c).graph ∧ t.phase = .firing none) ∧
      (slots.all FSlot.full = false → ∃ idx f, kget? idx (u.die die).frames = some f ∧ f.cls = cls ∧ f.slots = slots ∧
        f.graph = (s.fctx die c).graph)))

/-- R350, R373, R399, R416, R419, R428: a register write stores the register's fields, and only them; a register that may be
changed only while its unit is off keeps its value otherwise; a write to a hole, or to the block of a die outside the
partition, is discarded; a count is cleared by writing 0, and an interrupt bit by writing 1; a register with a behaviour of its
own takes that step. A function whose partition is not configured, or whose stream is enabled, takes none that comes on no
stream. -/
def Obligations.RegisterWritesStoreTheirFields : Prop := ∀ (s : State) (q : Nat) (val : Word), q < 8 →
  let p := s.part q
  let frame (u : State) : Prop := (∀ q', q' ≠ q → u.part q' = s.part q') ∧ MemKept s u ∧ RegsKept s u
  let stores (off : Nat) (f : Part → Part) : Prop := ∃ u : State, exec (.registerWrite q off val) s = .next u ∧
    u.part q = f p ∧ frame u
  let dies (off : Nat) (f : Nat → Die → Die) : Prop := ∀ d, d < 16 →
    ((s.pier (pierOfDie d)).owner ≠ some q → exec (.registerWrite q (0x10000 + 0x1000 * d + off) val) s = .next s) ∧
    ((s.pier (pierOfDie d)).owner = some q → ∃ u : State,
      exec (.registerWrite q (0x10000 + 0x1000 * d + off) val) s = .next u ∧ u.die d = f d (s.die d) ∧
      (∀ d', d' ≠ d → u.die d' = s.die d') ∧ frame u)
  let clears (i : Instr) (f : Part → Part) : Prop := ∃ u : State, exec i s = .next u ∧
    u.part q = (if val = 0 then f p else p) ∧ frame u
  let steps (off : Nat) (i : Instr) : Prop := exec (.registerWrite q off val) s = exec i s
  let brick (n : Nat) (u : State) (rfu accu : Nat) : Prop :=
    (s.boundCtxs n = [] → u.brick n = { s.brick n with rfu := rfu, accu := accu, pending := none }) ∧
    (s.boundCtxs n ≠ [] → u.brick n = { s.brick n with pending := some (rfu, accu) }) ∧ (∀ m, m ≠ n → u.brick m = s.brick m)
  (∀ off, p.configured = false ∨ p.ide = true → exec (.registerWrite q off val) s = .next s) ∧
  (p.configured = false → ∀ i ∈ [Instr.droopcntClear q val, .throtcntClear q val, .netstatClear q val, .fqlostClear q val,
    .pintstatClear q val], exec i s = .next s) ∧
  (p.configured = true → p.ide = false →
    stores 0x20000 (fun p => { p with xlctrl := val &&& 1 }) ∧
    stores 0x20008 (fun p => if p.xlctrl.getLsbD 0 then p else { p with xlroot := val &&& 0x01FFFFFFFFFFFC00 }) ∧
    stores 0x20010 (fun p => { p with xltrapvec := val &&& 0xFFFFFFFFFFFFFFF0 }) ∧
    stores 0x20018 (fun p => { p with fqbase := val &&& 0xFFFFFFFFFFFFFFC0 }) ∧
    (p.fqWait = [] → stores 0x20020 fun p => { p with fqsize := fqSizeOf (wbits val 0 17) }) ∧
    stores 0x20068 (fun p => { p with scrubper := val &&& 0xFFFF }) ∧
    stores 0x20070 (fun p => if p.xlctrl.getLsbD 0 then p else { p with tileroot := val &&& 0x01FFFFFFFFF00001 }) ∧
    stores 0x21000 (fun p => { p with pwrctl := val &&& 3 }) ∧
    stores 0x21008 (fun p => { p with vffloor := min 9 (wbits val 0 4) }) ∧
    stores 0x21010 (fun p => { p with vfceil := min 9 (wbits val 0 4) }) ∧
    stores 0x21018 (fun p => { p with govthr := val &&& 0xFFFFFFFF }) ∧
    stores 0x22008 (fun p => { p with netjob := val &&& 0xFFFFFFFF }) ∧
    stores 0x22010 (fun p => { p with nettgt := val &&& 0xFFFF }) ∧
    stores 0x23008 (fun p => { p with inten := val &&& 3 }) ∧
    stores 0x20030 (fun p => p) ∧ stores 0x23000 (fun p => p) ∧ (∀ off, 0x24000 ≤ off → stores off fun p => p) ∧
    (∀ i, i < 4 → stores (0x22020 + 16 * i) (fun p =>
        { p with netwin := lset p.netwin i (val &&& 0xFFFFFFFFFFFF0000, (lget p.netwin i (0, 0)).2) }) ∧
      stores (0x22028 + 16 * i) fun p =>
        { p with netwin := lset p.netwin i ((lget p.netwin i (0, 0)).1, val &&& 0x000000FFFFFF0000) }) ∧
    steps 0x20028 (.fqheadWrite q val) ∧ steps 0x20038 (.fqlostClear q val) ∧ steps 0x20040 (.fqanswer q val) ∧
    steps 0x20048 (.evreq q val) ∧ steps 0x21020 (.droopcntClear q val) ∧ steps 0x21028 (.throtcntClear q val) ∧
    steps 0x22060 (.netstatClear q val) ∧ steps 0x23010 (.pintstatClear q val) ∧
    (∀ d, d < 16 → (s.pier (pierOfDie d)).owner = some q →
      let at' := 0x10000 + 0x1000 * d
      steps (at' + 0x030) (.dpreempt d (wbits val 0 8)) ∧ steps (at' + 0x040) (.drepriop d (wbits val 0 2)) ∧
      steps (at' + 0x048) (.dteardown q val.toNat) ∧
      ((s.die d).plBusy = none → steps (at' + 0x060) (.dplace d val.toNat)) ∧
      (∀ i, i < 80 → ∃ u : State, exec (.registerWrite q (at' + 0x400 + 8 * i) val) s = .next u ∧
        (∀ d', u.die d' = s.die d') ∧ (∀ q', u.part q' = s.part q') ∧ frame u ∧
        ∃ rfu accu, brick (80 * d + i) u rfu accu ∧ 1 ≤ rfu ∧ rfu ≤ 4 ∧ accu ≤ 63 ∧
          (1 ≤ wbits val 0 8 → wbits val 0 8 ≤ 4 → rfu = wbits val 0 8) ∧ (wbits val 8 8 ≤ 63 → accu = wbits val 8 8))) ∧
    dies 0x000 (fun _ d => { d with ctrl := val &&& 1 }) ∧
    dies 0x008 (fun n d => if d.ctrl.getLsbD 0 || s.dieBusy n then d else { d with poolBase := val &&& 0x01FFFFFFFFFF0000 }) ∧
    dies 0x010 (fun n d => if d.ctrl.getLsbD 0 || s.dieBusy n then d
      else { d with poolSize := min 65536 (max 4096 (wbits val 0 17)) }) ∧
    dies 0x018 (fun n d => if d.ctrl.getLsbD 0 || s.dieBusy n then d else { d with saveBase := val &&& 0xFFFFFFFFFFFF0000 }) ∧
    dies 0x020 (fun n d => if d.ctrl.getLsbD 0 || s.dieBusy n then d else { d with saveSize := wbits val 0 41 / 64 * 64 }) ∧
    dies 0x028 (fun _ d => { d with slice := val &&& 0xFFFF }) ∧ dies 0x038 (fun _ d => { d with repriog := val }) ∧
    dies 0x050 (fun _ d => { d with gsquery := val })) ∧
  (p.configured = true →
  clears (.droopcntClear q val) (fun p => { p with droopcnt := 0 }) ∧
  clears (.throtcntClear q val) (fun p => { p with throtTherm := 0, throtCur := 0 }) ∧
  clears (.netstatClear q val) (fun p => { p with netResent := 0, netFailed := 0 }) ∧
  clears (.fqlostClear q val) (fun p => { p with fqlost := 0 }) ∧
  (∃ u : State, exec (.pintstatClear q val) s = .next u ∧ u.part q = { p with intstat := p.intstat &&& ~~~val } ∧ frame u))

/-- R380, R383, R387 to R390, R392, R394: a fault record goes into the queue at its tail while there is room, and is counted
as lost otherwise; an answer reaches the one who waits for it; an eviction clears RES, or is refused for a page pinned, in
flight or in the host, and is done once its accesses have performed; a request for a page under eviction waits; a patrol scrub
poisons and reports an uncorrectable word when it is first found. A function whose partition is not configured takes no write.
The other errors of a scrub's event are log entry 28's; that a dropped record takes a sequence number is log entry 21's, and
when an eviction is done log entry 67's. -/
def Obligations.FaultsAreQueuedAnsweredAndScrubbed : Prop := ∀ (s : State) (q : Nat),
  let p := s.part q
  let on : Prop := p.configured = true
  (∀ val, p.configured = false → ∀ i ∈ [Instr.fqheadWrite q val, .fqanswer q val, .evreq q val], exec i s = .next s) ∧
  let next := if p.seq + 1 = 2 ^ 32 then 0 else p.seq + 1
  (∀ r : FaultRec, let u := (s.report q r).1
    (u.part q).seq = next ∧
    (p.fqFull = true → (s.report q r).2 = 0 ∧ (u.part q).fqtail = p.fqtail ∧ (∀ sp, u.cells sp = s.cells sp) ∧
      (u.part q).fqlost = if p.fqlost = BitVec.allOnes 64 then p.fqlost else p.fqlost + 1) ∧
    (p.fqFull = false → (∀ t, s.walk q p.fqNext .write ≠ .ok t) → (s.report q r).2 = 0 ∧ (u.part q).fqtail = p.fqtail ∧
      (∀ sp, u.cells sp = s.cells sp) ∧
      (u.part q).fqlost = if p.fqlost = BitVec.allOnes 64 then p.fqlost else p.fqlost + 1) ∧
    (∀ t, p.fqFull = false → s.walk q p.fqNext .write = .ok t → s.discOf t.pte = 0 → Calm s 0 (t.loc p.fqNext) 64 → (s.report q r).2 = p.fqNext ∧
      (u.part q).fqtail = BitVec.ofNat 64 ((p.fqtail.toNat + 1) % 2 ^ 32) ∧ (u.part q).fqlost = p.fqlost ∧
      (u.part q).intstat.getLsbD 0 = true ∧ MemKeptBut (t.loc p.fqNext) 64 s u ∧
      u.homeRead (t.loc p.fqNext) 64 = r.bytes p.seq q)) ∧
  (∀ val, on → p.fqWait = [] → ∃ u : State, exec (.fqheadWrite q val) s = .next u ∧
    (u.part q).fqhead = BitVec.ofNat 64 (wbits val 0 32) ∧ MemKept s u ∧ RegsKept s u) ∧
  (∀ r w, s.evicting q r.addr = true → let u := (s.request q r w).1
    (s.request q r w).2 = .waiting p.seq ∧ (u.part q).fqtail = p.fqtail ∧ kget? p.seq (u.part q).waits = some w ∧ MemKept s u) ∧
  (∀ n uid a i t, on → n < 2 ^ 32 → p.fqWait = [] → kget? n p.waits = some (.lease uid a i) → s.task? uid = some t →
    t.phase = .firing (some n) →
    (∃ (u : State) (t' : Task), exec (.fqanswer q (BitVec.ofNat 64 n)) s = .next u ∧ u.task? uid = some t' ∧
      t'.phase = .firing none ∧ MemKept s u) ∧
    (∃ (u : State) (t' : Task), exec (.fqanswer q (BitVec.ofNat 64 (n + 2 ^ 32))) s = .next u ∧ u.task? uid = some t' ∧
      t'.phase = .ending none 7)) ∧
  (∀ n id a i c, on → n < 2 ^ 32 → p.fqWait = [] → kget? n p.waits = some (.cmd id a i) → s.cmd? id = some c → c.frozen = some n →
    (∃ u : State, exec (.fqanswer q (BitVec.ofNat 64 n)) s = .next u ∧ u.cmd? id = some { c with frozen := none } ∧
      MemKept s u ∧ RegsKept s u) ∧
    (∃ u : State, exec (.fqanswer q (BitVec.ofNat 64 (n + 2 ^ 32))) s = .next u ∧ u.cmd? id = some (c.failFrozen a i) ∧
      MemKept s u ∧ RegsKept s u)) ∧
  (∀ val, (p.fqWait.any fun r => field r.1 4 4 == wbits val 0 32) = true → exec (.fqanswer q val) s = .next s) ∧
  (∀ val, p.fqWait = [] → kget? (wbits val 0 32) p.waits = none → exec (.fqanswer q val) s = .next s) ∧
  (∀ val, let a := val.toNat / 2 ^ 16 * 2 ^ 16
    (wbits p.evstat 0 2 = 1 → exec (.evreq q val) s = .next s) ∧
    (∀ t, on → wbits p.evstat 0 2 ≠ 1 → s.leafOf q a = some t →
      (t.host = true ∨ s.pagePinned t.phys t.size = true ∨ s.pageInFlight t.phys t.size = true → ∃ u : State,
        exec (.evreq q val) s = .next u ∧ (u.part q).evstat = 3 ∧ MemKept s u) ∧
      (t.host = false → s.pagePinned t.phys t.size = false → s.pageInFlight t.phys t.size = false → ∃ u : State,
        exec (.evreq q val) s = .next u ∧ (u.part q).evstat = 1 ∧ (u.part q).evPage = some a ∧
        nbits (u.dramWord (pteAddr t.pte)) 7 1 = 0 ∧ MemKeptBut ⟨.dram, pteAddr t.pte⟩ 8 s u ∧
        (∀ q' e, e ∈ (u.part q').tlb → e.2.pte ≠ t.pte)))) ∧
  (∀ a t, p.evPage = some a → s.leafOf q a = some t → wbits p.evstat 0 2 = 1 →
    (s.pageOpen t = true → exec (.evictionComplete q) s = .next s) ∧
    (s.pageOpen t = false → p.fqWait = [] → ∃ u : State, exec (.evictionComplete q) s = .next u ∧
      (u.part q).evstat = (if s.discOf t.pte = 2 then 6 else 2) ∧ (u.part q).evPage = none ∧
      ∀ w ∈ u.writes, w.pte ≠ t.pte)) ∧
  (∀ pier addr, (s.pier pier).owner = some q → wbits p.scrubper 0 16 ≠ 0 → addr / Config.pierSpan = pier →
    addr % Config.pierSpan < Config.pierBytes →
    (∃ u : State, exec (.patrolScrub pier addr 0) s = .next u ∧ u.badDram = s.badDram ∧ (u.part q).eccunc = p.eccunc ∧
      (u.part q).ecccorr = p.ecccorr) ∧
    (∃ u : State, exec (.patrolScrub pier addr 1) s = .next u ∧ u.badDram = s.badDram ∧ (u.part q).ecccorr = p.ecccorr + 1) ∧
    (addr / 8 ∉ s.badDram → ∃ u : State, exec (.patrolScrub pier addr 2) s = .next u ∧ (u.part q).eccunc = p.eccunc + 1 ∧
      (p.fqFull = true → addr / 8 ∈ u.badDram) ∧ (u.part q).seq = next) ∧
    (addr / 8 ∈ s.badDram → ∃ u : State, exec (.patrolScrub pier addr 2) s = .next u ∧ u.badDram = s.badDram ∧
      (u.part q).eccunc = p.eccunc ∧ (u.part q).seq = p.seq) ∧
    (addr / 8 ∉ s.badDram → ∃ u : State, exec (.patrolScrub pier addr 3) s = .next u ∧
      u.badDram = s.badDram ++ [addr / 8] ∧ (u.part q).eccunc = p.eccunc + 1 ∧ (u.part q).seq = p.seq) ∧
    (∃ u : State, exec (.patrolScrub pier addr 8) s = .next u ∧ u.badDram = s.badDram ∧ (u.part q).ecccorr = p.ecccorr + 1))

/-- R185, R396, R400 to R414, R437: at a boundary a course's target is its request within its partition's bounds, and a
denial is told; the inflow is nominal, 0 above a bound, and less than before in an excursion; a lowering step hops its clock
after 100 ns and every step ends after 500 ns; a rail more than 40 mV low stretches the clock until it has been steady for 16
cycles, and no CYCLE is lost at a change; the governor, within 0.2 us of a sample, asks for one point less above its upper
threshold and one more below its lower; boost notices last 1 ms; a course over its current limit gets no inflow, nor any other's
excess; at 125 degrees the package turns itself off. How a rail slews and what the governor leaves unwritten is log entry 40's, whom a
notice reaches log entry 56's, the cut of the inflow log entry 58's, and what a shutdown keeps log entry 69's. -/
def Obligations.ClocksAndPowerFollowTheirRules : Prop := ∀ (s : State) (i : Nat),
  let c := s.course i
  let cycles (u : State) : Prop := ∀ b, courseOfBrick b = i → u.cycle b = s.cycle b
  (∀ x, s.now < s.pkg.boundary + 1000 → exec (.intervalBoundary x) s = .next s) ∧
  (∀ x q, s.pkg.boundary + 1000 ≤ s.now → i < 160 → s.courseOwner i = some q → kget? i s.courses = some c →
    let at' := s.pkg.boundary + 1000
    let k := (({ s with pkg := { s.pkg with boundary := at', sram := x.sramMV } } : State).vfUpTo i at').course i
    kget? i x.therm = none → k.therm.toInt < 1600 → k.tceil = 15 → k.grants = [] → k.earlies = [] → k.curlim = 0 →
    let p := s.part q
    let asked := wbits (k.vfAt at') 0 4
    let top := min 15 (max p.vffloor p.vfceil)
    let req := if asked < p.vffloor then k.cur else asked
    ∃ u : State, exec (.intervalBoundary x) s = .next u ∧ u.pkg.boundary = at' ∧
      (u.course i).target = min req top ∧ (u.course i).req = asked ∧
      (u.course i).status = (if asked < p.vffloor then 2 else if top < req then 3 else 0) ∧
      (x.packAmps ≤ 15000 → x.packWatts ≤ 8000 → (∀ w ∈ s.pkg.msWatts, w ≤ 8000) → u.pkg.inflow = 2064 * 256) ∧
      (15000 < x.packAmps ∨ 8000 * 1000 < ((x.packWatts :: s.pkg.msWatts).take 1000).sum → u.pkg.inflow = 0) ∧
      (8000 < x.packWatts → 19 ≤ s.pkg.overRun → u.pkg.inflow < max 1 s.pkg.inflow) ∧
      MemKept s u ∧ RegsKept s u) ∧
  (∀ x, s.pkg.boundary + 1000 ≤ s.now → i < 160 → kget? i s.courses = some c → c.curlim ≠ 0 →
    wbits c.curlim 0 16 < kget i 0 x.current → ∃ u : State, exec (.intervalBoundary x) s = .next u ∧
      (u.course i).curlimited = true ∧ ∀ b, courseOfBrick b = i → (u.brick b).bucket = (s.brick b).bucket) ∧
  (∀ t0 n, c.step = some (t0, n) →
    let now := min s.now (s.pkg.boundary + 1000)
    (n < c.cur → c.clk ≠ n → t0 + 100 ≤ now → ∃ u : State, exec (.vfStep i) s = .next u ∧ (u.course i).clk = n ∧
      (u.course i).cur = c.cur ∧ u.outbox = s.outbox ++ [.rail i ((pointMV n - 450) / 5)] ∧ MemKept s u) ∧
    (c.clk = n ∨ c.cur ≤ n → t0 + 500 ≤ now → ∃ u : State, exec (.vfStep i) s = .next u ∧ (u.course i).clk = n ∧
      (u.course i).cur = n ∧ (c.target = n → (u.course i).step = none) ∧ MemKept s u) ∧
    (s.now < t0 + 100 → exec (.vfStep i) s = .next s)) ∧
  (∀ q mv, i < 160 → c.droop = false → s.courseOwner i = some q →
    (min mv s.pkg.sram + 40 < pointMV c.cur → c.hopping s.now = false → ∃ u : State, exec (.droopEvent (sensed i mv)) s = .next u ∧
      (u.course i).droop = true ∧ (u.course i).halve = true ∧ (u.part q).droopcnt = (s.part q).droopcnt + 1 ∧ cycles u) ∧
    (min mv s.pkg.sram + 40 < pointMV c.cur → c.hopping s.now = true → ∃ u : State, exec (.droopEvent (sensed i mv)) s = .next u ∧
      (u.course i).droop = true ∧ (u.course i).drooped = c.drooped + 1 ∧ (u.part q).droopcnt = (s.part q).droopcnt ∧
      cycles u) ∧
    (pointMV c.cur ≤ min mv s.pkg.sram + 40 → ∃ u : State, exec (.droopEvent (sensed i mv)) s = .next u ∧ (u.course i).droop = false ∧
      (u.course i).rail = min mv s.pkg.sram ∧ (u.part q).droopcnt = (s.part q).droopcnt)) ∧
  (∀ mv, i < 160 → c.droop = true →
    let rail := min mv s.pkg.sram
    let steady : Prop := rail ≤ pointMV c.cur + 20 ∧ pointMV c.cur ≤ rail + 20
    let n := c.milliCycles s.now
    (¬ steady → ∃ u : State, exec (.droopRecovery (sensed i mv)) s = .next u ∧ (u.course i).droop = true ∧
      (u.course i).steadyAt = none) ∧
    (steady → c.steadyAt = none → ∃ u : State, exec (.droopRecovery (sensed i mv)) s = .next u ∧ (u.course i).droop = true ∧
      (u.course i).steadyAt = some n) ∧
    (∀ k, steady → c.steadyAt = some k → ∃ u : State, exec (.droopRecovery (sensed i mv)) s = .next u ∧ cycles u ∧
      ((u.course i).droop = false ↔ k + 16000 ≤ n ∧ c.droopAt + 16000 ≤ n))) ∧
  (∀ stalled bound, c.sample ≠ some (stalled, bound) → exec (.stallSample i stalled bound) s = .next s) ∧
  (∀ stalled bound, c.sample = some (stalled, bound) → ∃ u : State, exec (.stallSample i stalled bound) s = .next u ∧
    (u.course i).stall = BitVec.ofNat 16 (if bound = 0 then 0 else min 0xFFFF (stalled * 65536 / bound)) ∧
    (u.course i).sample = none ∧ (u.course i).sampleAt = s.now / 10000 * 10000) ∧
  (∀ q, s.courseOwner i = some q →
    let p := s.part q
    let hi := wbits p.govthr 0 16
    let lo := wbits p.govthr 16 16
    let r := c.stall.toNat
    let up := min (c.cur + 1) (max p.vffloor p.vfceil)
    (c.sampleAt ≤ c.govAt ∨ c.sampleAt + 200 < s.now ∨ p.pwrctl.getLsbD 0 = false → exec (.governorAction i) s = .next s) ∧
    (p.pwrctl.getLsbD 0 = true → c.govAt < c.sampleAt → s.now ≤ c.sampleAt + 200 → (∀ o ∈ c.vfOps.ops, o.1 ≤ governorId) →
      ∃ u : State, exec (.governorAction i) s = .next u ∧ (u.course i).govAt = c.sampleAt ∧
        (hi ≤ r → c.status ≠ 2 → c.cur ≠ 0 → c.cur ≤ 10 → (u.course i).vf = BitVec.ofNat 64 (c.cur - 1)) ∧
        (hi ≤ r → c.status = 2 ∨ c.cur = 0 ∨ 10 < c.cur → (u.course i).vf = c.vf) ∧
        (r < hi → r ≤ lo → up ≠ c.cur → (u.course i).vf = BitVec.ofNat 64 up &&& 0xF) ∧
        (r < hi → lo < r → (u.course i).vf = c.vf))) ∧
  (∀ boost key phase rest, c.notices = (boost, key, phase) :: rest → ∃ u : State, exec (.boostNotice i) s = .next u ∧
    (u.course i).notices = rest ∧
    (u.course i).grants = c.grants ++ (if boost then [(key, phase, s.now + 1000000)] else []) ∧
    (u.course i).earlies = c.earlies ++ (if boost then [] else [(key, phase, s.now + 1000000)])) ∧
  (∃ u : State, exec (.boostExpiry i) s = .next u ∧ (∀ g ∈ (u.course i).grants, g ∈ c.grants ∧ s.now < g.2.2) ∧
    (∀ g ∈ c.grants, s.now < g.2.2 → g ∈ (u.course i).grants) ∧ ((u.course i).grants = [] → (u.course i).boost = false) ∧
    ((u.course i).earlies = [] → (u.course i).early = false)) ∧
  (kget? i s.courses = some c → 2000 ≤ c.therm.toInt → ∃ u : State, exec .thermalShutdown s = .next u ∧ u.pkg.boot = .off ∧
    u.dram = [] ∧ u.spad = [] ∧ u.acc = [] ∧ u.ctxs = [] ∧ u.tasks = [] ∧ u.host = s.host ∧ u.pkg.flash = s.pkg.flash ∧
    u.outbox = s.outbox ++ [.powerOff]) ∧
  ((∀ x ∈ s.courses, x.2.therm.toInt < 2000) → exec .thermalShutdown s = .next s)

/-- R415, R416, R418, R424, R425, R431, R432: a function whose partition is not configured takes no memory request; one whose
stream is enabled takes those that come on it whole and no others. The host reads and writes DRAM only in the piers of the
partition, and the registers of its window; a hole reads 0 and a read elsewhere is an Unsupported Request; a configuration
request reads and writes the base addresses, which a locked interface keeps, configured or not. The states of a TDISP interface
follow each other, a locked one keeps its IDE stream, and entry to error acts as a partition reset; a partition reset leaves the
window's registers at their reset values, the piers in the partition and their DRAM zero; a report holds its fields and is signed.
Where a configuration register stands and what a register that is only written reads is log entry 64's, which TDISP states follow
which log entry 65's, what a partition reset keeps log entry 66's, and what of a partition is hashed log entry 20's. -/
def Obligations.HostAccessesReachTheirPartition : Prop := ∀ (s : State) (q : Nat),
  let p := s.part q
  let asked (r : HostReq) : Instr := .hostMemoryAccess (if p.ide then .stream true r else r)
  let answers (r : HostReq) (o : Out) : Prop := exec (asked r) s = .next (s.out o)
  let reads (off : Nat) (v : Word) : Prop := answers (.regRead q off) (.hostData off (leBytes 8 v.toNat))
  (q < 8 → ∀ r, memFn r = some q →
    (p.ide = true → exec (.hostMemoryAccess r) s = .next s) ∧ exec (.hostMemoryAccess (.stream false r)) s = .next s ∧
    (p.ide = false → exec (.hostMemoryAccess (.stream true r)) s = .next s) ∧
    (p.configured = false → exec (asked r) s = .next s)) ∧
  (p.configured = true → q < 8 → ∀ a,
    let pier := a / Config.pierSpan
    let here (n : Nat) : Prop := pier < 8 ∧ a % Config.pierSpan + n ≤ Config.pierBytes ∧ (s.pier pier).owner = some q
    (∀ data : List Byte, (here data.length → ∃ u : State, exec (asked (.memWrite q a data)) s = .next u ∧
        u.homeRead ⟨.dram, a⟩ data.length = data ∧ (Calm s 0 ⟨.dram, a⟩ data.length →
          MemKeptBut ⟨.dram, a⟩ data.length s u ∧ RegsKept s u)) ∧
      (¬ here data.length → exec (asked (.memWrite q a data)) s = .next s)) ∧
    (∀ n, (here n → ∃ (u : State) (bs : List Byte), exec (asked (.memRead q a n)) s = .next u ∧
        u.outbox = s.outbox ++ [.hostData a bs] ∧ bs.length = n ∧ MemKept s u ∧ RegsKept s u ∧
        (s.poisoned ⟨.dram, a⟩ n = false → bs = s.homeRead ⟨.dram, a⟩ n)) ∧
      (¬ here n → answers (.memRead q a n) (.unsupported a)))) ∧
  (p.configured = true → q < 8 → reads 0x20008 p.xlroot ∧ reads 0x20028 p.fqhead ∧ reads 0x20030 p.fqtail ∧
    reads 0x20038 p.fqlost ∧ reads 0x22000 (s.pkg.netid.setWidth 64) ∧ reads 0x23010 p.intstat ∧
    reads 0x23000 (BitVec.ofNat 64 (1 + 2 * p.tdisp + 8 * p.debugOn.toNat)) ∧
    (∀ off, 0x24000 ≤ off → reads off 0) ∧ (∀ off, off < 0x10000 → reads off 0) ∧
    (∃ (u : State) (v : Word), exec (asked (.regRead q 0x20040)) s = .next u ∧
      u.outbox = s.outbox ++ [.hostData 0x20040 (leBytes 8 v.toNat)]) ∧
    ∀ d, d < 16 → ((s.pier (pierOfDie d)).owner = some q → reads (0x10000 + 0x1000 * d) (s.die d).ctrl) ∧
      ((s.pier (pierOfDie d)).owner ≠ some q → ∀ o, o < 0x1000 → reads (0x10000 + 0x1000 * d + o) 0)) ∧
  (q < 9 → s.pkg.boot ≠ .rom → s.pkg.boot ≠ .off →
    let gives (off n : Nat) : Prop :=
      exec (.hostMemoryAccess (.cfgRead q off)) s = .next (s.out (.hostData off (leBytes 4 n)))
    let bars : Word × Word := if q = 8 then (s.pkg.bar0, 0) else (p.bar0, p.bar2)
    gives 0x10 (bars.1.setWidth 32 ||| (0xC : Word32)).toNat ∧ gives 0x14 (bars.1.toNat / 2 ^ 32) ∧
    (q = 8 → gives 0x18 0) ∧ (q < 8 → gives 0x18 (bars.2.setWidth 32 ||| (0xC : Word32)).toNat) ∧
    gives 0x1C (bars.2.toNat / 2 ^ 32) ∧
    (∀ off, ∃ (u : State) (v : Word32), exec (.hostMemoryAccess (.cfgRead q off)) s = .next u ∧
      u.outbox = s.outbox ++ [.hostData off (leBytes 4 v.toNat)] ∧ MemKept s u ∧ RegsKept s u)) ∧
  (q < 8 → s.pkg.boot ≠ .rom → s.pkg.boot ≠ .off → ∀ (off : Nat) (val : Word32),
    let put (b : Word) (size : Nat) (high : Bool) : Word := BitVec.ofNat 64
      ((if high then b.toNat % 2 ^ 32 + 2 ^ 32 * val.toNat else b.toNat / 2 ^ 32 * 2 ^ 32 + val.toNat) / size * size)
    let sets (off : Nat) (p' : Part) : Prop := ∃ u : State, exec (.hostMemoryAccess (.cfgWrite q off val)) s = .next u ∧
      u.part q = p' ∧ (∀ q', q' ≠ q → u.part q' = s.part q') ∧ MemKept s u ∧ RegsKept s u
    (p.tdisp = 1 ∨ p.tdisp = 2 → exec (.hostMemoryAccess (.cfgWrite q off val)) s = .next s) ∧
    (p.tdisp ≠ 1 → p.tdisp ≠ 2 → sets 0x10 { p with bar0 := put p.bar0 (2 ^ 24) false } ∧
      sets 0x14 { p with bar0 := put p.bar0 (2 ^ 24) true } ∧ sets 0x18 { p with bar2 := put p.bar2 (2 ^ 40) false } ∧
      sets 0x1C { p with bar2 := put p.bar2 (2 ^ 40) true })) ∧
  (∀ a data, ∃ u : State, exec (.hostMemoryAccess (.hostWrite a data)) s = .next u ∧
    u.homeRead ⟨.host, a⟩ data.length = data ∧ MemKeptBut ⟨.host, a⟩ data.length s u) ∧
  (q < 8 → (p.tdisp = 1 ∨ p.tdisp = 2 → exec (.ideKeySetup q) s = .next s) ∧
    (p.tdisp ≠ 1 → p.tdisp ≠ 2 → ∃ u : State, exec (.ideKeySetup q) s = .next u ∧ u.part q = { p with ide := true }) ∧
    (∀ st, st < 3 → (p.tdisp, st) ∈ [(0, 1), (1, 2), (1, 0), (2, 0)] →
      ∃ u : State, exec (.tdispStateChange q st) s = .next u ∧ u.part q = { p with tdisp := st }) ∧
    (∀ st, st < 3 → (p.tdisp, st) ∉ [(0, 1), (1, 2), (1, 0), (2, 0)] → exec (.tdispStateChange q st) s = .next s) ∧
    (p.tdisp ≠ 3 → exec (.tdispStateChange q 3) s = exec (.partitionReset q) (s.modPart q fun p => { p with tdisp := 3 }))) ∧
  (q < 8 → s.anyLive q = false → s.quietPart q = true → ∃ u : State, exec (.partitionReset q) s = .next u ∧
    u.part q = { Part.reset with
      configured := p.configured, ide := p.ide, jobKey := p.jobKey, bar0 := p.bar0, bar2 := p.bar2 } ∧
    (∀ d ∈ s.diesOf q, u.die d = Die.reset) ∧ (∀ i, (u.pier i).owner = (s.pier i).owner) ∧
    ∀ i ∈ s.piersOf q, ∀ a, a < Config.pierBytes → mread (Config.pierSpan * i + a) u.dram = 0) ∧
  (∀ nonce, s.pkg.boot = .up → ∃ bs sig : List Byte,
    exec (.attestationReport q nonce) s = .next (s.out (.report (bs ++ sig))) ∧ bs.length = 256 ∧ sig.length = 17088 ∧
    let at' (i n : Nat) : List Byte := (bs.drop i).take n
    at' 0 4 = leBytes 4 1 ∧ at' 4 4 = leBytes 4 (if q < 8 then q else 0xFF) ∧ at' 8 32 = leBytes 32 nonce.toNat ∧
    at' 40 4 = leBytes 4 s.pkg.netid.toNat ∧ at' 44 4 = leBytes 4 (Config.imageVersion s.pkg.running) ∧
    at' 48 32 = leBytes 32 Config.romHash.toNat ∧ at' 80 32 = sha256 s.pkg.running ∧
    at' 112 32 = sha256 (if q < 8 then s.cfgBytes q else (List.range 8).flatMap fun i => s.cfgBytes i) ∧
    at' 144 32 = leBytes 32 Config.policyHash.toNat ∧ at' 176 80 = List.replicate 80 0)

/-- R423, R425, R430, R432 to R435: what a mailbox command, a reset and a step of the boot do. A write of MBCMD starts its
command with the arguments the mailbox holds; one while it is busy is discarded. The phases of the boot are log entry 5's,
the codes of MBSTAT are free (log entry 20), and what PARTCFG waits for and a reset keeps is log entry 66's. -/
def Obligations.ManagementCommandsAct : Prop := ∀ (s : State), s.pkg.mbarg.length = 4 →
  let takes : Prop := s.pkg.boot = .up ∧ wbits s.pkg.mbstat 0 2 ≠ 1
  let ends (u : State) (st : Nat) : Prop := wbits u.pkg.mbstat 0 2 = st
  let done (i : Instr) (r : State → Prop) : Prop := ∃ u : State, exec i s = .next u ∧ ends u 2 ∧ r u
  let refused (i : Instr) : Prop := ∃ u : State, exec i s = .next u ∧ ends u 3 ∧ MemKept s u ∧ RegsKept s u ∧
    u.parts = s.parts ∧ u.piers = s.piers ∧ u.pkg.netid = s.pkg.netid ∧ u.pkg.flash = s.pkg.flash ∧ u.pkg.boot = s.pkg.boot
  (∀ a0 a1 key, wbits s.pkg.mbstat 0 2 = 1 → exec (.netcfg a0 a1 key) s = .next s ∧ exec (.dbgen a0 a1) s = .next s ∧
    exec (.dbgresume a0 a1) s = .next s ∧ exec (.fwstage a0 a1) s = .next s ∧ exec .fwapply s = .next s) ∧
  (takes → ∀ a0 a1,
    let q := wbits a0 0 3
    let mask := wbits a1 0 8
    (s.affected q mask).any (fun a => (s.part a).locked) = true → refused (.partcfg a0 a1)) ∧
  (let does (off : Nat) (val : Word) (r : Host.Outcome State Fault Refusal) : Prop :=
      exec (.registerWrite 8 off val) s = r ∧ exec (.hostMemoryAccess (.regWrite 8 off val)) s = r
    let answers : Prop := s.pkg.boot = .up ∨ s.pkg.boot = .recovery
    (∀ off val, ¬ answers ∨ wbits s.pkg.mbstat 0 2 = 1 → does off val (.next s)) ∧
    (∀ off, answers → exec (.hostMemoryAccess (.regRead 8 off)) s =
      .next (s.out (.hostData off (leBytes 8 (s.pkg.mailbox off).toNat)))) ∧
    (∀ off, ¬ answers → exec (.hostMemoryAccess (.regRead 8 off)) s = .next s) ∧
    (∀ key, answers → exec (.hostMemoryAccess (.jobKey key)) s = .next { s with pkg := { s.pkg with spdmKey := some key } }) ∧
    (answers → wbits s.pkg.mbstat 0 2 ≠ 1 →
      (∀ i val, i < 4 → does (8 + 8 * i) val (.next { s with pkg := { s.pkg with mbarg := lset s.pkg.mbarg i val } })) ∧
      let a (i : Nat) : Word := lget s.pkg.mbarg i 0
      does 0 1 (exec (.partcfg (a 0) (a 1)) s) ∧ does 0 3 (exec (.dbgen (a 0) (a 1)) s) ∧
      does 0 4 (exec (.dbgresume (a 0) (a 1)) s) ∧ does 0 5 (exec (.fwstage (a 0) (a 1)) s) ∧ does 0 6 (exec .fwapply s) ∧
      does 0 7 (exec .mgmtreset s) ∧ (∀ k, s.pkg.spdmKey = some k → does 0 2 (exec (.netcfg (a 0) (a 1) k) s)) ∧
      (s.pkg.boot = .up → s.pkg.spdmKey = none → ∃ u : State, does 0 2 (.next u) ∧ ends u 2 ∧ u.parts = s.parts ∧
        u.pkg.netid = BitVec.ofNat 19 (wbits (a 0) 0 19)))) ∧
  (takes → ∀ a0 a1,
    let q := wbits a0 0 3
    let mask := wbits a1 0 8
    (s.affected q mask).any (fun a => (s.part a).locked) = false →
    (a0.getLsbD 8 = false → (s.affected q mask).any (fun a => s.anyLive a) = true → refused (.partcfg a0 a1)) ∧
    (a0.getLsbD 8 = true → (s.affected q mask).any (fun a => s.anyLive a) = true → ∃ u : State,
      exec (.partcfg a0 a1) s = .next u ∧ ends u 1 ∧ (∀ i, (u.pier i).owner = (s.pier i).owner) ∧
      (s.affected q mask = [q] → ∀ g ∈ s.graphsOf q, s.graphLive q g = true → ∃ d ∈ s.diesOf q, u.tearing d g = true) ∧
      ∀ i ∈ s.movedPiers q mask, ∀ c, pierOfBrick (brickOfCtx c) = i → (s.ctx c).uid ≠ 0 → i < 8 →
        (u.ctx c).uid = 0 ∨ (u.ctx c).preemptAt.isSome = true) ∧
    ((s.affected q mask).any (fun a => s.anyLive a) = false → (s.affected q mask).all (fun a => s.quietPart a) = true →
      done (.partcfg a0 a1) fun u => (∀ i, i < 8 → (u.pier i).owner =
          if mask.testBit i then some q else if (s.pier i).owner = some q then none else (s.pier i).owner) ∧
        ((u.part q).configured = true ↔ mask ≠ 0) ∧
        ∀ i ∈ s.movedPiers q mask, ∀ a, a < Config.pierBytes → mread (Config.pierSpan * i + a) u.dram = 0)) ∧
  (takes → ∀ a0 a1 key,
    done (.netcfg a0 a1 key) (fun u => u.pkg.netid = BitVec.ofNat 19 (wbits a0 0 19) ∧
      (u.part (wbits a1 0 3)).jobKey = some key ∧ u.pkg.spdmKey = none ∧ MemKept s u ∧ RegsKept s u) ∧
    ((s.part (wbits a0 0 3)).locked = true → refused (.dbgen a0 a1)) ∧
    ((s.part (wbits a0 0 3)).locked = false → done (.dbgen a0 a1) fun u =>
      u.part (wbits a0 0 3) = { s.part (wbits a0 0 3) with debugOn := a1.getLsbD 0 } ∧ MemKept s u ∧ RegsKept s u) ∧
    done (.fwstage a0 a1) (fun u => u.pkg.staging = s.homeRead ⟨.host, a0.toNat⟩ a1.toNat ∧ MemKept s u ∧ RegsKept s u)) ∧
  (takes → ∀ (a0 a1 : Word) (t : Task) c fixed bs,
    let x := s.ctx c
    let named := (s.haltedOf (wbits a0 0 3)).filter fun c => ctxIdOf c == wbits a1 0 13
    let record (n : Nat) : Option (List Byte) := s.readFlat t.part (brickOfCtx c) t.uid x.savearea.toNat n
    a1.getLsbD 16 = false → (named = [] → refused (.dbgresume a0 a1)) ∧
    (named = [c] → s.taskOf c = some t → record 512 = some fixed → recordNa fixed ≤ naccOf x.poolsplit →
      s.flatPoison t.part (brickOfCtx c) t.uid x.savearea.toNat (masksOf fixed).size = none →
      record (masksOf fixed).size = some bs →
      done (.dbgresume a0 a1) fun u =>
        let y := u.ctx c
        y.halted = false ∧ y.pc = field bs 40 8 ∧ y.g = (x.loadRegs bs).g ∧ y.v = (x.loadRegs bs).v ∧
        y.h = (x.loadRegs bs).h ∧ y.m = (x.loadRegs bs).m ∧ y.fpmode = (x.loadRegs bs).fpmode ∧
        y.trapvec = x.trapvec ∧ y.savearea = x.savearea ∧ ∀ c', c' ≠ c → u.ctx c' = s.ctx c')) ∧
  (takes → ∀ a0 a1 : Word, a1.getLsbD 16 = true →
    let hs := s.haltedOf (wbits a0 0 3)
    let loads (c : Nat) (bs : List Byte) : Prop := ∃ (t : Task) (fixed : List Byte), s.taskOf c = some t ∧
      s.readFlat t.part (brickOfCtx c) t.uid (s.ctx c).savearea.toNat 512 = some fixed ∧
      recordNa fixed ≤ naccOf (s.ctx c).poolsplit ∧
      s.flatPoison t.part (brickOfCtx c) t.uid (s.ctx c).savearea.toNat (masksOf fixed).size = none ∧
      s.readFlat t.part (brickOfCtx c) t.uid (s.ctx c).savearea.toNat (masksOf fixed).size = some bs
    (hs = [] → done (.dbgresume a0 a1) fun u => MemKept s u ∧ RegsKept s u) ∧
    ((∀ c ∈ hs, ∃ bs, loads c bs) → done (.dbgresume a0 a1) fun u => ∀ c ∈ hs, ∀ bs, loads c bs →
      (u.ctx c).halted = false ∧ (u.ctx c).pc = field bs 40 8 ∧ (u.ctx c).g = ((s.ctx c).loadRegs bs).g)) ∧
  (takes → let ok := s.pkg.imageOk s.pkg.staging
    (ok = true → done .fwapply fun u => u.pkg.flash = s.pkg.staging ∧ u.pkg.running = s.pkg.running ∧ u.pkg.boot = .up) ∧
    (ok = false → refused .fwapply)) ∧
  (s.pkg.boot = .recovery → wbits s.pkg.mbstat 0 2 ≠ 1 → s.pkg.imageOk s.pkg.staging = true →
    done .fwapply fun u => u.pkg.flash = s.pkg.staging ∧ u.pkg.boot = .link) ∧
  (
    let idle : State := { s with pkg := { s.pkg with mbcmd := 0, mbarg := [0, 0, 0, 0], mbstat := 0 } }
    (takes → exec .mgmtreset s = .next idle) ∧ exec .managementFlr s = .next idle ∧
    (s.pkg.boot = .dram → exec .bootSequence s = .next { idle with pkg := { idle.pkg with boot := .up } })) ∧
  (∃ u : State, exec .packageReset s = .next u ∧ u.pkg.boot = .rom ∧ u.pkg.flash = s.pkg.flash ∧ u.host = s.host ∧
    u.outbox = s.outbox ∧ u.dram = [] ∧ u.ctxs = [] ∧ u.tasks = [] ∧ u.cmds = [] ∧ (∀ q, (u.part q).configured = false)) ∧
  (
    let goes (b : Boot) : Prop := exec .bootSequence s = .next { s with pkg := { s.pkg with boot := b } }
    (s.pkg.boot = .rom → goes .link) ∧ (s.pkg.boot = .firmware → goes .dram) ∧
    (s.pkg.boot = .link → s.pkg.imageOk s.pkg.flash = false → goes .recovery) ∧
    (s.pkg.boot = .link → s.pkg.imageOk s.pkg.flash = true → exec .bootSequence s =
      .next { s with pkg := { s.pkg with boot := .firmware, running := s.pkg.flash } }))
end

