-- ==== Sys2Proof/Laws/Decode.lean ====
section
/-!
SUPPORT. The fields of packed words: an append as a number, a field as a quotient and remainder, and each field of the word
layouts read back.
-/

namespace Sys2Proof.Laws

open Sys2Proof

/-- An append as a number. -/
theorem toNat_append_mul {n m : Nat} (x : BitVec n) (y : BitVec m) : (x ++ y).toNat = x.toNat * 2 ^ m + y.toNat := by
  rw [BitVec.toNat_append, ← Nat.shiftLeft_add_eq_or_of_lt y.isLt, Nat.shiftLeft_eq]

/-- A field as a number. -/
theorem toNat_fld (w : Word32) (lo n : Nat) : (fld w lo n).toNat = w.toNat / 2 ^ lo % 2 ^ n := by
  simp [fld, BitVec.extractLsb'_toNat, Nat.shiftRight_eq_div_pow]

/-- A word in G layout as a number (R46). -/
theorem toNat_packG (m : BitVec 7) (p : Pr) (x : BitVec 5) (t1 t0 : Target) : (packG m p x t1 t0).toNat =
    (((m.toNat * 4 + p.toBits.toNat) * 32 + x.toNat) * 512 + t1.toNat) * 512 + t0.toNat := by
  show (m ++ p.toBits ++ x ++ t1 ++ t0).toNat = _
  simp only [toNat_append_mul]; norm_num

section
variable (m : BitVec 7) (p : Pr) (x : BitVec 5) (t1 t0 : Target)

@[simp] theorem fld_packG_t0 : fld (packG m p x t1 t0) 0 9 = t0 := by
  apply BitVec.eq_of_toNat_eq
  have := t0.isLt
  rw [toNat_fld, toNat_packG]; omega
@[simp] theorem fld_packG_t1 : fld (packG m p x t1 t0) 9 9 = t1 := by
  apply BitVec.eq_of_toNat_eq
  have := t0.isLt; have := t1.isLt
  rw [toNat_fld, toNat_packG]; omega
@[simp] theorem fld_packG_x : fld (packG m p x t1 t0) 18 5 = x := by
  apply BitVec.eq_of_toNat_eq
  have := t0.isLt; have := t1.isLt; have := x.isLt
  rw [toNat_fld, toNat_packG]; omega
@[simp] theorem fld_packG_pr : fld (packG m p x t1 t0) 23 2 = p.toBits := by
  apply BitVec.eq_of_toNat_eq
  have := t0.isLt; have := t1.isLt; have := x.isLt; have := p.toBits.isLt
  rw [toNat_fld, toNat_packG]; omega
@[simp] theorem majorOf_packG : majorOf (packG m p x t1 t0) = m.toNat := by
  have := t0.isLt; have := t1.isLt; have := x.isLt; have := p.toBits.isLt
  unfold majorOf; rw [toNat_packG]; omega
end

@[simp] theorem Pr.ofBits_toBits (p : Pr) : Pr.ofBits p.toBits = .ok p := by cases p <;> rfl

/-- The G layout read back (R46). -/
@[simp] theorem gword_packG (m : BitVec 7) (p : Pr) (x : BitVec 5) (t1 t0 : Target) :
    gword (packG m p x t1 t0) = .ok ⟨p, x, t1, t0⟩ := by
  simp [gword, bind, Except.bind]

/-- The B layout as a number (R46). -/
theorem toNat_packB (m : BitVec 7) (p : Pr) (e : BitVec 3) (off : BitVec 20) : (packB m p e off).toNat =
    ((m.toNat * 4 + p.toBits.toNat) * 8 + e.toNat) * 2 ^ 20 + off.toNat := by
  show (m ++ p.toBits ++ e ++ off).toNat = _
  simp only [toNat_append_mul]; norm_num

/-- Word 2 of a VEC instruction as a number (R226). -/
theorem toNat_packV (sub : BitVec 8) (d a b : BitVec 5) (m : BitVec 3) (x : BitVec 6) : (packV sub d a b m x).toNat =
    ((((sub.toNat * 32 + d.toNat) * 32 + a.toNat) * 32 + b.toNat) * 8 + m.toNat) * 64 + x.toNat := by
  show (sub ++ d ++ a ++ b ++ m ++ x).toNat = _
  simp only [toNat_append_mul]; norm_num

/-- Word 2 with three 4-bit fields as a number (R252, R269). -/
theorem toNat_pack4 (sub : BitVec 8) (a b c : BitVec 4) (lo : BitVec 12) : (pack4 sub a b c lo).toNat =
    (((sub.toNat * 16 + a.toNat) * 16 + b.toNat) * 16 + c.toNat) * 4096 + lo.toNat := by
  show (sub ++ a ++ b ++ c ++ lo).toNat = _
  simp only [toNat_append_mul]; norm_num

@[simp] theorem Scope.ofBits_toBits (x : Scope) : Scope.ofBits x.toBits = some x := by cases x <;> rfl
@[simp] theorem ElemTy.ofBits_toBits (x : ElemTy) : ElemTy.ofBits x.toBits = x := by cases x <;> rfl
@[simp] theorem XKind.ofBits_toBits (x : XKind) : XKind.ofBits x.toBits = some x := by cases x <;> rfl
@[simp] theorem Cond.ofBits_toBits (x : Cond) : Cond.ofBits x.toBits = some x := by cases x <;> rfl
@[simp] theorem FCond.ofBits_toBits (x : FCond) : FCond.ofBits x.toBits = some x := by cases x <;> rfl
@[simp] theorem Rm.ofBits_toBits (x : Rm) : Rm.ofBits x.toBits = some x := by cases x <;> rfl
@[simp] theorem AmoOp.ofBits_toBits (x : AmoOp) : AmoOp.ofBits x.toBits = some x := by cases x <;> rfl
@[simp] theorem FamoOp.ofBits_toBits (x : FamoOp) : FamoOp.ofBits x.toBits = some x := by cases x <;> rfl
@[simp] theorem Order.ofBits_toBits (x : Order) : Order.ofBits x.toBits = x := by cases x <;> rfl
@[simp] theorem HintKind.ofBits_toBits (x : HintKind) : HintKind.ofBits x.toBits = some x := by cases x <;> rfl

end Sys2Proof.Laws
end

