-- ==== Sys2Proof/Laws/Dispatch.lean ====
section
/-!
SUPPORT. exec's arms as equations, one per constructor, true by rfl.
-/

namespace Sys2Proof.Laws

open Sys2Proof Sys2Proof.Machine

@[simp] theorem exec_gread a1 a2 a3 s : exec (.gread a1 a2 a3) s = execGread a1 a2 a3 s := rfl
@[simp] theorem exec_xread a1 a2 a3 a4 s : exec (.xread a1 a2 a3 a4) s = execXread a1 a2 a3 a4 s := rfl
@[simp] theorem exec_gwrite a1 a2 s : exec (.gwrite a1 a2) s = execGwrite a1 a2 s := rfl
@[simp] theorem exec_xwrite a1 a2 a3 s : exec (.xwrite a1 a2 a3) s = execXwrite a1 a2 a3 s := rfl
@[simp] theorem exec_mov a1 a2 a3 s : exec (.mov a1 a2 a3) s = execMov a1 a2 a3 s := rfl
@[simp] theorem exec_movl a1 a2 a3 a4 a5 s : exec (.movl a1 a2 a3 a4 a5) s = execMovl a1 a2 a3 a4 a5 s := rfl
@[simp] theorem exec_null a1 a2 a3 s : exec (.null a1 a2 a3) s = execNull a1 a2 a3 s := rfl
@[simp] theorem exec_genc a1 a2 s : exec (.genc a1 a2) s = execGenc a1 a2 s := rfl
@[simp] theorem exec_gencn a1 a2 s : exec (.gencn a1 a2) s = execGencn a1 a2 s := rfl
@[simp] theorem exec_appc a1 a2 s : exec (.appc a1 a2) s = execAppc a1 a2 s := rfl
@[simp] theorem exec_gencl a1 a2 a3 a4 s : exec (.gencl a1 a2 a3 a4) s = execGencl a1 a2 a3 a4 s := rfl
@[simp] theorem exec_add a1 a2 a3 a4 s : exec (.add a1 a2 a3 a4) s = execAdd a1 a2 a3 a4 s := rfl
@[simp] theorem exec_sub a1 a2 a3 a4 s : exec (.sub a1 a2 a3 a4) s = execSub a1 a2 a3 a4 s := rfl
@[simp] theorem exec_mul a1 a2 a3 a4 s : exec (.mul a1 a2 a3 a4) s = execMul a1 a2 a3 a4 s := rfl
@[simp] theorem exec_mulh a1 a2 a3 a4 a5 s : exec (.mulh a1 a2 a3 a4 a5) s = execMulh a1 a2 a3 a4 a5 s := rfl
@[simp] theorem exec_div a1 a2 a3 a4 a5 s : exec (.div a1 a2 a3 a4 a5) s = execDiv a1 a2 a3 a4 a5 s := rfl
@[simp] theorem exec_rem a1 a2 a3 a4 a5 s : exec (.rem a1 a2 a3 a4 a5) s = execRem a1 a2 a3 a4 a5 s := rfl
@[simp] theorem exec_and a1 a2 a3 a4 s : exec (.and a1 a2 a3 a4) s = execAnd a1 a2 a3 a4 s := rfl
@[simp] theorem exec_or a1 a2 a3 a4 s : exec (.or a1 a2 a3 a4) s = execOr a1 a2 a3 a4 s := rfl
@[simp] theorem exec_xor a1 a2 a3 a4 s : exec (.xor a1 a2 a3 a4) s = execXor a1 a2 a3 a4 s := rfl
@[simp] theorem exec_andn a1 a2 a3 a4 s : exec (.andn a1 a2 a3 a4) s = execAndn a1 a2 a3 a4 s := rfl
@[simp] theorem exec_shl a1 a2 a3 a4 s : exec (.shl a1 a2 a3 a4) s = execShl a1 a2 a3 a4 s := rfl
@[simp] theorem exec_shr a1 a2 a3 a4 s : exec (.shr a1 a2 a3 a4) s = execShr a1 a2 a3 a4 s := rfl
@[simp] theorem exec_sar a1 a2 a3 a4 s : exec (.sar a1 a2 a3 a4) s = execSar a1 a2 a3 a4 s := rfl
@[simp] theorem exec_rot a1 a2 a3 a4 s : exec (.rot a1 a2 a3 a4) s = execRot a1 a2 a3 a4 s := rfl
@[simp] theorem exec_min a1 a2 a3 a4 a5 s : exec (.min a1 a2 a3 a4 a5) s = execMin a1 a2 a3 a4 a5 s := rfl
@[simp] theorem exec_max a1 a2 a3 a4 a5 s : exec (.max a1 a2 a3 a4 a5) s = execMax a1 a2 a3 a4 a5 s := rfl
@[simp] theorem exec_bits a1 a2 a3 a4 a5 s : exec (.bits a1 a2 a3 a4 a5) s = execBits a1 a2 a3 a4 a5 s := rfl
@[simp] theorem exec_ext a1 a2 a3 a4 a5 a6 s : exec (.ext a1 a2 a3 a4 a5 a6) s = execExt a1 a2 a3 a4 a5 a6 s := rfl
@[simp] theorem exec_sel a1 a2 a3 a4 s : exec (.sel a1 a2 a3 a4) s = execSel a1 a2 a3 a4 s := rfl
@[simp] theorem exec_madd a1 a2 a3 a4 s : exec (.madd a1 a2 a3 a4) s = execMadd a1 a2 a3 a4 s := rfl
@[simp] theorem exec_addi a1 a2 a3 a4 s : exec (.addi a1 a2 a3 a4) s = execAddi a1 a2 a3 a4 s := rfl
@[simp] theorem exec_muli a1 a2 a3 a4 s : exec (.muli a1 a2 a3 a4) s = execMuli a1 a2 a3 a4 s := rfl
@[simp] theorem exec_andi a1 a2 a3 a4 s : exec (.andi a1 a2 a3 a4) s = execAndi a1 a2 a3 a4 s := rfl
@[simp] theorem exec_ori a1 a2 a3 a4 s : exec (.ori a1 a2 a3 a4) s = execOri a1 a2 a3 a4 s := rfl
@[simp] theorem exec_xori a1 a2 a3 a4 s : exec (.xori a1 a2 a3 a4) s = execXori a1 a2 a3 a4 s := rfl
@[simp] theorem exec_shli a1 a2 a3 a4 s : exec (.shli a1 a2 a3 a4) s = execShli a1 a2 a3 a4 s := rfl
@[simp] theorem exec_shri a1 a2 a3 a4 s : exec (.shri a1 a2 a3 a4) s = execShri a1 a2 a3 a4 s := rfl
@[simp] theorem exec_sari a1 a2 a3 a4 s : exec (.sari a1 a2 a3 a4) s = execSari a1 a2 a3 a4 s := rfl
@[simp] theorem exec_mini a1 a2 a3 a4 a5 s : exec (.mini a1 a2 a3 a4 a5) s = execMini a1 a2 a3 a4 a5 s := rfl
@[simp] theorem exec_maxi a1 a2 a3 a4 a5 s : exec (.maxi a1 a2 a3 a4 a5) s = execMaxi a1 a2 a3 a4 a5 s := rfl
@[simp] theorem exec_tcmp a1 a2 a3 a4 a5 s : exec (.tcmp a1 a2 a3 a4 a5) s = execTcmp a1 a2 a3 a4 a5 s := rfl
@[simp] theorem exec_tcmpi a1 a2 a3 a4 a5 s : exec (.tcmpi a1 a2 a3 a4 a5) s = execTcmpi a1 a2 a3 a4 a5 s := rfl
@[simp] theorem exec_fcmp a1 a2 a3 a4 a5 s : exec (.fcmp a1 a2 a3 a4 a5) s = execFcmp a1 a2 a3 a4 a5 s := rfl
@[simp] theorem exec_tbit a1 a2 a3 a4 s : exec (.tbit a1 a2 a3 a4) s = execTbit a1 a2 a3 a4 s := rfl
@[simp] theorem exec_fadd a1 a2 a3 a4 a5 s : exec (.fadd a1 a2 a3 a4 a5) s = execFadd a1 a2 a3 a4 a5 s := rfl
@[simp] theorem exec_fsub a1 a2 a3 a4 a5 s : exec (.fsub a1 a2 a3 a4 a5) s = execFsub a1 a2 a3 a4 a5 s := rfl
@[simp] theorem exec_fmul a1 a2 a3 a4 a5 s : exec (.fmul a1 a2 a3 a4 a5) s = execFmul a1 a2 a3 a4 a5 s := rfl
@[simp] theorem exec_fdiv a1 a2 a3 a4 a5 s : exec (.fdiv a1 a2 a3 a4 a5) s = execFdiv a1 a2 a3 a4 a5 s := rfl
@[simp] theorem exec_fsqrt a1 a2 a3 a4 a5 s : exec (.fsqrt a1 a2 a3 a4 a5) s = execFsqrt a1 a2 a3 a4 a5 s := rfl
@[simp] theorem exec_fma a1 a2 a3 a4 a5 s : exec (.fma a1 a2 a3 a4 a5) s = execFma a1 a2 a3 a4 a5 s := rfl
@[simp] theorem exec_fmin a1 a2 a3 a4 s : exec (.fmin a1 a2 a3 a4) s = execFmin a1 a2 a3 a4 s := rfl
@[simp] theorem exec_fmax a1 a2 a3 a4 s : exec (.fmax a1 a2 a3 a4) s = execFmax a1 a2 a3 a4 s := rfl
@[simp] theorem exec_fcvt a1 a2 a3 a4 s : exec (.fcvt a1 a2 a3 a4) s = execFcvt a1 a2 a3 a4 s := rfl
@[simp] theorem exec_fclass a1 a2 a3 a4 s : exec (.fclass a1 a2 a3 a4) s = execFclass a1 a2 a3 a4 s := rfl
@[simp] theorem exec_fsgn a1 a2 a3 a4 a5 s : exec (.fsgn a1 a2 a3 a4 a5) s = execFsgn a1 a2 a3 a4 a5 s := rfl
@[simp] theorem exec_ldb a1 a2 a3 a4 s : exec (.ldb a1 a2 a3 a4) s = execLdb a1 a2 a3 a4 s := rfl
@[simp] theorem exec_ldbn a1 a2 a3 a4 s : exec (.ldbn a1 a2 a3 a4) s = execLdbn a1 a2 a3 a4 s := rfl
@[simp] theorem exec_ldh a1 a2 a3 a4 s : exec (.ldh a1 a2 a3 a4) s = execLdh a1 a2 a3 a4 s := rfl
@[simp] theorem exec_ldhn a1 a2 a3 a4 s : exec (.ldhn a1 a2 a3 a4) s = execLdhn a1 a2 a3 a4 s := rfl
@[simp] theorem exec_ldw a1 a2 a3 a4 s : exec (.ldw a1 a2 a3 a4) s = execLdw a1 a2 a3 a4 s := rfl
@[simp] theorem exec_ldwn a1 a2 a3 a4 s : exec (.ldwn a1 a2 a3 a4) s = execLdwn a1 a2 a3 a4 s := rfl
@[simp] theorem exec_ldd a1 a2 a3 a4 s : exec (.ldd a1 a2 a3 a4) s = execLdd a1 a2 a3 a4 s := rfl
@[simp] theorem exec_lda a1 a2 a3 a4 a5 s : exec (.lda a1 a2 a3 a4 a5) s = execLda a1 a2 a3 a4 a5 s := rfl
@[simp] theorem exec_stb a1 a2 a3 s : exec (.stb a1 a2 a3) s = execStb a1 a2 a3 s := rfl
@[simp] theorem exec_sth a1 a2 a3 s : exec (.sth a1 a2 a3) s = execSth a1 a2 a3 s := rfl
@[simp] theorem exec_stw a1 a2 a3 s : exec (.stw a1 a2 a3) s = execStw a1 a2 a3 s := rfl
@[simp] theorem exec_std a1 a2 a3 s : exec (.std a1 a2 a3) s = execStd a1 a2 a3 s := rfl
@[simp] theorem exec_stl a1 a2 a3 a4 s : exec (.stl a1 a2 a3 a4) s = execStl a1 a2 a3 a4 s := rfl
@[simp] theorem exec_amo a1 a2 a3 a4 a5 a6 a7 a8 s : exec (.amo a1 a2 a3 a4 a5 a6 a7 a8) s = execAmo a1 a2 a3 a4 a5 a6 a7 a8 s := rfl
@[simp] theorem exec_cas a1 a2 a3 a4 a5 a6 a7 s : exec (.cas a1 a2 a3 a4 a5 a6 a7) s = execCas a1 a2 a3 a4 a5 a6 a7 s := rfl
@[simp] theorem exec_famo a1 a2 a3 a4 a5 a6 a7 s : exec (.famo a1 a2 a3 a4 a5 a6 a7) s = execFamo a1 a2 a3 a4 a5 a6 a7 s := rfl
@[simp] theorem exec_fence a1 a2 a3 a4 a5 s : exec (.fence a1 a2 a3 a4 a5) s = execFence a1 a2 a3 a4 a5 s := rfl
@[simp] theorem exec_fencer a1 a2 a3 a4 a5 a6 a7 s : exec (.fencer a1 a2 a3 a4 a5 a6 a7) s = execFencer a1 a2 a3 a4 a5 a6 a7 s := rfl
@[simp] theorem exec_fencerArm a1 a2 a3 a4 a5 s : exec (.fencerArm a1 a2 a3 a4 a5) s = execFencerArm a1 a2 a3 a4 a5 s := rfl
@[simp] theorem exec_fencerDisarm a1 a2 a3 a4 a5 s : exec (.fencerDisarm a1 a2 a3 a4 a5) s = execFencerDisarm a1 a2 a3 a4 a5 s := rfl
@[simp] theorem exec_fwait a1 a2 a3 s : exec (.fwait a1 a2 a3) s = execFwait a1 a2 a3 s := rfl
@[simp] theorem exec_mwait a1 a2 a3 a4 a5 s : exec (.mwait a1 a2 a3 a4 a5) s = execMwait a1 a2 a3 a4 a5 s := rfl
@[simp] theorem exec_pref a1 a2 a3 s : exec (.pref a1 a2 a3) s = execPref a1 a2 a3 s := rfl
@[simp] theorem exec_br a1 a2 a3 s : exec (.br a1 a2 a3) s = execBr a1 a2 a3 s := rfl
@[simp] theorem exec_bri a1 a2 s : exec (.bri a1 a2) s = execBri a1 a2 s := rfl
@[simp] theorem exec_callb a1 a2 a3 s : exec (.callb a1 a2 a3) s = execCallb a1 a2 a3 s := rfl
@[simp] theorem exec_retb a1 a2 s : exec (.retb a1 a2) s = execRetb a1 a2 s := rfl
@[simp] theorem exec_tend a1 a2 a3 s : exec (.tend a1 a2 a3) s = execTend a1 a2 a3 s := rfl
@[simp] theorem exec_tendOp0 a1 a2 s : exec (.tendOp0 a1 a2) s = execTendOp0 a1 a2 s := rfl
@[simp] theorem exec_yield a1 a2 a3 s : exec (.yield a1 a2 a3) s = execYield a1 a2 a3 s := rfl
@[simp] theorem exec_trap a1 a2 s : exec (.trap a1 a2) s = execTrap a1 a2 s := rfl
@[simp] theorem exec_tspawn a1 a2 a3 a4 s : exec (.tspawn a1 a2 a3 a4) s = execTspawn a1 a2 a3 a4 s := rfl
@[simp] theorem exec_tsend a1 a2 a3 s : exec (.tsend a1 a2 a3) s = execTsend a1 a2 a3 s := rfl
@[simp] theorem exec_tsendh a1 a2 a3 s : exec (.tsendh a1 a2 a3) s = execTsendh a1 a2 a3 s := rfl
@[simp] theorem exec_tfork a1 a2 a3 a4 s : exec (.tfork a1 a2 a3 a4) s = execTfork a1 a2 a3 a4 s := rfl
@[simp] theorem exec_tself a1 a2 a3 a4 s : exec (.tself a1 a2 a3 a4) s = execTself a1 a2 a3 a4 s := rfl
@[simp] theorem exec_tkill a1 s : exec (.tkill a1) s = execTkill a1 s := rfl
@[simp] theorem exec_bara a1 a2 a3 a4 s : exec (.bara a1 a2 a3 a4) s = execBara a1 a2 a3 a4 s := rfl
@[simp] theorem exec_barw a1 a2 a3 a4 s : exec (.barw a1 a2 a3 a4) s = execBarw a1 a2 a3 a4 s := rfl
@[simp] theorem exec_qtkt a1 a2 a3 s : exec (.qtkt a1 a2 a3) s = execQtkt a1 a2 a3 s := rfl
@[simp] theorem exec_qfill a1 s : exec (.qfill a1) s = execQfill a1 s := rfl
@[simp] theorem exec_qpop a1 a2 a3 s : exec (.qpop a1 a2 a3) s = execQpop a1 a2 a3 s := rfl
@[simp] theorem exec_qpeek a1 a2 a3 s : exec (.qpeek a1 a2 a3) s = execQpeek a1 a2 a3 s := rfl
@[simp] theorem exec_qocc a1 a2 a3 s : exec (.qocc a1 a2 a3) s = execQocc a1 a2 a3 s := rfl
@[simp] theorem exec_qinit a1 a2 s : exec (.qinit a1 a2) s = execQinit a1 a2 s := rfl
@[simp] theorem exec_vld a1 a2 a3 a4 s : exec (.vld a1 a2 a3 a4) s = execVld a1 a2 a3 a4 s := rfl
@[simp] theorem exec_vlds a1 a2 a3 a4 s : exec (.vlds a1 a2 a3 a4) s = execVlds a1 a2 a3 a4 s := rfl
@[simp] theorem exec_vldx a1 a2 a3 a4 a5 s : exec (.vldx a1 a2 a3 a4 a5) s = execVldx a1 a2 a3 a4 a5 s := rfl
@[simp] theorem exec_vst a1 a2 a3 a4 s : exec (.vst a1 a2 a3 a4) s = execVst a1 a2 a3 a4 s := rfl
@[simp] theorem exec_vsts a1 a2 a3 a4 s : exec (.vsts a1 a2 a3 a4) s = execVsts a1 a2 a3 a4 s := rfl
@[simp] theorem exec_vstx a1 a2 a3 a4 a5 s : exec (.vstx a1 a2 a3 a4 a5) s = execVstx a1 a2 a3 a4 a5 s := rfl
@[simp] theorem exec_vbcst a1 a2 a3 a4 s : exec (.vbcst a1 a2 a3 a4) s = execVbcst a1 a2 a3 a4 s := rfl
@[simp] theorem exec_vmov a1 a2 a3 a4 a5 s : exec (.vmov a1 a2 a3 a4 a5) s = execVmov a1 a2 a3 a4 a5 s := rfl
@[simp] theorem exec_vadd a1 a2 a3 a4 a5 a6 s : exec (.vadd a1 a2 a3 a4 a5 a6) s = execVadd a1 a2 a3 a4 a5 a6 s := rfl
@[simp] theorem exec_vsub a1 a2 a3 a4 a5 a6 s : exec (.vsub a1 a2 a3 a4 a5 a6) s = execVsub a1 a2 a3 a4 a5 a6 s := rfl
@[simp] theorem exec_vmul a1 a2 a3 a4 a5 a6 s : exec (.vmul a1 a2 a3 a4 a5 a6) s = execVmul a1 a2 a3 a4 a5 a6 s := rfl
@[simp] theorem exec_vfma a1 a2 a3 a4 a5 a6 s : exec (.vfma a1 a2 a3 a4 a5 a6) s = execVfma a1 a2 a3 a4 a5 a6 s := rfl
@[simp] theorem exec_vdiv a1 a2 a3 a4 a5 a6 s : exec (.vdiv a1 a2 a3 a4 a5 a6) s = execVdiv a1 a2 a3 a4 a5 a6 s := rfl
@[simp] theorem exec_vmin a1 a2 a3 a4 a5 a6 s : exec (.vmin a1 a2 a3 a4 a5 a6) s = execVmin a1 a2 a3 a4 a5 a6 s := rfl
@[simp] theorem exec_vmax a1 a2 a3 a4 a5 a6 s : exec (.vmax a1 a2 a3 a4 a5 a6) s = execVmax a1 a2 a3 a4 a5 a6 s := rfl
@[simp] theorem exec_vabs a1 a2 a3 a4 a5 s : exec (.vabs a1 a2 a3 a4 a5) s = execVabs a1 a2 a3 a4 a5 s := rfl
@[simp] theorem exec_vneg a1 a2 a3 a4 a5 s : exec (.vneg a1 a2 a3 a4 a5) s = execVneg a1 a2 a3 a4 a5 s := rfl
@[simp] theorem exec_vand a1 a2 a3 a4 a5 a6 s : exec (.vand a1 a2 a3 a4 a5 a6) s = execVand a1 a2 a3 a4 a5 a6 s := rfl
@[simp] theorem exec_vor a1 a2 a3 a4 a5 a6 s : exec (.vor a1 a2 a3 a4 a5 a6) s = execVor a1 a2 a3 a4 a5 a6 s := rfl
@[simp] theorem exec_vxor a1 a2 a3 a4 a5 a6 s : exec (.vxor a1 a2 a3 a4 a5 a6) s = execVxor a1 a2 a3 a4 a5 a6 s := rfl
@[simp] theorem exec_vshl a1 a2 a3 a4 a5 a6 a7 s : exec (.vshl a1 a2 a3 a4 a5 a6 a7) s = execVshl a1 a2 a3 a4 a5 a6 a7 s := rfl
@[simp] theorem exec_vshr a1 a2 a3 a4 a5 a6 a7 s : exec (.vshr a1 a2 a3 a4 a5 a6 a7) s = execVshr a1 a2 a3 a4 a5 a6 a7 s := rfl
@[simp] theorem exec_vsar a1 a2 a3 a4 a5 a6 a7 s : exec (.vsar a1 a2 a3 a4 a5 a6 a7) s = execVsar a1 a2 a3 a4 a5 a6 a7 s := rfl
@[simp] theorem exec_vcmp a1 a2 a3 a4 a5 a6 a7 s : exec (.vcmp a1 a2 a3 a4 a5 a6 a7) s = execVcmp a1 a2 a3 a4 a5 a6 a7 s := rfl
@[simp] theorem exec_vsel a1 a2 a3 a4 a5 a6 s : exec (.vsel a1 a2 a3 a4 a5 a6) s = execVsel a1 a2 a3 a4 a5 a6 s := rfl
@[simp] theorem exec_vcvt a1 a2 a3 a4 a5 a6 a7 s : exec (.vcvt a1 a2 a3 a4 a5 a6 a7) s = execVcvt a1 a2 a3 a4 a5 a6 a7 s := rfl
@[simp] theorem exec_vred a1 a2 a3 a4 a5 a6 a7 s : exec (.vred a1 a2 a3 a4 a5 a6 a7) s = execVred a1 a2 a3 a4 a5 a6 a7 s := rfl
@[simp] theorem exec_vscan a1 a2 a3 a4 a5 a6 s : exec (.vscan a1 a2 a3 a4 a5 a6) s = execVscan a1 a2 a3 a4 a5 a6 s := rfl
@[simp] theorem exec_vperm a1 a2 a3 a4 a5 a6 s : exec (.vperm a1 a2 a3 a4 a5 a6) s = execVperm a1 a2 a3 a4 a5 a6 s := rfl
@[simp] theorem exec_vrcp a1 a2 a3 a4 a5 s : exec (.vrcp a1 a2 a3 a4 a5) s = execVrcp a1 a2 a3 a4 a5 s := rfl
@[simp] theorem exec_vrsq a1 a2 a3 a4 a5 s : exec (.vrsq a1 a2 a3 a4 a5) s = execVrsq a1 a2 a3 a4 a5 s := rfl
@[simp] theorem exec_vexp2 a1 a2 a3 a4 a5 s : exec (.vexp2 a1 a2 a3 a4 a5) s = execVexp2 a1 a2 a3 a4 a5 s := rfl
@[simp] theorem exec_vlog2 a1 a2 a3 a4 a5 s : exec (.vlog2 a1 a2 a3 a4 a5) s = execVlog2 a1 a2 a3 a4 a5 s := rfl
@[simp] theorem exec_vsplt a1 a2 a3 a4 s : exec (.vsplt a1 a2 a3 a4) s = execVsplt a1 a2 a3 a4 s := rfl
@[simp] theorem exec_vgetl a1 a2 a3 a4 a5 s : exec (.vgetl a1 a2 a3 a4 a5) s = execVgetl a1 a2 a3 a4 a5 s := rfl
@[simp] theorem exec_vsetl a1 a2 a3 s : exec (.vsetl a1 a2 a3) s = execVsetl a1 a2 a3 s := rfl
@[simp] theorem exec_mset a1 a2 a3 a4 a5 a6 a7 s : exec (.mset a1 a2 a3 a4 a5 a6 a7) s = execMset a1 a2 a3 a4 a5 a6 a7 s := rfl
@[simp] theorem exec_vplane a1 a2 a3 a4 a5 a6 s : exec (.vplane a1 a2 a3 a4 a5 a6) s = execVplane a1 a2 a3 a4 a5 a6 s := rfl
@[simp] theorem exec_vacrd a1 a2 a3 a4 a5 a6 s : exec (.vacrd a1 a2 a3 a4 a5 a6) s = execVacrd a1 a2 a3 a4 a5 a6 s := rfl
@[simp] theorem exec_vacwr a1 a2 a3 a4 a5 a6 s : exec (.vacwr a1 a2 a3 a4 a5 a6) s = execVacwr a1 a2 a3 a4 a5 a6 s := rfl
@[simp] theorem exec_hdef a1 a2 s : exec (.hdef a1 a2) s = execHdef a1 a2 s := rfl
@[simp] theorem exec_hset a1 a2 a3 a4 s : exec (.hset a1 a2 a3 a4) s = execHset a1 a2 a3 a4 s := rfl
@[simp] theorem exec_hadv a1 a2 a3 s : exec (.hadv a1 a2 a3) s = execHadv a1 a2 a3 s := rfl
@[simp] theorem exec_hget a1 a2 a3 a4 a5 s : exec (.hget a1 a2 a3 a4 a5) s = execHget a1 a2 a3 a4 a5 s := rfl
@[simp] theorem exec_mzero a1 a2 a3 a4 a5 s : exec (.mzero a1 a2 a3 a4 a5) s = execMzero a1 a2 a3 a4 a5 s := rfl
@[simp] theorem exec_mma a1 a2 a3 a4 a5 a6 a7 a8 a9 a10 s : exec (.mma a1 a2 a3 a4 a5 a6 a7 a8 a9 a10) s = execMma a1 a2 a3 a4 a5 a6 a7 a8 a9 a10 s := rfl
@[simp] theorem exec_mmac a1 a2 a3 a4 a5 a6 a7 a8 a9 a10 a11 a12 s : exec (.mmac a1 a2 a3 a4 a5 a6 a7 a8 a9 a10 a11 a12) s = execMmac a1 a2 a3 a4 a5 a6 a7 a8 a9 a10 a11 a12 s := rfl
@[simp] theorem exec_mcvt a1 a2 a3 a4 a5 s : exec (.mcvt a1 a2 a3 a4 a5) s = execMcvt a1 a2 a3 a4 a5 s := rfl
@[simp] theorem exec_madda a1 a2 a3 a4 a5 s : exec (.madda a1 a2 a3 a4 a5) s = execMadda a1 a2 a3 a4 a5 s := rfl
@[simp] theorem exec_ptrim a1 a2 a3 a4 s : exec (.ptrim a1 a2 a3 a4) s = execPtrim a1 a2 a3 a4 s := rfl
@[simp] theorem exec_pxpose a1 a2 a3 a4 a5 a6 s : exec (.pxpose a1 a2 a3 a4 a5 a6) s = execPxpose a1 a2 a3 a4 a5 a6 s := rfl
@[simp] theorem exec_mstat a1 a2 a3 a4 s : exec (.mstat a1 a2 a3 a4) s = execMstat a1 a2 a3 a4 s := rfl
@[simp] theorem exec_xcopy a1 a2 a3 a4 a5 a6 a7 a8 s : exec (.xcopy a1 a2 a3 a4 a5 a6 a7 a8) s = execXcopy a1 a2 a3 a4 a5 a6 a7 a8 s := rfl
@[simp] theorem exec_xcopyf a1 a2 a3 a4 a5 a6 s : exec (.xcopyf a1 a2 a3 a4 a5 a6) s = execXcopyf a1 a2 a3 a4 a5 a6 s := rfl
@[simp] theorem exec_xchain a1 a2 a3 a4 a5 s : exec (.xchain a1 a2 a3 a4 a5) s = execXchain a1 a2 a3 a4 a5 s := rfl
@[simp] theorem exec_xwptr a1 a2 a3 a4 s : exec (.xwptr a1 a2 a3 a4) s = execXwptr a1 a2 a3 a4 s := rfl
@[simp] theorem exec_waitt a1 a2 a3 a4 a5 a6 s : exec (.waitt a1 a2 a3 a4 a5 a6) s = execWaitt a1 a2 a3 a4 a5 a6 s := rfl
@[simp] theorem exec_rdtl a1 a2 a3 a4 s : exec (.rdtl a1 a2 a3 a4) s = execRdtl a1 a2 a3 a4 s := rfl
@[simp] theorem exec_xgath a1 a2 a3 a4 a5 a6 s : exec (.xgath a1 a2 a3 a4 a5 a6) s = execXgath a1 a2 a3 a4 a5 a6 s := rfl
@[simp] theorem exec_xscat a1 a2 a3 a4 a5 a6 s : exec (.xscat a1 a2 a3 a4 a5 a6) s = execXscat a1 a2 a3 a4 a5 a6 s := rfl
@[simp] theorem exec_xred a1 a2 a3 a4 s : exec (.xred a1 a2 a3 a4) s = execXred a1 a2 a3 a4 s := rfl
@[simp] theorem exec_xired a1 a2 a3 a4 s : exec (.xired a1 a2 a3 a4) s = execXired a1 a2 a3 a4 s := rfl
@[simp] theorem exec_xpkl a1 a2 a3 a4 s : exec (.xpkl a1 a2 a3 a4) s = execXpkl a1 a2 a3 a4 s := rfl
@[simp] theorem exec_nput a1 a2 a3 a4 s : exec (.nput a1 a2 a3 a4) s = execNput a1 a2 a3 a4 s := rfl
@[simp] theorem exec_nget a1 a2 a3 a4 s : exec (.nget a1 a2 a3 a4) s = execNget a1 a2 a3 a4 s := rfl
@[simp] theorem exec_namo a1 a2 a3 a4 s : exec (.namo a1 a2 a3 a4) s = execNamo a1 a2 a3 a4 s := rfl
@[simp] theorem exec_xdisc a1 a2 a3 a4 a5 s : exec (.xdisc a1 a2 a3 a4 a5) s = execXdisc a1 a2 a3 a4 a5 s := rfl
@[simp] theorem exec_gcfg a1 a2 s : exec (.gcfg a1 a2) s = execGcfg a1 a2 s := rfl
@[simp] theorem exec_garg a1 a2 a3 a4 s : exec (.garg a1 a2 a3 a4) s = execGarg a1 a2 a3 a4 s := rfl
@[simp] theorem exec_gsend a1 a2 a3 s : exec (.gsend a1 a2 a3) s = execGsend a1 a2 a3 s := rfl
@[simp] theorem exec_grecv a1 a2 a3 s : exec (.grecv a1 a2 a3) s = execGrecv a1 a2 a3 s := rfl
@[simp] theorem exec_greconf a1 a2 a3 s : exec (.greconf a1 a2 a3) s = execGreconf a1 a2 a3 s := rfl
@[simp] theorem exec_gstat a1 a2 a3 a4 a5 s : exec (.gstat a1 a2 a3 a4 a5) s = execGstat a1 a2 a3 a4 a5 s := rfl
@[simp] theorem exec_gdrain a1 a2 a3 s : exec (.gdrain a1 a2 a3) s = execGdrain a1 a2 a3 s := rfl
@[simp] theorem exec_ctlrd a1 a2 a3 a4 s : exec (.ctlrd a1 a2 a3 a4) s = execCtlrd a1 a2 a3 a4 s := rfl
@[simp] theorem exec_ctlwr a1 a2 s : exec (.ctlwr a1 a2) s = execCtlwr a1 a2 s := rfl
@[simp] theorem exec_ctlset a1 a2 s : exec (.ctlset a1 a2) s = execCtlset a1 a2 s := rfl
@[simp] theorem exec_ctlclr a1 a2 s : exec (.ctlclr a1 a2) s = execCtlclr a1 a2 s := rfl
@[simp] theorem exec_eret a1 s : exec (.eret a1) s = execEret a1 s := rfl
@[simp] theorem exec_ctxsv a1 a2 a3 s : exec (.ctxsv a1 a2 a3) s = execCtxsv a1 a2 a3 s := rfl
@[simp] theorem exec_ctxld a1 s : exec (.ctxld a1) s = execCtxld a1 s := rfl
@[simp] theorem exec_ttinv a1 a2 s : exec (.ttinv a1 a2) s = execTtinv a1 a2 s := rfl
@[simp] theorem exec_leaseAdd a1 s : exec (.leaseAdd a1) s = execLeaseAdd a1 s := rfl
@[simp] theorem exec_leaseDrop a1 s : exec (.leaseDrop a1) s = execLeaseDrop a1 s := rfl
@[simp] theorem exec_ptok a1 a2 a3 s : exec (.ptok a1 a2 a3) s = execPtok a1 a2 a3 s := rfl
@[simp] theorem exec_hint a1 a2 s : exec (.hint a1 a2) s = execHint a1 a2 s := rfl
@[simp] theorem exec_haltd a1 a2 s : exec (.haltd a1 a2) s = execHaltd a1 a2 s := rfl
@[simp] theorem exec_cycrd a1 a2 a3 s : exec (.cycrd a1 a2 a3) s = execCycrd a1 a2 a3 s := rfl
@[simp] theorem exec_idle a1 s : exec (.idle a1) s = execIdle a1 s := rfl
@[simp] theorem exec_launchWindowWrite a1 a2 a3 s : exec (.launchWindowWrite a1 a2 a3) s = execLaunchWindowWrite a1 a2 a3 s := rfl
@[simp] theorem exec_launchAccept a1 s : exec (.launchAccept a1) s = execLaunchAccept a1 s := rfl
@[simp] theorem exec_tokenApply a1 a2 s : exec (.tokenApply a1 a2) s = execTokenApply a1 a2 s := rfl
@[simp] theorem exec_tkillApply a1 a2 s : exec (.tkillApply a1 a2) s = execTkillApply a1 a2 s := rfl
@[simp] theorem exec_spawnRetry a1 s : exec (.spawnRetry a1) s = execSpawnRetry a1 s := rfl
@[simp] theorem exec_leaseEstablish a1 s : exec (.leaseEstablish a1) s = execLeaseEstablish a1 s := rfl
@[simp] theorem exec_taskBind a1 s : exec (.taskBind a1) s = execTaskBind a1 s := rfl
@[simp] theorem exec_taskAging a1 s : exec (.taskAging a1) s = execTaskAging a1 s := rfl
@[simp] theorem exec_blockMap a1 a2 s : exec (.blockMap a1 a2) s = execBlockMap a1 a2 s := rfl
@[simp] theorem exec_blockCommit a1 s : exec (.blockCommit a1) s = execBlockCommit a1 s := rfl
@[simp] theorem exec_trapTaken a1 s : exec (.trapTaken a1) s = execTrapTaken a1 s := rfl
@[simp] theorem exec_contextSuspend a1 s : exec (.contextSuspend a1) s = execContextSuspend a1 s := rfl
@[simp] theorem exec_taskWake a1 s : exec (.taskWake a1) s = execTaskWake a1 s := rfl
@[simp] theorem exec_wakeTimeout a1 s : exec (.wakeTimeout a1) s = execWakeTimeout a1 s := rfl
@[simp] theorem exec_watchdogExpiry a1 s : exec (.watchdogExpiry a1) s = execWatchdogExpiry a1 s := rfl
@[simp] theorem exec_taskCompletion a1 s : exec (.taskCompletion a1) s = execTaskCompletion a1 s := rfl
@[simp] theorem exec_accumulatorRelease a1 s : exec (.accumulatorRelease a1) s = execAccumulatorRelease a1 s := rfl
@[simp] theorem exec_idleWake a1 s : exec (.idleWake a1) s = execIdleWake a1 s := rfl
@[simp] theorem exec_debugHalt a1 s : exec (.debugHalt a1) s = execDebugHalt a1 s := rfl
@[simp] theorem exec_writePerform a1 s : exec (.writePerform a1) s = execWritePerform a1 s := rfl
@[simp] theorem exec_atomicPerform a1 a2 s : exec (.atomicPerform a1 a2) s = execAtomicPerform a1 a2 s := rfl
@[simp] theorem exec_monitorWrite a1 a2 s : exec (.monitorWrite a1 a2) s = execMonitorWrite a1 a2 s := rfl
@[simp] theorem exec_monitorPoll a1 a2 s : exec (.monitorPoll a1 a2) s = execMonitorPoll a1 a2 s := rfl
@[simp] theorem exec_fencePerform a1 a2 s : exec (.fencePerform a1 a2) s = execFencePerform a1 a2 s := rfl
@[simp] theorem exec_qfillHome a1 s : exec (.qfillHome a1) s = execQfillHome a1 s := rfl
@[simp] theorem exec_qinitHome a1 s : exec (.qinitHome a1) s = execQinitHome a1 s := rfl
@[simp] theorem exec_barrierArrival a1 s : exec (.barrierArrival a1) s = execBarrierArrival a1 s := rfl
@[simp] theorem exec_copyExecute a1 a2 a3 s : exec (.copyExecute a1 a2 a3) s = execCopyExecute a1 a2 a3 s := rfl
@[simp] theorem exec_chainRecord a1 a2 s : exec (.chainRecord a1 a2) s = execChainRecord a1 a2 s := rfl
@[simp] theorem exec_gatherScatterExecute a1 a2 s : exec (.gatherScatterExecute a1 a2) s = execGatherScatterExecute a1 a2 s := rfl
@[simp] theorem exec_xredExecute a1 a2 s : exec (.xredExecute a1 a2) s = execXredExecute a1 a2 s := rfl
@[simp] theorem exec_xiredExecute a1 a2 s : exec (.xiredExecute a1 a2) s = execXiredExecute a1 a2 s := rfl
@[simp] theorem exec_xpklExecute a1 a2 s : exec (.xpklExecute a1 a2) s = execXpklExecute a1 a2 s := rfl
@[simp] theorem exec_pklQueryScore a1 s : exec (.pklQueryScore a1) s = execPklQueryScore a1 s := rfl
@[simp] theorem exec_discardExecute a1 a2 s : exec (.discardExecute a1 a2) s = execDiscardExecute a1 a2 s := rfl
@[simp] theorem exec_pageDeath a1 a2 s : exec (.pageDeath a1 a2) s = execPageDeath a1 a2 s := rfl
@[simp] theorem exec_engineCommandFinish a1 s : exec (.engineCommandFinish a1) s = execEngineCommandFinish a1 s := rfl
@[simp] theorem exec_pmaStart a1 s : exec (.pmaStart a1) s = execPmaStart a1 s := rfl
@[simp] theorem exec_mmaStreamStep a1 s : exec (.mmaStreamStep a1) s = execMmaStreamStep a1 s := rfl
@[simp] theorem exec_pmaComplete a1 s : exec (.pmaComplete a1) s = execPmaComplete a1 s := rfl
@[simp] theorem exec_networkPacketSend a1 s : exec (.networkPacketSend a1) s = execNetworkPacketSend a1 s := rfl
@[simp] theorem exec_networkAck a1 a2 a3 a4 s : exec (.networkAck a1 a2 a3 a4) s = execNetworkAck a1 a2 a3 a4 s := rfl
@[simp] theorem exec_packetRetransmit a1 s : exec (.packetRetransmit a1) s = execPacketRetransmit a1 s := rfl
@[simp] theorem exec_destinationTimeout a1 s : exec (.destinationTimeout a1) s = execDestinationTimeout a1 s := rfl
@[simp] theorem exec_networkArrival a1 s : exec (.networkArrival a1) s = execNetworkArrival a1 s := rfl
@[simp] theorem exec_gcfgApply a1 a2 s : exec (.gcfgApply a1 a2) s = execGcfgApply a1 a2 s := rfl
@[simp] theorem exec_greconfApply a1 a2 s : exec (.greconfApply a1 a2) s = execGreconfApply a1 a2 s := rfl
@[simp] theorem exec_reconfToken a1 a2 a3 s : exec (.reconfToken a1 a2 a3) s = execReconfToken a1 a2 a3 s := rfl
@[simp] theorem exec_gargApply a1 a2 a3 s : exec (.gargApply a1 a2 a3) s = execGargApply a1 a2 a3 s := rfl
@[simp] theorem exec_gsendArrival a1 a2 a3 s : exec (.gsendArrival a1 a2 a3) s = execGsendArrival a1 a2 a3 s := rfl
@[simp] theorem exec_grecvDeliver a1 a2 a3 s : exec (.grecvDeliver a1 a2 a3) s = execGrecvDeliver a1 a2 a3 s := rfl
@[simp] theorem exec_gdrainComplete a1 a2 s : exec (.gdrainComplete a1 a2) s = execGdrainComplete a1 a2 s := rfl
@[simp] theorem exec_configFetch a1 a2 a3 s : exec (.configFetch a1 a2 a3) s = execConfigFetch a1 a2 a3 s := rfl
@[simp] theorem exec_srcRound a1 a2 a3 s : exec (.srcRound a1 a2 a3) s = execSrcRound a1 a2 a3 s := rfl
@[simp] theorem exec_snkToken a1 a2 a3 s : exec (.snkToken a1 a2 a3) s = execSnkToken a1 a2 a3 s := rfl
@[simp] theorem exec_mapToken a1 a2 a3 s : exec (.mapToken a1 a2 a3) s = execMapToken a1 a2 a3 s := rfl
@[simp] theorem exec_filtToken a1 a2 a3 s : exec (.filtToken a1 a2 a3) s = execFiltToken a1 a2 a3 s := rfl
@[simp] theorem exec_coalToken a1 a2 a3 s : exec (.coalToken a1 a2 a3) s = execCoalToken a1 a2 a3 s := rfl
@[simp] theorem exec_isectToken a1 a2 a3 s : exec (.isectToken a1 a2 a3) s = execIsectToken a1 a2 a3 s := rfl
@[simp] theorem exec_partToken a1 a2 a3 s : exec (.partToken a1 a2 a3) s = execPartToken a1 a2 a3 s := rfl
@[simp] theorem exec_gathToken a1 a2 a3 s : exec (.gathToken a1 a2 a3) s = execGathToken a1 a2 a3 s := rfl
@[simp] theorem exec_scatToken a1 a2 a3 s : exec (.scatToken a1 a2 a3) s = execScatToken a1 a2 a3 s := rfl
@[simp] theorem exec_sredToken a1 a2 a3 s : exec (.sredToken a1 a2 a3) s = execSredToken a1 a2 a3 s := rfl
@[simp] theorem exec_exqToken a1 a2 a3 s : exec (.exqToken a1 a2 a3) s = execExqToken a1 a2 a3 s := rfl
@[simp] theorem exec_exqTimer a1 a2 a3 s : exec (.exqTimer a1 a2 a3) s = execExqTimer a1 a2 a3 s := rfl
@[simp] theorem exec_exqRetry a1 a2 a3 s : exec (.exqRetry a1 a2 a3) s = execExqRetry a1 a2 a3 s := rfl
@[simp] theorem exec_dpreempt a1 a2 s : exec (.dpreempt a1 a2) s = execDpreempt a1 a2 s := rfl
@[simp] theorem exec_preemptSave a1 s : exec (.preemptSave a1) s = execPreemptSave a1 s := rfl
@[simp] theorem exec_drepriop a1 a2 s : exec (.drepriop a1 a2) s = execDrepriop a1 a2 s := rfl
@[simp] theorem exec_dteardown a1 a2 s : exec (.dteardown a1 a2) s = execDteardown a1 a2 s := rfl
@[simp] theorem exec_teardownComplete a1 a2 s : exec (.teardownComplete a1 a2) s = execTeardownComplete a1 a2 s := rfl
@[simp] theorem exec_dplace a1 a2 s : exec (.dplace a1 a2) s = execDplace a1 a2 s := rfl
@[simp] theorem exec_dsplitApply a1 s : exec (.dsplitApply a1) s = execDsplitApply a1 s := rfl
@[simp] theorem exec_timeSliceExpiry a1 s : exec (.timeSliceExpiry a1) s = execTimeSliceExpiry a1 s := rfl
@[simp] theorem exec_drainSlotFree a1 a2 s : exec (.drainSlotFree a1 a2) s = execDrainSlotFree a1 a2 s := rfl
@[simp] theorem exec_registerWrite a1 a2 a3 s : exec (.registerWrite a1 a2 a3) s = execRegisterWrite a1 a2 a3 s := rfl
@[simp] theorem exec_fqanswer a1 a2 s : exec (.fqanswer a1 a2) s = execFqanswer a1 a2 s := rfl
@[simp] theorem exec_fqheadWrite a1 a2 s : exec (.fqheadWrite a1 a2) s = execFqheadWrite a1 a2 s := rfl
@[simp] theorem exec_fqlostClear a1 a2 s : exec (.fqlostClear a1 a2) s = execFqlostClear a1 a2 s := rfl
@[simp] theorem exec_evreq a1 a2 s : exec (.evreq a1 a2) s = execEvreq a1 a2 s := rfl
@[simp] theorem exec_evictionComplete a1 s : exec (.evictionComplete a1) s = execEvictionComplete a1 s := rfl
@[simp] theorem exec_patrolScrub a1 a2 a3 s : exec (.patrolScrub a1 a2 a3) s = execPatrolScrub a1 a2 a3 s := rfl
@[simp] theorem exec_intervalBoundary a1 s : exec (.intervalBoundary a1) s = execIntervalBoundary a1 s := rfl
@[simp] theorem exec_vfStep a1 s : exec (.vfStep a1) s = execVfStep a1 s := rfl
@[simp] theorem exec_droopEvent a1 s : exec (.droopEvent a1) s = execDroopEvent a1 s := rfl
@[simp] theorem exec_droopRecovery a1 s : exec (.droopRecovery a1) s = execDroopRecovery a1 s := rfl
@[simp] theorem exec_stallSample a1 a2 a3 s : exec (.stallSample a1 a2 a3) s = execStallSample a1 a2 a3 s := rfl
@[simp] theorem exec_governorAction a1 s : exec (.governorAction a1) s = execGovernorAction a1 s := rfl
@[simp] theorem exec_boostNotice a1 s : exec (.boostNotice a1) s = execBoostNotice a1 s := rfl
@[simp] theorem exec_boostExpiry a1 s : exec (.boostExpiry a1) s = execBoostExpiry a1 s := rfl
@[simp] theorem exec_thermalShutdown s : exec .thermalShutdown s = execThermalShutdown s := rfl
@[simp] theorem exec_droopcntClear a1 a2 s : exec (.droopcntClear a1 a2) s = execDroopcntClear a1 a2 s := rfl
@[simp] theorem exec_throtcntClear a1 a2 s : exec (.throtcntClear a1 a2) s = execThrotcntClear a1 a2 s := rfl
@[simp] theorem exec_netstatClear a1 a2 s : exec (.netstatClear a1 a2) s = execNetstatClear a1 a2 s := rfl
@[simp] theorem exec_pintstatClear a1 a2 s : exec (.pintstatClear a1 a2) s = execPintstatClear a1 a2 s := rfl
@[simp] theorem exec_hostMemoryAccess a1 s : exec (.hostMemoryAccess a1) s = execHostMemoryAccess a1 s := rfl
@[simp] theorem exec_ideKeySetup a1 s : exec (.ideKeySetup a1) s = execIdeKeySetup a1 s := rfl
@[simp] theorem exec_tdispStateChange a1 a2 s : exec (.tdispStateChange a1 a2) s = execTdispStateChange a1 a2 s := rfl
@[simp] theorem exec_attestationReport a1 a2 s : exec (.attestationReport a1 a2) s = execAttestationReport a1 a2 s := rfl
@[simp] theorem exec_partcfg a1 a2 s : exec (.partcfg a1 a2) s = execPartcfg a1 a2 s := rfl
@[simp] theorem exec_netcfg a1 a2 a3 s : exec (.netcfg a1 a2 a3) s = execNetcfg a1 a2 a3 s := rfl
@[simp] theorem exec_dbgen a1 a2 s : exec (.dbgen a1 a2) s = execDbgen a1 a2 s := rfl
@[simp] theorem exec_dbgresume a1 a2 s : exec (.dbgresume a1 a2) s = execDbgresume a1 a2 s := rfl
@[simp] theorem exec_fwstage a1 a2 s : exec (.fwstage a1 a2) s = execFwstage a1 a2 s := rfl
@[simp] theorem exec_fwapply s : exec .fwapply s = execFwapply s := rfl
@[simp] theorem exec_mgmtreset s : exec .mgmtreset s = execMgmtreset s := rfl
@[simp] theorem exec_packageReset s : exec .packageReset s = execPackageReset s := rfl
@[simp] theorem exec_partitionReset a1 s : exec (.partitionReset a1) s = execPartitionReset a1 s := rfl
@[simp] theorem exec_managementFlr s : exec .managementFlr s = execManagementFlr s := rfl
@[simp] theorem exec_bootSequence s : exec .bootSequence s = execBootSequence s := rfl
@[simp] theorem exec_gdrainArrival a1 a2 s : exec (.gdrainArrival a1 a2) s = execGdrainArrival a1 a2 s := rfl

end Sys2Proof.Laws
end

