-- ==== Sys2Proof/Laws/Fire.lean ====
section
/-!
SUPPORT. What fireG can do, said once: every instruction with an encoding is fired by it, and each readiness of R51 gives
one outcome. Later proofs cite these lemmas and never unfold fireG.
-/

namespace Sys2Proof.Laws

open Sys2Proof Sys2Proof.Machine Sys2Proof.Safety

/-- Every instruction with an encoding is fired by fireG. -/
theorem exec_fireG (i : Instr) (h : i.encodes = true) : ∃ act, ∀ s, exec i s = fireG i act s := by
  cases i
  all_goals first
    | exact absurd h Bool.false_ne_true
    | (simp only [exec,
        execGread, execXread, execGwrite, execXwrite, execMov, execMovl, execNull, execGenc, execGencn, execAppc,
        execGencl, execAdd, execSub, execMul, execMulh, execDiv, execRem, execAnd, execOr, execXor, execAndn, execShl,
        execShr, execSar, execRot, execMin, execMax, execBits, execExt, execSel, execMadd, execAddi, execMuli,
        execAndi, execOri, execXori, execShli, execShri, execSari, execMini, execMaxi, execTcmp, execTcmpi, execFcmp,
        execTbit, execFadd, execFsub, execFmul, execFdiv, execFsqrt, execFma, execFmin, execFmax, execFcvt, execFclass,
        execFsgn, execLdb, execLdbn, execLdh, execLdhn, execLdw, execLdwn, execLdd, execLda, execStb, execSth, execStw,
        execStd, execStl, execAmo, execCas, execFamo, execFence, execFencer, execFencerArm, execFencerDisarm,
        execFwait, execMwait, execPref, execBr, execBri, execCallb, execRetb, execTend, execTendOp0, execYield,
        execTrap, execTspawn, execTsend, execTsendh, execTfork, execTself, execTkill, execBara, execBarw, execQtkt,
        execQfill, execQpop, execQpeek, execQocc, execQinit, execVld, execVlds, execVldx, execVst, execVsts, execVstx,
        execVbcst, execVmov, execVadd, execVsub, execVmul, execVfma, execVdiv, execVmin, execVmax, execVabs, execVneg,
        execVand, execVor, execVxor, execVshl, execVshr, execVsar, execVcmp, execVsel, execVcvt, execVred, execVscan,
        execVperm, execVrcp, execVrsq, execVexp2, execVlog2, execVsplt, execVgetl, execVsetl, execMset, execVplane,
        execVacrd, execVacwr, execHdef, execHset, execHadv, execHget, execMzero, execMma, execMmac, execMcvt,
        execMadda, execPtrim, execPxpose, execMstat, execXcopy, execXcopyf, execXchain, execXwptr, execWaitt, execRdtl,
        execXgath, execXscat, execXred, execXired, execXpkl, execNput, execNget, execNamo, execXdisc, execGcfg,
        execGarg, execGsend, execGrecv, execGreconf, execGstat, execGdrain, execCtlrd, execCtlwr, execCtlset,
        execCtlclr, execEret, execCtxsv, execCtxld, execTtinv, execLeaseAdd, execLeaseDrop, execPtok, execHint,
        execHaltd, execCycrd, execIdle, fireVal, fireFp, fireLoad, fireStore, fireAtomic, fireSpawn, fireCtl, firePriv,
        fireIndirect, fireHandle, fireNet, fireCmd, fireLanes, fireVload, fireVstore]
       exact ⟨_, fun _ => rfl⟩)

/-- An instruction that may fire does what its meaning says. -/
theorem fireG_fires {i : Instr} {act : Focus → List Tok → State → Fire} {s : State} {f : Focus} {b : Blk} {ops : List Tok}
    (h : Fires s f b i ops) : fireG i act s = match act f ops s with
      | .wait => .next s
      | .busy s => .next (s.modBlk f.ctx f.blk fun b => b.setSt f.slot .busy)
      | .done s toks => .next (s.finish f i toks)
      | .numbered s =>
        .next ((s.modBlk f.ctx f.blk fun b => b.setSlot f.slot { b.slot f.slot with st := .done, sent := false }).flush f.ctx)
      | .trap s c x => .next (s.modBlk f.ctx f.blk fun b => (b.setSt f.slot .done).hold c x (some f.slot))
      | .stuck => .next (s.modBlk f.ctx f.blk fun b => b.setSt f.slot .stuck) := by
  unfold fireG
  rw [h.focus]; dsimp only
  rw [h.blk]; dsimp only
  simp only [h.quiet, h.idle, h.ready, h.turn, Option.isSome_none, bne_self_eq_false, Bool.or_self, Bool.false_eq_true,
    if_false, Bool.not_true]
  try rfl

/-- With something missing, an instruction waits (R51). -/
theorem fireG_wait {i : Instr} {act : Focus → List Tok → State → Fire} {s : State} {f : Focus} {b : Blk}
    (h : Idle s f b) (r : (b.slot f.slot).ready i = .wait) : fireG i act s = .next s := by
  unfold fireG
  rw [h.focus]; dsimp only
  rw [h.blk]; dsimp only
  simp only [h.quiet, h.idle, r, Option.isSome_none, bne_self_eq_false, Bool.or_self, Bool.false_eq_true, if_false]

/-- With a predicate that does not match, an instruction is off (R51). -/
theorem fireG_off {i : Instr} {act : Focus → List Tok → State → Fire} {s : State} {f : Focus} {b : Blk}
    (h : Idle s f b) (r : (b.slot f.slot).ready i = .off) :
    fireG i act s = .next ((s.modBlk f.ctx f.blk fun b => b.resolveOff f.slot i).flush f.ctx) := by
  unfold fireG
  rw [h.focus]; dsimp only
  rw [h.blk]; dsimp only
  simp only [h.quiet, h.idle, r, Option.isSome_none, bne_self_eq_false, Bool.or_self, Bool.false_eq_true, if_false]

/-- With a null, an instruction resolves on it (R54). -/
theorem fireG_null {i : Instr} {act : Focus → List Tok → State → Fire} {s : State} {f : Focus} {b : Blk}
    (h : Idle s f b) (r : (b.slot f.slot).ready i = .null) :
    fireG i act s = .next ((s.modBlk f.ctx f.blk fun b => b.resolveNull f.slot i).flush f.ctx) := by
  unfold fireG
  rw [h.focus]; dsimp only
  rw [h.blk]; dsimp only
  simp only [h.quiet, h.idle, r, Option.isSome_none, bne_self_eq_false, Bool.or_self, Bool.false_eq_true, if_false]

/-- A firing that only computes sends its value to both targets. -/
theorem fireVal_fires {i : Instr} {val : List Tok → Word} {s : State} {f : Focus} {b : Blk} {ops : List Tok}
    (h : Fires s f b i ops) : fireVal i val s = .next (s.finish f i (both (val ops))) := by
  unfold fireVal
  rw [fireG_fires h]

/-- An instruction that only computes gives its value whenever it fires. -/
theorem gives_of {i : Instr} {val val' : List Tok → Word} (he : ∀ s, exec i s = fireVal i val s)
    (hv : ∀ ops, val ops = val' ops) : Gives i val' := by
  intro s f b ops h
  rw [he, fireVal_fires h, hv]

end Sys2Proof.Laws
end

