-- ==== Sys2Proof/Laws/Integer.lean ====
section
/-!
SUPPORT. The integer operations as mathematics: products by their halves, division and remainder by Int and Nat, minima by
comparison, and the conditions of R70 and R162.
-/

namespace Sys2Proof.Laws

open Sys2Proof Sys2Proof.Machine Sys2Proof.Safety

theorem low32_eq (x : Word) : low32 x = x.setWidth 32 := rfl
theorem sext_eq {m : Nat} (x : BitVec m) : sext x = x.signExtend 64 := rfl
theorem zext_eq {m : Nat} (x : BitVec m) : zext x = x.setWidth 64 := rfl
theorem toNat_low (n k : Nat) (y : BitVec n) : (y.extractLsb' 0 k).toNat = y.toNat % 2 ^ k := by
  simp [BitVec.extractLsb'_toNat]

/-- MULH, signed, is the high half of the product (R159). -/
theorem mulh_s (n : Nat) (x y : BitVec n) : opMulh false n x y = (x.signExtend (2*n) * y.signExtend (2*n)).extractLsb' n n := by
  unfold opMulh
  simp only [Bool.false_eq_true, if_false]
  apply BitVec.eq_of_toNat_eq
  rw [BitVec.extractLsb'_toNat, Nat.shiftRight_eq_div_pow]
  have e : (x.signExtend (2*n) * y.signExtend (2*n)) = BitVec.ofInt (2*n) (x.toInt * y.toInt) := by
    rw [BitVec.ofInt_mul]
    rfl
  rw [e, BitVec.toNat_ofInt, BitVec.toNat_ofInt]
  generalize x.toInt * y.toInt = z
  have p1 : (0:Int) < 2 ^ n := by positivity
  have e2 : ((2 ^ (2*n) : Nat) : Int) = 2^n * 2^n := by push_cast; rw [← pow_add]; congr 1; omega
  have hm : 0 ≤ z % ((2 ^ (2*n) : Nat) : Int) := Int.emod_nonneg _ (by positivity)
  zify
  rw [Int.toNat_of_nonneg (Int.emod_nonneg _ (by positivity)), Int.toNat_of_nonneg (by simpa using hm)]
  push_cast
  have e3 : (2:Int) ^ (2*n) = 2^n * 2^n := by rw [← pow_add]; congr 1; omega
  rw [e3, Int.emod_def z (2^n * 2^n)]
  have : z - 2 ^ n * 2 ^ n * (z / (2 ^ n * 2 ^ n)) = z + 2 ^ n * (- (2 ^ n * (z / (2 ^ n * 2 ^ n)))) := by ring
  rw [this, Int.add_mul_ediv_left _ _ (by positivity)]
  have : z / 2 ^ n + -(2 ^ n * (z / (2 ^ n * 2 ^ n))) = z / 2^n + 2^n * (-(z / (2 ^ n * 2 ^ n))) := by ring
  rw [this, Int.add_mul_emod_self_left]

/-- MULH, unsigned, is the high half of the product (R159). -/
theorem mulh_u (n : Nat) (x y : BitVec n) : opMulh true n x y = (x.setWidth (2*n) * y.setWidth (2*n)).extractLsb' n n := by
  unfold opMulh
  simp only [if_true]
  apply BitVec.eq_of_toNat_eq
  rw [BitVec.extractLsb'_toNat, Nat.shiftRight_eq_div_pow, BitVec.toNat_mul, BitVec.toNat_setWidth, BitVec.toNat_setWidth]
  have h : (2:Nat)^n ≤ 2^(2*n) := Nat.pow_le_pow_right (by decide) (by omega)
  have e3 : (2:Nat) ^ (2*n) = 2^n * 2^n := by rw [← pow_add]; congr 1; omega
  have hl : x.toNat * y.toNat < 2 ^ (2 * n) := by rw [e3]; exact Nat.mul_lt_mul'' x.isLt y.isLt
  rw [Nat.mod_eq_of_lt (lt_of_lt_of_le x.isLt h), Nat.mod_eq_of_lt (lt_of_lt_of_le y.isLt h), Nat.mod_eq_of_lt hl, BitVec.toNat_ofNat]

/-- MIN, signed (R159). -/
theorem slt_ite {n} (x y : BitVec n) : (if x.slt y then x else y) = if x.toInt ≤ y.toInt then x else y := by
  simp only [BitVec.slt_iff_toInt_lt]
  rcases lt_trichotomy x.toInt y.toInt with h | h | h
  · simp [h, h.le]
  · simp [BitVec.eq_of_toInt_eq h]
  · simp [not_lt.mpr h.le, not_le.mpr h]

/-- MAX, signed (R159). -/
theorem slt_ite' {n} (x y : BitVec n) : (if x.slt y then y else x) = if x.toInt ≤ y.toInt then y else x := by
  simp only [BitVec.slt_iff_toInt_lt]
  rcases lt_trichotomy x.toInt y.toInt with h | h | h
  · simp [h, h.le]
  · simp [BitVec.eq_of_toInt_eq h]
  · simp [not_lt.mpr h.le, not_le.mpr h]

/-- MIN, unsigned (R159). -/
theorem ult_ite {n} (x y : BitVec n) : (if x.ult y then x else y) = if x.toNat ≤ y.toNat then x else y := by
  simp only [BitVec.ult_iff_toNat_lt]
  rcases lt_trichotomy x.toNat y.toNat with h | h | h
  · simp [h, h.le]
  · simp [BitVec.eq_of_toNat_eq h]
  · simp [not_lt.mpr h.le, not_le.mpr h]

/-- MAX, unsigned (R159). -/
theorem ult_ite' {n} (x y : BitVec n) : (if x.ult y then y else x) = if x.toNat ≤ y.toNat then y else x := by
  simp only [BitVec.ult_iff_toNat_lt]
  rcases lt_trichotomy x.toNat y.toNat with h | h | h
  · simp [h, h.le]
  · simp [BitVec.eq_of_toNat_eq h]
  · simp [not_lt.mpr h.le, not_le.mpr h]

/-- Signed division truncates toward zero (R159). -/
theorem sdiv_int {n} (x y : BitVec n) : x.sdiv y = BitVec.ofInt n (x.toInt.tdiv y.toInt) := by
  rw [← BitVec.toInt_inj, BitVec.toInt_sdiv, BitVec.toInt_ofInt]

/-- The signed remainder has the sign of op0 (R159). -/
theorem srem_int {n} (x y : BitVec n) : x.srem y = BitVec.ofInt n (x.toInt.tmod y.toInt) := by
  rw [← BitVec.toInt_srem, BitVec.ofInt_toInt]

/-- Unsigned division (R159). -/
theorem udiv_nat {n} (x y : BitVec n) : x.udiv y = BitVec.ofNat n (x.toNat / y.toNat) := by
  apply BitVec.eq_of_toNat_eq
  rw [BitVec.toNat_ofNat, Nat.mod_eq_of_lt (lt_of_le_of_lt (Nat.div_le_self _ _) x.isLt)]
  exact BitVec.toNat_udiv

/-- The unsigned remainder (R159). -/
theorem umod_nat {n} (x y : BitVec n) : x.umod y = BitVec.ofNat n (x.toNat % y.toNat) := by
  apply BitVec.eq_of_toNat_eq
  rw [BitVec.toNat_ofNat, Nat.mod_eq_of_lt (lt_of_le_of_lt (Nat.mod_le _ _) x.isLt)]
  exact BitVec.toNat_umod

/-- A shift amount of the sign-extended immediate is its low 6 bits (R160). -/
theorem imm_lo (imm : BitVec 9) : (BitVec.signExtend 64 imm).toNat % 64 = (BitVec.setWidth 64 imm).toNat % 64 := by
  revert imm; decide

/-- A W form's shift amount is its low 5 bits (R160). -/
theorem imm_lo32 (imm : BitVec 9) : (BitVec.setWidth 32 (BitVec.signExtend 64 imm)).toNat % 32 = (BitVec.setWidth 32 (BitVec.setWidth 64 imm)).toNat % 32 := by
  revert imm; decide

/-- A condition holds exactly when R70 and R162 say so. -/
theorem cond_says {n} (c : Cond) (x y : BitVec n) : condHolds c x y = true ↔ CondSays c x y := by
  cases c <;> simp [condHolds, CondSays, BitVec.slt_iff_toInt_lt, BitVec.ult_iff_toNat_lt, ← Bool.not_eq_true]

end Sys2Proof.Laws
end

