-- ==== Sys2Proof/Laws/Maps.lean ====
section
/-!
SUPPORT. Sparse maps and lists by index: what a read gives after a write or a removal, whatever the map.
-/

namespace Sys2Proof.Laws

open Sys2Proof.Machine

variable {α : Type}

@[simp] theorem kget?_kset_same (k : Nat) (a : α) (m : KMap α) : kget? k (kset k a m) = some a := by
  induction m with
  | nil => simp [kset, kget?]
  | cons e r ih =>
    obtain ⟨j, b⟩ := e
    unfold kset
    split
    · rename_i h; simp [kget?, Nat.ne_of_lt h, ih]
    · split <;> simp [kget?]

theorem kget?_kset_ne {k j : Nat} (a : α) (m : KMap α) (h : j ≠ k) : kget? j (kset k a m) = kget? j m := by
  induction m with
  | nil => simp [kset, kget?, Ne.symm h]
  | cons e r ih =>
    obtain ⟨i, b⟩ := e
    unfold kset
    split
    · simp [kget?, ih]
    · split
      · rename_i h2; subst h2; simp [kget?, Ne.symm h]
      · simp [kget?, Ne.symm h]

theorem kget?_kset (k j : Nat) (a : α) (m : KMap α) : kget? j (kset k a m) = if j = k then some a else kget? j m := by
  by_cases h : j = k
  · subst h; simp
  · simp [h, kget?_kset_ne a m h]

@[simp] theorem kget?_kdel_same (k : Nat) (m : KMap α) : kget? k (kdel k m) = none := by
  induction m with
  | nil => rfl
  | cons e r ih =>
    obtain ⟨j, b⟩ := e
    unfold kdel
    split
    · exact ih
    · rename_i h; simp [kget?, h, ih]

theorem kget?_kdel_ne {k j : Nat} (m : KMap α) (h : j ≠ k) : kget? j (kdel k m) = kget? j m := by
  induction m with
  | nil => rfl
  | cons e r ih =>
    obtain ⟨i, b⟩ := e
    unfold kdel
    split
    · rename_i h2; subst h2; simp [kget?, Ne.symm h, ih]
    · simp [kget?, ih]

@[simp] theorem kget_kset_same (k : Nat) (d a : α) (m : KMap α) : kget k d (kset k a m) = a := by simp [kget]

theorem kget_kset (k j : Nat) (d a : α) (m : KMap α) : kget j d (kset k a m) = if j = k then a else kget j d m := by
  unfold kget; rw [kget?_kset]; split <;> rfl

theorem kget?_mem {k : Nat} {a : α} {m : KMap α} (h : kget? k m = some a) : (k, a) ∈ m := by
  induction m with
  | nil => simp [kget?] at h
  | cons e r ih =>
    obtain ⟨j, b⟩ := e
    unfold kget? at h
    split at h
    · rename_i e; subst e; simp at h; simp [h]
    · simp [ih h]

end Sys2Proof.Laws
end

