-- ==== Sys2Proof/Laws/State.lean ====
section
/-!
SUPPORT. What each update of a part of State leaves as it was, one lemma a field, true by rfl; and what each part reads as
after its own update.
-/

namespace Sys2Proof.Machine

open Sys2Proof.Laws

variable (s : State)

@[simp] theorem State.setCtx_now (c : Nat) (x : Ctx) : (s.setCtx c x).now = s.now := rfl
@[simp] theorem State.setCtx_agenda (c : Nat) (x : Ctx) : (s.setCtx c x).agenda = s.agenda := rfl
@[simp] theorem State.setCtx_focus (c : Nat) (x : Ctx) : (s.setCtx c x).focus = s.focus := rfl
@[simp] theorem State.setCtx_free (c : Nat) (x : Ctx) : (s.setCtx c x).free = s.free := rfl
@[simp] theorem State.setCtx_nextUid (c : Nat) (x : Ctx) : (s.setCtx c x).nextUid = s.nextUid := rfl
@[simp] theorem State.setCtx_nextId (c : Nat) (x : Ctx) : (s.setCtx c x).nextId = s.nextId := rfl
@[simp] theorem State.setCtx_dram (c : Nat) (x : Ctx) : (s.setCtx c x).dram = s.dram := rfl
@[simp] theorem State.setCtx_spad (c : Nat) (x : Ctx) : (s.setCtx c x).spad = s.spad := rfl
@[simp] theorem State.setCtx_host (c : Nat) (x : Ctx) : (s.setCtx c x).host = s.host := rfl
@[simp] theorem State.setCtx_acc (c : Nat) (x : Ctx) : (s.setCtx c x).acc = s.acc := rfl
@[simp] theorem State.setCtx_badDram (c : Nat) (x : Ctx) : (s.setCtx c x).badDram = s.badDram := rfl
@[simp] theorem State.setCtx_badSpad (c : Nat) (x : Ctx) : (s.setCtx c x).badSpad = s.badSpad := rfl
@[simp] theorem State.setCtx_badAcc (c : Nat) (x : Ctx) : (s.setCtx c x).badAcc = s.badAcc := rfl
@[simp] theorem State.setCtx_writes (c : Nat) (x : Ctx) : (s.setCtx c x).writes = s.writes := rfl
@[simp] theorem State.setCtx_heads (c : Nat) (x : Ctx) : (s.setCtx c x).heads = s.heads := rfl
@[simp] theorem State.setCtx_homeOps (c : Nat) (x : Ctx) : (s.setCtx c x).homeOps = s.homeOps := rfl
@[simp] theorem State.setCtx_tasks (c : Nat) (x : Ctx) : (s.setCtx c x).tasks = s.tasks := rfl
@[simp] theorem State.setCtx_cmds (c : Nat) (x : Ctx) : (s.setCtx c x).cmds = s.cmds := rfl
@[simp] theorem State.setCtx_bricks (c : Nat) (x : Ctx) : (s.setCtx c x).bricks = s.bricks := rfl
@[simp] theorem State.setCtx_courses (c : Nat) (x : Ctx) : (s.setCtx c x).courses = s.courses := rfl
@[simp] theorem State.setCtx_dies (c : Nat) (x : Ctx) : (s.setCtx c x).dies = s.dies := rfl
@[simp] theorem State.setCtx_piers (c : Nat) (x : Ctx) : (s.setCtx c x).piers = s.piers := rfl
@[simp] theorem State.setCtx_parts (c : Nat) (x : Ctx) : (s.setCtx c x).parts = s.parts := rfl
@[simp] theorem State.setCtx_bars (c : Nat) (x : Ctx) : (s.setCtx c x).bars = s.bars := rfl
@[simp] theorem State.setCtx_places (c : Nat) (x : Ctx) : (s.setCtx c x).places = s.places := rfl
@[simp] theorem State.setCtx_pkg (c : Nat) (x : Ctx) : (s.setCtx c x).pkg = s.pkg := rfl
@[simp] theorem State.setCtx_outbox (c : Nat) (x : Ctx) : (s.setCtx c x).outbox = s.outbox := rfl

@[simp] theorem State.modCtx_now (c : Nat) (f : Ctx → Ctx) : (s.modCtx c f).now = s.now := rfl
@[simp] theorem State.modCtx_agenda (c : Nat) (f : Ctx → Ctx) : (s.modCtx c f).agenda = s.agenda := rfl
@[simp] theorem State.modCtx_focus (c : Nat) (f : Ctx → Ctx) : (s.modCtx c f).focus = s.focus := rfl
@[simp] theorem State.modCtx_free (c : Nat) (f : Ctx → Ctx) : (s.modCtx c f).free = s.free := rfl
@[simp] theorem State.modCtx_nextUid (c : Nat) (f : Ctx → Ctx) : (s.modCtx c f).nextUid = s.nextUid := rfl
@[simp] theorem State.modCtx_nextId (c : Nat) (f : Ctx → Ctx) : (s.modCtx c f).nextId = s.nextId := rfl
@[simp] theorem State.modCtx_dram (c : Nat) (f : Ctx → Ctx) : (s.modCtx c f).dram = s.dram := rfl
@[simp] theorem State.modCtx_spad (c : Nat) (f : Ctx → Ctx) : (s.modCtx c f).spad = s.spad := rfl
@[simp] theorem State.modCtx_host (c : Nat) (f : Ctx → Ctx) : (s.modCtx c f).host = s.host := rfl
@[simp] theorem State.modCtx_acc (c : Nat) (f : Ctx → Ctx) : (s.modCtx c f).acc = s.acc := rfl
@[simp] theorem State.modCtx_badDram (c : Nat) (f : Ctx → Ctx) : (s.modCtx c f).badDram = s.badDram := rfl
@[simp] theorem State.modCtx_badSpad (c : Nat) (f : Ctx → Ctx) : (s.modCtx c f).badSpad = s.badSpad := rfl
@[simp] theorem State.modCtx_badAcc (c : Nat) (f : Ctx → Ctx) : (s.modCtx c f).badAcc = s.badAcc := rfl
@[simp] theorem State.modCtx_writes (c : Nat) (f : Ctx → Ctx) : (s.modCtx c f).writes = s.writes := rfl
@[simp] theorem State.modCtx_heads (c : Nat) (f : Ctx → Ctx) : (s.modCtx c f).heads = s.heads := rfl
@[simp] theorem State.modCtx_homeOps (c : Nat) (f : Ctx → Ctx) : (s.modCtx c f).homeOps = s.homeOps := rfl
@[simp] theorem State.modCtx_tasks (c : Nat) (f : Ctx → Ctx) : (s.modCtx c f).tasks = s.tasks := rfl
@[simp] theorem State.modCtx_cmds (c : Nat) (f : Ctx → Ctx) : (s.modCtx c f).cmds = s.cmds := rfl
@[simp] theorem State.modCtx_bricks (c : Nat) (f : Ctx → Ctx) : (s.modCtx c f).bricks = s.bricks := rfl
@[simp] theorem State.modCtx_courses (c : Nat) (f : Ctx → Ctx) : (s.modCtx c f).courses = s.courses := rfl
@[simp] theorem State.modCtx_dies (c : Nat) (f : Ctx → Ctx) : (s.modCtx c f).dies = s.dies := rfl
@[simp] theorem State.modCtx_piers (c : Nat) (f : Ctx → Ctx) : (s.modCtx c f).piers = s.piers := rfl
@[simp] theorem State.modCtx_parts (c : Nat) (f : Ctx → Ctx) : (s.modCtx c f).parts = s.parts := rfl
@[simp] theorem State.modCtx_bars (c : Nat) (f : Ctx → Ctx) : (s.modCtx c f).bars = s.bars := rfl
@[simp] theorem State.modCtx_places (c : Nat) (f : Ctx → Ctx) : (s.modCtx c f).places = s.places := rfl
@[simp] theorem State.modCtx_pkg (c : Nat) (f : Ctx → Ctx) : (s.modCtx c f).pkg = s.pkg := rfl
@[simp] theorem State.modCtx_outbox (c : Nat) (f : Ctx → Ctx) : (s.modCtx c f).outbox = s.outbox := rfl

@[simp] theorem State.modBlk_now (c k : Nat) (f : Blk → Blk) : (s.modBlk c k f).now = s.now := rfl
@[simp] theorem State.modBlk_agenda (c k : Nat) (f : Blk → Blk) : (s.modBlk c k f).agenda = s.agenda := rfl
@[simp] theorem State.modBlk_focus (c k : Nat) (f : Blk → Blk) : (s.modBlk c k f).focus = s.focus := rfl
@[simp] theorem State.modBlk_free (c k : Nat) (f : Blk → Blk) : (s.modBlk c k f).free = s.free := rfl
@[simp] theorem State.modBlk_nextUid (c k : Nat) (f : Blk → Blk) : (s.modBlk c k f).nextUid = s.nextUid := rfl
@[simp] theorem State.modBlk_nextId (c k : Nat) (f : Blk → Blk) : (s.modBlk c k f).nextId = s.nextId := rfl
@[simp] theorem State.modBlk_dram (c k : Nat) (f : Blk → Blk) : (s.modBlk c k f).dram = s.dram := rfl
@[simp] theorem State.modBlk_spad (c k : Nat) (f : Blk → Blk) : (s.modBlk c k f).spad = s.spad := rfl
@[simp] theorem State.modBlk_host (c k : Nat) (f : Blk → Blk) : (s.modBlk c k f).host = s.host := rfl
@[simp] theorem State.modBlk_acc (c k : Nat) (f : Blk → Blk) : (s.modBlk c k f).acc = s.acc := rfl
@[simp] theorem State.modBlk_badDram (c k : Nat) (f : Blk → Blk) : (s.modBlk c k f).badDram = s.badDram := rfl
@[simp] theorem State.modBlk_badSpad (c k : Nat) (f : Blk → Blk) : (s.modBlk c k f).badSpad = s.badSpad := rfl
@[simp] theorem State.modBlk_badAcc (c k : Nat) (f : Blk → Blk) : (s.modBlk c k f).badAcc = s.badAcc := rfl
@[simp] theorem State.modBlk_writes (c k : Nat) (f : Blk → Blk) : (s.modBlk c k f).writes = s.writes := rfl
@[simp] theorem State.modBlk_heads (c k : Nat) (f : Blk → Blk) : (s.modBlk c k f).heads = s.heads := rfl
@[simp] theorem State.modBlk_homeOps (c k : Nat) (f : Blk → Blk) : (s.modBlk c k f).homeOps = s.homeOps := rfl
@[simp] theorem State.modBlk_tasks (c k : Nat) (f : Blk → Blk) : (s.modBlk c k f).tasks = s.tasks := rfl
@[simp] theorem State.modBlk_cmds (c k : Nat) (f : Blk → Blk) : (s.modBlk c k f).cmds = s.cmds := rfl
@[simp] theorem State.modBlk_bricks (c k : Nat) (f : Blk → Blk) : (s.modBlk c k f).bricks = s.bricks := rfl
@[simp] theorem State.modBlk_courses (c k : Nat) (f : Blk → Blk) : (s.modBlk c k f).courses = s.courses := rfl
@[simp] theorem State.modBlk_dies (c k : Nat) (f : Blk → Blk) : (s.modBlk c k f).dies = s.dies := rfl
@[simp] theorem State.modBlk_piers (c k : Nat) (f : Blk → Blk) : (s.modBlk c k f).piers = s.piers := rfl
@[simp] theorem State.modBlk_parts (c k : Nat) (f : Blk → Blk) : (s.modBlk c k f).parts = s.parts := rfl
@[simp] theorem State.modBlk_bars (c k : Nat) (f : Blk → Blk) : (s.modBlk c k f).bars = s.bars := rfl
@[simp] theorem State.modBlk_places (c k : Nat) (f : Blk → Blk) : (s.modBlk c k f).places = s.places := rfl
@[simp] theorem State.modBlk_pkg (c k : Nat) (f : Blk → Blk) : (s.modBlk c k f).pkg = s.pkg := rfl
@[simp] theorem State.modBlk_outbox (c k : Nat) (f : Blk → Blk) : (s.modBlk c k f).outbox = s.outbox := rfl

@[simp] theorem State.setTask_now (u : Nat) (x : Task) : (s.setTask u x).now = s.now := rfl
@[simp] theorem State.setTask_agenda (u : Nat) (x : Task) : (s.setTask u x).agenda = s.agenda := rfl
@[simp] theorem State.setTask_focus (u : Nat) (x : Task) : (s.setTask u x).focus = s.focus := rfl
@[simp] theorem State.setTask_free (u : Nat) (x : Task) : (s.setTask u x).free = s.free := rfl
@[simp] theorem State.setTask_nextUid (u : Nat) (x : Task) : (s.setTask u x).nextUid = s.nextUid := rfl
@[simp] theorem State.setTask_nextId (u : Nat) (x : Task) : (s.setTask u x).nextId = s.nextId := rfl
@[simp] theorem State.setTask_dram (u : Nat) (x : Task) : (s.setTask u x).dram = s.dram := rfl
@[simp] theorem State.setTask_spad (u : Nat) (x : Task) : (s.setTask u x).spad = s.spad := rfl
@[simp] theorem State.setTask_host (u : Nat) (x : Task) : (s.setTask u x).host = s.host := rfl
@[simp] theorem State.setTask_acc (u : Nat) (x : Task) : (s.setTask u x).acc = s.acc := rfl
@[simp] theorem State.setTask_badDram (u : Nat) (x : Task) : (s.setTask u x).badDram = s.badDram := rfl
@[simp] theorem State.setTask_badSpad (u : Nat) (x : Task) : (s.setTask u x).badSpad = s.badSpad := rfl
@[simp] theorem State.setTask_badAcc (u : Nat) (x : Task) : (s.setTask u x).badAcc = s.badAcc := rfl
@[simp] theorem State.setTask_writes (u : Nat) (x : Task) : (s.setTask u x).writes = s.writes := rfl
@[simp] theorem State.setTask_heads (u : Nat) (x : Task) : (s.setTask u x).heads = s.heads := rfl
@[simp] theorem State.setTask_homeOps (u : Nat) (x : Task) : (s.setTask u x).homeOps = s.homeOps := rfl
@[simp] theorem State.setTask_ctxs (u : Nat) (x : Task) : (s.setTask u x).ctxs = s.ctxs := rfl
@[simp] theorem State.setTask_cmds (u : Nat) (x : Task) : (s.setTask u x).cmds = s.cmds := rfl
@[simp] theorem State.setTask_bricks (u : Nat) (x : Task) : (s.setTask u x).bricks = s.bricks := rfl
@[simp] theorem State.setTask_courses (u : Nat) (x : Task) : (s.setTask u x).courses = s.courses := rfl
@[simp] theorem State.setTask_dies (u : Nat) (x : Task) : (s.setTask u x).dies = s.dies := rfl
@[simp] theorem State.setTask_piers (u : Nat) (x : Task) : (s.setTask u x).piers = s.piers := rfl
@[simp] theorem State.setTask_parts (u : Nat) (x : Task) : (s.setTask u x).parts = s.parts := rfl
@[simp] theorem State.setTask_bars (u : Nat) (x : Task) : (s.setTask u x).bars = s.bars := rfl
@[simp] theorem State.setTask_places (u : Nat) (x : Task) : (s.setTask u x).places = s.places := rfl
@[simp] theorem State.setTask_pkg (u : Nat) (x : Task) : (s.setTask u x).pkg = s.pkg := rfl
@[simp] theorem State.setTask_outbox (u : Nat) (x : Task) : (s.setTask u x).outbox = s.outbox := rfl

@[simp] theorem State.delTask_now (u : Nat) : (s.delTask u).now = s.now := rfl
@[simp] theorem State.delTask_agenda (u : Nat) : (s.delTask u).agenda = s.agenda := rfl
@[simp] theorem State.delTask_focus (u : Nat) : (s.delTask u).focus = s.focus := rfl
@[simp] theorem State.delTask_free (u : Nat) : (s.delTask u).free = s.free := rfl
@[simp] theorem State.delTask_nextUid (u : Nat) : (s.delTask u).nextUid = s.nextUid := rfl
@[simp] theorem State.delTask_nextId (u : Nat) : (s.delTask u).nextId = s.nextId := rfl
@[simp] theorem State.delTask_dram (u : Nat) : (s.delTask u).dram = s.dram := rfl
@[simp] theorem State.delTask_spad (u : Nat) : (s.delTask u).spad = s.spad := rfl
@[simp] theorem State.delTask_host (u : Nat) : (s.delTask u).host = s.host := rfl
@[simp] theorem State.delTask_acc (u : Nat) : (s.delTask u).acc = s.acc := rfl
@[simp] theorem State.delTask_badDram (u : Nat) : (s.delTask u).badDram = s.badDram := rfl
@[simp] theorem State.delTask_badSpad (u : Nat) : (s.delTask u).badSpad = s.badSpad := rfl
@[simp] theorem State.delTask_badAcc (u : Nat) : (s.delTask u).badAcc = s.badAcc := rfl
@[simp] theorem State.delTask_writes (u : Nat) : (s.delTask u).writes = s.writes := rfl
@[simp] theorem State.delTask_heads (u : Nat) : (s.delTask u).heads = s.heads := rfl
@[simp] theorem State.delTask_homeOps (u : Nat) : (s.delTask u).homeOps = s.homeOps := rfl
@[simp] theorem State.delTask_ctxs (u : Nat) : (s.delTask u).ctxs = s.ctxs := rfl
@[simp] theorem State.delTask_cmds (u : Nat) : (s.delTask u).cmds = s.cmds := rfl
@[simp] theorem State.delTask_bricks (u : Nat) : (s.delTask u).bricks = s.bricks := rfl
@[simp] theorem State.delTask_courses (u : Nat) : (s.delTask u).courses = s.courses := rfl
@[simp] theorem State.delTask_dies (u : Nat) : (s.delTask u).dies = s.dies := rfl
@[simp] theorem State.delTask_piers (u : Nat) : (s.delTask u).piers = s.piers := rfl
@[simp] theorem State.delTask_parts (u : Nat) : (s.delTask u).parts = s.parts := rfl
@[simp] theorem State.delTask_bars (u : Nat) : (s.delTask u).bars = s.bars := rfl
@[simp] theorem State.delTask_places (u : Nat) : (s.delTask u).places = s.places := rfl
@[simp] theorem State.delTask_pkg (u : Nat) : (s.delTask u).pkg = s.pkg := rfl
@[simp] theorem State.delTask_outbox (u : Nat) : (s.delTask u).outbox = s.outbox := rfl

@[simp] theorem State.setCmd_now (i : Nat) (x : Cmd) : (s.setCmd i x).now = s.now := rfl
@[simp] theorem State.setCmd_agenda (i : Nat) (x : Cmd) : (s.setCmd i x).agenda = s.agenda := rfl
@[simp] theorem State.setCmd_focus (i : Nat) (x : Cmd) : (s.setCmd i x).focus = s.focus := rfl
@[simp] theorem State.setCmd_free (i : Nat) (x : Cmd) : (s.setCmd i x).free = s.free := rfl
@[simp] theorem State.setCmd_nextUid (i : Nat) (x : Cmd) : (s.setCmd i x).nextUid = s.nextUid := rfl
@[simp] theorem State.setCmd_nextId (i : Nat) (x : Cmd) : (s.setCmd i x).nextId = s.nextId := rfl
@[simp] theorem State.setCmd_dram (i : Nat) (x : Cmd) : (s.setCmd i x).dram = s.dram := rfl
@[simp] theorem State.setCmd_spad (i : Nat) (x : Cmd) : (s.setCmd i x).spad = s.spad := rfl
@[simp] theorem State.setCmd_host (i : Nat) (x : Cmd) : (s.setCmd i x).host = s.host := rfl
@[simp] theorem State.setCmd_acc (i : Nat) (x : Cmd) : (s.setCmd i x).acc = s.acc := rfl
@[simp] theorem State.setCmd_badDram (i : Nat) (x : Cmd) : (s.setCmd i x).badDram = s.badDram := rfl
@[simp] theorem State.setCmd_badSpad (i : Nat) (x : Cmd) : (s.setCmd i x).badSpad = s.badSpad := rfl
@[simp] theorem State.setCmd_badAcc (i : Nat) (x : Cmd) : (s.setCmd i x).badAcc = s.badAcc := rfl
@[simp] theorem State.setCmd_writes (i : Nat) (x : Cmd) : (s.setCmd i x).writes = s.writes := rfl
@[simp] theorem State.setCmd_heads (i : Nat) (x : Cmd) : (s.setCmd i x).heads = s.heads := rfl
@[simp] theorem State.setCmd_homeOps (i : Nat) (x : Cmd) : (s.setCmd i x).homeOps = s.homeOps := rfl
@[simp] theorem State.setCmd_ctxs (i : Nat) (x : Cmd) : (s.setCmd i x).ctxs = s.ctxs := rfl
@[simp] theorem State.setCmd_tasks (i : Nat) (x : Cmd) : (s.setCmd i x).tasks = s.tasks := rfl
@[simp] theorem State.setCmd_bricks (i : Nat) (x : Cmd) : (s.setCmd i x).bricks = s.bricks := rfl
@[simp] theorem State.setCmd_courses (i : Nat) (x : Cmd) : (s.setCmd i x).courses = s.courses := rfl
@[simp] theorem State.setCmd_dies (i : Nat) (x : Cmd) : (s.setCmd i x).dies = s.dies := rfl
@[simp] theorem State.setCmd_piers (i : Nat) (x : Cmd) : (s.setCmd i x).piers = s.piers := rfl
@[simp] theorem State.setCmd_parts (i : Nat) (x : Cmd) : (s.setCmd i x).parts = s.parts := rfl
@[simp] theorem State.setCmd_bars (i : Nat) (x : Cmd) : (s.setCmd i x).bars = s.bars := rfl
@[simp] theorem State.setCmd_places (i : Nat) (x : Cmd) : (s.setCmd i x).places = s.places := rfl
@[simp] theorem State.setCmd_pkg (i : Nat) (x : Cmd) : (s.setCmd i x).pkg = s.pkg := rfl
@[simp] theorem State.setCmd_outbox (i : Nat) (x : Cmd) : (s.setCmd i x).outbox = s.outbox := rfl

@[simp] theorem State.setBrick_now (b : Nat) (x : Brick) : (s.setBrick b x).now = s.now := rfl
@[simp] theorem State.setBrick_agenda (b : Nat) (x : Brick) : (s.setBrick b x).agenda = s.agenda := rfl
@[simp] theorem State.setBrick_focus (b : Nat) (x : Brick) : (s.setBrick b x).focus = s.focus := rfl
@[simp] theorem State.setBrick_free (b : Nat) (x : Brick) : (s.setBrick b x).free = s.free := rfl
@[simp] theorem State.setBrick_nextUid (b : Nat) (x : Brick) : (s.setBrick b x).nextUid = s.nextUid := rfl
@[simp] theorem State.setBrick_nextId (b : Nat) (x : Brick) : (s.setBrick b x).nextId = s.nextId := rfl
@[simp] theorem State.setBrick_dram (b : Nat) (x : Brick) : (s.setBrick b x).dram = s.dram := rfl
@[simp] theorem State.setBrick_spad (b : Nat) (x : Brick) : (s.setBrick b x).spad = s.spad := rfl
@[simp] theorem State.setBrick_host (b : Nat) (x : Brick) : (s.setBrick b x).host = s.host := rfl
@[simp] theorem State.setBrick_acc (b : Nat) (x : Brick) : (s.setBrick b x).acc = s.acc := rfl
@[simp] theorem State.setBrick_badDram (b : Nat) (x : Brick) : (s.setBrick b x).badDram = s.badDram := rfl
@[simp] theorem State.setBrick_badSpad (b : Nat) (x : Brick) : (s.setBrick b x).badSpad = s.badSpad := rfl
@[simp] theorem State.setBrick_badAcc (b : Nat) (x : Brick) : (s.setBrick b x).badAcc = s.badAcc := rfl
@[simp] theorem State.setBrick_writes (b : Nat) (x : Brick) : (s.setBrick b x).writes = s.writes := rfl
@[simp] theorem State.setBrick_heads (b : Nat) (x : Brick) : (s.setBrick b x).heads = s.heads := rfl
@[simp] theorem State.setBrick_homeOps (b : Nat) (x : Brick) : (s.setBrick b x).homeOps = s.homeOps := rfl
@[simp] theorem State.setBrick_ctxs (b : Nat) (x : Brick) : (s.setBrick b x).ctxs = s.ctxs := rfl
@[simp] theorem State.setBrick_tasks (b : Nat) (x : Brick) : (s.setBrick b x).tasks = s.tasks := rfl
@[simp] theorem State.setBrick_cmds (b : Nat) (x : Brick) : (s.setBrick b x).cmds = s.cmds := rfl
@[simp] theorem State.setBrick_courses (b : Nat) (x : Brick) : (s.setBrick b x).courses = s.courses := rfl
@[simp] theorem State.setBrick_dies (b : Nat) (x : Brick) : (s.setBrick b x).dies = s.dies := rfl
@[simp] theorem State.setBrick_piers (b : Nat) (x : Brick) : (s.setBrick b x).piers = s.piers := rfl
@[simp] theorem State.setBrick_parts (b : Nat) (x : Brick) : (s.setBrick b x).parts = s.parts := rfl
@[simp] theorem State.setBrick_bars (b : Nat) (x : Brick) : (s.setBrick b x).bars = s.bars := rfl
@[simp] theorem State.setBrick_places (b : Nat) (x : Brick) : (s.setBrick b x).places = s.places := rfl
@[simp] theorem State.setBrick_pkg (b : Nat) (x : Brick) : (s.setBrick b x).pkg = s.pkg := rfl
@[simp] theorem State.setBrick_outbox (b : Nat) (x : Brick) : (s.setBrick b x).outbox = s.outbox := rfl

@[simp] theorem State.modBrick_now (b : Nat) (f : Brick → Brick) : (s.modBrick b f).now = s.now := rfl
@[simp] theorem State.modBrick_agenda (b : Nat) (f : Brick → Brick) : (s.modBrick b f).agenda = s.agenda := rfl
@[simp] theorem State.modBrick_focus (b : Nat) (f : Brick → Brick) : (s.modBrick b f).focus = s.focus := rfl
@[simp] theorem State.modBrick_free (b : Nat) (f : Brick → Brick) : (s.modBrick b f).free = s.free := rfl
@[simp] theorem State.modBrick_nextUid (b : Nat) (f : Brick → Brick) : (s.modBrick b f).nextUid = s.nextUid := rfl
@[simp] theorem State.modBrick_nextId (b : Nat) (f : Brick → Brick) : (s.modBrick b f).nextId = s.nextId := rfl
@[simp] theorem State.modBrick_dram (b : Nat) (f : Brick → Brick) : (s.modBrick b f).dram = s.dram := rfl
@[simp] theorem State.modBrick_spad (b : Nat) (f : Brick → Brick) : (s.modBrick b f).spad = s.spad := rfl
@[simp] theorem State.modBrick_host (b : Nat) (f : Brick → Brick) : (s.modBrick b f).host = s.host := rfl
@[simp] theorem State.modBrick_acc (b : Nat) (f : Brick → Brick) : (s.modBrick b f).acc = s.acc := rfl
@[simp] theorem State.modBrick_badDram (b : Nat) (f : Brick → Brick) : (s.modBrick b f).badDram = s.badDram := rfl
@[simp] theorem State.modBrick_badSpad (b : Nat) (f : Brick → Brick) : (s.modBrick b f).badSpad = s.badSpad := rfl
@[simp] theorem State.modBrick_badAcc (b : Nat) (f : Brick → Brick) : (s.modBrick b f).badAcc = s.badAcc := rfl
@[simp] theorem State.modBrick_writes (b : Nat) (f : Brick → Brick) : (s.modBrick b f).writes = s.writes := rfl
@[simp] theorem State.modBrick_heads (b : Nat) (f : Brick → Brick) : (s.modBrick b f).heads = s.heads := rfl
@[simp] theorem State.modBrick_homeOps (b : Nat) (f : Brick → Brick) : (s.modBrick b f).homeOps = s.homeOps := rfl
@[simp] theorem State.modBrick_ctxs (b : Nat) (f : Brick → Brick) : (s.modBrick b f).ctxs = s.ctxs := rfl
@[simp] theorem State.modBrick_tasks (b : Nat) (f : Brick → Brick) : (s.modBrick b f).tasks = s.tasks := rfl
@[simp] theorem State.modBrick_cmds (b : Nat) (f : Brick → Brick) : (s.modBrick b f).cmds = s.cmds := rfl
@[simp] theorem State.modBrick_courses (b : Nat) (f : Brick → Brick) : (s.modBrick b f).courses = s.courses := rfl
@[simp] theorem State.modBrick_dies (b : Nat) (f : Brick → Brick) : (s.modBrick b f).dies = s.dies := rfl
@[simp] theorem State.modBrick_piers (b : Nat) (f : Brick → Brick) : (s.modBrick b f).piers = s.piers := rfl
@[simp] theorem State.modBrick_parts (b : Nat) (f : Brick → Brick) : (s.modBrick b f).parts = s.parts := rfl
@[simp] theorem State.modBrick_bars (b : Nat) (f : Brick → Brick) : (s.modBrick b f).bars = s.bars := rfl
@[simp] theorem State.modBrick_places (b : Nat) (f : Brick → Brick) : (s.modBrick b f).places = s.places := rfl
@[simp] theorem State.modBrick_pkg (b : Nat) (f : Brick → Brick) : (s.modBrick b f).pkg = s.pkg := rfl
@[simp] theorem State.modBrick_outbox (b : Nat) (f : Brick → Brick) : (s.modBrick b f).outbox = s.outbox := rfl

@[simp] theorem State.setCourse_now (c : Nat) (x : Course) : (s.setCourse c x).now = s.now := rfl
@[simp] theorem State.setCourse_agenda (c : Nat) (x : Course) : (s.setCourse c x).agenda = s.agenda := rfl
@[simp] theorem State.setCourse_focus (c : Nat) (x : Course) : (s.setCourse c x).focus = s.focus := rfl
@[simp] theorem State.setCourse_free (c : Nat) (x : Course) : (s.setCourse c x).free = s.free := rfl
@[simp] theorem State.setCourse_nextUid (c : Nat) (x : Course) : (s.setCourse c x).nextUid = s.nextUid := rfl
@[simp] theorem State.setCourse_nextId (c : Nat) (x : Course) : (s.setCourse c x).nextId = s.nextId := rfl
@[simp] theorem State.setCourse_dram (c : Nat) (x : Course) : (s.setCourse c x).dram = s.dram := rfl
@[simp] theorem State.setCourse_spad (c : Nat) (x : Course) : (s.setCourse c x).spad = s.spad := rfl
@[simp] theorem State.setCourse_host (c : Nat) (x : Course) : (s.setCourse c x).host = s.host := rfl
@[simp] theorem State.setCourse_acc (c : Nat) (x : Course) : (s.setCourse c x).acc = s.acc := rfl
@[simp] theorem State.setCourse_badDram (c : Nat) (x : Course) : (s.setCourse c x).badDram = s.badDram := rfl
@[simp] theorem State.setCourse_badSpad (c : Nat) (x : Course) : (s.setCourse c x).badSpad = s.badSpad := rfl
@[simp] theorem State.setCourse_badAcc (c : Nat) (x : Course) : (s.setCourse c x).badAcc = s.badAcc := rfl
@[simp] theorem State.setCourse_writes (c : Nat) (x : Course) : (s.setCourse c x).writes = s.writes := rfl
@[simp] theorem State.setCourse_heads (c : Nat) (x : Course) : (s.setCourse c x).heads = s.heads := rfl
@[simp] theorem State.setCourse_homeOps (c : Nat) (x : Course) : (s.setCourse c x).homeOps = s.homeOps := rfl
@[simp] theorem State.setCourse_ctxs (c : Nat) (x : Course) : (s.setCourse c x).ctxs = s.ctxs := rfl
@[simp] theorem State.setCourse_tasks (c : Nat) (x : Course) : (s.setCourse c x).tasks = s.tasks := rfl
@[simp] theorem State.setCourse_cmds (c : Nat) (x : Course) : (s.setCourse c x).cmds = s.cmds := rfl
@[simp] theorem State.setCourse_bricks (c : Nat) (x : Course) : (s.setCourse c x).bricks = s.bricks := rfl
@[simp] theorem State.setCourse_dies (c : Nat) (x : Course) : (s.setCourse c x).dies = s.dies := rfl
@[simp] theorem State.setCourse_piers (c : Nat) (x : Course) : (s.setCourse c x).piers = s.piers := rfl
@[simp] theorem State.setCourse_parts (c : Nat) (x : Course) : (s.setCourse c x).parts = s.parts := rfl
@[simp] theorem State.setCourse_bars (c : Nat) (x : Course) : (s.setCourse c x).bars = s.bars := rfl
@[simp] theorem State.setCourse_places (c : Nat) (x : Course) : (s.setCourse c x).places = s.places := rfl
@[simp] theorem State.setCourse_pkg (c : Nat) (x : Course) : (s.setCourse c x).pkg = s.pkg := rfl
@[simp] theorem State.setCourse_outbox (c : Nat) (x : Course) : (s.setCourse c x).outbox = s.outbox := rfl

@[simp] theorem State.modCourse_now (c : Nat) (f : Course → Course) : (s.modCourse c f).now = s.now := rfl
@[simp] theorem State.modCourse_agenda (c : Nat) (f : Course → Course) : (s.modCourse c f).agenda = s.agenda := rfl
@[simp] theorem State.modCourse_focus (c : Nat) (f : Course → Course) : (s.modCourse c f).focus = s.focus := rfl
@[simp] theorem State.modCourse_free (c : Nat) (f : Course → Course) : (s.modCourse c f).free = s.free := rfl
@[simp] theorem State.modCourse_nextUid (c : Nat) (f : Course → Course) : (s.modCourse c f).nextUid = s.nextUid := rfl
@[simp] theorem State.modCourse_nextId (c : Nat) (f : Course → Course) : (s.modCourse c f).nextId = s.nextId := rfl
@[simp] theorem State.modCourse_dram (c : Nat) (f : Course → Course) : (s.modCourse c f).dram = s.dram := rfl
@[simp] theorem State.modCourse_spad (c : Nat) (f : Course → Course) : (s.modCourse c f).spad = s.spad := rfl
@[simp] theorem State.modCourse_host (c : Nat) (f : Course → Course) : (s.modCourse c f).host = s.host := rfl
@[simp] theorem State.modCourse_acc (c : Nat) (f : Course → Course) : (s.modCourse c f).acc = s.acc := rfl
@[simp] theorem State.modCourse_badDram (c : Nat) (f : Course → Course) : (s.modCourse c f).badDram = s.badDram := rfl
@[simp] theorem State.modCourse_badSpad (c : Nat) (f : Course → Course) : (s.modCourse c f).badSpad = s.badSpad := rfl
@[simp] theorem State.modCourse_badAcc (c : Nat) (f : Course → Course) : (s.modCourse c f).badAcc = s.badAcc := rfl
@[simp] theorem State.modCourse_writes (c : Nat) (f : Course → Course) : (s.modCourse c f).writes = s.writes := rfl
@[simp] theorem State.modCourse_heads (c : Nat) (f : Course → Course) : (s.modCourse c f).heads = s.heads := rfl
@[simp] theorem State.modCourse_homeOps (c : Nat) (f : Course → Course) : (s.modCourse c f).homeOps = s.homeOps := rfl
@[simp] theorem State.modCourse_ctxs (c : Nat) (f : Course → Course) : (s.modCourse c f).ctxs = s.ctxs := rfl
@[simp] theorem State.modCourse_tasks (c : Nat) (f : Course → Course) : (s.modCourse c f).tasks = s.tasks := rfl
@[simp] theorem State.modCourse_cmds (c : Nat) (f : Course → Course) : (s.modCourse c f).cmds = s.cmds := rfl
@[simp] theorem State.modCourse_bricks (c : Nat) (f : Course → Course) : (s.modCourse c f).bricks = s.bricks := rfl
@[simp] theorem State.modCourse_dies (c : Nat) (f : Course → Course) : (s.modCourse c f).dies = s.dies := rfl
@[simp] theorem State.modCourse_piers (c : Nat) (f : Course → Course) : (s.modCourse c f).piers = s.piers := rfl
@[simp] theorem State.modCourse_parts (c : Nat) (f : Course → Course) : (s.modCourse c f).parts = s.parts := rfl
@[simp] theorem State.modCourse_bars (c : Nat) (f : Course → Course) : (s.modCourse c f).bars = s.bars := rfl
@[simp] theorem State.modCourse_places (c : Nat) (f : Course → Course) : (s.modCourse c f).places = s.places := rfl
@[simp] theorem State.modCourse_pkg (c : Nat) (f : Course → Course) : (s.modCourse c f).pkg = s.pkg := rfl
@[simp] theorem State.modCourse_outbox (c : Nat) (f : Course → Course) : (s.modCourse c f).outbox = s.outbox := rfl

@[simp] theorem State.setDie_now (d : Nat) (x : Die) : (s.setDie d x).now = s.now := rfl
@[simp] theorem State.setDie_agenda (d : Nat) (x : Die) : (s.setDie d x).agenda = s.agenda := rfl
@[simp] theorem State.setDie_focus (d : Nat) (x : Die) : (s.setDie d x).focus = s.focus := rfl
@[simp] theorem State.setDie_free (d : Nat) (x : Die) : (s.setDie d x).free = s.free := rfl
@[simp] theorem State.setDie_nextUid (d : Nat) (x : Die) : (s.setDie d x).nextUid = s.nextUid := rfl
@[simp] theorem State.setDie_nextId (d : Nat) (x : Die) : (s.setDie d x).nextId = s.nextId := rfl
@[simp] theorem State.setDie_dram (d : Nat) (x : Die) : (s.setDie d x).dram = s.dram := rfl
@[simp] theorem State.setDie_spad (d : Nat) (x : Die) : (s.setDie d x).spad = s.spad := rfl
@[simp] theorem State.setDie_host (d : Nat) (x : Die) : (s.setDie d x).host = s.host := rfl
@[simp] theorem State.setDie_acc (d : Nat) (x : Die) : (s.setDie d x).acc = s.acc := rfl
@[simp] theorem State.setDie_badDram (d : Nat) (x : Die) : (s.setDie d x).badDram = s.badDram := rfl
@[simp] theorem State.setDie_badSpad (d : Nat) (x : Die) : (s.setDie d x).badSpad = s.badSpad := rfl
@[simp] theorem State.setDie_badAcc (d : Nat) (x : Die) : (s.setDie d x).badAcc = s.badAcc := rfl
@[simp] theorem State.setDie_writes (d : Nat) (x : Die) : (s.setDie d x).writes = s.writes := rfl
@[simp] theorem State.setDie_heads (d : Nat) (x : Die) : (s.setDie d x).heads = s.heads := rfl
@[simp] theorem State.setDie_homeOps (d : Nat) (x : Die) : (s.setDie d x).homeOps = s.homeOps := rfl
@[simp] theorem State.setDie_ctxs (d : Nat) (x : Die) : (s.setDie d x).ctxs = s.ctxs := rfl
@[simp] theorem State.setDie_tasks (d : Nat) (x : Die) : (s.setDie d x).tasks = s.tasks := rfl
@[simp] theorem State.setDie_cmds (d : Nat) (x : Die) : (s.setDie d x).cmds = s.cmds := rfl
@[simp] theorem State.setDie_bricks (d : Nat) (x : Die) : (s.setDie d x).bricks = s.bricks := rfl
@[simp] theorem State.setDie_courses (d : Nat) (x : Die) : (s.setDie d x).courses = s.courses := rfl
@[simp] theorem State.setDie_piers (d : Nat) (x : Die) : (s.setDie d x).piers = s.piers := rfl
@[simp] theorem State.setDie_parts (d : Nat) (x : Die) : (s.setDie d x).parts = s.parts := rfl
@[simp] theorem State.setDie_bars (d : Nat) (x : Die) : (s.setDie d x).bars = s.bars := rfl
@[simp] theorem State.setDie_places (d : Nat) (x : Die) : (s.setDie d x).places = s.places := rfl
@[simp] theorem State.setDie_pkg (d : Nat) (x : Die) : (s.setDie d x).pkg = s.pkg := rfl
@[simp] theorem State.setDie_outbox (d : Nat) (x : Die) : (s.setDie d x).outbox = s.outbox := rfl

@[simp] theorem State.modDie_now (d : Nat) (f : Die → Die) : (s.modDie d f).now = s.now := rfl
@[simp] theorem State.modDie_agenda (d : Nat) (f : Die → Die) : (s.modDie d f).agenda = s.agenda := rfl
@[simp] theorem State.modDie_focus (d : Nat) (f : Die → Die) : (s.modDie d f).focus = s.focus := rfl
@[simp] theorem State.modDie_free (d : Nat) (f : Die → Die) : (s.modDie d f).free = s.free := rfl
@[simp] theorem State.modDie_nextUid (d : Nat) (f : Die → Die) : (s.modDie d f).nextUid = s.nextUid := rfl
@[simp] theorem State.modDie_nextId (d : Nat) (f : Die → Die) : (s.modDie d f).nextId = s.nextId := rfl
@[simp] theorem State.modDie_dram (d : Nat) (f : Die → Die) : (s.modDie d f).dram = s.dram := rfl
@[simp] theorem State.modDie_spad (d : Nat) (f : Die → Die) : (s.modDie d f).spad = s.spad := rfl
@[simp] theorem State.modDie_host (d : Nat) (f : Die → Die) : (s.modDie d f).host = s.host := rfl
@[simp] theorem State.modDie_acc (d : Nat) (f : Die → Die) : (s.modDie d f).acc = s.acc := rfl
@[simp] theorem State.modDie_badDram (d : Nat) (f : Die → Die) : (s.modDie d f).badDram = s.badDram := rfl
@[simp] theorem State.modDie_badSpad (d : Nat) (f : Die → Die) : (s.modDie d f).badSpad = s.badSpad := rfl
@[simp] theorem State.modDie_badAcc (d : Nat) (f : Die → Die) : (s.modDie d f).badAcc = s.badAcc := rfl
@[simp] theorem State.modDie_writes (d : Nat) (f : Die → Die) : (s.modDie d f).writes = s.writes := rfl
@[simp] theorem State.modDie_heads (d : Nat) (f : Die → Die) : (s.modDie d f).heads = s.heads := rfl
@[simp] theorem State.modDie_homeOps (d : Nat) (f : Die → Die) : (s.modDie d f).homeOps = s.homeOps := rfl
@[simp] theorem State.modDie_ctxs (d : Nat) (f : Die → Die) : (s.modDie d f).ctxs = s.ctxs := rfl
@[simp] theorem State.modDie_tasks (d : Nat) (f : Die → Die) : (s.modDie d f).tasks = s.tasks := rfl
@[simp] theorem State.modDie_cmds (d : Nat) (f : Die → Die) : (s.modDie d f).cmds = s.cmds := rfl
@[simp] theorem State.modDie_bricks (d : Nat) (f : Die → Die) : (s.modDie d f).bricks = s.bricks := rfl
@[simp] theorem State.modDie_courses (d : Nat) (f : Die → Die) : (s.modDie d f).courses = s.courses := rfl
@[simp] theorem State.modDie_piers (d : Nat) (f : Die → Die) : (s.modDie d f).piers = s.piers := rfl
@[simp] theorem State.modDie_parts (d : Nat) (f : Die → Die) : (s.modDie d f).parts = s.parts := rfl
@[simp] theorem State.modDie_bars (d : Nat) (f : Die → Die) : (s.modDie d f).bars = s.bars := rfl
@[simp] theorem State.modDie_places (d : Nat) (f : Die → Die) : (s.modDie d f).places = s.places := rfl
@[simp] theorem State.modDie_pkg (d : Nat) (f : Die → Die) : (s.modDie d f).pkg = s.pkg := rfl
@[simp] theorem State.modDie_outbox (d : Nat) (f : Die → Die) : (s.modDie d f).outbox = s.outbox := rfl

@[simp] theorem State.setPier_now (p : Nat) (x : Pier) : (s.setPier p x).now = s.now := rfl
@[simp] theorem State.setPier_agenda (p : Nat) (x : Pier) : (s.setPier p x).agenda = s.agenda := rfl
@[simp] theorem State.setPier_focus (p : Nat) (x : Pier) : (s.setPier p x).focus = s.focus := rfl
@[simp] theorem State.setPier_free (p : Nat) (x : Pier) : (s.setPier p x).free = s.free := rfl
@[simp] theorem State.setPier_nextUid (p : Nat) (x : Pier) : (s.setPier p x).nextUid = s.nextUid := rfl
@[simp] theorem State.setPier_nextId (p : Nat) (x : Pier) : (s.setPier p x).nextId = s.nextId := rfl
@[simp] theorem State.setPier_dram (p : Nat) (x : Pier) : (s.setPier p x).dram = s.dram := rfl
@[simp] theorem State.setPier_spad (p : Nat) (x : Pier) : (s.setPier p x).spad = s.spad := rfl
@[simp] theorem State.setPier_host (p : Nat) (x : Pier) : (s.setPier p x).host = s.host := rfl
@[simp] theorem State.setPier_acc (p : Nat) (x : Pier) : (s.setPier p x).acc = s.acc := rfl
@[simp] theorem State.setPier_badDram (p : Nat) (x : Pier) : (s.setPier p x).badDram = s.badDram := rfl
@[simp] theorem State.setPier_badSpad (p : Nat) (x : Pier) : (s.setPier p x).badSpad = s.badSpad := rfl
@[simp] theorem State.setPier_badAcc (p : Nat) (x : Pier) : (s.setPier p x).badAcc = s.badAcc := rfl
@[simp] theorem State.setPier_writes (p : Nat) (x : Pier) : (s.setPier p x).writes = s.writes := rfl
@[simp] theorem State.setPier_heads (p : Nat) (x : Pier) : (s.setPier p x).heads = s.heads := rfl
@[simp] theorem State.setPier_homeOps (p : Nat) (x : Pier) : (s.setPier p x).homeOps = s.homeOps := rfl
@[simp] theorem State.setPier_ctxs (p : Nat) (x : Pier) : (s.setPier p x).ctxs = s.ctxs := rfl
@[simp] theorem State.setPier_tasks (p : Nat) (x : Pier) : (s.setPier p x).tasks = s.tasks := rfl
@[simp] theorem State.setPier_cmds (p : Nat) (x : Pier) : (s.setPier p x).cmds = s.cmds := rfl
@[simp] theorem State.setPier_bricks (p : Nat) (x : Pier) : (s.setPier p x).bricks = s.bricks := rfl
@[simp] theorem State.setPier_courses (p : Nat) (x : Pier) : (s.setPier p x).courses = s.courses := rfl
@[simp] theorem State.setPier_dies (p : Nat) (x : Pier) : (s.setPier p x).dies = s.dies := rfl
@[simp] theorem State.setPier_parts (p : Nat) (x : Pier) : (s.setPier p x).parts = s.parts := rfl
@[simp] theorem State.setPier_bars (p : Nat) (x : Pier) : (s.setPier p x).bars = s.bars := rfl
@[simp] theorem State.setPier_places (p : Nat) (x : Pier) : (s.setPier p x).places = s.places := rfl
@[simp] theorem State.setPier_pkg (p : Nat) (x : Pier) : (s.setPier p x).pkg = s.pkg := rfl
@[simp] theorem State.setPier_outbox (p : Nat) (x : Pier) : (s.setPier p x).outbox = s.outbox := rfl

@[simp] theorem State.modPier_now (p : Nat) (f : Pier → Pier) : (s.modPier p f).now = s.now := rfl
@[simp] theorem State.modPier_agenda (p : Nat) (f : Pier → Pier) : (s.modPier p f).agenda = s.agenda := rfl
@[simp] theorem State.modPier_focus (p : Nat) (f : Pier → Pier) : (s.modPier p f).focus = s.focus := rfl
@[simp] theorem State.modPier_free (p : Nat) (f : Pier → Pier) : (s.modPier p f).free = s.free := rfl
@[simp] theorem State.modPier_nextUid (p : Nat) (f : Pier → Pier) : (s.modPier p f).nextUid = s.nextUid := rfl
@[simp] theorem State.modPier_nextId (p : Nat) (f : Pier → Pier) : (s.modPier p f).nextId = s.nextId := rfl
@[simp] theorem State.modPier_dram (p : Nat) (f : Pier → Pier) : (s.modPier p f).dram = s.dram := rfl
@[simp] theorem State.modPier_spad (p : Nat) (f : Pier → Pier) : (s.modPier p f).spad = s.spad := rfl
@[simp] theorem State.modPier_host (p : Nat) (f : Pier → Pier) : (s.modPier p f).host = s.host := rfl
@[simp] theorem State.modPier_acc (p : Nat) (f : Pier → Pier) : (s.modPier p f).acc = s.acc := rfl
@[simp] theorem State.modPier_badDram (p : Nat) (f : Pier → Pier) : (s.modPier p f).badDram = s.badDram := rfl
@[simp] theorem State.modPier_badSpad (p : Nat) (f : Pier → Pier) : (s.modPier p f).badSpad = s.badSpad := rfl
@[simp] theorem State.modPier_badAcc (p : Nat) (f : Pier → Pier) : (s.modPier p f).badAcc = s.badAcc := rfl
@[simp] theorem State.modPier_writes (p : Nat) (f : Pier → Pier) : (s.modPier p f).writes = s.writes := rfl
@[simp] theorem State.modPier_heads (p : Nat) (f : Pier → Pier) : (s.modPier p f).heads = s.heads := rfl
@[simp] theorem State.modPier_homeOps (p : Nat) (f : Pier → Pier) : (s.modPier p f).homeOps = s.homeOps := rfl
@[simp] theorem State.modPier_ctxs (p : Nat) (f : Pier → Pier) : (s.modPier p f).ctxs = s.ctxs := rfl
@[simp] theorem State.modPier_tasks (p : Nat) (f : Pier → Pier) : (s.modPier p f).tasks = s.tasks := rfl
@[simp] theorem State.modPier_cmds (p : Nat) (f : Pier → Pier) : (s.modPier p f).cmds = s.cmds := rfl
@[simp] theorem State.modPier_bricks (p : Nat) (f : Pier → Pier) : (s.modPier p f).bricks = s.bricks := rfl
@[simp] theorem State.modPier_courses (p : Nat) (f : Pier → Pier) : (s.modPier p f).courses = s.courses := rfl
@[simp] theorem State.modPier_dies (p : Nat) (f : Pier → Pier) : (s.modPier p f).dies = s.dies := rfl
@[simp] theorem State.modPier_parts (p : Nat) (f : Pier → Pier) : (s.modPier p f).parts = s.parts := rfl
@[simp] theorem State.modPier_bars (p : Nat) (f : Pier → Pier) : (s.modPier p f).bars = s.bars := rfl
@[simp] theorem State.modPier_places (p : Nat) (f : Pier → Pier) : (s.modPier p f).places = s.places := rfl
@[simp] theorem State.modPier_pkg (p : Nat) (f : Pier → Pier) : (s.modPier p f).pkg = s.pkg := rfl
@[simp] theorem State.modPier_outbox (p : Nat) (f : Pier → Pier) : (s.modPier p f).outbox = s.outbox := rfl

@[simp] theorem State.setPart_now (q : Nat) (x : Part) : (s.setPart q x).now = s.now := rfl
@[simp] theorem State.setPart_agenda (q : Nat) (x : Part) : (s.setPart q x).agenda = s.agenda := rfl
@[simp] theorem State.setPart_focus (q : Nat) (x : Part) : (s.setPart q x).focus = s.focus := rfl
@[simp] theorem State.setPart_free (q : Nat) (x : Part) : (s.setPart q x).free = s.free := rfl
@[simp] theorem State.setPart_nextUid (q : Nat) (x : Part) : (s.setPart q x).nextUid = s.nextUid := rfl
@[simp] theorem State.setPart_nextId (q : Nat) (x : Part) : (s.setPart q x).nextId = s.nextId := rfl
@[simp] theorem State.setPart_dram (q : Nat) (x : Part) : (s.setPart q x).dram = s.dram := rfl
@[simp] theorem State.setPart_spad (q : Nat) (x : Part) : (s.setPart q x).spad = s.spad := rfl
@[simp] theorem State.setPart_host (q : Nat) (x : Part) : (s.setPart q x).host = s.host := rfl
@[simp] theorem State.setPart_acc (q : Nat) (x : Part) : (s.setPart q x).acc = s.acc := rfl
@[simp] theorem State.setPart_badDram (q : Nat) (x : Part) : (s.setPart q x).badDram = s.badDram := rfl
@[simp] theorem State.setPart_badSpad (q : Nat) (x : Part) : (s.setPart q x).badSpad = s.badSpad := rfl
@[simp] theorem State.setPart_badAcc (q : Nat) (x : Part) : (s.setPart q x).badAcc = s.badAcc := rfl
@[simp] theorem State.setPart_writes (q : Nat) (x : Part) : (s.setPart q x).writes = s.writes := rfl
@[simp] theorem State.setPart_heads (q : Nat) (x : Part) : (s.setPart q x).heads = s.heads := rfl
@[simp] theorem State.setPart_homeOps (q : Nat) (x : Part) : (s.setPart q x).homeOps = s.homeOps := rfl
@[simp] theorem State.setPart_ctxs (q : Nat) (x : Part) : (s.setPart q x).ctxs = s.ctxs := rfl
@[simp] theorem State.setPart_tasks (q : Nat) (x : Part) : (s.setPart q x).tasks = s.tasks := rfl
@[simp] theorem State.setPart_cmds (q : Nat) (x : Part) : (s.setPart q x).cmds = s.cmds := rfl
@[simp] theorem State.setPart_bricks (q : Nat) (x : Part) : (s.setPart q x).bricks = s.bricks := rfl
@[simp] theorem State.setPart_courses (q : Nat) (x : Part) : (s.setPart q x).courses = s.courses := rfl
@[simp] theorem State.setPart_dies (q : Nat) (x : Part) : (s.setPart q x).dies = s.dies := rfl
@[simp] theorem State.setPart_piers (q : Nat) (x : Part) : (s.setPart q x).piers = s.piers := rfl
@[simp] theorem State.setPart_bars (q : Nat) (x : Part) : (s.setPart q x).bars = s.bars := rfl
@[simp] theorem State.setPart_places (q : Nat) (x : Part) : (s.setPart q x).places = s.places := rfl
@[simp] theorem State.setPart_pkg (q : Nat) (x : Part) : (s.setPart q x).pkg = s.pkg := rfl
@[simp] theorem State.setPart_outbox (q : Nat) (x : Part) : (s.setPart q x).outbox = s.outbox := rfl

@[simp] theorem State.modPart_now (q : Nat) (f : Part → Part) : (s.modPart q f).now = s.now := rfl
@[simp] theorem State.modPart_agenda (q : Nat) (f : Part → Part) : (s.modPart q f).agenda = s.agenda := rfl
@[simp] theorem State.modPart_focus (q : Nat) (f : Part → Part) : (s.modPart q f).focus = s.focus := rfl
@[simp] theorem State.modPart_free (q : Nat) (f : Part → Part) : (s.modPart q f).free = s.free := rfl
@[simp] theorem State.modPart_nextUid (q : Nat) (f : Part → Part) : (s.modPart q f).nextUid = s.nextUid := rfl
@[simp] theorem State.modPart_nextId (q : Nat) (f : Part → Part) : (s.modPart q f).nextId = s.nextId := rfl
@[simp] theorem State.modPart_dram (q : Nat) (f : Part → Part) : (s.modPart q f).dram = s.dram := rfl
@[simp] theorem State.modPart_spad (q : Nat) (f : Part → Part) : (s.modPart q f).spad = s.spad := rfl
@[simp] theorem State.modPart_host (q : Nat) (f : Part → Part) : (s.modPart q f).host = s.host := rfl
@[simp] theorem State.modPart_acc (q : Nat) (f : Part → Part) : (s.modPart q f).acc = s.acc := rfl
@[simp] theorem State.modPart_badDram (q : Nat) (f : Part → Part) : (s.modPart q f).badDram = s.badDram := rfl
@[simp] theorem State.modPart_badSpad (q : Nat) (f : Part → Part) : (s.modPart q f).badSpad = s.badSpad := rfl
@[simp] theorem State.modPart_badAcc (q : Nat) (f : Part → Part) : (s.modPart q f).badAcc = s.badAcc := rfl
@[simp] theorem State.modPart_writes (q : Nat) (f : Part → Part) : (s.modPart q f).writes = s.writes := rfl
@[simp] theorem State.modPart_heads (q : Nat) (f : Part → Part) : (s.modPart q f).heads = s.heads := rfl
@[simp] theorem State.modPart_homeOps (q : Nat) (f : Part → Part) : (s.modPart q f).homeOps = s.homeOps := rfl
@[simp] theorem State.modPart_ctxs (q : Nat) (f : Part → Part) : (s.modPart q f).ctxs = s.ctxs := rfl
@[simp] theorem State.modPart_tasks (q : Nat) (f : Part → Part) : (s.modPart q f).tasks = s.tasks := rfl
@[simp] theorem State.modPart_cmds (q : Nat) (f : Part → Part) : (s.modPart q f).cmds = s.cmds := rfl
@[simp] theorem State.modPart_bricks (q : Nat) (f : Part → Part) : (s.modPart q f).bricks = s.bricks := rfl
@[simp] theorem State.modPart_courses (q : Nat) (f : Part → Part) : (s.modPart q f).courses = s.courses := rfl
@[simp] theorem State.modPart_dies (q : Nat) (f : Part → Part) : (s.modPart q f).dies = s.dies := rfl
@[simp] theorem State.modPart_piers (q : Nat) (f : Part → Part) : (s.modPart q f).piers = s.piers := rfl
@[simp] theorem State.modPart_bars (q : Nat) (f : Part → Part) : (s.modPart q f).bars = s.bars := rfl
@[simp] theorem State.modPart_places (q : Nat) (f : Part → Part) : (s.modPart q f).places = s.places := rfl
@[simp] theorem State.modPart_pkg (q : Nat) (f : Part → Part) : (s.modPart q f).pkg = s.pkg := rfl
@[simp] theorem State.modPart_outbox (q : Nat) (f : Part → Part) : (s.modPart q f).outbox = s.outbox := rfl

@[simp] theorem State.out_now (o : Out) : (s.out o).now = s.now := rfl
@[simp] theorem State.out_agenda (o : Out) : (s.out o).agenda = s.agenda := rfl
@[simp] theorem State.out_focus (o : Out) : (s.out o).focus = s.focus := rfl
@[simp] theorem State.out_free (o : Out) : (s.out o).free = s.free := rfl
@[simp] theorem State.out_nextUid (o : Out) : (s.out o).nextUid = s.nextUid := rfl
@[simp] theorem State.out_nextId (o : Out) : (s.out o).nextId = s.nextId := rfl
@[simp] theorem State.out_dram (o : Out) : (s.out o).dram = s.dram := rfl
@[simp] theorem State.out_spad (o : Out) : (s.out o).spad = s.spad := rfl
@[simp] theorem State.out_host (o : Out) : (s.out o).host = s.host := rfl
@[simp] theorem State.out_acc (o : Out) : (s.out o).acc = s.acc := rfl
@[simp] theorem State.out_badDram (o : Out) : (s.out o).badDram = s.badDram := rfl
@[simp] theorem State.out_badSpad (o : Out) : (s.out o).badSpad = s.badSpad := rfl
@[simp] theorem State.out_badAcc (o : Out) : (s.out o).badAcc = s.badAcc := rfl
@[simp] theorem State.out_writes (o : Out) : (s.out o).writes = s.writes := rfl
@[simp] theorem State.out_heads (o : Out) : (s.out o).heads = s.heads := rfl
@[simp] theorem State.out_homeOps (o : Out) : (s.out o).homeOps = s.homeOps := rfl
@[simp] theorem State.out_ctxs (o : Out) : (s.out o).ctxs = s.ctxs := rfl
@[simp] theorem State.out_tasks (o : Out) : (s.out o).tasks = s.tasks := rfl
@[simp] theorem State.out_cmds (o : Out) : (s.out o).cmds = s.cmds := rfl
@[simp] theorem State.out_bricks (o : Out) : (s.out o).bricks = s.bricks := rfl
@[simp] theorem State.out_courses (o : Out) : (s.out o).courses = s.courses := rfl
@[simp] theorem State.out_dies (o : Out) : (s.out o).dies = s.dies := rfl
@[simp] theorem State.out_piers (o : Out) : (s.out o).piers = s.piers := rfl
@[simp] theorem State.out_parts (o : Out) : (s.out o).parts = s.parts := rfl
@[simp] theorem State.out_bars (o : Out) : (s.out o).bars = s.bars := rfl
@[simp] theorem State.out_places (o : Out) : (s.out o).places = s.places := rfl
@[simp] theorem State.out_pkg (o : Out) : (s.out o).pkg = s.pkg := rfl

@[simp] theorem State.addWrite_now (w : Write) : (s.addWrite w).now = s.now := rfl
@[simp] theorem State.addWrite_agenda (w : Write) : (s.addWrite w).agenda = s.agenda := rfl
@[simp] theorem State.addWrite_focus (w : Write) : (s.addWrite w).focus = s.focus := rfl
@[simp] theorem State.addWrite_free (w : Write) : (s.addWrite w).free = s.free := rfl
@[simp] theorem State.addWrite_nextUid (w : Write) : (s.addWrite w).nextUid = s.nextUid := rfl
@[simp] theorem State.addWrite_nextId (w : Write) : (s.addWrite w).nextId = s.nextId := rfl
@[simp] theorem State.addWrite_dram (w : Write) : (s.addWrite w).dram = s.dram := rfl
@[simp] theorem State.addWrite_spad (w : Write) : (s.addWrite w).spad = s.spad := rfl
@[simp] theorem State.addWrite_host (w : Write) : (s.addWrite w).host = s.host := rfl
@[simp] theorem State.addWrite_acc (w : Write) : (s.addWrite w).acc = s.acc := rfl
@[simp] theorem State.addWrite_badDram (w : Write) : (s.addWrite w).badDram = s.badDram := rfl
@[simp] theorem State.addWrite_badSpad (w : Write) : (s.addWrite w).badSpad = s.badSpad := rfl
@[simp] theorem State.addWrite_badAcc (w : Write) : (s.addWrite w).badAcc = s.badAcc := rfl
@[simp] theorem State.addWrite_heads (w : Write) : (s.addWrite w).heads = s.heads := rfl
@[simp] theorem State.addWrite_homeOps (w : Write) : (s.addWrite w).homeOps = s.homeOps := rfl
@[simp] theorem State.addWrite_ctxs (w : Write) : (s.addWrite w).ctxs = s.ctxs := rfl
@[simp] theorem State.addWrite_tasks (w : Write) : (s.addWrite w).tasks = s.tasks := rfl
@[simp] theorem State.addWrite_cmds (w : Write) : (s.addWrite w).cmds = s.cmds := rfl
@[simp] theorem State.addWrite_bricks (w : Write) : (s.addWrite w).bricks = s.bricks := rfl
@[simp] theorem State.addWrite_courses (w : Write) : (s.addWrite w).courses = s.courses := rfl
@[simp] theorem State.addWrite_dies (w : Write) : (s.addWrite w).dies = s.dies := rfl
@[simp] theorem State.addWrite_piers (w : Write) : (s.addWrite w).piers = s.piers := rfl
@[simp] theorem State.addWrite_parts (w : Write) : (s.addWrite w).parts = s.parts := rfl
@[simp] theorem State.addWrite_bars (w : Write) : (s.addWrite w).bars = s.bars := rfl
@[simp] theorem State.addWrite_places (w : Write) : (s.addWrite w).places = s.places := rfl
@[simp] theorem State.addWrite_pkg (w : Write) : (s.addWrite w).pkg = s.pkg := rfl
@[simp] theorem State.addWrite_outbox (w : Write) : (s.addWrite w).outbox = s.outbox := rfl

@[simp] theorem State.ctx_setCtx (c : Nat) (x : Ctx) : (s.setCtx c x).ctx c = x := by simp [State.ctx, State.setCtx]
theorem State.ctx_setCtx_ne (c d : Nat) (x : Ctx) (h : d ≠ c) : (s.setCtx c x).ctx d = s.ctx d := by
  simp [State.ctx, State.setCtx, kget_kset, h]
@[simp] theorem State.ctx_modCtx (c : Nat) (f : Ctx → Ctx) : (s.modCtx c f).ctx c = f (s.ctx c) := by simp [State.modCtx]
theorem State.ctx_modCtx_ne (c d : Nat) (f : Ctx → Ctx) (h : d ≠ c) : (s.modCtx c f).ctx d = s.ctx d :=
  s.ctx_setCtx_ne c d _ h
@[simp] theorem State.setTask_ctx (u : Nat) (x : Task) (j : Nat) : (s.setTask u x).ctx j = s.ctx j := rfl
@[simp] theorem State.delTask_ctx (u : Nat) (j : Nat) : (s.delTask u).ctx j = s.ctx j := rfl
@[simp] theorem State.setCmd_ctx (i : Nat) (x : Cmd) (j : Nat) : (s.setCmd i x).ctx j = s.ctx j := rfl
@[simp] theorem State.setBrick_ctx (b : Nat) (x : Brick) (j : Nat) : (s.setBrick b x).ctx j = s.ctx j := rfl
@[simp] theorem State.modBrick_ctx (b : Nat) (f : Brick → Brick) (j : Nat) : (s.modBrick b f).ctx j = s.ctx j := rfl
@[simp] theorem State.setCourse_ctx (c : Nat) (x : Course) (j : Nat) : (s.setCourse c x).ctx j = s.ctx j := rfl
@[simp] theorem State.modCourse_ctx (c : Nat) (f : Course → Course) (j : Nat) : (s.modCourse c f).ctx j = s.ctx j := rfl
@[simp] theorem State.setDie_ctx (d : Nat) (x : Die) (j : Nat) : (s.setDie d x).ctx j = s.ctx j := rfl
@[simp] theorem State.modDie_ctx (d : Nat) (f : Die → Die) (j : Nat) : (s.modDie d f).ctx j = s.ctx j := rfl
@[simp] theorem State.setPier_ctx (p : Nat) (x : Pier) (j : Nat) : (s.setPier p x).ctx j = s.ctx j := rfl
@[simp] theorem State.modPier_ctx (p : Nat) (f : Pier → Pier) (j : Nat) : (s.modPier p f).ctx j = s.ctx j := rfl
@[simp] theorem State.setPart_ctx (q : Nat) (x : Part) (j : Nat) : (s.setPart q x).ctx j = s.ctx j := rfl
@[simp] theorem State.modPart_ctx (q : Nat) (f : Part → Part) (j : Nat) : (s.modPart q f).ctx j = s.ctx j := rfl
@[simp] theorem State.out_ctx (o : Out) (j : Nat) : (s.out o).ctx j = s.ctx j := rfl
@[simp] theorem State.addWrite_ctx (w : Write) (j : Nat) : (s.addWrite w).ctx j = s.ctx j := rfl

@[simp] theorem State.brick_setBrick (c : Nat) (x : Brick) : (s.setBrick c x).brick c = x := by simp [State.brick, State.setBrick]
theorem State.brick_setBrick_ne (c d : Nat) (x : Brick) (h : d ≠ c) : (s.setBrick c x).brick d = s.brick d := by
  simp [State.brick, State.setBrick, kget_kset, h]
@[simp] theorem State.brick_modBrick (c : Nat) (f : Brick → Brick) : (s.modBrick c f).brick c = f (s.brick c) := by simp [State.modBrick]
theorem State.brick_modBrick_ne (c d : Nat) (f : Brick → Brick) (h : d ≠ c) : (s.modBrick c f).brick d = s.brick d :=
  s.brick_setBrick_ne c d _ h
@[simp] theorem State.setCtx_brick (c : Nat) (x : Ctx) (j : Nat) : (s.setCtx c x).brick j = s.brick j := rfl
@[simp] theorem State.modCtx_brick (c : Nat) (f : Ctx → Ctx) (j : Nat) : (s.modCtx c f).brick j = s.brick j := rfl
@[simp] theorem State.modBlk_brick (c k : Nat) (f : Blk → Blk) (j : Nat) : (s.modBlk c k f).brick j = s.brick j := rfl
@[simp] theorem State.setTask_brick (u : Nat) (x : Task) (j : Nat) : (s.setTask u x).brick j = s.brick j := rfl
@[simp] theorem State.delTask_brick (u : Nat) (j : Nat) : (s.delTask u).brick j = s.brick j := rfl
@[simp] theorem State.setCmd_brick (i : Nat) (x : Cmd) (j : Nat) : (s.setCmd i x).brick j = s.brick j := rfl
@[simp] theorem State.setCourse_brick (c : Nat) (x : Course) (j : Nat) : (s.setCourse c x).brick j = s.brick j := rfl
@[simp] theorem State.modCourse_brick (c : Nat) (f : Course → Course) (j : Nat) : (s.modCourse c f).brick j = s.brick j := rfl
@[simp] theorem State.setDie_brick (d : Nat) (x : Die) (j : Nat) : (s.setDie d x).brick j = s.brick j := rfl
@[simp] theorem State.modDie_brick (d : Nat) (f : Die → Die) (j : Nat) : (s.modDie d f).brick j = s.brick j := rfl
@[simp] theorem State.setPier_brick (p : Nat) (x : Pier) (j : Nat) : (s.setPier p x).brick j = s.brick j := rfl
@[simp] theorem State.modPier_brick (p : Nat) (f : Pier → Pier) (j : Nat) : (s.modPier p f).brick j = s.brick j := rfl
@[simp] theorem State.setPart_brick (q : Nat) (x : Part) (j : Nat) : (s.setPart q x).brick j = s.brick j := rfl
@[simp] theorem State.modPart_brick (q : Nat) (f : Part → Part) (j : Nat) : (s.modPart q f).brick j = s.brick j := rfl
@[simp] theorem State.out_brick (o : Out) (j : Nat) : (s.out o).brick j = s.brick j := rfl
@[simp] theorem State.addWrite_brick (w : Write) (j : Nat) : (s.addWrite w).brick j = s.brick j := rfl

@[simp] theorem State.course_setCourse (c : Nat) (x : Course) : (s.setCourse c x).course c = x := by simp [State.course, State.setCourse]
theorem State.course_setCourse_ne (c d : Nat) (x : Course) (h : d ≠ c) : (s.setCourse c x).course d = s.course d := by
  simp [State.course, State.setCourse, kget_kset, h]
@[simp] theorem State.course_modCourse (c : Nat) (f : Course → Course) : (s.modCourse c f).course c = f (s.course c) := by simp [State.modCourse]
theorem State.course_modCourse_ne (c d : Nat) (f : Course → Course) (h : d ≠ c) : (s.modCourse c f).course d = s.course d :=
  s.course_setCourse_ne c d _ h
@[simp] theorem State.setCtx_course (c : Nat) (x : Ctx) (j : Nat) : (s.setCtx c x).course j = s.course j := rfl
@[simp] theorem State.modCtx_course (c : Nat) (f : Ctx → Ctx) (j : Nat) : (s.modCtx c f).course j = s.course j := rfl
@[simp] theorem State.modBlk_course (c k : Nat) (f : Blk → Blk) (j : Nat) : (s.modBlk c k f).course j = s.course j := rfl
@[simp] theorem State.setTask_course (u : Nat) (x : Task) (j : Nat) : (s.setTask u x).course j = s.course j := rfl
@[simp] theorem State.delTask_course (u : Nat) (j : Nat) : (s.delTask u).course j = s.course j := rfl
@[simp] theorem State.setCmd_course (i : Nat) (x : Cmd) (j : Nat) : (s.setCmd i x).course j = s.course j := rfl
@[simp] theorem State.setBrick_course (b : Nat) (x : Brick) (j : Nat) : (s.setBrick b x).course j = s.course j := rfl
@[simp] theorem State.modBrick_course (b : Nat) (f : Brick → Brick) (j : Nat) : (s.modBrick b f).course j = s.course j := rfl
@[simp] theorem State.setDie_course (d : Nat) (x : Die) (j : Nat) : (s.setDie d x).course j = s.course j := rfl
@[simp] theorem State.modDie_course (d : Nat) (f : Die → Die) (j : Nat) : (s.modDie d f).course j = s.course j := rfl
@[simp] theorem State.setPier_course (p : Nat) (x : Pier) (j : Nat) : (s.setPier p x).course j = s.course j := rfl
@[simp] theorem State.modPier_course (p : Nat) (f : Pier → Pier) (j : Nat) : (s.modPier p f).course j = s.course j := rfl
@[simp] theorem State.setPart_course (q : Nat) (x : Part) (j : Nat) : (s.setPart q x).course j = s.course j := rfl
@[simp] theorem State.modPart_course (q : Nat) (f : Part → Part) (j : Nat) : (s.modPart q f).course j = s.course j := rfl
@[simp] theorem State.out_course (o : Out) (j : Nat) : (s.out o).course j = s.course j := rfl
@[simp] theorem State.addWrite_course (w : Write) (j : Nat) : (s.addWrite w).course j = s.course j := rfl

@[simp] theorem State.die_setDie (c : Nat) (x : Die) : (s.setDie c x).die c = x := by simp [State.die, State.setDie]
theorem State.die_setDie_ne (c d : Nat) (x : Die) (h : d ≠ c) : (s.setDie c x).die d = s.die d := by
  simp [State.die, State.setDie, kget_kset, h]
@[simp] theorem State.die_modDie (c : Nat) (f : Die → Die) : (s.modDie c f).die c = f (s.die c) := by simp [State.modDie]
theorem State.die_modDie_ne (c d : Nat) (f : Die → Die) (h : d ≠ c) : (s.modDie c f).die d = s.die d :=
  s.die_setDie_ne c d _ h
@[simp] theorem State.setCtx_die (c : Nat) (x : Ctx) (j : Nat) : (s.setCtx c x).die j = s.die j := rfl
@[simp] theorem State.modCtx_die (c : Nat) (f : Ctx → Ctx) (j : Nat) : (s.modCtx c f).die j = s.die j := rfl
@[simp] theorem State.modBlk_die (c k : Nat) (f : Blk → Blk) (j : Nat) : (s.modBlk c k f).die j = s.die j := rfl
@[simp] theorem State.setTask_die (u : Nat) (x : Task) (j : Nat) : (s.setTask u x).die j = s.die j := rfl
@[simp] theorem State.delTask_die (u : Nat) (j : Nat) : (s.delTask u).die j = s.die j := rfl
@[simp] theorem State.setCmd_die (i : Nat) (x : Cmd) (j : Nat) : (s.setCmd i x).die j = s.die j := rfl
@[simp] theorem State.setBrick_die (b : Nat) (x : Brick) (j : Nat) : (s.setBrick b x).die j = s.die j := rfl
@[simp] theorem State.modBrick_die (b : Nat) (f : Brick → Brick) (j : Nat) : (s.modBrick b f).die j = s.die j := rfl
@[simp] theorem State.setCourse_die (c : Nat) (x : Course) (j : Nat) : (s.setCourse c x).die j = s.die j := rfl
@[simp] theorem State.modCourse_die (c : Nat) (f : Course → Course) (j : Nat) : (s.modCourse c f).die j = s.die j := rfl
@[simp] theorem State.setPier_die (p : Nat) (x : Pier) (j : Nat) : (s.setPier p x).die j = s.die j := rfl
@[simp] theorem State.modPier_die (p : Nat) (f : Pier → Pier) (j : Nat) : (s.modPier p f).die j = s.die j := rfl
@[simp] theorem State.setPart_die (q : Nat) (x : Part) (j : Nat) : (s.setPart q x).die j = s.die j := rfl
@[simp] theorem State.modPart_die (q : Nat) (f : Part → Part) (j : Nat) : (s.modPart q f).die j = s.die j := rfl
@[simp] theorem State.out_die (o : Out) (j : Nat) : (s.out o).die j = s.die j := rfl
@[simp] theorem State.addWrite_die (w : Write) (j : Nat) : (s.addWrite w).die j = s.die j := rfl

@[simp] theorem State.pier_setPier (c : Nat) (x : Pier) : (s.setPier c x).pier c = x := by simp [State.pier, State.setPier]
theorem State.pier_setPier_ne (c d : Nat) (x : Pier) (h : d ≠ c) : (s.setPier c x).pier d = s.pier d := by
  simp [State.pier, State.setPier, kget_kset, h]
@[simp] theorem State.pier_modPier (c : Nat) (f : Pier → Pier) : (s.modPier c f).pier c = f (s.pier c) := by simp [State.modPier]
theorem State.pier_modPier_ne (c d : Nat) (f : Pier → Pier) (h : d ≠ c) : (s.modPier c f).pier d = s.pier d :=
  s.pier_setPier_ne c d _ h
@[simp] theorem State.setCtx_pier (c : Nat) (x : Ctx) (j : Nat) : (s.setCtx c x).pier j = s.pier j := rfl
@[simp] theorem State.modCtx_pier (c : Nat) (f : Ctx → Ctx) (j : Nat) : (s.modCtx c f).pier j = s.pier j := rfl
@[simp] theorem State.modBlk_pier (c k : Nat) (f : Blk → Blk) (j : Nat) : (s.modBlk c k f).pier j = s.pier j := rfl
@[simp] theorem State.setTask_pier (u : Nat) (x : Task) (j : Nat) : (s.setTask u x).pier j = s.pier j := rfl
@[simp] theorem State.delTask_pier (u : Nat) (j : Nat) : (s.delTask u).pier j = s.pier j := rfl
@[simp] theorem State.setCmd_pier (i : Nat) (x : Cmd) (j : Nat) : (s.setCmd i x).pier j = s.pier j := rfl
@[simp] theorem State.setBrick_pier (b : Nat) (x : Brick) (j : Nat) : (s.setBrick b x).pier j = s.pier j := rfl
@[simp] theorem State.modBrick_pier (b : Nat) (f : Brick → Brick) (j : Nat) : (s.modBrick b f).pier j = s.pier j := rfl
@[simp] theorem State.setCourse_pier (c : Nat) (x : Course) (j : Nat) : (s.setCourse c x).pier j = s.pier j := rfl
@[simp] theorem State.modCourse_pier (c : Nat) (f : Course → Course) (j : Nat) : (s.modCourse c f).pier j = s.pier j := rfl
@[simp] theorem State.setDie_pier (d : Nat) (x : Die) (j : Nat) : (s.setDie d x).pier j = s.pier j := rfl
@[simp] theorem State.modDie_pier (d : Nat) (f : Die → Die) (j : Nat) : (s.modDie d f).pier j = s.pier j := rfl
@[simp] theorem State.setPart_pier (q : Nat) (x : Part) (j : Nat) : (s.setPart q x).pier j = s.pier j := rfl
@[simp] theorem State.modPart_pier (q : Nat) (f : Part → Part) (j : Nat) : (s.modPart q f).pier j = s.pier j := rfl
@[simp] theorem State.out_pier (o : Out) (j : Nat) : (s.out o).pier j = s.pier j := rfl
@[simp] theorem State.addWrite_pier (w : Write) (j : Nat) : (s.addWrite w).pier j = s.pier j := rfl

@[simp] theorem State.part_setPart (c : Nat) (x : Part) : (s.setPart c x).part c = x := by simp [State.part, State.setPart]
theorem State.part_setPart_ne (c d : Nat) (x : Part) (h : d ≠ c) : (s.setPart c x).part d = s.part d := by
  simp [State.part, State.setPart, kget_kset, h]
@[simp] theorem State.part_modPart (c : Nat) (f : Part → Part) : (s.modPart c f).part c = f (s.part c) := by simp [State.modPart]
theorem State.part_modPart_ne (c d : Nat) (f : Part → Part) (h : d ≠ c) : (s.modPart c f).part d = s.part d :=
  s.part_setPart_ne c d _ h
@[simp] theorem State.setCtx_part (c : Nat) (x : Ctx) (j : Nat) : (s.setCtx c x).part j = s.part j := rfl
@[simp] theorem State.modCtx_part (c : Nat) (f : Ctx → Ctx) (j : Nat) : (s.modCtx c f).part j = s.part j := rfl
@[simp] theorem State.modBlk_part (c k : Nat) (f : Blk → Blk) (j : Nat) : (s.modBlk c k f).part j = s.part j := rfl
@[simp] theorem State.setTask_part (u : Nat) (x : Task) (j : Nat) : (s.setTask u x).part j = s.part j := rfl
@[simp] theorem State.delTask_part (u : Nat) (j : Nat) : (s.delTask u).part j = s.part j := rfl
@[simp] theorem State.setCmd_part (i : Nat) (x : Cmd) (j : Nat) : (s.setCmd i x).part j = s.part j := rfl
@[simp] theorem State.setBrick_part (b : Nat) (x : Brick) (j : Nat) : (s.setBrick b x).part j = s.part j := rfl
@[simp] theorem State.modBrick_part (b : Nat) (f : Brick → Brick) (j : Nat) : (s.modBrick b f).part j = s.part j := rfl
@[simp] theorem State.setCourse_part (c : Nat) (x : Course) (j : Nat) : (s.setCourse c x).part j = s.part j := rfl
@[simp] theorem State.modCourse_part (c : Nat) (f : Course → Course) (j : Nat) : (s.modCourse c f).part j = s.part j := rfl
@[simp] theorem State.setDie_part (d : Nat) (x : Die) (j : Nat) : (s.setDie d x).part j = s.part j := rfl
@[simp] theorem State.modDie_part (d : Nat) (f : Die → Die) (j : Nat) : (s.modDie d f).part j = s.part j := rfl
@[simp] theorem State.setPier_part (p : Nat) (x : Pier) (j : Nat) : (s.setPier p x).part j = s.part j := rfl
@[simp] theorem State.modPier_part (p : Nat) (f : Pier → Pier) (j : Nat) : (s.modPier p f).part j = s.part j := rfl
@[simp] theorem State.out_part (o : Out) (j : Nat) : (s.out o).part j = s.part j := rfl
@[simp] theorem State.addWrite_part (w : Write) (j : Nat) : (s.addWrite w).part j = s.part j := rfl

@[simp] theorem State.task?_setTask (u : Nat) (t : Task) : (s.setTask u t).task? u = some t := by
  simp [State.task?, State.setTask]
theorem State.task?_setTask_ne (u v : Nat) (t : Task) (h : v ≠ u) : (s.setTask u t).task? v = s.task? v := by
  simp [State.task?, State.setTask, kget?_kset, h]
@[simp] theorem State.task?_delTask (u : Nat) : (s.delTask u).task? u = none := by simp [State.task?, State.delTask]
theorem State.modTask_of {u : Nat} {t : Task} (f : Task → Task) (h : s.task? u = some t) :
    s.modTask u f = s.setTask u (f t) := by
  unfold State.modTask; rw [h]
@[simp] theorem State.cmd?_setCmd (i : Nat) (c : Cmd) : (s.setCmd i c).cmd? i = some c := by simp [State.cmd?, State.setCmd]
theorem State.modCmd_of {i : Nat} {c : Cmd} (f : Cmd → Cmd) (h : s.cmd? i = some c) : s.modCmd i f = s.setCmd i (f c) := by
  unfold State.modCmd; rw [h]

/-- Two changes of a block that agree on it are one change. -/
theorem modBlk_congr {s : State} {c k : Nat} {b : Blk} {f g : Blk → Blk} (h : s.blk? c k = some b) (e : f b = g b) :
    s.modBlk c k f = s.modBlk c k g := by
  have : (s.ctx c).blks.modify k f = (s.ctx c).blks.modify k g := by
    apply List.ext_getElem?
    intro n
    simp only [List.getElem?_modify]
    by_cases hn : k = n
    · subst hn; unfold State.blk? at h; simp [h, e]
    · simp [hn]
  unfold State.modBlk State.modCtx
  dsimp only
  rw [this]

theorem Blk.slot_setSlot (b : Blk) (n : Nat) (x : Slot) (h : n < b.slots.length) : (b.setSlot n x).slot n = x := by
  simp [Blk.setSlot, Blk.slot, lget, h]
theorem Blk.slot_setSlot_ne (b : Blk) (n m : Nat) (x : Slot) (h : m ≠ n) : (b.setSlot n x).slot m = b.slot m := by
  simp [Blk.setSlot, Blk.slot, lget, h.symm]

end Sys2Proof.Machine
end

