-- ==== Sys2Proof/Laws/Memory.lean ====
section
/-!
SUPPORT. The memories: every operation on them keeps the canonical form, a read after a write gives the byte written, and a
write leaves every other byte alone.
-/

namespace Sys2Proof.Laws

open Sys2Proof.Machine

@[simp] theorem mread_mwrite_same (a : Nat) (b : Byte) (m : List Host.Cell) : mread a (mwrite a b m) = b := by
  unfold mwrite mread
  split
  · rename_i h; simp [kget, h]
  · simp

theorem mread_mwrite_ne {a c : Nat} (b : Byte) (m : List Host.Cell) (h : c ≠ a) : mread c (mwrite a b m) = mread c m := by
  unfold mwrite mread
  split
  · simp [kget, kget?_kdel_ne m h]
  · simp [kget_kset, h]

theorem mread_mwriteN_out {a c : Nat} (bs : List Byte) (m : List Host.Cell) (h : c < a ∨ a + bs.length ≤ c) :
    mread c (mwriteN a bs m) = mread c m := by
  induction bs generalizing a m with
  | nil => rfl
  | cons b r ih =>
    simp only [List.length_cons] at h
    rw [mwriteN, ih _ (by omega), mread_mwrite_ne _ _ (by omega)]

theorem mread_mwriteN_in {a : Nat} (bs : List Byte) (m : List Host.Cell) (i : Nat) (h : i < bs.length) :
    mread (a + i) (mwriteN a bs m) = bs[i] := by
  induction bs generalizing a m i with
  | nil => simp at h
  | cons b r ih =>
    cases i with
    | zero => rw [mwriteN, mread_mwriteN_out _ _ (by omega)]; simp
    | succ j =>
      rw [mwriteN, show a + (j + 1) = (a + 1) + j by omega, ih _ _ (by simpa using h)]
      simp

@[simp] theorem length_mreadN (a n : Nat) (m : List Host.Cell) : (mreadN a n m).length = n := by
  induction n generalizing a with
  | zero => rfl
  | succ k ih => simp [mreadN, ih]

theorem getElem_mreadN (a n : Nat) (m : List Host.Cell) (i : Nat) (h : i < (mreadN a n m).length) :
    (mreadN a n m)[i] = mread (a + i) m := by
  induction n generalizing a i with
  | zero => simp [mreadN] at h
  | succ k ih =>
    cases i with
    | zero => simp [mreadN]
    | succ j => simp only [mreadN, List.getElem_cons_succ]; rw [ih]; congr 1; omega

/-- A read of the bytes just written gives them. -/
theorem mreadN_mwriteN (a : Nat) (bs : List Byte) (m : List Host.Cell) : mreadN a bs.length (mwriteN a bs m) = bs := by
  apply List.ext_getElem
  · simp
  · intro i h1 h2
    rw [getElem_mreadN, mread_mwriteN_in bs m i h2]

/-! The canonical form. -/

theorem Memory.wfFrom_mono {lo lo' : Nat} {m : List Host.Cell} (h : Memory.wfFrom lo m = true) (hl : lo' ≤ lo) :
    Memory.wfFrom lo' m = true := by
  cases m with
  | nil => rfl
  | cons e r =>
    obtain ⟨a, b⟩ := e
    simp only [Memory.wfFrom, Bool.and_eq_true, decide_eq_true_eq] at h ⊢
    exact ⟨⟨le_trans hl h.1.1, h.1.2⟩, h.2⟩

theorem Memory.wfFrom_kset {lo a : Nat} {b : Byte} {m : List Host.Cell} (h : Memory.wfFrom lo m = true) (ha : lo ≤ a)
    (hb : b ≠ 0) : Memory.wfFrom lo (kset a b m) = true := by
  have hb' : ¬ b = 0#8 := hb
  induction m generalizing lo with
  | nil => simp [kset, Memory.wfFrom, ha, hb']
  | cons e r ih =>
    obtain ⟨j, c⟩ := e
    simp only [Memory.wfFrom, Bool.and_eq_true, decide_eq_true_eq, bne_iff_ne, ne_eq] at h
    unfold kset
    split
    · rename_i hj
      simp only [Memory.wfFrom, Bool.and_eq_true, decide_eq_true_eq, bne_iff_ne, ne_eq]
      exact ⟨h.1, ih h.2 hj⟩
    · split
      · rename_i h1 h2; subst h2
        simp [Memory.wfFrom, ha, hb', h.2]
      · rename_i h1 h2
        have : a + 1 ≤ j := by omega
        have hc : ¬ c = 0#8 := h.1.2
        simp [Memory.wfFrom, ha, hb', this, hc, h.2]

theorem Memory.wfFrom_kdel {lo a : Nat} {m : List Host.Cell} (h : Memory.wfFrom lo m = true) :
    Memory.wfFrom lo (kdel a m) = true := by
  induction m generalizing lo with
  | nil => rfl
  | cons e r ih =>
    obtain ⟨j, c⟩ := e
    simp only [Memory.wfFrom, Bool.and_eq_true, decide_eq_true_eq, bne_iff_ne, ne_eq] at h
    unfold kdel
    split
    · exact ih (Memory.wfFrom_mono h.2 (by omega))
    · simp only [Memory.wfFrom, Bool.and_eq_true, decide_eq_true_eq, bne_iff_ne, ne_eq]
      exact ⟨h.1, ih h.2⟩

theorem Memory.wfFrom_filter {lo : Nat} {m : List Host.Cell} (p : Host.Cell → Bool) (h : Memory.wfFrom lo m = true) :
    Memory.wfFrom lo (m.filter p) = true := by
  induction m generalizing lo with
  | nil => rfl
  | cons e r ih =>
    obtain ⟨j, c⟩ := e
    simp only [Memory.wfFrom, Bool.and_eq_true, decide_eq_true_eq, bne_iff_ne, ne_eq] at h
    by_cases hp : p (j, c)
    · rw [List.filter_cons_of_pos hp]
      simp only [Memory.wfFrom, Bool.and_eq_true, decide_eq_true_eq, bne_iff_ne, ne_eq]
      exact ⟨h.1, ih h.2⟩
    · rw [List.filter_cons_of_neg hp]
      exact ih (Memory.wfFrom_mono h.2 (by omega))

/-- A write keeps the canonical form. -/
theorem Memory.wf_mwrite {a : Nat} {b : Byte} {m : List Host.Cell} (h : Memory.wf m = true) :
    Memory.wf (mwrite a b m) = true := by
  unfold mwrite Memory.wf at *
  split
  · exact Memory.wfFrom_kdel h
  · rename_i hb; exact Memory.wfFrom_kset h (Nat.zero_le _) hb

/-- A write of bytes keeps the canonical form. -/
theorem Memory.wf_mwriteN {a : Nat} {bs : List Byte} {m : List Host.Cell} (h : Memory.wf m = true) :
    Memory.wf (mwriteN a bs m) = true := by
  induction bs generalizing a m with
  | nil => exact h
  | cons b r ih => exact ih (Memory.wf_mwrite h)

/-- Dropping bytes keeps the canonical form. -/
theorem Memory.wf_filter {m : List Host.Cell} (p : Host.Cell → Bool) (h : Memory.wf m = true) :
    Memory.wf (m.filter p) = true := Memory.wfFrom_filter p h

/-! The spaces of a state. -/

@[simp] theorem cells_setCells_same (s : State) (sp : Space) (m : List Host.Cell) : (s.setCells sp m).cells sp = m := by
  cases sp <;> rfl
theorem cells_setCells_ne (s : State) {sp sq : Space} (m : List Host.Cell) (h : sq ≠ sp) :
    (s.setCells sp m).cells sq = s.cells sq := by cases sp <;> cases sq <;> first | rfl | exact absurd rfl h
@[simp] theorem cells_setBad (s : State) (sp sq : Space) (l : List Nat) : (s.setBad sp l).cells sq = s.cells sq := by
  cases sp <;> cases sq <;> rfl

@[simp] theorem cells_endHeads (s : State) (l : PLoc) (n : Nat) (sp : Space) : (s.endHeads l n).cells sp = s.cells sp := by
  unfold State.endHeads
  split <;> cases sp <;> rfl
@[simp] theorem cells_setHeads (s : State) (l : PLoc) (n : Nat) (rels : List (Nat × Scope)) (sp : Space) :
    (s.setHeads l n rels).cells sp = s.cells sp := by cases sp <;> rfl
@[simp] theorem cells_writeHeads (s : State) (w : Write) (sp : Space) : (s.writeHeads w).cells sp = s.cells sp := by
  unfold State.writeHeads
  split
  · split
    · rfl
    · exact cells_setHeads _ _ _ _ _
  · rfl
@[simp] theorem cells_wakeMem (s : State) (l : PLoc) (n : Nat) (sp : Space) : (s.wakeMem l n).cells sp = s.cells sp := by
  unfold State.wakeMem
  dsimp only
  split <;> cases sp <;> rfl

/-- What a home write leaves in each space. -/
theorem cells_homeWrite (s : State) (l : PLoc) (bs : List Byte) (sp : Space) :
    (s.homeWrite l bs).cells sp = if sp = l.sp then mwriteN l.a bs (s.cells sp) else s.cells sp := by
  have e : (s.homeWrite l bs).cells sp = (s.setCells l.sp (mwriteN l.a bs (s.cells l.sp))).cells sp := by
    unfold State.homeWrite
    dsimp only
    split
    · rw [cells_wakeMem, cells_endHeads]
    · rw [cells_setBad, cells_wakeMem, cells_endHeads]
  rw [e]
  by_cases h : sp = l.sp
  · subst h; simp
  · rw [if_neg h, cells_setCells_ne _ _ h]

/-- Reading at the home what was just written there. -/
@[simp] theorem homeRead_homeWrite (s : State) (l : PLoc) (bs : List Byte) : (s.homeWrite l bs).homeRead l bs.length = bs := by
  unfold State.homeRead; rw [cells_homeWrite, if_pos rfl, mreadN_mwriteN]

/-- A home write changes no byte outside those written. -/
theorem mread_homeWrite (s : State) (l : PLoc) (bs : List Byte) (sp : Space) (a : Nat)
    (h : sp = l.sp → a < l.a ∨ l.a + bs.length ≤ a) :
    mread a ((s.homeWrite l bs).cells sp) = mread a (s.cells sp) := by
  rw [cells_homeWrite]
  split_ifs with e
  · exact mread_mwriteN_out _ _ (h e)
  · rfl

/-- A home write keeps the canonical form of every space. -/
theorem wf_homeWrite (s : State) (l : PLoc) (bs : List Byte) (sp : Space) (h : Memory.wf (s.cells sp) = true) :
    Memory.wf ((s.homeWrite l bs).cells sp) = true := by
  rw [cells_homeWrite]
  split_ifs
  · exact Memory.wf_mwriteN h
  · exact h

@[simp] theorem cells_dropTransOf (s : State) (pte : Nat) (sp : Space) : (s.dropTransOf pte).cells sp = s.cells sp := by
  cases sp <;> rfl

/-- Zeroing a range keeps the canonical form of every space. -/
theorem wf_zeroRange (s : State) (q : Space) (a n : Nat) (h : ∀ sp, Memory.wf (s.cells sp) = true) (sp : Space) :
    Memory.wf ((s.zeroRange q a n).cells sp) = true := by
  unfold State.zeroRange
  dsimp only
  rw [cells_setBad, cells_endHeads]
  by_cases e : sp = q
  · subst e; rw [cells_setCells_same]; exact Memory.wf_filter _ (h sp)
  · rw [cells_setCells_ne _ _ e]; exact h sp

/-- A write that reaches its home keeps the canonical form of every space (R384). -/
theorem wf_homeApply (s : State) (l : PLoc) (bs : List Byte) (pte : Nat) (h : ∀ sp, Memory.wf (s.cells sp) = true)
    (sp : Space) : Memory.wf ((s.homeApply l bs pte).cells sp) = true := by
  unfold State.homeApply
  split
  · exact h sp
  · refine wf_homeWrite _ _ _ _ (wf_zeroRange _ _ _ _ (fun sq => ?_) _)
    rw [cells_dropTransOf]
    exact wf_homeWrite _ _ _ _ (h sq)
  · exact wf_homeWrite _ _ _ _ (h sp)

/-- A pending write that reaches its home keeps the canonical form of every space. -/
theorem wf_performOne (s : State) (w : Write) (h : ∀ sp, Memory.wf (s.cells sp) = true) (sp : Space) :
    Memory.wf ((s.performOne w).cells sp) = true := by
  have e : (s.performOne w).cells sp = (s.homeApply w.loc w.bytes w.pte).cells sp := by
    rw [← cells_writeHeads (s.homeApply w.loc w.bytes w.pte) w sp]; cases sp <;> rfl
  rw [e]; exact wf_homeApply _ _ _ _ h sp

/-- Performing pending writes keeps the canonical form of every space. -/
theorem wf_performAll (ws : List Write) (s : State) (h : ∀ sp, Memory.wf (s.cells sp) = true) (sp : Space) :
    Memory.wf ((s.performAll ws).cells sp) = true := by
  induction ws generalizing s with
  | nil => exact h sp
  | cons w r ih => exact ih _ fun sq => wf_performOne s w h sq

/-- So does sending home the die caches' writes of some bytes. -/
theorem wf_drainLines (s : State) (l : PLoc) (n : Nat) (skip : Nat → Bool) (h : ∀ sp, Memory.wf (s.cells sp) = true)
    (sp : Space) : Memory.wf ((s.drainLines l n skip).cells sp) = true := by
  unfold State.drainLines
  split
  · exact h sp
  · exact wf_performAll _ _ h sp

/-- So does a write made at a home at once. -/
theorem wf_writeNow (s : State) (l : PLoc) (bs : List Byte) (pte : Nat) (h : ∀ sp, Memory.wf (s.cells sp) = true)
    (sp : Space) : Memory.wf ((s.writeNow l bs pte).cells sp) = true := wf_homeApply _ _ _ _ (wf_drainLines _ _ _ _ h) sp

/-- So does sending home a die cache's oldest writes. -/
theorem wf_evictLines (d n k : Nat) (s : State) (h : ∀ sp, Memory.wf (s.cells sp) = true) (sp : Space) :
    Memory.wf ((State.evictLines d n k s).cells sp) = true := by
  induction k generalizing s with
  | zero => exact h sp
  | succ k ih =>
    unfold State.evictLines
    split
    · exact h sp
    · split
      · exact ih _ fun sq => wf_performOne _ _ h sq
      · exact h sp

/-- So does making room in a die's cache. -/
theorem wf_makeRoom (s : State) (d n : Nat) (h : ∀ sp, Memory.wf (s.cells sp) = true) (sp : Space) :
    Memory.wf ((s.makeRoom d n).cells sp) = true := wf_evictLines _ _ _ _ h sp

/-- So does a write that enters a die's cache. -/
theorem wf_enterCache (s : State) (w : Write) (h : ∀ sp, Memory.wf (s.cells sp) = true) (sp : Space) :
    Memory.wf ((s.enterCache w).cells sp) = true := by
  have h' := wf_makeRoom _ w.die w.lines (wf_drainLines s w.loc w.bytes.length (fun d => d == w.die) h) sp
  rw [← cells_wakeMem _ w.loc w.bytes.length] at h'
  unfold State.enterCache
  cases sp <;> exact h'

end Sys2Proof.Laws
end

