-- ==== Sys2Proof/Laws/Ops.lean ====
section
/-!
SUPPORT. What the shared operations can do, said once: a translation changes only cached translations, the address check
answers in one of its ways and changes no more than that, a firing's end changes only its context, and a report touches
only its partition, its queue's bytes and what they poison.
-/

namespace Sys2Proof.Laws

open Sys2Proof Sys2Proof.Machine Sys2Proof.Safety

/-- A translation changes nothing but the cached translations (R377). -/
theorem xlate_frame (s : State) (u q a : Nat) (acc : Acc) : ∃ ps, (s.xlate u q a acc).2 = { s with parts := ps } := by
  unfold State.xlate State.keepTrans
  dsimp only
  split <;> exact ⟨_, rfl⟩

/-- The address check changes no more than a translation does (R189). -/
theorem check_frame (s : State) (t : Task) (b : Nat) (a : Word) (n : Nat) (acc : Acc) :
    ∃ ps, (s.check t b a n acc).2 = { s with parts := ps } := by
  unfold State.check
  dsimp only
  split
  · exact ⟨s.parts, rfl⟩
  · split
    · exact ⟨s.parts, rfl⟩
    · split <;> exact ⟨s.parts, rfl⟩
    · split
      · exact ⟨s.parts, rfl⟩
      · split
        · exact ⟨s.parts, rfl⟩
        · obtain ⟨ps, h⟩ := xlate_frame s (unitOf b) t.part a.toNat acc
          split
          · rename_i e; rw [e] at h; exact ⟨ps, h⟩
          · rename_i e; rw [e] at h; exact ⟨ps, h⟩

/-- The address check traps with TRANSLATION, MISALIGNED or LEASE_VIOLATION and the address, and with nothing else (R189). -/
theorem check_bad {s s' : State} {t : Task} {b : Nat} {a x : Word} {n : Nat} {acc : Acc} {c : Nat}
    (h : s.check t b a n acc = (.bad c x, s')) : x = a ∧ (c = 5 ∨ c = 6 ∨ c = 7) := by
  unfold State.check at h
  dsimp only at h
  repeat' split at h
  all_goals simp_all

/-- Sending numbers changes only its context. -/
theorem flush_frame (s : State) (c : Nat) : s.flush c = s ∨ ∃ f, s.flush c = s.modCtx c f := by
  unfold State.flush
  split
  · exact .inl rfl
  · split
    · exact .inl rfl
    · exact .inr ⟨_, rfl⟩

/-- The end of a firing leaves every memory as it was. -/
@[simp] theorem cells_finish (s : State) (f : Focus) (i : Instr) (ts : List Tok) (sp : Space) :
    (s.finish f i ts).cells sp = s.cells sp := by
  unfold State.finish
  rcases flush_frame (s.modBlk f.ctx f.blk fun b => (b.setSt f.slot .done).deliverAll f.slot (List.zip (targetsOf i) ts)) f.ctx
    with h | ⟨g, h⟩ <;> rw [h] <;> cases sp <;> rfl

/-- The end of a firing sends no command, no write and no home operation, and changes no other unit. -/
theorem finish_frame (s : State) (f : Focus) (i : Instr) (ts : List Tok) : ∃ cs, s.finish f i ts = { s with ctxs := cs } := by
  unfold State.finish
  rcases flush_frame (s.modBlk f.ctx f.blk fun b => (b.setSt f.slot .done).deliverAll f.slot (List.zip (targetsOf i) ts)) f.ctx
    with h | ⟨g, h⟩ <;> rw [h] <;> exact ⟨_, rfl⟩

end Sys2Proof.Laws
end

