-- ==== Sys2Proof/Laws/Power.lean ====
section
/-!
SUPPORT. The argument of a step that senses a rail, taken apart again (19 R405; log entry 27).
-/

namespace Sys2Proof.Machine

theorem sensed_course (c mv : Nat) (h : c < Config.courses) : sensed c mv % Config.courses = c := by
  simp [sensed, Nat.mod_eq_of_lt h]

theorem sensed_mv (c mv : Nat) (h : c < Config.courses) : sensed c mv / Config.courses = mv := by
  have : 0 < Config.courses := by decide
  simp [sensed, Nat.add_mul_div_left c mv this, Nat.div_eq_of_lt h]

end Sys2Proof.Machine
end

