-- ==== Sys2Proof/Tests/Slice0.lean ====
section
/-!
SUPPORT. Tests. Ill-formed terms that WellFormed refuses; a word of every encoded instruction, its fields written out from
the tables of R46 and R139 to R150, R226, R252, R269 and R325; single steps on small states, with results from the spec's own
tables and rules; and for every statement of Certificates/ states that meet its hypotheses.
-/

namespace Sys2Proof.Tests

open Sys2Proof Sys2Proof.Machine Sys2Proof.Safety

/-! Ill-formed terms, one for each check. -/

theorem test_wf_registers : (Instr.xread .m 8 0 0).wf = false ∧ (Instr.xread .h 16 0 0).wf = false ∧
    (Instr.xwrite .always .m 8).wf = false ∧ (Instr.xread .v 31 0 0).wf = true := by decide
theorem test_wf_shifts : (Instr.shli .always false 64 0).wf = false ∧ (Instr.shri .always true 32 0).wf = false ∧
    (Instr.sari .always true 32 0).wf = false ∧ (Instr.sari .always true 31 0).wf = true := by decide
theorem test_wf_fcvt : (Instr.fcvt .always 13 0 0).wf = false ∧ (Instr.fcvt .always 12 0 0).wf = true := by decide
theorem test_wf_fencer : (Instr.fencer .always .dev .rel 0 false 0 0).wf = false ∧
    (Instr.fencerArm .always 0xF true 0 0).wf = false ∧ (Instr.fencerDisarm .always 0x1F false 0 0).wf = false ∧
    (Instr.fencer .always .dev .rel 0xF false 0 0).wf = true := by decide
theorem test_wf_tasks : (Instr.tfork .always 3 0 0).wf = false ∧ (Instr.qinit .always 17).wf = false := by decide
theorem test_wf_vector_types : (Instr.vfma .always .s32 0 0 0 0).wf = false ∧ (Instr.vabs .always .n32 0 0 0).wf = false ∧
    (Instr.vneg .always .n32 0 0 0).wf = false ∧ (Instr.vand .always .f32 0 0 0 0).wf = false ∧
    (Instr.vor .always .f64 0 0 0 0).wf = false ∧ (Instr.vxor .always .bf16 0 0 0 0).wf = false ∧
    (Instr.vrcp .always .s8 0 0 0).wf = false ∧ (Instr.vrsq .always .s8 0 0 0).wf = false ∧
    (Instr.vexp2 .always .s8 0 0 0).wf = false ∧ (Instr.vlog2 .always .s8 0 0 0).wf = false ∧
    (Instr.vplane .always .f32 0 0 0 false).wf = false := by decide
theorem test_wf_vector_fields : (Instr.vshl .always .s8 0 0 0 0 8).wf = false ∧ (Instr.vshr .always .s16 0 0 0 1 1).wf = false ∧
    (Instr.vsar .always .f32 0 0 0 0 0).wf = false ∧ (Instr.vcmp .always .s32 0 0 0 0 .un).wf = false ∧
    (Instr.vcvt .always .f32 0 0 0 .f32 0).wf = false ∧ (Instr.vcvt .always .s8 0 0 0 .f32 4).wf = false ∧
    (Instr.mset .always .and 0 0 0 1 0).wf = false ∧ (Instr.mset .always .not 0 0 1 0 0).wf = false ∧
    (Instr.mset .always .popc 1 0 0 0 0).wf = false ∧ (Instr.vacrd .always .f32 0 0 0 4).wf = false ∧
    (Instr.vacwr .always .bf16 0 0 0 0).wf = false := by decide
theorem test_wf_tiles : (Instr.mmac .always .fp32 false 0 0 0 false false 6 0 0 0).wf = false ∧
    (Instr.mmac .always .fp32 false 0 0 0 false false 3 1 0 0).wf = false := by decide
theorem test_wf_grout : (Instr.gcfg .always 15).wf = false ∧ (Instr.gdrain .always 15 false).wf = false ∧
    (Instr.garg .always 0x10 0 7).wf = false ∧ (Instr.garg .always 0xD0 0 0).wf = false ∧
    (Instr.gsend .always 0x00 0).wf = false ∧ (Instr.grecv .always 0x90 0).wf = false ∧
    (Instr.greconf .always 0x10 0).wf = false ∧ (Instr.gstat .always 0xFF 0 0 0).wf = false := by decide
theorem test_wf_control : (Instr.ctlrd .always 0x300 0 0).wf = false ∧ (Instr.ctlwr .always 0x000).wf = false ∧
    (Instr.ctlset .always 0x010).wf = false ∧ (Instr.ctlclr .always 0x110).wf = false := by decide

/-! Words written from the encoding tables. -/

/-- A word in G, I, L or S layout (R46): major, PR, xop or LSID, T1 or imm9, T0. -/
def wG (maj pr xop t1 t0 : Nat) : Word32 :=
  BitVec.ofNat 7 maj ++ BitVec.ofNat 2 pr ++ BitVec.ofNat 5 xop ++ BitVec.ofNat 9 t1 ++ BitVec.ofNat 9 t0
/-- A word in C layout. -/
def wC (maj c t0 : Nat) : Word32 := BitVec.ofNat 7 maj ++ BitVec.ofNat 16 c ++ BitVec.ofNat 9 t0
/-- A word in B layout. -/
def wB (maj pr e off : Nat) : Word32 := BitVec.ofNat 7 maj ++ BitVec.ofNat 2 pr ++ BitVec.ofNat 3 e ++ BitVec.ofNat 20 off
/-- The second word of a vector instruction (R226): subop, vd, va, vb, mask, aux6. -/
def wV (sub d a b m x : Nat) : Word32 :=
  BitVec.ofNat 8 sub ++ BitVec.ofNat 5 d ++ BitVec.ofNat 5 a ++ BitVec.ofNat 5 b ++ BitVec.ofNat 3 m ++ BitVec.ofNat 6 x
/-- The second word of the other families: subop, bits 23 to 20, 19 to 16, 15 to 12 and 11 to 0. -/
def wS (sub a b c x : Nat) : Word32 :=
  BitVec.ofNat 8 sub ++ BitVec.ofNat 4 a ++ BitVec.ofNat 4 b ++ BitVec.ofNat 4 c ++ BitVec.ofNat 12 x
/-- The second word of an atomic (R145): LSID, op, size, scope, order. -/
def wA (ls op sz sc o : Nat) : Word32 :=
  BitVec.ofNat 5 ls ++ BitVec.ofNat 4 op ++ BitVec.ofNat 2 sz ++ BitVec.ofNat 3 sc ++ BitVec.ofNat 2 o ++ 0#16

/-- The words decode to the instruction, which encodes to them. -/
def Dec (ws : List Word32) (i : Instr) : Bool := decode ws == .ok (i, []) && encode i == ws

theorem test_decode_plumbing : (
    Dec [wG 0x01 0 0x1F 0x106 0x085 + 0x00800000#32] (.gread 63 0x106 0x085) && Dec [wG 0x03 1 9 0x106 0x085] (.xread .h 9 0x106 0x085) &&
    Dec [0x02#7 ++ 3#2 ++ 33#6 ++ 0#17] (.gwrite .onTrue 33) && Dec [0x04#7 ++ 2#2 ++ 0#2 ++ 17#5 ++ 0#16] (.xwrite .onFalse .v 17) &&
    Dec [wG 0x05 2 0 0x081 0x102] (.mov .onFalse 0x081 0x102) &&
    Dec [wG 0x06 0 0 0x081 0x102, 0#14 ++ 0x083#9 ++ 0x104#9] (.movl .always 0x083 0x104 0x081 0x102) &&
    Dec [wG 0x07 3 0 0x081 0x102] (.null .onTrue 0x081 0x102) && Dec [wC 0x08 0x8001 0x0FF] (.genc 0x8001 0x0FF) &&
    Dec [wC 0x09 0x8001 0x0FF] (.gencn 0x8001 0x0FF) && Dec [wC 0x0A 0x7FFF 0x181] (.appc 0x7FFF 0x181) &&
    Dec [wG 0x0B 2 0 0x081 0x102, 0xDEADBEEF#32] (.gencl .onFalse 0xDEADBEEF 0x081 0x102)) = true := by decide

theorem test_decode_integer : (
    Dec [wG 0x0C 0 1 0x81 0x82] (.add .always true 0x81 0x82) && Dec [wG 0x0D 2 0 0x81 0x82] (.sub .onFalse false 0x81 0x82) &&
    Dec [wG 0x0E 3 1 0x81 0x82] (.mul .onTrue true 0x81 0x82) && Dec [wG 0x0F 0 2 0x81 0x82] (.mulh .always true false 0x81 0x82) &&
    Dec [wG 0x10 0 1 0x81 0x82] (.div .always false true 0x81 0x82) && Dec [wG 0x11 0 3 0x81 0x82] (.rem .always true true 0x81 0x82) &&
    Dec [wG 0x12 0 0 0x81 0x82] (.and .always false 0x81 0x82) && Dec [wG 0x13 0 1 0x81 0x82] (.or .always true 0x81 0x82) &&
    Dec [wG 0x14 0 0 0x81 0x82] (.xor .always false 0x81 0x82) && Dec [wG 0x15 0 1 0x81 0x82] (.andn .always true 0x81 0x82) &&
    Dec [wG 0x16 0 0 0x81 0x82] (.shl .always false 0x81 0x82) && Dec [wG 0x17 0 1 0x81 0x82] (.shr .always true 0x81 0x82) &&
    Dec [wG 0x18 0 0 0x81 0x82] (.sar .always false 0x81 0x82) && Dec [wG 0x19 0 1 0x81 0x82] (.rot .always true 0x81 0x82) &&
    Dec [wG 0x1A 0 2 0x81 0x82] (.min .always true false 0x81 0x82) && Dec [wG 0x1B 0 1 0x81 0x82] (.max .always false true 0x81 0x82) &&
    Dec [wG 0x1C 0 9 0x81 0x82] (.bits .always .bswap true 0x81 0x82) && Dec [wG 0x1C 0 2 0x81 0x82] (.bits .always .ctz false 0x81 0x82) &&
    Dec [wG 0x1D 0 0xB 0x81 0x82] (.ext .always .b32 true true 0x81 0x82) && Dec [wG 0x1D 0 4 0x81 0x82] (.ext .always .b16 false false 0x81 0x82) &&
    Dec [wG 0x1E 2 1 0x81 0x82] (.sel .onFalse true 0x81 0x82) && Dec [wG 0x1F 0 0 0x81 0x82] (.madd .always false 0x81 0x82)) = true := by decide

theorem test_decode_immediate : (
    Dec [wG 0x20 0 1 0x1FF 0x82] (.addi .always true 0x1FF 0x82) && Dec [wG 0x21 0 0 0x100 0x82] (.muli .always false 0x100 0x82) &&
    Dec [wG 0x22 2 0 5 0x82] (.andi .onFalse false 5 0x82) && Dec [wG 0x23 0 1 5 0x82] (.ori .always true 5 0x82) &&
    Dec [wG 0x24 0 0 5 0x82] (.xori .always false 5 0x82) && Dec [wG 0x25 0 0 63 0x82] (.shli .always false 63 0x82) &&
    Dec [wG 0x26 0 1 31 0x82] (.shri .always true 31 0x82) && Dec [wG 0x27 3 0 63 0x82] (.sari .onTrue false 63 0x82) &&
    Dec [wG 0x28 0 2 0x1FF 0x82] (.mini .always true false 0x1FF 0x82) && Dec [wG 0x29 0 1 5 0x82] (.maxi .always false true 5 0x82) &&
    Dec [wG 0x30 0 (9 + 16) 0x81 0x82] (.tcmp .always .gen true 0x81 0x82) && Dec [wG 0x31 0 3 0x1FE 0x82] (.tcmpi .always .le false 0x1FE 0x82) &&
    Dec [wG 0x32 0 (2 + 16) 0x81 0x82] (.fcmp .always .le true 0x81 0x82) && Dec [wG 0x33 0 1 0x81 0x82] (.tbit .always true 0x81 0x82)) = true := by decide

theorem test_decode_float : (
    Dec [0x704E0C85#32] (.fadd .always true .rup 0x106 0x085) && Dec [wG 0x39 0 1 0x81 0x82] (.fsub .always false .rtz 0x81 0x82) &&
    Dec [wG 0x3A 0 (16 + 2) 0x81 0x82] (.fmul .always true .rdn 0x81 0x82) && Dec [wG 0x3B 2 4 0x81 0x82] (.fdiv .onFalse false .rmm 0x81 0x82) &&
    Dec [wG 0x3C 0 (16 + 7) 0x81 0x82] (.fsqrt .always true .dyn 0x81 0x82) && Dec [wG 0x3D 0 0 0x81 0x82] (.fma .always false .rne 0x81 0x82) &&
    Dec [wG 0x3E 0 16 0x81 0x82] (.fmin .always true 0x81 0x82) && Dec [wG 0x3F 0 0 0x81 0x82] (.fmax .always false 0x81 0x82) &&
    Dec [wG 0x40 0 0x1F 0x81 0x82] (.fcvt .always 0x1F 0x81 0x82) && Dec [wG 0x41 0 16 0x81 0x82] (.fclass .always true 0x81 0x82) &&
    Dec [wG 0x42 0 3 0x81 0x82] (.fsgn .always false .abs 0x81 0x82)) = true := by decide

theorem test_decode_memory : (
    Dec [wG 0x48 0 31 0x1FF 0x82] (.ldb .always 31 0x1FF 0x82) && Dec [wG 0x49 0 1 2 0x82] (.ldbn .always 1 2 0x82) &&
    Dec [wG 0x4A 0 2 2 0x82] (.ldh .always 2 2 0x82) && Dec [wG 0x4B 0 3 2 0x82] (.ldhn .always 3 2 0x82) &&
    Dec [wG 0x4C 2 4 2 0x82] (.ldw .onFalse 4 2 0x82) && Dec [wG 0x4D 0 5 2 0x82] (.ldwn .always 5 2 0x82) &&
    Dec [wG 0x4E 0 6 0x100 0x82] (.ldd .always 6 0x100 0x82) && Dec [wG 0x4F 0 7 (5 * 64 + 16) 0x82] (.lda .always 7 .sys true 0x82) &&
    Dec [wG 0x50 0 8 1 0] (.stb .always 8 1) && Dec [wG 0x51 3 9 1 0] (.sth .onTrue 9 1) && Dec [wG 0x52 0 10 1 0] (.stw .always 10 1) &&
    Dec [wG 0x53 0 11 0x1FF 0] (.std .always 11 0x1FF) && Dec [wG 0x54 0 12 (2 * 64) 0] (.stl .always 12 .die false) &&
    Dec [wG 0x5F 0 13 3 0] (.pref .always 13 3)) = true := by decide

theorem test_decode_atomics_and_fences : (
    Dec [wG 0x58 0 0 0x81 0x82, wA 31 8 1 4 3] (.amo .always 31 .swap true .dev .ar 0x81 0x82) &&
    Dec [wG 0x59 2 0 0x81 0x82, wA 5 0 0 5 1] (.cas .onFalse 5 false .sys .acq 0x81 0x82) &&
    Dec [wG 0x5A 0 0 0x81 0x82, wA 6 8 0 2 2] (.famo .always 6 .faddbf .die .rel 0x81 0x82) &&
    Dec [wG 0x5B 0 (4 * 4 + 2) 0x81 0x82] (.fence .always .dev .ar 0x81 0x82) &&
    Dec [wG 0x5C 0 (4 * 3 + 1) 0x81 0x82, 0x8001#16 ++ 1#2 ++ 0#14] (.fencer .always .pier .acq 0x8001 true 0x81 0x82) &&
    Dec [wG 0x5C 0 3 0x81 0x82, 0x0006#16 ++ 0#16] (.fencerArm .always 6 false 0x81 0x82) &&
    Dec [wG 0x5C 0 (4 + 3) 0x81 0x82, 0x0006#16 ++ 1#2 ++ 0#14] (.fencerDisarm .always 6 true 0x81 0x82) &&
    Dec [wG 0x5D 0 0 0x81 0x82] (.fwait .always 0x81 0x82) && Dec [wG 0x5E 0 (4 * 5 + 1) 0x81 0x82] (.mwait .always .sys .ge 0x81 0x82)) = true := by decide

theorem test_decode_control : (
    Dec [wB 0x60 0 7 0xFFFFF] (.br .always 7 0xFFFFF) && Dec [wG 0x61 2 3 0 0] (.bri .onFalse 3) && Dec [wB 0x62 3 1 2] (.callb .onTrue 1 2) &&
    Dec [wG 0x63 0 2 0 0] (.retb .always 2) && Dec [0xC8000005#32] (.tend .always 0 5) && Dec [0xC8000100#32] (.tendOp0 .always 0) &&
    Dec [wB 0x65 0 4 0x80000] (.yield .always 4 0x80000) && Dec [wG 0x66 0 0 0xFF 0] (.trap .always 0xFF)) = true := by decide

theorem test_decode_tasks : (
    Dec [wG 0x68 0 0 0x81 0x82, 1#32] (.tspawn .always true 0x81 0x82) && Dec [0xD2040000#32] (.tsend .always 0 true) &&
    Dec [wG 0x6A 0 0 0 0, 15#4 ++ 7#3 ++ 0#25] (.tsendh .always 15 7) && Dec [wG 0x6B 0 0 0x81 0x82, 2#32] (.tfork .always 2 0x81 0x82) &&
    Dec [wG 0x6C 0 2 0x81 0x82] (.tself .always .graph 0x81 0x82) && Dec [wG 0x6D 0 0 0 0] (.tkill .always) &&
    Dec [wG 0x6E 0 (4 * 4) 0x81 0x82] (.bara .always .dev 0x81 0x82) && Dec [wG 0x6F 0 (4 * 2) 0x81 0x82] (.barw .always .die 0x81 0x82) &&
    Dec [wG 0x70 0 0 0x81 0x82] (.qtkt .always 0x81 0x82) && Dec [wG 0x71 0 0 0 0, 0#32] (.qfill .always) &&
    Dec [wG 0x72 0 0 0x81 0x82] (.qpop .always 0x81 0x82) && Dec [wG 0x73 0 0 0x81 0x82] (.qpeek .always 0x81 0x82) &&
    Dec [wG 0x74 2 0 0x81 0x82] (.qocc .onFalse 0x81 0x82) && Dec [wG 0x75 0 16 0 0] (.qinit .always 16)) = true := by decide

theorem test_decode_vector_moves : (
    Dec [wG 0x78 0 7 0 0, wV 0x00 31 0 0 7 0] (.vld .always .s8 7 31) && Dec [wG 0x78 0 6 0 0, wV 0x01 1 0 0 2 0] (.vlds .always .s16 2 1) &&
    Dec [wG 0x78 0 5 0 0, wV 0x02 1 0 3 2 0] (.vldx .always .s64 2 1 3) && Dec [wG 0x78 0 0 0 0, wV 0x03 0 1 0 2 0] (.vst .always .f32 2 1) &&
    Dec [wG 0x78 0 1 0 0, wV 0x04 0 1 0 2 0] (.vsts .always .f64 2 1) && Dec [wG 0x78 0 2 0 0, wV 0x05 0 1 3 2 0] (.vstx .always .bf16 2 1 3) &&
    Dec [wG 0x78 0 3 0 0, wV 0x06 1 0 0 2 0] (.vbcst .always .s32 2 1) && Dec [wG 0x78 0 4 0 0, wV 0x07 1 3 0 2 0] (.vmov .always .n32 2 1 3) &&
    Dec [wG 0x78 0 1 0x81 0x82, wV 0x22 0 9 0 0 0] (.vgetl .always .f64 9 0x81 0x82) &&
    Dec [wG 0x78 0 1 0 0, wV 0x23 9 0 0 0 0] (.vsetl .always .f64 9) &&
    Dec [wG 0x78 2 0 0 0, wV 0x24 1 2 3 0 1] (.mset .onFalse .or 1 2 3 0 0) &&
    Dec [wG 0x78 0 0 0x81 0x82, wV 0x24 0 2 0 0 3] (.mset .always .popc 0 2 0 0x81 0x82) &&
    Dec [wG 0x78 0 7 0 0, wV 0x25 1 2 0 3 1] (.vplane .always .s8 3 1 2 true) &&
    Dec [wG 0x78 0 5 0 0, wV 0x26 1 0 15 3 7] (.vacrd .always .s64 3 1 15 7) && Dec [wG 0x78 0 0 0 0, wV 0x27 0 1 9 3 3] (.vacwr .always .f32 3 1 9 3)) = true := by decide

theorem test_decode_vector_arithmetic : (
    Dec [wG 0x78 0 0 0 0, wV 0x08 1 2 3 4 0] (.vadd .always .f32 4 1 2 3) && Dec [wG 0x78 0 7 0 0, wV 0x09 1 2 3 4 0] (.vsub .always .s8 4 1 2 3) &&
    Dec [wG 0x78 0 6 0 0, wV 0x0A 1 2 3 4 0] (.vmul .always .s16 4 1 2 3) && Dec [wG 0x78 0 2 0 0, wV 0x0B 1 2 3 4 0] (.vfma .always .bf16 4 1 2 3) &&
    Dec [wG 0x78 0 4 0 0, wV 0x0C 1 2 3 4 0] (.vdiv .always .n32 4 1 2 3) && Dec [wG 0x78 0 5 0 0, wV 0x0D 1 2 3 4 0] (.vmin .always .s64 4 1 2 3) &&
    Dec [wG 0x78 0 3 0 0, wV 0x0E 1 2 3 4 0] (.vmax .always .s32 4 1 2 3) && Dec [wG 0x78 0 1 0 0, wV 0x0F 1 2 0 4 0] (.vabs .always .f64 4 1 2) &&
    Dec [wG 0x78 0 0 0 0, wV 0x10 1 2 0 4 0] (.vneg .always .f32 4 1 2) && Dec [wG 0x78 0 7 0 0, wV 0x11 1 2 3 4 0] (.vand .always .s8 4 1 2 3) &&
    Dec [wG 0x78 0 3 0 0, wV 0x12 1 2 3 4 0] (.vor .always .s32 4 1 2 3) && Dec [wG 0x78 0 5 0 0, wV 0x13 1 2 3 4 0] (.vxor .always .s64 4 1 2 3) &&
    Dec [wG 0x78 0 5 0 0, wV 0x14 1 2 0 4 63] (.vshl .always .s64 4 1 2 0 63) && Dec [wG 0x78 0 7 0 0, wV 0x15 1 2 3 4 0] (.vshr .always .s8 4 1 2 3 0) &&
    Dec [wG 0x78 0 6 0 0, wV 0x16 1 2 0 4 15] (.vsar .always .s16 4 1 2 0 15) && Dec [wG 0x78 0 0 0 0, wV 0x17 7 2 3 4 6] (.vcmp .always .f32 4 7 2 3 .un) &&
    Dec [wG 0x78 0 0 0 0, wV 0x18 1 2 3 4 0] (.vsel .always .f32 4 1 2 3) && Dec [wG 0x78 0 1 0 0, wV 0x19 1 2 0 4 (8 * 1 + 0)] (.vcvt .always .f64 4 1 2 .f32 1) &&
    Dec [wG 0x78 0 0 0x81 0x82, wV 0x1A 0 2 0 4 2] (.vred .always .f32 4 2 .max 0x81 0x82) && Dec [wG 0x78 0 0 0 0, wV 0x1B 1 2 0 4 1] (.vscan .always .f32 4 1 2 .min) &&
    Dec [wG 0x78 0 7 0 0, wV 0x1C 1 2 3 4 0] (.vperm .always .s8 4 1 2 3) && Dec [wG 0x78 0 0 0 0, wV 0x1D 1 2 0 4 0] (.vrcp .always .f32 4 1 2) &&
    Dec [wG 0x78 0 1 0 0, wV 0x1E 1 2 0 4 0] (.vrsq .always .f64 4 1 2) && Dec [wG 0x78 0 2 0 0, wV 0x1F 1 2 0 4 0] (.vexp2 .always .bf16 4 1 2) &&
    Dec [wG 0x78 0 0 0 0, wV 0x20 1 2 0 4 0] (.vlog2 .always .f32 4 1 2) && Dec [wG 0x78 0 1 0 0, wV 0x21 1 2 0 4 0] (.vsplt .always 4 1 2)) = true := by decide

theorem test_decode_tiles : (
    Dec [wG 0x79 0 0 0 0, wS 0 1 0 0 0] (.hdef .always 1) && Dec [wG 0x79 0 0 0 0, wS 1 2 1 0 6] (.hset .always 2 1 .shape) &&
    Dec [wG 0x79 2 0 0 0, wS 2 2 3 0 0] (.hadv .onFalse 2 3) && Dec [wG 0x79 0 0 0x81 0x82, wS 3 0 2 0 8] (.hget .always 2 .d3 0x81 0x82) &&
    Dec [wG 0x79 0 2 0 0x82, wS 4 0 0 15 0] (.mzero .always .int32 15 0 0x82) &&
    Dec [wG 0x79 0 (4 + 1) 0 0x82, wS 5 1 2 3 0xC00] (.mma .always .int64 true 1 2 3 true true 0 0x82) &&
    Dec [wG 0x79 0 1 0 0x82, wS 6 1 2 3 (0x400 + 0x200 + 16 * 2 + 5)] (.mmac .always .fp32 true 1 2 3 true true 2 5 0 0x82) &&
    Dec [wG 0x79 0 0 0 0x82, wS 7 4 0 2 0] (.mcvt .always 4 2 0 0x82) && Dec [wG 0x79 0 0 0 0x82, wS 8 0 1 2 0] (.madda .always 1 2 0 0x82) &&
    Dec [wG 0x79 0 0 0 0x82, wS 9 3 0 0 0] (.ptrim .always 3 0 0x82) && Dec [wG 0x79 0 0 0 0x82, wS 10 5 (4 * 1 + 2) 0 0] (.pxpose .always 5 .e2 true 0 0x82) &&
    Dec [wG 0x79 0 0 0x81 0x82, wS 11 0 0 7 0] (.mstat .always 7 0x81 0x82)) = true := by decide

theorem test_decode_engines : (
    Dec [wG 0x7A 0 0 0 0x82, wS 0 3 1 0xC 0] (.xcopy .always none 3 1 true true 0 0x82) &&
    Dec [wG 0x7A 0 (16 + 4) 0 0x82, wS 1 0 0 4 0] (.xcopyf .always (some .dev) false true 0 0x82) &&
    Dec [wG 0x7A 0 0 0 0x82, wS 2 0 0 8 0] (.xchain .always none true 0 0x82) && Dec [wG 0x7A 0 0 0x81 0x82, wS 3 0 0 8 0] (.xwptr .always true 0x81 0x82) &&
    Dec [wG 0x7A 0 4 0 0x82, wS 4 0 0 0 (8 + 3)] (.waitt .always .dev true 3 0 0x82) && Dec [wG 0x7A 0 0 0x81 0x82, wS 5 0 0 0 5] (.rdtl .always 5 0x81 0x82) &&
    Dec [wG 0x7A 0 0 0 0x82, wS 6 4 0 0 999] (.xgath .always none 2 999 0 0x82) && Dec [wG 0x7A 0 (16 + 5) 0 0x82, wS 7 14 0 0xF 0xFFF] (.xscat .always (some .sys) 7 0xFFFF 0 0x82) &&
    Dec [wG 0x7A 0 0 0 0x82, wS 8 0 0 0 0] (.xred .always none 0 0x82) && Dec [wG 0x7A 0 16 0 0x82, wS 9 0 0 0 0] (.xired .always (some .brick) 0 0x82) &&
    Dec [wG 0x7A 0 0 0 0x82, wS 10 0 0 0 0] (.xpkl .always none 0 0x82) && Dec [wG 0x7A 0 (16 + 4) 0 0x82, wS 11 0 0 0 0] (.nput .always (some .dev) 0 0x82) &&
    Dec [wG 0x7A 0 0 0 0x82, wS 12 0 0 0 0] (.nget .always none 0 0x82) && Dec [wG 0x7A 0 0 0 0x82, wS 13 0 0 0 0] (.namo .always none 0 0x82) &&
    Dec [wG 0x7A 0 0 0 0x82, wS 14 0 0 8 0] (.xdisc .always none true 0 0x82)) = true := by decide

theorem test_decode_grout : (
    Dec [wG 0x7B 0 0 0 0, wS 0 0 0 2 0] (.gcfg .always 2) && Dec [wG 0x7B 0 0 0 0, wS 1 0 15 14 0x700] (.garg .always 0x0F 14 7) &&
    Dec [wG 0x7B 0 0 0 0, wS 2 8 0 2 0] (.gsend .always 0x80 2) && Dec [wG 0x7B 0 0 0 0, wS 3 8 15 2 0] (.grecv .always 0x8F 2) &&
    Dec [wG 0x7B 2 0 0 0, wS 4 0 0 2 0] (.greconf .onFalse 0 2) && Dec [wG 0x7B 0 0 0x81 0x82, wS 5 6 0 2 0] (.gstat .always 0x60 2 0x81 0x82) &&
    Dec [wG 0x7B 0 0 0 0, wS 6 0 0 2 1] (.gdrain .always 2 true)) = true := by decide

theorem test_decode_system : (
    Dec [wG 0x7C 0 0 0x81 0x82, wS 0 0 0 0 0x205] (.ctlrd .always 0x205 0x81 0x82) && Dec [wG 0x7C 0 0 0 0, wS 1 0 0 0 0x100] (.ctlwr .always 0x100) &&
    Dec [wG 0x7C 0 0 0 0, wS 2 0 0 0 0x011] (.ctlset .always 0x011) && Dec [wG 0x7C 3 0 0 0, wS 3 0 0 0 0x203] (.ctlclr .onTrue 0x203) &&
    Dec [wG 0x7C 0 0 0 0, wS 4 0 0 0 0] (.eret .always) && Dec [wG 0x7C 0 0 0x81 0x82, wS 5 0 0 0 0] (.ctxsv .always 0x81 0x82) &&
    Dec [wG 0x7C 0 0 0 0, wS 6 0 0 0 0] (.ctxld .always) && Dec [wG 0x7C 0 0 0 0, wS 7 0 0 0 2] (.ttinv .always .all) &&
    Dec [wG 0x7C 0 0 0 0, wS 8 0 0 0 0] (.leaseAdd .always) && Dec [wG 0x7C 0 0 0 0, wS 8 0 0 0 1] (.leaseDrop .always) &&
    Dec [wG 0x7C 0 0 0x81 0x82, wS 9 0 0 0 0] (.ptok .always 0x81 0x82) && Dec [wG 0x7C 0 0 0 0, wS 10 0 0 0 2] (.hint .always .heavy) &&
    Dec [wG 0x7C 0 0 0 0, wS 11 0 0 0 0xAB] (.haltd .always 0xAB) && Dec [wG 0x7C 0 0 0x81 0x82, wS 12 0 0 0 0] (.cycrd .always 0x81 0x82) &&
    Dec [wG 0x7C 0 0 0 0, wS 13 0 0 0 0] (.idle .always)) = true := by decide

/-- R63, R151: words that the tables refuse, in the order of the codes. -/
theorem test_decode_refusals :
    decode [wG 0x37 1 0 0 0] = .error .reservedMajor ∧ decode [wG 0x0C 1 0 0x81 0x82] = .error .badPr ∧
    decode [wG 0x38 0 5 0x81 0x82] = .error .unassigned ∧ decode [wG 0x69 0 2 0 0] = .error .unassigned ∧
    decode [wG 0x78 0 0 0 0, wV 0x28 0 0 0 0 0] = .error .unassigned ∧ decode [wG 0x0C 0 2 0x81 0x82] = .error .nonzero ∧
    decode [wG 0x78 0 0 0 0, wV 0x00 1 1 0 0 0] = .error .nonzero ∧ decode [wG 0x78 0 0 0 0] = .error .truncated := by decide

/-! Single steps. The instruction stands in slot 0 with the operands given; its T0 is op0 of the slot after it. -/

/-- A block whose slot 0 holds i with its operands, then a MOV that keeps what it receives. -/
def tBlk (i : Instr) (a b c : Option Tok) : Blk :=
  { probeBlk (encode i ++ [0x0A000000#32]) with
    slots := { Slot.fresh with op0 := a, op1 := b, op2 := c, pd := prTok (prOf i) } ::
      List.replicate (encode i).length Slot.fresh }

/-- The state in which that slot is about to fire, in context 0, whose registers f sets. -/
def tState (i : Instr) (a b c : Option Tok) (f : Ctx → Ctx) : State :=
  { State.reset with
    focus := some ⟨0, 0, 0, false⟩
    ctxs := [(0, { f Ctx.reset with uid := 1, blks := [tBlk i a b c] })]
    tasks := [(1, { probeTask with lease := [(0, 0x10000), (Config.localWin, 0x400000)] })] }

/-- A state that a firing answers, else the state before it. -/
def nextOf (o : Host.Outcome State Fault Refusal) (s : State) : State :=
  match o with
  | .next t => t
  | _ => s

/-- What op0 of slot n of the block holds. -/
def got (n : Nat) (o : Host.Outcome State Fault Refusal) : Option Tok :=
  match o with
  | .next t => ((t.blk? 0 0).map fun b => (b.slot n).op0).getD none
  | _ => none

/-- The token an instruction of one word sends, on scalar operands. -/
def sends1 (i : Instr) (a b : Word) : Option Tok :=
  let s := tState i (some (.s a)) (some (.s b)) (some (.s 0)) id
  got 1 (exec i s)

/-- The trap held with the block. -/
def trapOf (o : Host.Outcome State Fault Refusal) : Option (Nat × Word) :=
  match o with
  | .next t => ((t.blk? 0 0).bind fun b => b.trap).map fun r => (r.cause, r.info)
  | _ => none

/-- What the block in flight holds after a firing. -/
def blkOf (o : Host.Outcome State Fault Refusal) : Blk :=
  match o with
  | .next t => (t.blk? 0 0).getD (probeBlk [])
  | _ => probeBlk []

theorem test_add_wraps : sends1 (.add .always false 0 0x81) (BitVec.allOnes 64) 1 = some (.s 0) := by decide
theorem test_add_w_sign_extends : sends1 (.add .always true 0 0x81) 0x7FFFFFFF 1 = some (.s 0xFFFFFFFF80000000) := by decide
theorem test_sub_takes_op1_from_op0 : sends1 (.sub .always false 0 0x81) 5 7 = some (.s 0xFFFFFFFFFFFFFFFE) := by decide
theorem test_mulh_unsigned : sends1 (.mulh .always true false 0 0x81) (BitVec.allOnes 64) 2 = some (.s 1) := by decide
/-- R159: the quotient of −2^63 and −1 is −2^63, and their remainder 0. -/
theorem test_div_overflow : sends1 (.div .always false false 0 0x81) 0x8000000000000000 (BitVec.allOnes 64) = some (.s 0x8000000000000000) ∧
    sends1 (.rem .always false false 0 0x81) 0x8000000000000000 (BitVec.allOnes 64) = some (.s 0) := by decide
/-- R159: a division by zero gives all ones, and its remainder the dividend. -/
theorem test_div_by_zero : sends1 (.div .always false false 0 0x81) 7 0 = some (.s (BitVec.allOnes 64)) ∧
    sends1 (.rem .always true false 0 0x81) 7 0 = some (.s 7) := by decide
theorem test_shl_by_64_shifts_by_0 : sends1 (.shl .always false 0 0x81) 5 64 = some (.s 5) := by decide
theorem test_sar_w : sends1 (.sar .always true 0 0x81) 0x80000000 31 = some (.s (BitVec.allOnes 64)) := by decide
theorem test_rot_left : sends1 (.rot .always false 0 0x81) 0x8000000000000001 1 = some (.s 3) := by decide
/-- R161: BREV.w of 1, the leading zeros of 0. -/
theorem test_bits : sends1 (.bits .always .brev true 0 0x81) 1 0 = some (.s 0xFFFFFFFF80000000) ∧
    sends1 (.bits .always .clz false 0 0x81) 0 0 = some (.s 64) := by decide +kernel
theorem test_mini_signed : sends1 (.mini .always false false 0x1FF 0x81) 3 0 = some (.s (BitVec.allOnes 64)) := by decide
theorem test_mini_unsigned : sends1 (.mini .always true false 0x1FF 0x81) 3 0 = some (.s 3) := by decide
theorem test_tcmp_signed_and_unsigned : sends1 (.tcmp .always .lt false 0 0x81) (BitVec.allOnes 64) 1 = some (.s 1) ∧
    sends1 (.tcmp .always .ltn false 0 0x81) (BitVec.allOnes 64) 1 = some (.s 0) := by decide
theorem test_tbit_clr : sends1 (.tbit .always true 0 0x81) 4 66 = some (.s 0) := by decide
theorem test_genc_sign_extends : sends1 (.genc 0x8000 0x81) 0 0 = some (.s 0xFFFFFFFFFFFF8000) ∧
    sends1 (.gencn 0x8000 0x81) 0 0 = some (.s 0x8000) := by decide
theorem test_appc : sends1 (.appc 0x1234 0x81) 0xABCD 0 = some (.s 0xABCD1234) := by decide
theorem test_gencl : got 2 (exec (.gencl .always 0xFFFFFFFF 0 0x82) (tState (.gencl .always 0xFFFFFFFF 0 0x82) none none none id)) =
    some (.s (BitVec.allOnes 64)) := by decide
theorem test_sel_takes_op1_on_true : got 1 (exec (.sel .always false 0 0x81)
    (tState (.sel .always false 0 0x81) (some (.s 1)) (some (.s 5)) (some (.s 6)) id)) = some (.s 5) := by decide
/-- R155, R63: g0 reads zero, and another register what the context holds. -/
theorem test_gread : got 1 (exec (.gread 5 0 0x81) (tState (.gread 5 0 0x81) none none none fun c => { c with g := c.g.set 5 77 })) =
    some (.s 77) ∧ got 1 (exec (.gread 0 0 0x81) (tState (.gread 0 0 0x81) none none none id)) = some (.s 0) := by decide
/-- R165: 1 + 1 in FP64 is 2, exactly. -/
theorem test_fadd : sends1 (.fadd .always true .rne 0 0x81) 0x3FF0000000000000 0x3FF0000000000000 = some (.s 0x4000000000000000) := by decide
/-- R98: 1 plus the smallest subnormal rounds up under RUP, and infinity less infinity is the canonical NaN. -/
theorem test_fadd_rounds_up : sends1 (.fadd .always true .rup 0 0x81) 0x3FF0000000000000 1 = some (.s 0x3FF0000000000001) ∧
    sends1 (.fsub .always false .rne 0 0x81) 0x7F800000 0x7F800000 = some (.s 0x7FC00000) := by decide +kernel
theorem test_fdiv : sends1 (.fdiv .always false .rne 0 0x81) 0x3F800000 0x40400000 = some (.s 0x3EAAAAAB) := by decide
/-- R102: a value beyond the destination saturates. -/
theorem test_fcvt_saturates : sends1 (.fcvt .always 0x14 0 0x81) 0x4F000000 0 = some (.s 0x7FFFFFFF) := by decide
theorem test_fclass_negative_zero : sends1 (.fclass .always false 0 0x81) 0x80000000 0 = some (.s 8) := by decide
theorem test_fsgn_abs : sends1 (.fsgn .always true .abs 0 0x81) 0xBFF0000000000000 0 = some (.s 0x3FF0000000000000) := by decide
/-- R163: a comparison with a NaN is unordered. -/
theorem test_fcmp_unordered : sends1 (.fcmp .always .un false 0 0x81) 0x7FC00000 0 = some (.s 1) ∧
    sends1 (.fcmp .always .eq false 0 0x81) 0x80000000 0 = some (.s 1) := by decide
/-- R190: LDB sign-extends; the address adds the signed immediate. -/
theorem test_ldb : got 1 (exec (.ldb .always 0 0x1FF 0x81)
    { tState (.ldb .always 0 0x1FF 0x81) (some (.s (BitVec.ofNat 64 (Config.localWin + 4)))) none none id with spad := [(3, 0x80)] }) =
    some (.s 0xFFFFFFFFFFFFFF80) := by decide
/-- R187, R189: a misaligned access raises MISALIGNED with its address. -/
theorem test_ldw_misaligned : trapOf (exec (.ldw .always 0 0 0x81) (tState (.ldw .always 0 0 0x81) (some (.s 2)) none none id)) =
    some (5, 2) := by decide
/-- R191: a store keeps its bytes, little-endian, with its block. -/
theorem test_sth : ((blkOf (exec (.sth .always 0 0) (tState (.sth .always 0 0) (some (.s (BitVec.ofNat 64 Config.localWin)))
    (some (.s 0xABCD)) none id))).stores.map fun r => (r.loc.a, r.bytes)) = [(0, [0xCD, 0xAB])] := by decide +kernel
/-- R174: TRAP raises USER_TRAP, and R176 a privileged instruction in a user context PRIVILEGE. -/
theorem test_traps : (trapOf (exec (.trap .always 9) (tState (.trap .always 9) none none none id))).map (·.1) = some 0x0B ∧
    (trapOf (exec (.eret .always) (tState (.eret .always) none none none id))).map (·.1) = some 0x0C := by decide
/-- R59: BR adds its offset to the block's own address. -/
theorem test_br : (blkOf (exec (.br .always 0 2) (tState (.br .always 0 2) none none none id))).exit = some (.to 0 0x20) := by decide
/-- R54: an instruction that holds a null sends nulls. -/
theorem test_null_goes_on : got 1 (exec (.mov .always 0 0x81) (tState (.mov .always 0 0x81) (some .null) none none id)) = some .null := by decide
/-- R236: VADD of bytes wraps lane by lane, and leaves inactive lanes. -/
theorem test_vadd : (blkOf (exec (.vadd .always .s8 1 3 1 2) (tState (.vadd .always .s8 1 3 1 2) none none none fun c =>
    { c with v := (c.v.set 1 0xFF01).set 2 0x0102, m := c.m.set 1 3 }))).vs = [(0, 3, 0x0003)] := by decide +kernel
/-- R430: the first step after reset is the boot ROM's. -/
theorem test_first_step : (nextOf (step State.reset) State.reset).pkg.boot = .link := by decide +kernel
/-- Log entry 6: a word placed by withFetchWord runs in the next step. -/
theorem test_with_fetch_word : (blkOf (step (State.reset.withFetchWord 32 0xC8000005))).exit = some (.tend 0 5) := by decide

/-! States that meet the hypotheses of the statements. Each theorem is named after its statement. -/

/-- The slot that is about to fire. -/
def foc : Focus := ⟨0, 0, 0, false⟩

/-- The operands on which slot 0 of tBlk may fire. -/
def tGo (i : Instr) (a b c : Option Tok) : Option (List Tok) :=
  match ((tBlk i a b c).slot 0).ready i with
  | .go ops => if (tBlk i a b c).streamReady 0 i then some ops else none
  | _ => none

/-- An instruction about to fire, its context's registers set by f and the machine by g. -/
def wState (i : Instr) (a b c : Option Tok) (f : Ctx → Ctx) (g : State → State) : State :=
  let s := tState i a b c f
  { g s with focus := s.focus, ctxs := s.ctxs }

theorem fires_of {i : Instr} {a b c : Option Tok} {f : Ctx → Ctx} {g : State → State} {ops : List Tok}
    (h : tGo i a b c = some ops) : Fires (wState i a b c f g) foc (tBlk i a b c) i ops := by
  unfold tGo at h
  split at h
  · rename_i ops' hr
    split at h
    · rename_i ht
      cases h
      exact ⟨⟨rfl, rfl, rfl, rfl⟩, hr, ht⟩
    · cases h
  · cases h

/-- Three scalar operands. -/
def tTriple : List Tok := [.s 5, .s 3, .s 1]

/-- Every instruction of a list may fire on scalar operands. -/
theorem fires_all {l : List Instr} {f : Ctx → Ctx} {g : State → State}
    (h : l.all (fun i => tGo i (some (.s 5)) (some (.s 3)) (some (.s 1)) == some (tTriple.take (nOpsOf i))) = true) :
    ∀ i ∈ l, Fires (wState i (some (.s 5)) (some (.s 3)) (some (.s 1)) f g) foc
      (tBlk i (some (.s 5)) (some (.s 3)) (some (.s 1))) i (tTriple.take (nOpsOf i)) := fun i hi =>
  fires_of (eq_of_beq (List.all_eq_true.1 h i hi))

/-- Every instruction of a list may fire in some state. -/
abbrev CanFire (l : List Instr) : Prop := ∀ i ∈ l, ∃ s b ops, Fires s foc b i ops

theorem canFire {l : List Instr}
    (h : l.all (fun i => tGo i (some (.s 5)) (some (.s 3)) (some (.s 1)) == some (tTriple.take (nOpsOf i))) = true) :
    CanFire l := fun i hi => ⟨_, _, _, fires_all (f := id) (g := id) h i hi⟩

theorem witness_StepRunsTheDecodedInstruction :
    (∃ (s : State) (b : Blk), s.agenda = .fire foc :: [] ∧ s.blk? foc.ctx foc.blk = some b ∧ foc.slot ∈ slotStarts false 0 b.body ∧
      decode (b.body.drop foc.slot) = .ok (.tend .always 0 5, [0])) ∧
    (∃ s : State, s.agenda = .fire foc :: [] ∧ s.blk? foc.ctx foc.blk = none) ∧
    (Instr.taskBind 0).encodes = false ∧ (Instr.tkill .always).encodes = true ∧
    (∀ i ∈ [Instr.packageReset, .hostMemoryAccess (.hostWrite 0 [1]), .taskBind 0, .tkill .always],
      ∃ s : State, s.agenda = .event i :: [] ∧ s.pkg.boot = .off) ∧
    (∃ s : State, s.agenda = .event (.taskBind 0) :: [] ∧ s.pkg.boot ≠ .off) ∧ (∃ s : State, s.agenda = .tick 5 :: []) ∧
    (∃ s : State, s.agenda = [] ∧ s.pkg.boot = .off) ∧ decodeTableWord 32 0xC8000005 = some (.tend .always 0 5) :=
  ⟨⟨State.reset.withFetchWord 32 0xC8000005, probeBlk (tableWords 32 0xC8000005), rfl, rfl, by decide, by decide⟩,
   ⟨{ State.reset with agenda := [.fire foc] }, rfl, rfl⟩, rfl, rfl,
   fun i _ => ⟨{ State.reset with agenda := [.event i], pkg := { Pkg.reset with boot := .off } }, rfl, rfl⟩,
   ⟨{ State.reset with agenda := [.event (.taskBind 0)] }, rfl, by decide⟩, ⟨{ State.reset with agenda := [.tick 5] }, rfl⟩,
   ⟨{ State.reset with pkg := { Pkg.reset with boot := .off } }, rfl, rfl⟩, by decide⟩

theorem witness_DecodeOfEncodeIsTheInstruction : (Instr.shli .onTrue true 31 0x1FF).encodes = true ∧
    (Instr.shli .onTrue true 31 0x1FF).wf = true := by decide

theorem witness_DecodedWordsAreTheirOwnEncoding : decode [0xC8000005#32] = .ok (.tend .always 0 5, []) ∧
    isReserved ((0xFE000000#32).toNat / 2 ^ 25) = true := by decide

theorem witness_EveryStepKeepsTheMemoriesCanonical : MemOk { State.reset with agenda := [.tick 5] } ∧
    Goes (step { State.reset with agenda := [.tick 5] }) := ⟨⟨rfl, rfl, rfl, rfl⟩, _, rfl⟩

theorem witness_IntegerInstructionsGiveTheTabledResults : CanFire [.add .onTrue false 0 0x81, .sub .always true 0 0, .mul .onFalse false 0 0, .mulh .always true false 0 0, .div .always false false 0 0,
    .rem .always true true 0 0, .and .always false 0 0, .or .always false 0 0, .xor .always false 0 0, .andn .always false 0 0,
    .shl .always false 0 0, .shr .always true 0 0, .sar .always true 0 0, .rot .always false 0 0, .min .always true false 0 0,
    .max .always false true 0 0, .sel .always false 0 0, .madd .always true 0 0, .bits .always .clz false 0 0,
    .bits .always .bswap true 0 0, .ext .always .b32 true true 0 0, .addi .always false 0x1FF 0, .muli .always true 2 0,
    .andi .always false 2 0, .ori .always false 2 0, .xori .always false 2 0, .shli .always false 63 0, .shri .always true 31 0,
    .sari .always false 0 0, .mini .always true true 2 0, .maxi .always false false 2 0] := canFire (by decide)

theorem witness_ComparesSendOneWhenTheConditionHolds : CanFire [.tcmp .always .eq false 0 0, .tcmp .always .gen true 0 0, .tcmpi .onTrue .lt false 0x100 0, .tcmpi .always .ltn true 1 0,
    .tbit .always false 0 0, .tbit .always true 0 0] := canFire (by decide)

theorem witness_EveryInstructionWaitsOrResolvesBeforeItFires :
    let i := Instr.add .onTrue false 0 0x81
    let at' (a b : Option Tok) : State := tState i a b none id
    (Idle (at' none (some (.s 1))) foc (tBlk i none (some (.s 1)) none) ∧ ((tBlk i none (some (.s 1)) none).slot 0).ready i = .wait) ∧
    (Idle (at' (some .null) none) foc (tBlk i (some .null) none none) ∧ ((tBlk i (some .null) none none).slot 0).ready i = .null) ∧
    (∃ s b, Idle s foc b ∧ (b.slot 0).ready i = .off) ∧ ((∃ p, some (Tok.s 0) = some (.s p) ∧ p.getLsbD 0 = false) ∧ vecMember i = false) ∧
    (∃ s b, Idle s foc b ∧ (b.slot 0).ready (.vred .onTrue .f32 0 0 .add 0 0x081) = .off ∧ vecMember (.vred .onTrue .f32 0 0 .add 0 0x081) = true) ∧
    (∃ s b f, Idle s f b ∧ (b.slot f.slot).ready (.mzero .always .fp32 0 0 0) = .go [] ∧
      b.streamReady f.slot (.mzero .always .fp32 0 0 0) = false) :=
  ⟨⟨⟨rfl, rfl, rfl, rfl⟩, by decide⟩, ⟨⟨rfl, rfl, rfl, rfl⟩, by decide⟩,
   ⟨let b : Blk := { probeBlk (encode (.add .onTrue false 0 0x81)) with slots := [{ Slot.fresh with pd := some (.s 0) }] }
    { State.reset with focus := some foc, ctxs := [(0, { Ctx.reset with uid := 1, blks := [b] })] }, _, ⟨rfl, rfl, rfl, rfl⟩, by decide⟩, ⟨⟨0, rfl, by decide⟩, rfl⟩,
   ⟨let b : Blk := { probeBlk (encode (.vred .onTrue .f32 0 0 .add 0 0x081)) with slots := [{ Slot.fresh with pd := some (.s 0) }] }
    { State.reset with focus := some foc, ctxs := [(0, { Ctx.reset with uid := 1, blks := [b] })] }, _, ⟨rfl, rfl, rfl, rfl⟩, by decide⟩,
   ⟨let b : Blk := probeBlk (encode (.mzero .always .fp32 0 0 0) ++ encode (.mzero .always .fp32 0 0 0))
    { State.reset with focus := some ⟨0, 0, 2, false⟩, ctxs := [(0, { Ctx.reset with uid := 1, blks := [b] })] }, _, ⟨0, 0, 2, false⟩,
    ⟨rfl, rfl, rfl, rfl⟩, by decide, by decide⟩⟩

theorem witness_TokensArriveOncePerOperandAndOfAnAcceptedWidth :
    let b := tBlk (.add .always false 0 0x81) none (some (.s 1)) none
    b.trap = none ∧ (0x080#9).toNat = 128 * 1 + 0 ∧ (b.slot 0).got 1 = false ∧ (b.slot 0).got 2 = true ∧
    ((instrAt b.body 0).any fun i => acceptsTok i 1 (.s 7)) = true ∧ ((instrAt b.body 0).any fun i => acceptsTok i 1 (.m 7)) = false ∧
    0 < b.slots.length := by decide

theorem witness_PlumbingMovesReadsAndWritesTokens :
    (∀ i ∈ [Instr.gwrite .always 63, .gwrite .onTrue 0, .xwrite .always .v 31, .xwrite .always .m 0, .mov .always 0 0,
        .movl .onFalse 0 0 0 0, .null .always 0 0, .genc 0x8000 0, .gencn 0xFFFF 0, .appc 1 0, .gencl .always 7 0 0, .gread 63 0 0,
        .xread .h 15 0 0],
      ∃ s b ops, Fires s foc b i ops) ∧
    (Ctx.entryG { Ctx.reset with blks := [probeBlk []] } 0 63 = some 0) ∧
    (Ctx.entryTok { Ctx.reset with blks := [probeBlk []] } 0 .h 15 = some (.h 0)) :=
  ⟨canFire (by decide), rfl, rfl⟩

theorem modeAt_zero {x : Ctx} (h : x.fpmode = 0) : x.modeAt 0 .dyn = some .rne := by
  simp [Ctx.modeAt, Ctx.entryMode, Ctx.olderBlks, h, fpmodeRm]

theorem witness_FloatInstructionsSendThePatternAndNoteTheFlags :
    (∀ i ∈ [Instr.fadd .always true .rup 0 0, .fsub .always false .rup 0 0, .fmul .always true .rup 0 0, .fdiv .always true .rup 0 0,
        .fsqrt .always true .rup 0 0, .fma .always true .rup 0 0, .fmin .always true 0 0, .fmax .always false 0 0,
        .fclass .always true 0 0, .fsgn .always true .abs 0 0, .fsgn .always true .copysign 0 0, .fcmp .always .lt true 0 0,
        .fcvt .always 0x1F 0 0, .fcvt .always 1 0 0],
      ∃ s b ops, Fires s foc b i ops ∧ (s.ctx 0).modeAt 0 .rup = some .rup ∧ (s.ctx 0).modeAt 0 .dyn = some .rne) ∧
    fcvtRm 1 = .dyn ∧ fcvtRm 0x1F = .rtz :=
  ⟨fun i hi => ⟨_, _, _, fires_all (f := id) (g := id) (by decide) i hi, rfl, modeAt_zero rfl⟩, by decide, by decide⟩

theorem witness_FloatSpecialCasesAreThoseOfTheTable :
    fp32.val 0x7F800001 = .nan true ∧ fp32.val 0x7FC00000 = .nan false ∧ fp64.val 0xFFF0000000000000 = .inf true ∧
    bf16.val 0x7F80 = .inf false ∧ fp32.val 0x80000000 = .zero true ∧ fp64.val 0 = .zero false ∧
    fp32.val 0xBF800000 = .fin true 8388608 (-23) ∧ fp32.val 1 = .fin false 1 (-149) := by decide +kernel

/-- A state with one block in flight, in context 0, and slot 0 about to fire. -/
def oneBlk (b : Blk) : State :=
  { State.reset with focus := some foc, ctxs := [(0, { Ctx.reset with uid := 1, blks := [b] })], tasks := [(1, probeTask)] }

/-- A block whose exit has fired and that holds another. -/
def exitedBlk : Blk := { probeBlk (encode (.br .always 0 1)) with exit := some (.to 1 0) }

theorem witness_ExitsNameTheSuccessorOrTheExitCode :
    (∀ i ∈ [Instr.br .always 0 0x80000, .callb .always 7 1, .yield .always 0 0, .tend .always 0 255, .tendOp0 .always 0, .trap .always 255,
        .bri .always 0, .retb .onTrue 0], ∃ s b ops, Fires s foc b i ops ∧ b.exit = none ∧ (opw (tTriple.take 1) 0).toNat % 16 ≠ 0) ∧
    (∃ ops, tGo (.bri .always 0) (some (.s 32)) none none = some ops ∧ (opw ops 0).toNat % 16 = 0) ∧
    (∃ s b ops, Fires s foc b (.br .always 0 1) ops ∧ b.exit ≠ none) :=
  ⟨fun i hi => ⟨_, _, _, fires_all (f := id) (g := id) (by decide) i hi, rfl, by decide⟩, ⟨[.s 32], by decide, by decide⟩,
   ⟨oneBlk exitedBlk, exitedBlk, [], ⟨⟨rfl, rfl, rfl, rfl⟩, by decide, by decide⟩, by decide⟩⟩

theorem witness_ControlRegistersReadWriteAndCheckPrivilege :
    (∀ i ∈ [Instr.ctlrd .always 0x011 0 0, .ctlrd .always 0x100 0 0, .ctlwr .always 0x011, .ctlset .always 0x103, .ctlclr .always 0x203,
        .ptok .always 0 0, .hint .always .heavy, .cycrd .always 0 0, .haltd .always 9],
      (∃ s b ops, Fires s foc b i ops ∧ (s.ctx 0).priv = true ∧ s.partOfBrick 0 = some 3 ∧ (s.part 3).debugOn = true ∧
        (s.brick 0).bucket = 16384 ∧ (s.ctx 0).held = 0) ∧
      ∃ s b ops, Fires s foc b i ops ∧ (s.ctx 0).priv = false ∧ s.partOfBrick 0 = some 3 ∧ (s.part 3).debugOn = false) :=
  fun i hi =>
    ⟨⟨_, _, _, fires_all (f := fun c => { c with priv := true })
        (g := fun s => { s with piers := [(0, { Pier.reset with owner := some 3 })], parts := [(3, { Part.reset with debugOn := true })] })
        (by decide) i hi, rfl, rfl, rfl, rfl, rfl⟩,
     ⟨_, _, _, fires_all (f := id) (g := fun s => { s with piers := [(0, { Pier.reset with owner := some 3 })] }) (by decide) i hi,
       rfl, rfl, rfl⟩⟩

/-- The first address of the local scratchpad window. -/
def winA : Word := BitVec.ofNat 64 Config.localWin

/-- An instruction about to fire with the window's address as its first operand. -/
def winState (i : Instr) (y : Word) (f : Ctx → Ctx) : State := wState i (some (.s winA)) (some (.s y)) (some (.s 1)) f id
def winBlk (i : Instr) (y : Word) : Blk := tBlk i (some (.s winA)) (some (.s y)) (some (.s 1))

/-- The task of those states. -/
def winTask : Task := { probeTask with lease := [(0, 0x10000), (Config.localWin, 0x400000)] }

theorem fires_win {i : Instr} {y : Word} {f : Ctx → Ctx} {ops : List Tok}
    (h : tGo i (some (.s winA)) (some (.s y)) (some (.s 1)) = some ops) : Fires (winState i y f) foc (winBlk i y) i ops := fires_of h

/-- The address check of the window's first bytes. -/
theorem check_win {s : State} {t : Task} {n : Nat} {acc : Acc} (r : s.brick 0 = Brick.reset) (h : Config.localWin % n = 0) :
    s.check t 0 winA n acc = (.ok ⟨.spad, 0⟩ 0, s) := by
  have e : s.spadLoc 0 winA.toNat = some (some ⟨.spad, 0⟩) := by
    unfold State.spadLoc
    rw [r, if_neg (by decide), if_neg (by decide), if_pos (by decide)]
    decide
  have w : winA.toNat = Config.localWin := by decide
  unfold State.check
  simp only [e]
  rw [if_neg (by decide), if_pos (by rw [w]; exact h)]

/-- A read of the window's first bytes can be made now. -/
theorem readable_win {i : Instr} {y : Word} {f : Ctx → Ctx} {n : Nat} {acc : Acc} {v : Sees}
    (h : Config.localWin % n = 0) (hk : ((winState i y f).ctx 0).storesKnown 0 = true)
    (ha : ∀ k, v = .lsid k → (winBlk i y).ahead k = false) :
    Readable (winState i y f) foc (winBlk i y) winA n acc v winTask ⟨.spad, 0⟩ 0 (winState i y f) := by
  refine ⟨⟨rfl, check_win rfl h⟩, hk, rfl, rfl, ?_, ?_, ?_⟩
  · intro k hv hb
    rw [ha k hv] at hb
    cases hb
  · intro hp
    have e : (winState i y f).blockPoison foc.ctx foc.blk winTask.uid ⟨.spad, 0⟩ n v = false := rfl
    rw [e] at hp
    cases hp
  · intro k j r _ hr
    have e : (winBlk i y).higher k ⟨.spad, 0⟩ = none := rfl
    rw [e] at hr
    cases hr

/-- A block about to fire i, slot 1 of which, a load of LSID 5, has read the window's first bytes, and the state it stands in. -/
def earlyBlk (i : Instr) : Blk := { winBlk i 7 with reads := [⟨1, .lsid 5, ⟨.spad, 0⟩, leBytes 8 0, [], winA.toNat, leBytes 8 0, false⟩] }
def earlyState (b : Blk) : State := { winState (.hint .always .heavy) 7 id with ctxs := [(0, { Ctx.reset with uid := 1, blks := [b] })] }

theorem witness_PrivilegedInstructionsLeaveTheirEffectForCommit :
    (∀ i ∈ [Instr.eret .always, .ttinv .always .all, .ttinv .always .page, .ttinv .always .table, .leaseAdd .always, .leaseDrop .always, .idle .always, .ctxsv .always 0 0, .ctxld .always],
      (∃ s b ops, Fires s foc b i ops ∧ (s.ctx 0).priv = true) ∧ ∃ s b ops, Fires s foc b i ops ∧ (s.ctx 0).priv = false) ∧
    opw tTriple 1 ≠ 0 ∧ (opw tTriple 1).toNat ≤ 2 ^ 40 ∧
    (∃ ops, Fires (winState (.ctxsv .always 0 0) 0 fun c => { c with priv := true }) foc (winBlk (.ctxsv .always 0 0) 0) (.ctxsv .always 0 0) ops ∧
      (winState (.ctxsv .always 0 0) 0 fun c => { c with priv := true }).taskOf 0 = some winTask ∧ (opw ops 0).toNat % 64 = 0 ∧
      (winState (.ctxsv .always 0 0) 0 fun c => { c with priv := true }).pmaBusy 0 1 = false ∧
      (winState (.ctxsv .always 0 0) 0 fun c => { c with priv := true }).checkRange winTask 0 (opw ops 0) (fullMasks (naccOf 0)).size 1 .write = none ∧
      (winState (.ctxsv .always 0 0) 0 fun c => { c with priv := true }).accBad winTask.uid (fullMasks (naccOf 0)) = false) ∧
    ((2 ^ 40 + 1 : Word) = 0 ∨ 2 ^ 40 < (2 ^ 40 + 1 : Word).toNat) ∧
    (let s := winState (.ctxld .always) 0 fun c => { c with priv := true }
     ∃ ops fixed bytes, Fires s foc (winBlk (.ctxld .always) 0) (.ctxld .always) ops ∧
      s.checkRange winTask 0 (opw ops 0) 512 1 .read = none ∧ s.readFlat 0 0 1 (opw ops 0).toNat 512 = some fixed ∧ recordNa fixed ≤ naccOf 0 ∧
      s.checkRange winTask 0 (opw ops 0) (masksOf fixed).size 1 .read = none ∧ s.flatPoison 0 0 1 (opw ops 0).toNat (masksOf fixed).size = none ∧
      s.readFlat 0 0 1 (opw ops 0).toNat (masksOf fixed).size = some bytes) :=
  ⟨fun i hi => ⟨⟨_, _, _, fires_all (f := fun c => { c with priv := true }) (g := id) (by decide) i hi, rfl⟩,
     ⟨_, _, _, fires_all (f := id) (g := id) (by decide) i hi, rfl⟩⟩,
   by decide, by decide, ⟨_, fires_win rfl, rfl, by decide, by decide, by decide +kernel, by decide +kernel⟩, by decide,
   ⟨[.s winA], List.replicate 512 0, List.replicate 512 0, fires_win rfl, by decide +kernel, by decide +kernel, by decide +kernel, by decide +kernel, by decide +kernel, by decide +kernel⟩⟩

/-- A write of eight bytes that has left its brick. -/
def tWrite : Write :=
  { id := 5, uid := 1, ord := 1, die := 0, brick := 0, loc := ⟨.dram, 64⟩, bytes := leBytes 8 7, cached := false, cmd := 0, rel := none,
    deps := [], flat := 64, pte := 0, trk := [], part := 0 }

/-- A block of two instructions about to fire the first, on the window's address, with the second still waiting. -/
def pairBlk (i k : Instr) : Blk :=
  { probeBlk (encode i ++ encode k) with
    slots := { Slot.fresh with op0 := some (.s winA), op1 := some (.s 7) } :: (encode k).map fun _ => Slot.fresh }

theorem witness_LoadsSendTheBytesTheirBlockSees :
    CanFire [.ldb .always 0 0x1FF 0, .ldbn .always 1 0xFF 0, .ldh .always 2 0 0, .ldhn .always 31 0 0, .ldw .always 0 0 0, .ldwn .always 0 0 0,
      .ldd .always 0 0 0, .lda .always 0 .sys true 0] ∧
    (let i := Instr.ldd .always 3 0 0
     ∃ ops t l pte s', Fires (winState i 0 id) foc (winBlk i 0) i ops ∧ Readable (winState i 0 id) foc (winBlk i 0)
      (opw ops 0 + (0#9).signExtend 64 * BitVec.ofNat 64 8) 8 .read (.lsid 3) t l pte s' ∧ (winBlk i 0).loadsAbove 3 none = []) ∧
    (let i := Instr.ldd .always 3 0 0
     let b := pairBlk i (.std .always 1 0)
     ∃ ops t l pte s', Fires (earlyState b) foc b i ops ∧ Allowed (earlyState b) foc (opw ops 0 + 0) 8 .read t l pte s' ∧
      b.ahead 3 = true ∧ foc.early = false) ∧
    (let i := Instr.ldd .always 3 0 0
     let b := pairBlk i (.hint .always .heavy)
     let s := { earlyState b with writes := [{ tWrite with loc := ⟨.spad, 4⟩, bytes := leBytes 4 7 }] }
     ∃ ops t l pte s', Fires s foc b i ops ∧ Allowed s foc (opw ops 0 + 0) 8 .read t l pte s' ∧ s'.partOwn 0 0 1 l 8 = true) ∧
    (let w : StoreRec := ⟨some 2, 1, ⟨.dram, 64⟩, leBytes 8 7, none, 64, 0, none⟩
     let b : Blk := { probeBlk [] with stores := [] ++ w :: [{ w with lsid := some 3 }] }
     ((oneBlk b).ctx 0).blks[0]? = some b ∧ b.higher 3 ⟨.dram, 64⟩ = none ∧ 64 % 8 + 8 ≤ 8 ∧
      (2 < 3 ∧ w.performed = none ∧ w.bytes.length = 8 ∧ (3 : Nat) ≤ 3)) :=
  ⟨canFire (by decide), ⟨_, _, _, _, _, fires_win rfl, readable_win (by decide) (by decide) (fun k h => by cases h; decide), by decide⟩,
   ⟨_, winTask, ⟨.spad, 0⟩, 0, _, ⟨⟨rfl, rfl, rfl, rfl⟩, rfl, rfl⟩, ⟨rfl, check_win rfl (by decide)⟩, by decide, rfl⟩,
   ⟨_, winTask, ⟨.spad, 0⟩, 0, _, ⟨⟨rfl, rfl, rfl, rfl⟩, rfl, rfl⟩, ⟨rfl, check_win rfl (by decide)⟩, by decide⟩,
   ⟨rfl, rfl, by decide, by decide⟩⟩

theorem witness_AddressChecksTrapInTheirOrder :
    let s := winState (.ldh .always 0 0 0) 0 id
    (2 ^ 57 ≤ (0x200000000000000#64).toNat) ∧ s.spadLoc 0 (BitVec.ofNat 64 Config.unmappedWin).toNat = some none ∧
    s.spadLoc 0 (winA + 1).toNat = some (some ⟨.spad, 1⟩) ∧ (winA + 1).toNat % 2 = 1 ∧
    (s.spadLoc 0 3 = none ∧ 3 % 2 ≠ 0) ∧ (s.spadLoc 0 0x10000 = none ∧ winTask.inLease 0x10000 2 = false) ∧
    (s.spadLoc 0 0xFFFE = none ∧ winTask.inLease 0xFFFE 2 = true) ∧
    CanFire [.ldb .always 0 0 0, .ldbn .always 0 0 0, .ldh .always 0 0 0, .ldhn .always 0 0 0, .ldw .always 0 0 0, .ldwn .always 0 0 0,
      .ldd .always 0 0 0, .lda .always 0 .dev false 0, .stb .always 0 0, .sth .always 0 0, .stw .always 0 0, .std .always 0 0,
      .stl .always 0 .dev true, .amo .always 0 .add true .dev .ar 0 0, .cas .always 0 true .dev .rlx 0 0, .famo .always 0 .fadd32 .dev .rlx 0 0] ∧
    ∃ b ops s', Fires (tState (.ldh .always 0 0 0) (some (.s 3)) none none id) foc b (.ldh .always 0 0 0) ops ∧
      (tState (.ldh .always 0 0 0) (some (.s 3)) none none id).check winTask 0 (opw ops 0) 2 .read = (.bad 5 3, s') := by
  refine ⟨by decide, by decide, by decide, by decide, by decide, by decide, by decide, canFire (by decide), ?_⟩
  exact ⟨tBlk (.ldh .always 0 0 0) (some (.s 3)) none none, [.s 3], _, ⟨⟨rfl, rfl, rfl, rfl⟩, by decide, by decide⟩, rfl⟩

theorem witness_StoresAreHeldWithTheirBlock :
    CanFire [.stb .always 0 0, .sth .always 0 0, .stw .always 0 0, .std .always 0 0, .stl .always 0 .dev true] ∧
    (let i := Instr.std .always 3 0
     ∃ ops t l pte s', Fires (winState i 7 id) foc (winBlk i 7) i ops ∧ Allowed (winState i 7 id) foc (opw ops 0 + 0) 8 .write t l pte s' ∧
       (winBlk i 7).readAbove 3 l 8 = []) ∧
    (let i := Instr.std .always 3 0
     let b := earlyBlk i
     ∃ ops t l pte s', Fires (earlyState b) foc b i ops ∧ Allowed (earlyState b) foc (opw ops 0 + 0) 8 .write t l pte s' ∧
       b.readAbove 3 l 8 = [1] ∧ (∀ m ∈ [1], b.canRefire m 0 = true)) ∧
    (let i := Instr.std .always 3 0
     let b := { pairBlk i (.ldd .always 5 0 0x100) with reads := [⟨1, .lsid 5, ⟨.spad, 0⟩, leBytes 8 0, [], winA.toNat, leBytes 8 0, false⟩] }
     ∃ ops t l pte s', Fires (earlyState b) foc b i ops ∧ Allowed (earlyState b) foc (opw ops 0 + 0) 8 .write t l pte s' ∧
       b.readAbove 3 l 8 = [1] ∧ (∃ m ∈ [1], b.canRefire m 0 = false) ∧ b.lsidTaken 0 3 = false) ∧
    ({ State.reset with writes := [tWrite] }.writes.find? (fun x => x.id == 5) = some tWrite ∧
      { State.reset with writes := [tWrite] }.writeReady tWrite = true ∧ tWrite.nextLevel = .cache ∧
      { tWrite with cached := true }.nextLevel = .home ∧ { tWrite with loc := ⟨.spad, 64⟩ }.nextLevel = .home ∧
      (∀ x ∈ [{ tWrite with loc := ⟨.spad, 64⟩ }], x.cached = true → x.loc.sp = .spad → overlaps x.loc.a 8 64 8 = false) ∧
      State.reset.discOf 0 = 0 ∧ { State.reset with dram := [(0x20001, 1)] }.discOf 0x20000 = 1) ∧
    ({ State.reset with writes := [{ tWrite with id := 4 }, tWrite] }.writeReady tWrite = false) :=
  ⟨canFire (by decide), ⟨_, _, _, _, _, fires_win rfl, ⟨rfl, check_win rfl (by decide)⟩, by decide⟩,
   ⟨_, winTask, ⟨.spad, 0⟩, 0, _, ⟨⟨rfl, rfl, rfl, rfl⟩, rfl, rfl⟩, ⟨rfl, check_win rfl (by decide)⟩, by decide, by decide⟩,
   ⟨_, winTask, ⟨.spad, 0⟩, 0, _, ⟨⟨rfl, rfl, rfl, rfl⟩, rfl, rfl⟩, ⟨rfl, check_win rfl (by decide)⟩, by decide, by decide, by decide⟩,
   ⟨rfl, by decide, by decide, by decide, by decide, by decide, by decide, by decide +kernel⟩, by decide⟩

/-- Page tables in pier 0, owned by partition 0: flat 0 to 2^25 is DRAM at 2^25, and the next 2^25 bytes are host memory at 0. -/
def tabled (s : State) : State :=
  { s with
    dram := [(0x400, 0x39), (0x402, 0x01), (0x10000, 0x39), (0x10002, 0x02), (0x20000, 0xBD), (0x20003, 0x02), (0x20008, 0xFD)]
    piers := [(0, { Pier.reset with owner := some 0 })]
    parts := [(0, { Part.reset with configured := true, xlctrl := 1, xlroot := 0x400 })] }

theorem tabled_translates : (∃ t, (tabled State.reset).walk 0 0x1234 .write = .ok t ∧ t.loc 0x1234 = ⟨.dram, 0x2001234⟩) ∧
    ∃ t, (tabled State.reset).walk 0 0x2001234 .read = .ok t ∧ t.loc 0x2001234 = ⟨.host, 0x1234⟩ :=
  ⟨⟨⟨0x2000000, 0x2000000, false, true, true, true, 0, 0x20001⟩, by decide +kernel, by decide +kernel⟩,
   ⟨⟨0, 0x2000000, true, true, true, true, 0, 0x20009⟩, by decide +kernel, by decide +kernel⟩⟩

/-- A block whose slot 0 has fired and waits, in context 0. -/
def busyBlk (i : Instr) (a b c : Option Tok) : Blk :=
  let k := tBlk i a b c
  k.setSt 0 .busy
def busyState (i : Instr) (a b c : Option Tok) (g : State → State) : State :=
  g { oneBlk (busyBlk i a b c) with tasks := [(1, winTask)] }

theorem witness_AtomicsReadAndWriteTheirHomeInOneStep :
    CanFire [.amo .always 0 .add true .dev .ar 0 0, .cas .always 0 true .dev .rlx 0 0, .famo .always 0 .fadd32 .dev .rlx 0 0] ∧
    (∀ i ∈ [Instr.amo .always 0 .smin true .dev .ar 0 0, .cas .always 1 false .dev .rlx 0 0, .famo .always 31 .faddbf .dev .rlx 0 0],
      ∃ ops t l pte s', Fires (winState i 3 id) foc (winBlk i 3) i ops ∧ Allowed (winState i 3 id) foc winA 4 .write t l pte s' ∧
        l.sp ≠ .host ∧ (winBlk i 3).readAbove 31 l 4 = []) ∧
    (let i := Instr.amo .always 0 .smin true .dev .rlx 0 0
     ∃ t l pte s', let s := wState i (some (.s 0x2000000)) (some (.s 3)) none id fun s => tabled { s with tasks := [(1, { winTask with lease := [(0, 0x4000000)] })] }
      Fires s foc (tBlk i (some (.s 0x2000000)) (some (.s 3)) none) i [.s 0x2000000, .s 3] ∧ Allowed s foc 0x2000000 8 .write t l pte s' ∧
        l.sp = .host ∧ hostAtomic i = false) ∧
    (let i := Instr.amo .always 3 .add true .brick .ar 0 0
     let s := busyState i (some (.s winA)) (some (.s 3)) none id
     let b := busyBlk i (some (.s winA)) (some (.s 3)) none
     let l : PLoc := ⟨.spad, 0⟩
     s.findBusy 0 0 (fun i => (atomicShape i).isSome) = some (foc, b, i) ∧ s.taskOf 0 = some winTask ∧
      atomicShape i = some (8, .brick, .ar) ∧ storeLsid i = some 3 ∧ (b.slot 0).ops i = [.s winA, .s 3] ∧
      (s.check winTask 0 winA 8 .write).1 = .ok l 0 ∧ s.discOf 0 = 0 ∧ b.lowerKnown 3 = true ∧ s.mayGo foc b i winTask = true ∧
      b.beforeAtomic 3 l 8 true = [] ∧ s.pendingAt 0 1 l 8 = [] ∧ s.homePending 1 l 8 = false ∧ s.writes = [] ∧
      s.relReady winTask b = true ∧ s.poisoned l 8 = false ∧ 0 % 8 + 8 ≤ 8 ∧ NoSpills s foc ∧ b.resv = []) ∧
    (let i := Instr.amo .always 3 .add true .brick .ar 0 0
     let b := (pairBlk i (.std .always 1 0)).setSt 0 .busy
     let s := { oneBlk b with tasks := [(1, winTask)] }
     s.findBusy 0 0 (fun i => (atomicShape i).isSome) = some (foc, b, i) ∧ s.taskOf 0 = some winTask ∧
      (s.check winTask 0 (opw ((b.slot 0).ops i) 0) 8 .write).1 = .ok ⟨.spad, 0⟩ 0 ∧ b.lowerKnown 3 = false) ∧
    (let i := Instr.amo .always 3 .add true .dev .rlx 0 0
     let b := { pairBlk (.ldd .always 5 0 0x101) i with
       reads := [⟨0, .lsid 5, ⟨.spad, 0⟩, leBytes 8 0, [], winA.toNat, leBytes 8 0, false⟩] }
     b.readAbove 3 ⟨.spad, 0⟩ 8 = [0] ∧ (∃ m ∈ [0], 1 ∈ b.after [m]) ∧ b.lsidTaken 1 3 = false ∧ (0 : Nat) ∉ b.after [1]) := by
  refine ⟨canFire (by decide), ?_, ⟨{ winTask with lease := [(0, 0x4000000)] }, ⟨.host, 0⟩, 0x20009, _,
      ⟨⟨rfl, rfl, rfl, rfl⟩, rfl, rfl⟩, ⟨rfl, rfl⟩, rfl, rfl⟩, ?_, ?_, ?_⟩
  · intro i hi
    refine ⟨[.s winA, .s 3, .s 1].take (nOpsOf i), winTask, ⟨.spad, 0⟩, 0, _, fires_win ?_,
      ⟨rfl, check_win rfl ?_⟩, by decide, rfl⟩
    all_goals fin_cases hi <;> rfl
  · exact ⟨rfl, rfl, rfl, rfl, rfl, rfl, rfl, by decide, by decide, by decide, rfl, rfl, rfl, by decide, rfl, by decide,
      fun _ h => (by cases h), rfl⟩
  · exact ⟨rfl, rfl, by decide, by decide⟩
  · exact ⟨by decide, by decide, by decide, by decide⟩

theorem witness_FencesSendTokensAndPerformAfterTheirWork :
    CanFire [.fence .always .dev .ar 0 0, .fencer .always .dev .rel 0 true 0 0, .fencerArm .always 0 true 0 0, .fencerDisarm .always 0 true 0 0,
      .fwait .always 0 0, .mwait .always .dev .ge 0 0, .pref .always 0 0] ∧
    (let s := wState (.fencerArm .always 0 true 0 0) (some (.s 5)) (some (.s 3)) none id id
     s.taskOf 0 = some winTask ∧ s.namedRanges foc 0 true [.s 5, .s 3] = .ok [(16, .flat 5 3, none)] ∧
     s.namedRanges foc 0 true [.s 5, .s 0] = .bad 7 5) ∧
    (fenceNum 7 = none ∧ fenceNum 0xFE00000000000007 = some 7 ∧ winTask.fenceNewest < 7 ∧
      7 ≤ { winTask with fenceNewest := 7 }.fenceNewest ∧
      ∃ r ∈ { winTask with fences := [⟨7, 1, .dev, .rel, none, true⟩] }.fences, r.num = 7 ∧ r.done = true) ∧
    (let t := { winTask with fences := [⟨7, 1, .dev, .rel, none, false⟩] }
     let s : State := { State.reset with tasks := [(1, t)], writes := [{ tWrite with loc := ⟨.dram, 64⟩ }] }
     s.task? 1 = some t ∧ ∀ r ∈ t.fences, s.fenceReady t r = true) ∧
    (let i := Instr.mwait .always .dev .ge 0 0
     ∃ ops t l pte s', Fires (winState i 0 id) foc (winBlk i 0) i ops ∧ Readable (winState i 0 id) foc (winBlk i 0) (opw ops 0) 8 .read .none t l pte s' ∧
      (opw ops 1).toNat ≤ (leWord (readBytes s' foc (winBlk i 0) t l pte 8 .none)).toNat) ∧
    (let i := Instr.mwait .always .dev .ne 0 0
     ∃ ops t l pte s', Fires (winState i 0 id) foc (winBlk i 0) i ops ∧ Readable (winState i 0 id) foc (winBlk i 0) (opw ops 0) 8 .read .none t l pte s' ∧
      ¬ leWord (readBytes s' foc (winBlk i 0) t l pte 8 .none) ≠ opw ops 1) ∧
    (let i := Instr.mwait .always .sys .ne 0 0
     let s := busyState i (some (.s 0x2000000)) (some (.s 0)) none fun s => tabled { s with tasks := [(1, { winTask with lease := [(0, 0x4000000)] })] }
     ∃ t l pte s', s.findBusy 0 0 isMwait = some (foc, busyBlk i (some (.s 0x2000000)) (some (.s 0)) none, i) ∧
      ((busyBlk i (some (.s 0x2000000)) (some (.s 0)) none).slot 0).ops i = [.s 0x2000000, .s 0] ∧
      Readable s foc (busyBlk i (some (.s 0x2000000)) (some (.s 0)) none) 0x2000000 8 .read .none t l pte s' ∧ l.sp = .host) :=
  ⟨canFire (by decide), ⟨rfl, rfl, rfl⟩, by decide, ⟨rfl, by decide⟩,
   ⟨_, _, _, _, _, fires_win rfl, readable_win (by decide) (by decide) (fun k h => by cases h), by decide⟩,
   ⟨_, _, _, _, _, fires_win rfl, readable_win (by decide) (by decide) (fun k h => by cases h), by decide +kernel⟩,
   ⟨{ winTask with lease := [(0, 0x4000000)] }, ⟨.host, 0⟩, 0x20009, _, rfl, rfl, ⟨⟨rfl, rfl⟩, rfl, rfl, rfl, fun k h => (by cases h),
     fun h => absurd h (by decide +kernel), fun _ _ _ h => (by cases h)⟩, rfl⟩⟩

/-- A class descriptor with one scalar slot stands at flat 0x1000. -/
def classed (s : State) : State :=
  { tabled s with
    dram := [(0x400, 0x39), (0x402, 0x01), (0x10000, 0x39), (0x10002, 0x02), (0x20000, 0xBD), (0x20003, 0x02), (0x20008, 0xFD), (0x2001014, 1)]
    dies := [(0, { Die.reset with ctrl := 1 })]
    tasks := [(1, { winTask with lease := [(0, 0x4000000)] })] }

/-- That class. -/
def tClass : ClassDesc := { probeTask.cls with addr := 0x1000, kinds := [0], counts := [0, 0] }

theorem witness_SpawnsReserveAndSendsLeaveAtCommit :
    CanFire [.tspawn .always true 0 0, .tspawn .always false 0 0, .tfork .always 0 0 0, .tsend .always 7 false, .tsend .always 0 true,
      .tsendh .always 15 7, .tkill .always, .tself .always .frame 0 0, .tself .always .graph 0 0] ∧
    (let i := Instr.tspawn .always false 0 0
     let s := wState i (some (.s 0x1000)) none none id fun s => classed s
     let t := { winTask with lease := [(0, 0x4000000)] }
     Fires s foc (tBlk i (some (.s 0x1000)) none none) i [.s 0x1000] ∧ s.taskOf 0 = some t ∧ s.tearing 0 t.graph = false ∧
      (s.die 0).ctrl.getLsbD 0 = true ∧ s.classSettled foc t 0x1000 = true ∧ s.readClass 0 0 0x1000 = .ok tClass ∧ contOk 0 = true ∧
      (∃ r s', s.reserve 0 0 { t with cls := t.cls } = (r, s')) ∧ s.readClass 0 0 0x1040 = .rejected ∧ (s.ctx 0).streamH 0 15 = some 0) ∧
    (let i := Instr.tfork .always 0 0 0
     let s := busyState i (some (.s 0x1000)) none none classed
     ∃ b, s.blk? 0 0 = some b ∧ b.firm = none ∧ (s.die 0).ctrl.getLsbD 0 = true ∧ (State.reset.die 0).ctrl.getLsbD 0 = false ∧
      b.members.find? (fun m => (b.slot m.1).st == .busy && (spawnShape m.2 []).isSome) = some (0, i) ∧
      spawnShape i ((b.slot 0).ops i) = some (none, [], true) ∧ s.tearing 0 1 = false) :=
  ⟨canFire (by decide), ⟨⟨⟨rfl, rfl, rfl, rfl⟩, rfl, rfl⟩, rfl, rfl, by decide, by decide +kernel, by decide +kernel, by decide, ⟨_, _, rfl⟩,
    by decide +kernel, by decide +kernel⟩, ⟨_, rfl, rfl, by decide, by decide, by decide, by decide, by decide⟩⟩

/-- A barrier that expects two arrivals in the window's first bytes, and a home operation that arrives there. -/
def barred (s : State) : State := { s with spad := [(8, 2)] }
def tHome (k : HomeKind) : HomeOp :=
  { id := 9, uid := 1, ord := 1, part := 0, graph := 1, brick := 0, ctxId := 0, taskId := 0, blk := 0, kind := k, deps := [], scope := .dev,
    trk := [], spans := [(⟨.spad, 0⟩, 64)] }

theorem witness_BarriersCountArrivalsAndAdvanceTheirPhase :
    (∀ i ∈ [Instr.bara .always .dev 0 0, .barw .always .die 0 0],
      ∃ ops, Fires (wState i (some (.s winA)) (some (.s 0)) none id barred) foc (tBlk i (some (.s winA)) (some (.s 0)) none) i ops ∧
      ∃ t l pte s', Readable (wState i (some (.s winA)) (some (.s 0)) none id barred) foc (tBlk i (some (.s winA)) (some (.s 0)) none) (opw ops 0) 64 .read .none t l pte s' ∧
        Allowed (wState i (some (.s winA)) (some (.s 0)) none id barred) foc (opw ops 0) 64 .write t l pte s' ∧ l.sp ≠ .host ∧
        (BarRec.of (readBytes s' foc (tBlk i (some (.s winA)) (some (.s 0)) none) t l pte 64 .none)).ok = true) ∧
    (BarRec.of (leBytes 8 3 ++ leBytes 4 2 ++ List.replicate 52 0)).phase = 3 ∧ (BarRec.of (List.replicate 64 0)).ok = false ∧
    (let h := tHome (.arrive winA.toNat ⟨.spad, 0⟩ .dev)
     let s : State := barred { State.reset with homeOps := [h] }
     s.homeOps.find? (fun h => h.id == 9) = some h ∧ s.depsDone h.deps .dev = true ∧ s.homeQuiet h = true ∧ s.writes = [] ∧
     s.poisoned ⟨.spad, 0⟩ 64 = false ∧ s.discOf (s.homePte h) = 0 ∧ (∀ t, s.task? h.uid = some t → t.drops = []) ∧
     (BarRec.of (s.homeRead ⟨.spad, 0⟩ 64)).ok = true ∧ (BarRec.of (s.homeRead ⟨.spad, 0⟩ 64)).arrived + 1 ≠ 2) ∧
    (BarRec.of (({ State.reset with spad := [(8, 2), (12, 1)] } : State).homeRead ⟨.spad, 0⟩ 64)).arrived + 1 = 2 := by
  refine ⟨?_, by decide +kernel, by decide +kernel, ⟨rfl, by decide, by decide +kernel, rfl, rfl, by decide +kernel, fun _ h => (by cases h),
    by decide +kernel, by decide +kernel⟩, by decide +kernel⟩
  intro i hi
  refine ⟨[.s winA, .s 0].take (nOpsOf i), ?_⟩
  simp only [List.mem_cons, List.not_mem_nil, or_false] at hi
  rcases hi with rfl | rfl
  · exact ⟨fires_of rfl, winTask, ⟨.spad, 0⟩, 0, _, ⟨⟨rfl, rfl⟩, rfl, rfl, rfl, fun k h => (by cases h),
      fun h => absurd h (by decide +kernel), fun _ _ _ h => (by cases h)⟩, ⟨rfl, rfl⟩, by decide, by decide +kernel⟩
  · exact ⟨fires_of rfl, winTask, ⟨.spad, 0⟩, 0, _, ⟨⟨rfl, rfl⟩, rfl, rfl, rfl, fun k h => (by cases h),
      fun h => absurd h (by decide +kernel), fun _ _ _ h => (by cases h)⟩, ⟨rfl, rfl⟩, by decide, by decide +kernel⟩

/-- A ring of four 8-byte entries in the window's first bytes, its full bits 256 bytes on: one ticket issued, entry 0 full. -/
def ringed (s : State) : State :=
  { s with spad := [(0, 1), (17, 1), (19, 0xFC), (20, 0xFF), (21, 0xFF), (22, 0xFF), (23, 1), (24, 4), (64, 7), (256, 1)] }

theorem witness_RingInstructionsIssueAndPopInOrder :
    CanFire [.qtkt .always 0 0, .qfill .always, .qpop .always 0 0, .qpeek .always 0 0, .qocc .always 0 0, .qinit .always 16] ∧
    (∀ i ∈ [Instr.qtkt .always 0 0, .qfill .always, .qpop .always 0 0, .qpeek .always 0 0, .qocc .always 0 0],
      let s := wState i (some (.s winA)) (some (.s 0)) (some (.s 0)) id ringed
      ∃ ops, Fires s foc (tBlk i (some (.s winA)) (some (.s 0)) (some (.s 0))) i ops ∧ opw ops 0 = winA) ∧
    (let s := wState (.qpop .always 0 0) (some (.s winA)) none none id ringed
     ∃ r w l pte s', s.ringHdr foc winA .write = .ok r w l pte s' ∧ r.occ = 1 ∧ r.cap = 4 ∧ r.big = false ∧
      s'.ringBitBad w r r.head = none ∧ s'.ringFull w r r.head = true ∧
      s'.ringRead w (winA.toNat + 64) 8 = some [7, 0, 0, 0, 0, 0, 0, 0] ∧ s'.flatPoison w.q w.b 0 (winA.toNat + 64) 8 = none ∧
      r.head ≤ r.ticket ∧ r.ticket < 2 ^ 64 ∧ (∃ b' t, s'.blk? 0 0 = some b' ∧ s'.taskOf 0 = some t ∧
        s'.mayGo foc b' (.qpop .always 0 0) t = true)) ∧
    (let s := wState (.qfill .always) (some (.s winA)) (some (.s 0)) (some (.s winA)) id fun s => { s with spad := [(0, 1), (17, 1), (19, 0xFC), (20, 0xFF), (21, 0xFF), (22, 0xFF), (23, 1), (24, 4), (28, 1)] }
     ∃ r w l pte s', s.ringHdr foc winA .write = .ok r w l pte s' ∧ r.big = true ∧ s'.checkRange winTask 0 winA 32 8 .read = none) ∧
    (∃ r w l pte s', (wState (.qpeek .always 0 0) (some (.s winA)) none none id ringed).ringHdr foc winA .read = .ok r w l pte s') ∧
    (let i := Instr.qinit .always 2
     let s := winState i (winA + 256) id
     ∃ ops t l pte s'', Fires s foc (winBlk i (winA + 256)) i ops ∧ Allowed s foc (opw ops 0) 64 .write t l pte s'' ∧ l.sp ≠ .host ∧
      ((opw ops 1).toNat / 2) % 4 = 0 ∧ s.checkRange t 0 (opw ops 1 &&& ~~~7) ((2 ^ 2 + 63) / 64 * 8) 1 .write = none) ∧
    (let h := tHome (.qfill winA.toNat ⟨.spad, 0⟩ 0 7 (leBytes 8 7))
     let s : State := { (ringed State.reset) with spad := [(0, 1), (17, 1), (19, 0xFC), (20, 0xFF), (21, 0xFF), (22, 0xFF), (23, 1), (24, 4)], homeOps := [h] }
     let r := RingHdr.of (s.homeRead ⟨.spad, 0⟩ 64)
     s.homeOps.find? (fun h => h.id == 9) = some h ∧ s.homeQuiet h = true ∧ r.ok = true ∧ r.head ≤ 0 ∧ 0 < r.ticket ∧
      s.ringFull ⟨0, 0, 1⟩ r 0 = false ∧ s.ringBitBad ⟨0, 0, 1⟩ r 0 = none ∧ s.poisoned ⟨.spad, 0⟩ 64 = false ∧
      ({ s with badSpad := [0] } : State).poisoned ⟨.spad, 0⟩ 64 = true) ∧
    (let h := tHome (.qinit winA.toNat ⟨.spad, 0⟩ 2 (winA + 256))
     ({ State.reset with homeOps := [h] } : State).homeQuiet h = true) := by
  refine ⟨canFire (by decide), ?_, ?_, ⟨⟨1, 0, winA.toNat + 256, 4, true, true⟩, ⟨0, 0, 1⟩, ⟨.spad, 0⟩, 0, _, rfl, rfl, by decide +kernel⟩,
    ⟨_, _, _, _, _, rfl⟩,
    ⟨_, _, _, _, _, fires_win rfl, ⟨rfl, check_win rfl (by decide)⟩, by decide, by decide, by decide +kernel⟩,
    ⟨rfl, by decide, by decide +kernel, by decide +kernel, by decide +kernel, by decide +kernel, by decide +kernel, rfl, by decide⟩, by decide⟩
  · intro i hi
    refine ⟨[.s winA, .s 0, .s 0].take (nOpsOf i), fires_of ?_, ?_⟩
    all_goals fin_cases hi <;> rfl
  · exact ⟨⟨1, 0, winA.toNat + 256, 4, false, true⟩, ⟨0, 0, 1⟩, ⟨.spad, 0⟩, 0, _, rfl, by decide, rfl, rfl, by decide +kernel, by decide +kernel,
      by decide +kernel, by decide +kernel, by decide, by decide, _, winTask, rfl, rfl, by decide +kernel⟩

theorem witness_FiringChangesNoRegisterAndNoMemory : (Instr.add .always false 0 0x81).encodes = true ∧
    (∃ t, exec (.add .always false 0 0x81) (tState (.add .always false 0 0x81) (some (.s 1)) (some (.s 2)) none id) = .next t) ∧
    (∀ b ∈ ((tState (.add .always false 0 0x81) (some (.s 1)) (some (.s 2)) none id).ctx 0).blks, b.resv = []) :=
  ⟨rfl, ⟨_, rfl⟩, by decide⟩

/-- Context registers for the vector and tile witnesses: m1 is lane 0, m2 is empty, eight accumulators. -/
def vecCtx (c : Ctx) : Ctx :=
  { c with m := (c.m.set 1 1).set 2 0, v := (c.v.set 1 0x40400000).set 2 0x3F800000, poolsplit := BitVec.ofNat 64 (8 * 2 ^ 24) }

theorem check_lanes_win {s : State} {t : Task} (r : s.brick 0 = Brick.reset) :
    checkLanes t 0 .f32 (.unit winA) .read [0] s = (none, s) := by
  have h : s.check t 0 ((LaneAddr.unit winA).at .f32 0) ElemTy.f32.bytes .read = (.ok ⟨.spad, 0⟩ 0, s) := check_win r (by decide)
  simp [checkLanes, h]

theorem witness_VectorMemoryMovesItsActiveLanes :
    CanFire [.vld .always .f32 0 31, .vlds .always .f64 1 0, .vldx .always .s8 2 1 2, .vst .always .bf16 0 1, .vsts .always .n32 0 1,
      .vstx .always .s64 0 1 2] ∧
    (let i := Instr.vld .always .f32 1 3
     ∃ ops t l pte s', Fires (winState i 0 vecCtx) foc (winBlk i 0) i ops ∧
      ((winState i 0 vecCtx).ctx 0).streamM 0 1 = some 1 ∧ ((winState i 0 vecCtx).ctx 0).streamV 0 3 = some 0 ∧
      (List.range ElemTy.f32.lanes).filter (fun j => (1 : MaskVal).getLsbD j) = [0] ∧ (LaneAddr.unit winA).at .f32 0 = winA ∧
      checkLanes t 0 .f32 (.unit winA) .read [0] (winState i 0 vecCtx) = (none, winState i 0 vecCtx) ∧
      Readable (winState i 0 vecCtx) foc (winBlk i 0) winA 4 .read (.vec 0) t l pte s') ∧
    (∃ s₁, checkLanes winTask 0 .f32 (.unit (winA + 1)) .read [0, 1] (winState (.vld .always .f32 1 3) 0 vecCtx) = (some (5, winA + 1), s₁)) ∧
    (let i := Instr.vst .always .f32 1 3
     ∃ ops t l pte s', Fires (winState i 0 vecCtx) foc (winBlk i 0) i ops ∧ (winState i 0 vecCtx).taskOf 0 = some t ∧
      Allowed (winState i 0 vecCtx) foc winA 4 .write t l pte s') ∧
    ((List.range ElemTy.f32.lanes).filter (fun j => (0 : MaskVal).getLsbD j) = []) ∧
    (∀ s old, loadLanes foc .f32 (.unit winA) [] old s = (.bytes [] s, old)) ∧
    (∀ s t old, storeLanes foc t .f32 (.unit winA) old [] s = .done s []) :=
  ⟨canFire (by decide), ⟨_, _, _, _, _, fires_win rfl, rfl, rfl, by decide, by decide, check_lanes_win rfl, readable_win (by decide) rfl (fun k h => (by cases h))⟩, ⟨_, rfl⟩,
   ⟨_, _, _, _, _, fires_win rfl, rfl, ⟨rfl, check_win rfl (by decide)⟩⟩, by decide, fun _ _ => rfl, fun _ _ _ => rfl⟩

/-- A lane-wise instruction meets the premises of LaneWise. -/
def LanesMeet (i : Instr) (m vd : Nat) (srcs : List Nat) : Prop :=
  let s := wState i (some (.s 5)) (some (.s 3)) (some (.s 1)) vecCtx id
  (∃ b ops, Fires s foc b i ops) ∧ ((s.ctx 0).streamVs 0 srcs).isSome = true ∧ ((s.ctx 0).streamV 0 vd).isSome = true ∧
    ((s.ctx 0).streamM 0 m).isSome = true ∧ (s.ctx 0).modeAt 0 .dyn = some .rne

/-- 3 is no power of two, and 3/2 no whole number. -/
theorem three_no_power (k : ℤ) : (3 : ℚ) ≠ 2 ^ k := by
  intro h
  rcases k with n | n
  · have e : (2 : ℚ) ^ (n : ℤ) = ((2 ^ n : ℕ) : ℚ) := by simp
    rw [Int.ofNat_eq_natCast, e] at h
    have h' : 3 = 2 ^ n := by exact_mod_cast h
    rcases n with _ | _ | n
    · omega
    · omega
    · rw [Nat.pow_succ, Nat.pow_succ] at h'
      omega
  · rw [zpow_negSucc] at h
    have e : ((2 : ℚ) ^ (n + 1))⁻¹ ≤ 1 := inv_le_one_of_one_le₀ (one_le_pow₀ (by norm_num))
    linarith
theorem half_no_integer (k : ℤ) : (3 / 2 : ℚ) ≠ k := by
  intro h
  have h' : (3 : ℤ) = 2 * k := by
    have : (3 : ℚ) = 2 * k := by linarith
    exact_mod_cast this
  omega

theorem witness_VectorLanesComputeTheTabledResults :
    (∀ i ∈ [Instr.vbcst .always .f32 1 31, .vmov .always .s8 1 31 1, .vand .always .s8 1 31 1 2, .vor .always .s8 1 31 1 2,
        .vxor .always .s8 1 31 1 2, .vadd .always .f32 1 31 1 2, .vsub .always .f64 1 31 1 2, .vmul .always .bf16 1 31 1 2,
        .vdiv .always .f32 1 31 1 2, .vfma .always .f32 1 31 1 2, .vmin .always .f32 1 31 1 2, .vmax .always .f32 1 31 1 2,
        .vabs .always .f32 1 31 1, .vneg .always .f32 1 31 1, .vadd .always .n32 1 31 1 2, .vsub .always .s64 1 31 1 2,
        .vmul .always .s16 1 31 1 2, .vdiv .always .n32 1 31 1 2, .vdiv .always .s8 1 31 1 2, .vmin .always .n32 1 31 1 2,
        .vmax .always .s8 1 31 1 2, .vabs .always .s8 1 31 1, .vneg .always .s8 1 31 1, .vshl .always .s8 1 31 1 2 0,
        .vshr .always .s64 1 31 1 0 63, .vsar .always .s16 1 31 1 0 15, .vrcp .always .f32 1 31 1, .vrsq .always .f64 1 31 1,
        .vexp2 .always .bf16 1 31 1, .vlog2 .always .f32 1 31 1], LanesMeet i 1 31 [1, 2]) ∧
    ElemTy.f64.fmt = some fp64 ∧ ElemTy.bf16.fmt = some bf16 ∧ ElemTy.s8.fmt = none ∧
    (fp32.val 0x7F800001 = .nan true ∧ fp32.val 0x80000000 = .zero true ∧ fp32.val 0xFF800000 = .inf true ∧
      fp32.val 0x7F800000 = .inf false ∧ fp32.bias * 2 ^ fp32.fw = 0x3F800000 ∧ fp32.val 0xBF800000 = .fin true 8388608 (-23) ∧
      fp32.val 0x40400000 = .fin false 12582912 (-22) ∧ fp32.val 0x3FC00000 = .fin false 12582912 (-23) ∧
      fp32.val 0x43000000 = .fin false 8388608 (-16)) ∧
    ((8388608 : ℕ) : ℚ) * 2 ^ (-16 : ℤ) = 2 ^ (7 : ℤ) ∧ ((8388608 : ℕ) : ℚ) * 2 ^ (-16 : ℤ) = (128 : ℤ) ∧ (fp32.bias : ℚ) + 1 ≤ 128 ∧
    (∀ k : ℤ, ((12582912 : ℕ) : ℚ) * 2 ^ (-22 : ℤ) ≠ 2 ^ k) ∧ (∀ k : ℤ, ((12582912 : ℕ) : ℚ) * 2 ^ (-23 : ℤ) ≠ k) := by
  refine ⟨fun i hi => ⟨⟨_, _, fires_all (f := vecCtx) (g := id) (by decide) i hi⟩, rfl, rfl, rfl, modeAt_zero rfl⟩, rfl, rfl, rfl,
    by decide +kernel, by norm_num, by norm_num, by norm_num [fp32, FFmt.bias], fun k => ?_, fun k => ?_⟩
  · rw [show ((12582912 : ℕ) : ℚ) * 2 ^ (-22 : ℤ) = 3 by norm_num]
    exact three_no_power k
  · rw [show ((12582912 : ℕ) : ℚ) * 2 ^ (-23 : ℤ) = 3 / 2 by norm_num]
    exact half_no_integer k

theorem witness_VectorShufflesAndReductionsFollowTheirLanes :
    ∀ i ∈ [Instr.vcmp .always .f32 1 7 1 2 .un, .vsel .always .s8 1 31 1 2, .vperm .always .s8 1 31 1 2, .vcvt .always .f64 1 31 1 .f32 1,
      .vscan .always .s32 1 31 1 .add, .vsplt .always 1 31 1, .vplane .always .s8 1 31 1 true, .vplane .always .s8 1 31 1 false,
      .vred .always .s8 1 1 .add 0 0, .vred .always .f32 1 1 .max 0 0], LanesMeet i 1 31 [1, 2] :=
  fun i hi => ⟨⟨_, _, fires_all (f := vecCtx) (g := id) (by decide) i hi⟩, rfl, rfl, rfl, modeAt_zero rfl⟩

theorem witness_LanesMasksAndAccumulatorRowsMove :
    (∀ i ∈ [Instr.vgetl .always .f32 1 0 0, .vsetl .always .s8 1, .mset .always .and 3 1 2 0 0, .mset .always .or 0 1 2 0 0,
      .mset .always .not 3 1 0 0 0, .mset .always .popc 0 1 0 0 0], LanesMeet i 1 1 [1, 2]) ∧
    (∀ i ∈ [Instr.vacrd .always .f32 1 31 7 3, .vacwr .always .f32 1 31 7 3],
      let s := wState i (some (.s 127)) none none vecCtx id
      Fires s foc (tBlk i (some (.s 127)) none none) i [.s 127] ∧ s.taskOf 0 = some winTask ∧ (s.ctx 0).streamV 0 31 = some 0 ∧
        (s.ctx 0).streamM 0 1 = some 1 ∧ s.accPending foc winTask [7] = false ∧ (7 < naccOf (s.ctx 0).poolsplit ∧ 127 < 128 ∧
        winTask.modeOf 7 = .fp32) ∧ ∀ l, s.poisoned l 4 = false) ∧
    (∀ i ∈ [Instr.vacrd .always .s64 1 31 7 3, .vacwr .always .s64 1 31 7 3],
      let s := wState i (some (.s 127)) none none vecCtx id
      Fires s foc (tBlk i (some (.s 127)) none none) i [.s 127] ∧ s.accPending foc winTask [7, 8] = false ∧
        ¬ (8 < naccOf (s.ctx 0).poolsplit)) ∧
    ({ State.reset with badAcc := [(accAt 1 7 (127 * 128 * 4)).a / 8] } : State).poisoned (accAt 1 7 (127 * 128 * 4)) 4 = true := by
  refine ⟨fun i hi => ⟨⟨_, _, fires_all (f := vecCtx) (g := id) (by decide) i hi⟩, rfl, rfl, rfl, modeAt_zero rfl⟩, ?_, ?_, by decide⟩
  · intro i hi
    refine ⟨fires_of ?_, rfl, rfl, rfl, ?_, ⟨show 7 < naccOf (BitVec.ofNat 64 (8 * 2 ^ 24)) by decide, by decide, rfl⟩, fun l => ?_⟩
    · fin_cases hi <;> rfl
    · fin_cases hi <;> rfl
    · cases l with | mk sp a => cases sp <;> rfl
  · intro i hi
    refine ⟨fires_of ?_, ?_, show ¬ 8 < naccOf (BitVec.ofNat 64 (8 * 2 ^ 24)) by decide⟩
    all_goals fin_cases hi <;> rfl

/-- Descriptors of a 64 by 128 A operand and a 128 by 64 B operand of one plane of INT, in the window, and their full views. -/
def descA : Nat := Config.localWin + 64 * 2 ^ 64 + 128 * 2 ^ 96 + 2 ^ 132
def descB : Nat := Config.localWin + 128 * 2 ^ 64 + 64 * 2 ^ 96 + 2 ^ 132 + 2 ^ 134
def handleA : HandleVal := BitVec.ofNat 512 (handleOf descA)
def handleB : HandleVal := BitVec.ofNat 512 (handleOf descB)
/-- h1 is A and h2 is B. -/
def tileCtx (c : Ctx) : Ctx := { vecCtx c with h := (c.h.set 1 handleA).set 2 handleB }

theorem witness_HandleInstructionsDefineChangeAndReadHandles :
    (let i := Instr.hdef .always 3
     let s := wState i (some (.s winA)) none none id fun s => { s with spad := [(3, 0xFC), (4, 0xFF), (5, 0xFF), (6, 0xFF), (7, 1), (8, 64), (12, 128), (16, 16)] }
     ∃ t l pte s', Fires s foc (tBlk i (some (.s winA)) none none) i [.s winA] ∧ Readable s foc (tBlk i (some (.s winA)) none none) winA 32 .read .none t l pte s' ∧
      (Desc.ofNat (leNat (readBytes s' foc (tBlk i (some (.s winA)) none none) t l pte 32 .none))).ok = true) ∧
    (Desc.ofNat 0).ok = false ∧
    (∀ i ∈ [Instr.hset .always 3 1 .row0, .hset .always 1 1 .shape, .hadv .always 3 1, .hget .always 1 .d3 0 0],
      let s := wState i (some (.s 5)) (some (.s 3)) (some (.s 1)) tileCtx id
      (∃ b ops, Fires s foc b i ops) ∧ (s.ctx 0).streamH 0 1 = some handleA) ∧
    (View.of handleA).usable = true ∧ (View.of 0).usable = false ∧
    (let v := View.of (BitVec.ofNat 512 (handleStatus (hsetVal .row0 handleA.toNat 5)))
     v.rows ≠ 0 ∧ v.cols ≠ 0 ∧ v.windowOk = true ∧ v.partly = true) ∧
    (View.of (BitVec.ofNat 512 (handleStatus (hsetVal .shape handleA.toNat 0)))).rows = 0 :=
  ⟨⟨winTask, ⟨.spad, 0⟩, 0, _, ⟨⟨rfl, rfl, rfl, rfl⟩, rfl, rfl⟩, ⟨⟨rfl, rfl⟩, rfl, rfl, rfl, fun k h => (by cases h),
    fun h => absurd h (by decide +kernel), fun _ _ _ h => (by cases h)⟩, by decide +kernel⟩, by decide,
   fun i hi => ⟨⟨_, _, fires_all (f := tileCtx) (g := id) (by decide) i hi⟩, rfl⟩,
   by decide +kernel, by decide +kernel, by decide +kernel, by decide +kernel⟩

theorem witness_ArrayInstructionsAreCheckedAndLeaveForCommit :
    (∀ i ∈ [Instr.mzero .always .int32 7 0 0, .mma .always .int32 false 1 2 7 false false 0 0, .mmac .always .int32 false 6 2 7 false true 0 0 0 0,
        .mcvt .always 1 7 0 0, .madda .always 6 7 0 0, .ptrim .always 1 0 0, .pxpose .always 1 .e1 false 0 0, .mstat .always 7 0 0],
      let s := wState i (some (.s 5)) (some (.s 3)) (some (.s 1)) tileCtx id
      (∃ b ops, Fires s foc b i ops) ∧ s.taskOf 0 = some winTask ∧ (s.ctx 0).streamH 0 1 = some handleA ∧ (s.ctx 0).streamH 0 2 = some handleB ∧
        naccOf (s.ctx 0).poolsplit = 8) ∧
    (let va := View.of handleA
     let vb := View.of handleB
     accOk .int32 7 8 = true ∧ accOk .int64 7 8 = false ∧ aOk va = true ∧ bOk vb 128 = true ∧ pairOk .int32 va.d.fmt vb.d.fmt = true ∧
      va.readsScales .int32 = false ∧ vb.readsScales .int32 = false ∧ aOk (View.of 0) = false ∧ bOk va 128 = false ∧ mcvtOk va = true ∧
      mcvtOk (View.of 0) = false ∧ va.usable = true ∧ va.d.tiled = false ∧ va.d.loc = 1 ∧ intFmt va.d.fmt = true ∧ va.inside = true) ∧
    (let s := wState (.pxpose .always 1 .e1 false 0 0) (some (.s winA)) (some (.s 128)) none tileCtx id
     Fires s foc (tBlk (.pxpose .always 1 .e1 false 0 0) (some (.s winA)) (some (.s 128)) none) (.pxpose .always 1 .e1 false 0 0) [.s winA, .s 128] ∧
      s.spadHole 0 (View.of handleA) = none ∧ s.spadHole 0 (View.of handleB) = none ∧ s.tl7Open foc winTask = false ∧
      s.pxTrap foc winTask winA.toNat 128 1 2 128 .write = none) :=
  ⟨fun i hi => ⟨⟨_, _, fires_all (f := tileCtx) (g := id) (by decide) i hi⟩, rfl, rfl, rfl,
     show naccOf (BitVec.ofNat 64 (8 * 2 ^ 24)) = 8 by decide⟩, by decide +kernel,
   ⟨⟨rfl, rfl, rfl, rfl⟩, rfl, rfl⟩, by decide +kernel, by decide +kernel, by decide +kernel, by decide +kernel⟩

theorem witness_EngineCommandsAreCheckedAndLeaveForCommit :
    CanFire [.xcopyf .always none false false 0 0, .xchain .always (some .dev) true 0 0, .xgath .always none 2 99 0 0, .xscat .always none 7 0 0 0,
      .xred .always none 0 0, .xired .always none 0 0, .xpkl .always none 0 0, .xdisc .always none true 0 0, .nput .always none 0 0,
      .nget .always none 0 0, .namo .always none 0 0, .xcopy .always none 3 1 false true 0 0] ∧
    (let i := Instr.xcopy .always none 2 1 true true 0 0
     let s := wState i (some (.s 8)) none none tileCtx tabled
     Fires s foc (tBlk i (some (.s 8)) none none) i [.s 8] ∧ s.taskOf 0 = some winTask ∧ (s.ctx 0).streamH 0 2 = some handleB ∧
      (s.ctx 0).streamH 0 1 = some handleA ∧ s.engCheck foc winTask 8 8 8 .write = none ∧ s.engCheck foc winTask 9 8 8 .write = some (5, 9) ∧
      s.engCheck foc winTask (winA + 4096) 64 64 .read = none ∧ s.engCheck foc winTask 0x10000 4 4 .read = some (6, 0x10000)) ∧
    (∀ i ∈ [Instr.nput .always none 0 0, .nget .always none 0 0],
      ∃ ops t l pte s', Fires (winState i 0 id) foc (winBlk i 0) i ops ∧ (winState i 0 id).engCheck foc t winA 64 64 .read = none ∧
      Readable (winState i 0 id) foc (winBlk i 0) winA 64 .read .none t l pte s' ∧ field (readBytes s' foc (winBlk i 0) t l pte 64 .none) 16 4 = 0) ∧
    winTask.inLease 0xFFF8 8 = true ∧ winTask.inLease 0xFFF8 16 = false := by
  refine ⟨canFire (by decide), ⟨⟨⟨rfl, rfl, rfl, rfl⟩, rfl, rfl⟩, rfl, rfl, rfl, by decide +kernel, by decide +kernel, by decide +kernel, by decide +kernel⟩,
    ?_, by decide, by decide⟩
  intro i hi
  refine ⟨[.s winA], winTask, ⟨.spad, 0⟩, 0, _, fires_win ?_, ?_, readable_win (by decide) ?_ (fun k h => (by cases h)), ?_⟩
  all_goals (simp only [List.mem_cons, List.not_mem_nil, or_false] at hi; rcases hi with rfl | rfl <;> decide +kernel)

theorem witness_TimelinesNumberAndReport :
    (let i := Instr.mzero .always .fp32 0 0 0x82
     let b := { tBlk i none none none with slots := { Slot.fresh with st := .done, sent := false } :: List.replicate 2 Slot.fresh }
     (b.slot 0).sent = false ∧ b.tlFixed 7 0 = true ∧ 0 < b.slots.length ∧ instrAt b.body 0 = some i ∧ 0 ∈ b.tlMembers 7 ∧ (b.slot 0).st = .done) ∧
    ((tBlk (.mzero .always .fp32 0 0 0x82) none none none).tlFixed 7 1 = false) ∧
    CanFire [.rdtl .always 7 0 0, .xwptr .always true 0 0, .waitt .always .dev true 3 0 0] ∧
    (∀ n ∈ [(0 : Word), 2, 3, 9],
      let i := Instr.waitt .always .dev true 3 0 0
      let s := wState i (some (.s n)) none none id fun s =>
        { s with tasks := [(1, { winTask with tls := (List.replicate 8 Timeline.zero).set 3 { Timeline.zero with val := 2, newest := 3, fails := [(2, 64)], allFill := [1] } })] }
      Fires s foc (tBlk i (some (.s n)) none none) i [.s n] ∧ s.writes = [] ∧
        (s.taskOf 0).map (fun t => ((t.tl 3).val, s.heldBefore foc 3 t, (t.tl 3).fails)) = some (2, 3, [(2, 64)]) ∧ s.olderFixed foc 3 = true) ∧
    lowestFail [(5, 8), (2, 64)] = some (2, 64) := by
  refine ⟨by decide, by decide, canFire (by decide), ?_, by decide⟩
  intro n hn
  refine ⟨fires_of ?_, rfl, rfl, rfl⟩
  simp only [List.mem_cons, List.not_mem_nil, or_false] at hn
  rcases hn with rfl | rfl | rfl | rfl <;> rfl

theorem witness_GroutCommandsAreCheckedAndLeaveForCommit :
    (∀ i ∈ [Instr.gcfg .always 14, .garg .always 0x0F 14 7, .gsend .always 0x80 14, .grecv .always 0x8F 14, .greconf .always 0x00 14,
        .gstat .always 0x60 14 0 0, .gdrain .always 14 true],
      let s := wState i (some (.s winA)) (some (.s 3)) (some (.s 1)) id fun s =>
        { s with dies := [(0, { Die.reset with grout := [(14, { FCtx.reset with owner := some (0, 1) })] })] }
      Fires s foc (tBlk i (some (.s winA)) (some (.s 3)) (some (.s 1))) i ([.s winA, .s 3, .s 1].take (nOpsOf i)) ∧ s.taskOf 0 = some winTask ∧
        s.gcfgOk foc winTask 14 = true ∧ s.gUseOk foc winTask 14 = true ∧ s.gUseOk foc winTask 0 = false ∧
        s.gcfgOk foc { winTask with graph := 2 } 14 = false ∧
        (s.check winTask 0 winA 64 .read).1 = .ok ⟨.spad, 0⟩ 0 ∧ (s.check winTask 0 (winA + 64) 64 .read).1 = .ok ⟨.spad, 64⟩ 0 ∧
        (s.check winTask 0 winA 64 .write).1 = .ok ⟨.spad, 0⟩ 0 ∧ (s.check winTask 0 (winA + 64) 8 .write).1 = .ok ⟨.spad, 64⟩ 0 ∧
        (s.check winTask 0 winA 8 .write).1 = .ok ⟨.spad, 0⟩ 0) := by
  intro i hi
  refine ⟨fires_of ?_, rfl, ?_, ?_, ?_, ?_, ?_, ?_, ?_, ?_, ?_⟩
  all_goals (simp only [List.mem_cons, List.not_mem_nil, or_false] at hi
             rcases hi with rfl | rfl | rfl | rfl | rfl | rfl | rfl <;> decide +kernel)

/-- A block whose branch has fired, the oldest of context 0, with what f notes. -/
def doneBlk (f : Blk → Blk) : Blk :=
  f { probeBlk [0xC0000002#32] with slots := [{ Slot.fresh with st := .done }], exit := some (.to 0 0x20) }

theorem commits_done : Commits (oneBlk (doneBlk id)) 0 (doneBlk id) probeTask (.to 0 0x20) :=
  ⟨⟨rfl, rfl, rfl, rfl⟩, rfl, by decide, by decide, rfl, rfl, rfl, rfl, rfl⟩

/-- That block with register writes and a store to commit. -/
def fullBlk : Blk := doneBlk fun b => { b with
  gw := [(5, some 7)], vs := [(0, 1, 9)], ms := [(0, 3, 1)], hw := [(15, none)], raised := [(0, 1)]
  stores := [⟨some 0, 0, ⟨.spad, 64⟩, leBytes 8 7, none, 0, 0, none⟩], hdr := [0, 0, 0x20, 0, 0, 0x8000, 0, 0, 0, 0, 0, 0] }

theorem witness_CommitMakesABlocksWritesVisible :
    Commits (oneBlk fullBlk) 0 fullBlk probeTask (.to 0 0x20) ∧ fullBlk.effs = [] ∧
    NoSpills (oneBlk fullBlk) ⟨0, 0, 0, false⟩ ∧ ([(5, some (7 : Word))].map (·.1)).Nodup ∧
    (∀ w ∈ fullBlk.stores, ∀ w' ∈ fullBlk.stores, w.loc.sp = w'.loc.sp → w.lsid.isSome ≠ w'.lsid.isSome →
      overlaps w.loc.a w.bytes.length w'.loc.a w'.bytes.length = false) ∧ (∀ w ∈ fullBlk.stores, w.loc.sp = .acc → w.pte = 0) ∧
    (∃ b, Commits (oneBlk b) 0 b probeTask (.tend 0 5) ∧ b.effs = []) ∧
    (∃ b, Oldest (oneBlk b) 0 b probeTask ∧ b.settled = false) ∧
    (∃ b cls n, Oldest (oneBlk b) 0 b probeTask ∧ b.trap = none ∧ b.settled = true ∧ b.unmet = some (cls, n)) ∧
    (let b := doneBlk fun b => { b with effs := [(0, .qfill winA.toNat 0 (winA + 512))] }
     let s := { oneBlk b with badSpad := [64], spad := [(0, 1), (17, 1), (19, 0xFC), (20, 0xFF), (21, 0xFF), (22, 0xFF), (23, 1), (24, 4), (28, 1)] }
     Oldest s 0 b probeTask ∧ b.trap = none ∧ b.settled = true ∧ b.unmet = none ∧ b.exit = some (.to 0 0x20) ∧
       s.fillBad 0 b probeTask = some (winA + 512).toNat) :=
  ⟨⟨⟨rfl, rfl, rfl, rfl⟩, rfl, by decide, by decide, rfl, rfl, rfl, rfl, rfl⟩, rfl, fun b h => (by cases h), by decide, by decide, by decide,
   ⟨{ probeBlk [0xC8000005#32] with slots := [{ Slot.fresh with st := .done }], exit := some (.tend 0 5) },
    ⟨⟨rfl, rfl, rfl, rfl⟩, rfl, by decide, by decide, rfl, rfl, rfl, rfl, rfl⟩, rfl⟩,
   ⟨probeBlk [0xC8000005#32], ⟨rfl, rfl, rfl, rfl⟩, by decide⟩,
   ⟨doneBlk fun b => { b with hdr := [0, 0, 0x20, 0, 0, 0, 0, 0, 0, 0, 0, 0] }, 1, 5, ⟨rfl, rfl, rfl, rfl⟩, rfl, by decide, by decide⟩,
   ⟨⟨rfl, rfl, rfl, rfl⟩, rfl, by decide, by decide, rfl, by decide +kernel⟩⟩

theorem witness_NotedEffectsLeaveAtCommit :
    (∀ e : CEff, (∀ a k v, e ≠ .qfill a k v) →
      Commits (oneBlk (doneBlk fun b => { b with effs := [(0, e)] })) 0 (doneBlk fun b => { b with effs := [(0, e)] }) probeTask (.to 0 0x20) ∧
      (doneBlk fun b => { b with effs := [(0, e)] }).stores = []) ∧
    (let b := doneBlk fun b => { b with effs := [(0, .qfill winA.toNat 0 7)] }
     Commits (oneBlk b) 0 b probeTask (.to 0 0x20)) ∧
    CEff.eret ≠ .yield ∧
    (∃ ps, (tabled (oneBlk (doneBlk id))).addPages 0 0 0 0 0x10000 = .ok ps) ∧
    (∃ l, (tabled (oneBlk (doneBlk id))).flatLoc 0 0 0x1000 .write = some l) ∧ (oneBlk (doneBlk id)).tearing 0 1 = false :=
  ⟨fun e h => ⟨⟨⟨rfl, rfl, rfl, rfl⟩, rfl, Eq.trans (b := (doneBlk id).settled) rfl (by decide), Eq.trans (b := (doneBlk id).unmet) rfl (by decide),
     rfl, by cases e <;> first | rfl | exact absurd rfl (h _ _ _), rfl, rfl, rfl⟩, rfl⟩,
   ⟨⟨rfl, rfl, rfl, rfl⟩, rfl, by decide, by decide, rfl, by decide +kernel, rfl, rfl, rfl⟩, by decide, ⟨_, rfl⟩,
   ⟨⟨.dram, 0x2001000⟩, by decide +kernel⟩, rfl⟩

/-- The same block with a trap of some cause. -/
def trapBlk (cause : Nat) (b : Blk) : Blk := { b with traps := [⟨cause, 9, none, none⟩] }
theorem witness_TrapsGoToTheHandlerOrEndTheTask :
    (let b := doneBlk (trapBlk 0x0B)
     let s : State := { oneBlk b with ctxs := [(0, { Ctx.reset with uid := 1, blks := [b], trapvec := 0x1000, savearea := winA })] }
     Oldest s 0 b probeTask ∧ b.firm = some ⟨0x0B, 9, none, none⟩ ∧
      ((s.ctx 0).trapvec ≠ 0 ∧ (s.ctx 0).priv = false ∧ b.pinned = false ∧ (0x0B : Nat) ≠ 0x0D ∧ (0x0B : Nat) ≠ 4) ∧ s.pmaBusy 0 1 = false ∧
      (s.discardFrom 0 0).accBad 1 (fullMasks (naccOf (s.ctx 0).poolsplit)) = false) ∧
    (let b := doneBlk (trapBlk 4)
     Oldest (oneBlk b) 0 b probeTask ∧ b.firm = some ⟨4, 9, none, none⟩ ∧ ((oneBlk b).ctx 0).trapvec = 0) ∧
    (∃ b, Oldest (oneBlk b) 0 b probeTask ∧ b.trap = none) :=
  ⟨⟨⟨rfl, rfl, rfl, rfl⟩, by decide, ⟨by decide, rfl, rfl, by decide, by decide⟩, rfl, by decide +kernel⟩,
   ⟨⟨rfl, rfl, rfl, rfl⟩, by decide, rfl⟩, ⟨doneBlk id, ⟨rfl, rfl, rfl, rfl⟩, rfl⟩⟩

/-- A block of one BR at flat 0x1000, in a context about to map it. -/
def mapState (pc : Nat) : State :=
  { tabled State.reset with
    dram := (tabled State.reset).dram ++ [(0x2001003, 0xB7), (0x2001033, 0xC0), (0x2002003, 0xB7), (0x2002033, 0xFE)]
    ctxs := [(0, { Ctx.reset with uid := 1, pc := pc })], tasks := [(1, probeTask)] }
theorem witness_BlocksAreCheckedWhenTheyAreMapped :
    (let s := mapState 0x1000
     s.taskOf 0 = some probeTask ∧ s.mayFetch 0 probeTask = true ∧ (s.ctx 0).fetchWait = none ∧ (s.ctx 0).fetchFail = none ∧
      (∀ a, (s.ctx 0).nextAddr = some a → a = 0x1000) ∧
      s.fetchBlock 0 0 1 0x1000 = .ok (0xB7000000#32 :: List.replicate 11 0) [0xC0000000#32] ∧
      mapCheck 0 (0xB7000000#32 :: List.replicate 11 0) [0xC0000000#32] = none ∧
      s.fetchBlock 0 0 1 0x2000 = .ok (0xB7000000#32 :: List.replicate 11 0) [0xFE000000#32] ∧
      mapCheck 0 (0xB7000000#32 :: List.replicate 11 0) [0xFE000000#32] = some (0x10, 0) ∧
      s.fetchBlock 0 0 1 0x4000000 = .outside ∧ mapCheck 0 (List.replicate 12 0) [0] = some (2, 0xFF)) ∧
    ({ mapState 0 with ctxs := [(0, { Ctx.reset with uid := 1, halted := true })] }.mayFetch 0 probeTask = false) :=
  ⟨⟨rfl, by decide, rfl, rfl, fun a h => by cases h; rfl, by decide +kernel, by decide +kernel, by decide +kernel, by decide +kernel, by decide +kernel,
    by decide +kernel⟩, by decide⟩


/-- A frame of one slot, a message for frame 5 of die 0, and that message in the die's inbox beside frame 5. -/
def tFrame (x : FSlot) : Frame := { newFrame tClass 1 0 (.tag 0) 0 0 0 with slots := [x] }
def tMsg (k : MsgKind) : Msg := ⟨5, 1, 0, 0, 0, 0, k, []⟩
def inboxed (k : MsgKind) (fs : KMap Frame) : State :=
  { State.reset with
    piers := [(0, { Pier.reset with owner := some 0 })]
    dies := [(0, { Die.reset with inbox := [tMsg k], frames := fs })] }

theorem witness_TokensAndKillsReachTheirFrames :
    (∀ k ∈ [MsgKind.kill, .fill 0 7, .dec 0], ∀ fs ∈ [[], [(5, tFrame (.scalar none))], [(5, tFrame (.counter 2))], [(5, { tFrame (.scalar none) with graph := 2 })], [(5, { tFrame (.scalar none) with place := .pool 0 })]],
      let s := inboxed k fs
      s.message 0 0 = some (tMsg k) ∧ (s.pier (pierOfDie 0)).owner = some 0 ∧ s.tearing 0 1 = false ∧
        s.depsDone (s.msgDeps 0 (tMsg k)) .dev = true ∧ (tMsg k).frame / 2 ^ 16 = 0 ∧ (fs.map (·.1)).Pairwise (· < ·) ∧
        ∀ f, kget? 5 (s.die 0).frames = some f → s.recordBad 0 f = false ∧
          (s.untagged 0 (tMsg k) = none ↔ f.place = .tag 0)) ∧
    (let f := { tFrame (.scalar none) with place := .pool 0 }
     let s := { (tabled (inboxed (.fill 0 7) [(5, f)])) with badDram := [0x2000000 / 8] }
     s.message 0 0 = some (tMsg (.fill 0 7)) ∧ kget? 5 (s.die 0).frames = some f ∧ s.recordBad 0 f = true) ∧
    kget? 5 ((inboxed (.fill 0 7) []).die 0).frames = none ∧ MsgKind.fill 0 7 ≠ .kill ∧
    ([FSlot.counter 2][0]?).bind (fun x => x.apply (.fill 0 7)) = none ∧
    ([FSlot.counter 2][0]?).bind (fun x => x.apply (.dec 0)) = some (.counter 1) ∧
    ([FSlot.counter 2].set 0 (.counter 1)).all FSlot.full = false ∧
    ([FSlot.scalar none][0]?).bind (fun x => x.apply (.fill 0 7)) = some (.scalar (some 7)) ∧
    ([FSlot.scalar none].set 0 (.scalar (some 7))).all FSlot.full = true := by
  refine ⟨?_, ⟨rfl, rfl, by decide +kernel⟩, rfl, by decide, by decide, by decide, by decide, by decide, by decide⟩
  intro k hk fs hf
  refine ⟨rfl, rfl, rfl, ?_, show 5 / 2 ^ 16 = 0 by decide, ?_, fun f h => ?_⟩
  · fin_cases hk <;> fin_cases hf <;> decide
  · fin_cases hf <;> decide
  · have e : kget? 5 fs = some f := h
    fin_cases hk <;> fin_cases hf <;> first | (cases e; exact ⟨by decide, by decide⟩) | cases e

/-- A launch record of class 0x1000 and graph 1 whose one scalar slot it fills or not, and a die that may take it. -/
def tLaunch (cls fill : Nat) : Launch :=
  ⟨leBytes 8 cls ++ leBytes 8 1 ++ leBytes 8 7 ++ leBytes 56 0 ++ leBytes 2 0 ++ leBytes 1 fill ++ leBytes 45 0, 0⟩
def launched (r : Launch) (st : KMap (List Byte)) : State :=
  let s := classed State.reset
  { s with
    parts := [(0, { s.part 0 with queue := [r], staged := st })]
    dies := [(0, { Die.reset with ctrl := 1 })] }

theorem launchTry_of {s : State} {q d : Nat} {r : Launch} (hd : s.launchDie q r = some d)
    (hw : (((s.diesOf q).any fun d => s.tearing d r.graph) || !(s.die d).ctrl.getLsbD 0) = false) :
    (∀ c, s.launchCheck q d r = .error c → s.launchTry q r = (d, .reject c)) ∧
    (∀ cls hs, s.launchCheck q d r = .ok (cls, hs) → ((s.takeIndex d).1.isNone || (s.freePool d).isNone) = false →
      s.launchTry q r = (d, .accept d cls hs)) := by
  constructor
  · intro c h; simp only [State.launchTry, hd, hw, h, Bool.false_eq_true, if_false]
  · intro cls hs h hf; simp only [State.launchTry, hd, hw, h, hf, Bool.false_eq_true, if_false]

theorem witness_LaunchRecordsAreStagedQueuedAndTaken :
    (let s := launched (tLaunch 0x1000 1) [(1, leBytes 64 0)]
     s.offStream 0 = true ∧ ({ s with parts := [(0, { s.part 0 with ide := true })] } : State).offStream 0 = false ∧ (s.part 0).configured = true ∧ (leBytes 64 5).length = 64 ∧ 0x80 % 128 = 0 ∧ 0xC0 % 64 = 0 ∧ 0xC0 % 128 ≠ 0 ∧ 0xC0 < 0x10000 ∧
      kget? (0xC0 / 128) (s.part 0).staged = some (leBytes 64 0) ∧ (s.part 0).queue.length < 64 ∧
      kget? (0x40 / 128) (s.part 0).staged = none) ∧
    (let s := { launched (tLaunch 0 1) [(1, leBytes 64 0)] with parts := [(0, { (launched (tLaunch 0 1) []).part 0 with
        staged := [(1, leBytes 64 0)], queue := List.replicate 64 (tLaunch 0 1) })] }
     (s.part 0).configured = true ∧ kget? (0xC0 / 128) (s.part 0).staged = some (leBytes 64 0) ∧ 64 ≤ (s.part 0).queue.length) ∧
    (∃ d, (launched (tLaunch 0x1040 1) []).launchTry 0 (tLaunch 0x1040 1) = (d, .reject 2)) ∧
    (∃ d c, (launched ⟨leBytes 128 0, 0⟩ []).launchTry 0 ⟨leBytes 128 0, 0⟩ = (d, .reject c)) ∧
    (∃ d, (launched (tLaunch 0x1000 1) []).launchTry 0 (tLaunch 0x1000 1) = (d, .accept d tClass [])) ∧
    (∃ d, (launched (tLaunch 0x1000 0) []).launchTry 0 (tLaunch 0x1000 0) = (d, .accept d tClass [])) ∧
    (fillScalars (((tLaunch 0x1000 0).present 0 16 4).map (BitVec.ofNat 64)) (initSlots tClass.kinds tClass.counts)).all FSlot.full = false ∧
    (fillScalars (((tLaunch 0x1000 1).present 0 16 4).map (BitVec.ofNat 64)) (initSlots tClass.kinds tClass.counts)).all FSlot.full = true := by
  refine ⟨by decide +kernel, by decide +kernel, ⟨0, ?_⟩, ⟨0, 2, ?_⟩, ⟨0, ?_⟩, ⟨0, ?_⟩, by decide +kernel, by decide +kernel⟩
  · exact (launchTry_of (by decide +kernel) (by decide +kernel)).1 _ (by decide +kernel)
  · exact (launchTry_of (by decide +kernel) (by decide +kernel)).1 _ (by decide +kernel)
  · exact (launchTry_of (by decide +kernel) (by decide +kernel)).2 _ _ (by decide +kernel) rfl
  · exact (launchTry_of (by decide +kernel) (by decide +kernel)).2 _ _ (by decide +kernel) rfl

/-- A page that is not resident at flat 0x4000000, and a full fault queue. -/
def absented (s : State) : State :=
  let s := tabled s
  { s with
    dram := s.dram ++ [(0x20010, 0x3D), (0x20013, 0x02)]
    parts := [(0, { s.part 0 with fqtail := 64 })] }
/-- Task 1 in a phase, with what f sets, in a state that g sets. -/
def tasked (p : Phase) (f : Task → Task) (g : State → State) : State :=
  let s := g State.reset
  { s with tasks := kset 1 (f { probeTask with phase := p }) s.tasks }

theorem witness_TasksAreLeasedAndBound :
    (let t := { probeTask with phase := .firing none, cls := { probeTask.cls with stamp := 0x1000 } }
     let s := tasked (.firing none) (fun _ => t) tabled
     s.task? 1 = some t ∧ t.uid = 1 ∧ t.phase = .firing none ∧ s.depsDone t.deps .dev = true ∧
       ({ s with writes := [tWrite] } : State).depsDone [5] .dev = false ∧ (∃ x, s.leaseScan t = .ok x ∧ x.pages ≠ []) ∧ s.placeBricks t ≠ []) ∧
    (let t := { probeTask with phase := .firing none, cls := { probeTask.cls with lease := 8 } }
     let s := tasked (.firing none) (fun _ => t) tabled
     s.task? 1 = some t ∧ s.leaseScan t = .fail 6 8 0) ∧
    (let t := { probeTask with phase := .firing none, cls := { probeTask.cls with stamp := 0x4000000 } }
     let s := tasked (.firing none) (fun _ => t) absented
     s.task? 1 = some t ∧ (∃ a i, s.leaseScan t = .absent a i) ∧ (s.part 0).fqFull = true) ∧
    (let t := { probeTask with phase := .ready, save := some (0x2000, slotBytes 0) }
     let s := tasked .ready (fun _ => t) fun s => { tabled s with
       bricks := [(0, { Brick.reset with dq0 := [1] })], dies := [(0, { Die.reset with ctrl := 1 })] }
     s.task? 1 = some t ∧ (s.boundCtxs 0).length < min 4 (s.brick 0).rfu ∧ (s.boundCtxs 0 = [] → (s.brick 0).pending = none) ∧ (s.die (dieOfBrick 0)).ctrl.getLsbD 0 = true ∧
      s.unblocked 0 (s.candidates 0) = [1] ∧ s.fits 0 t = true ∧ t.save = some (0x2000, slotBytes t.cls.accUnits) ∧ t.saved = false) := by
  refine ⟨⟨rfl, rfl, rfl, by decide, by decide, ⟨_, rfl, ?_⟩, List.ne_nil_of_mem (a := 0) ?_⟩, ⟨rfl, rfl⟩, ⟨rfl, ⟨_, _, rfl⟩, by decide⟩, rfl, by decide, fun _ => rfl, by decide, by decide +kernel,
    by decide +kernel, rfl, rfl⟩
  all_goals decide +kernel

/-- A safe block whose WAITT waits. -/
def waitBlk : Blk := { tBlk (.waitt .always .dev true 3 0 0) (some (.s 5)) none none with hdr := [0x10000, 0, 0, 0, 0, 0, 0, 0, 0, 0, 0, 0] }

theorem witness_TasksSuspendWakeAndAge :
    (let t := { probeTask with
       cls := { probeTask.cls with longWait := true }, tls := (List.replicate 8 Timeline.zero).set 3 { Timeline.zero with newest := 5 } }
     let x := { Ctx.reset with uid := 1, blks := [waitBlk], idle := some 0, preemptAt := some 0 }
     let s := { tabled State.reset with
       now := 200000, ctxs := [(0, x)], tasks := [(1, t), (2, { probeTask with uid := 2, phase := .ready })]
       bricks := [(0, { Brick.reset with dq0 := [2] })], dies := [(0, { Die.reset with slice := 1 })] }
     s.taskOf 0 = some t ∧ t.uid = (s.ctx 0).uid ∧ t.uid ≠ 0 ∧
      s.waiter 0 = some (waitBlk, 0, .waitt .always .dev true 3 0 0) ∧ ((s.ctx 0).didAt + 20000 ≤ s.now ∧ t.cls.longWait = true) ∧
      (s.brick 0).readyAll ≠ [] ∧ waitBlk.pinned = false ∧ waitBlk.safe = true ∧ (s.brick 0).freeDrain = some 0 ∧ s.pmaBusy 0 1 = false ∧
      (s.accBad 1 (liveMasks t waitBlk.hdr) = false ∧ ({ s with badAcc := [(accAt 1 0 0).a / 8] } : State).accBad 1 (liveMasks t (waitBlk.hdr.set 9 0x10000)) = true) ∧
      ((s.ctx 0).priv = false ∧ (s.ctx 0).halted = false ∧ (s.ctx 0).haltReq = none ∧ waitBlk.trap = none ∧ t.torn = false ∧ (s.ctx 0).blks = [waitBlk]) ∧
      (s.ctx 0).preemptAt = some 0 ∧ 0 + 100000 ≤ s.now ∧
      (wbits (s.die 0).slice 0 16 ≠ 0 ∧ (s.ctx 0).runSince + 1000 * wbits (s.die 0).slice 0 16 ≤ s.now) ∧
      (s.brick 0).readyAll.any (fun u => s.levelOf u ≤ t.prio) = true ∧ (0 : Nat) = 0 / 4 % 80 ∧ (128 : Nat).testBit 7 = true ∧
      (s.ctx 0).idle = some 0 ∧ 0 ≤ s.cycle 0) ∧
    (∃ t, let s := tasked .suspended (fun _ => t) fun s => { s with now := 250000 }
     s.task? 1 = some t ∧ t.uid = 1 ∧ t.phase = .suspended ∧ s.woken t = true ∧ t.wokeAt + 250000 ≤ s.now) ∧
    (∃ t, let s := tasked .suspended (fun _ => t) id
     s.task? 1 = some t ∧ t.uid = 1 ∧ t.phase = .suspended ∧ s.woken t = false) ∧
    (∃ t, let s := tasked .ready (fun _ => t) fun s => { s with now := 250000, bricks := [(0, { Brick.reset with dq3 := [1] })] }
     s.task? 1 = some t ∧ t.uid = 1 ∧ (s.brick t.brick).readyAll = [1] ∧ t.prio ≠ 0 ∧ t.prio < 4 ∧ t.readyAt + 250000 ≤ s.now) ∧
    (∃ t, let s := tasked .suspended (fun _ => t) fun s => { s with bricks := [(0, { Brick.reset with drains := [(0, ⟨1⟩)] })] }
     s.task? 1 = some t ∧ kget? 0 (s.brick 0).drains = some ⟨1⟩ ∧ s.drained t = true ∧ t.save = some (0x2000, slotBytes 0) ∧ t.phase = .suspended) ∧
    (∃ t, let s := tasked .suspended (fun _ => t) fun s => { s with writes := [tWrite], bricks := [(0, { Brick.reset with drains := [(0, ⟨1⟩)] })] }
     s.task? 1 = some t ∧ kget? 0 (s.brick 0).drains = some ⟨1⟩ ∧ s.drained t = false) := by
  refine ⟨⟨rfl, rfl, by decide, ?_, ⟨by decide, rfl⟩, by decide, rfl, by decide, by decide, by decide, ⟨?_, ?_⟩, ⟨rfl, rfl, rfl, rfl, rfl, rfl⟩, rfl,
      by decide, ⟨by decide, by decide⟩, by decide, rfl, by decide, rfl, by decide⟩,
    ⟨{ probeTask with phase := .suspended }, rfl, rfl, rfl, by decide, by decide⟩,
    ⟨{ probeTask with phase := .suspended, wake := .tl 0 0 }, rfl, rfl, rfl, by decide⟩,
    ⟨{ probeTask with phase := .ready, prio := 3 }, rfl, rfl, by decide, by decide, by decide, by decide⟩,
    ⟨{ probeTask with phase := .suspended, save := some (0x2000, slotBytes 0) }, rfl, by decide, by decide, rfl, rfl⟩,
    ⟨{ probeTask with phase := .suspended }, rfl, by decide, by decide⟩⟩
  all_goals decide +kernel

theorem witness_FetchesThatCannotBeMadeWaitOrTrap :
    (let s := absented (mapState 0x4000000)
     s.taskOf 0 = some probeTask ∧ s.mayFetch 0 probeTask = true ∧ (s.ctx 0).nextAddr = some 0x4000000 ∧
      s.fetchBlock 0 0 1 0x4000000 = .absent 0x4000000 ∧ (s.part 0).fqFull = true) ∧
    (let s0 := mapState 0
     let s := absented { s0 with ctxs := [(0, { s0.ctx 0 with blks := [probeBlk [0xC0000002#32]] })] }
     s.mayFetch 0 probeTask = true ∧ (s.ctx 0).nextAddr = none ∧ s.fetchBlock 0 0 1 0x4000000 = .absent 0x4000000) ∧
    (let s := { mapState 0x1000 with badDram := [0x2001008 / 8] }
     s.mayFetch 0 probeTask = true ∧ s.fetchBlock 0 0 1 0x1000 = .poison 0x1000) := by
  refine ⟨⟨rfl, ?_, ?_, ?_, ?_⟩, ⟨?_, ?_, ?_⟩, ?_, ?_⟩
  all_goals decide +kernel

theorem witness_TasksCompleteAndContextsHalt :
    (∃ t, let s := tasked (.ending (some 5) 0) (fun _ => t) tabled
     s.task? 1 = some t ∧ t.uid = 1 ∧ t.phase = .ending (some 5) 0 ∧ s.settledTask t = true ∧ t.torn = false ∧ t.mute = false ∧ wbits t.cont 23 2 ∈ [1, 2]) ∧
    (∃ t, let s := tasked (.ending none 7) (fun _ => t) tabled
     s.task? 1 = some t ∧ t.phase = .ending none 7 ∧ s.settledTask t = true ∧ t.torn = false ∧ t.mute = false ∧
       ∀ n, ¬ ((none : Option Nat) = some n ∧ wbits t.cont 23 2 ∈ [1, 2])) ∧
    (∃ t, let s := tasked (.ending none 14) (fun _ => t) tabled
     s.task? 1 = some t ∧ t.phase = .ending none 14 ∧ s.settledTask t = true ∧ t.torn = false ∧ t.mute = true) ∧
    (∃ t, let s := tasked (.ending none 0) (fun _ => t) tabled
     s.task? 1 = some t ∧ t.phase = .ending none 0 ∧ s.settledTask t = true ∧ t.torn = true ∧ s.tornDrained t.die t.part t.graph = true) ∧
    (∃ t, let s := tasked (.ending none 0) (fun _ => t) fun s => { tabled s with dies := [(0, { Die.reset with grout := [(14, { FCtx.reset with owner := some (0, t.graph) })] })] }
     s.task? 1 = some t ∧ t.phase = .ending none 0 ∧ s.settledTask t = true ∧ t.torn = true ∧ s.tornDrained t.die t.part t.graph = false) ∧
    (∃ t, let s := tasked (.ending none 0) (fun _ => t) fun s => { tabled s with writes := [tWrite] }
     s.task? 1 = some t ∧ t.phase = .ending none 0 ∧ s.settledTask t = false) ∧
    (∃ t, let s := tasked .suspended (fun _ => t) tabled
     s.task? 1 = some t ∧ t.phase = .suspended ∧ t.accUnits ≠ 0 ∧ s.pmaBusy t.brick 1 = false ∧ s.cmds.all (fun c => c.2.uid != 1 || !c.2.aliases) = true) ∧
    (let s := tasked (.bound 0) id fun s => { tabled s with ctxs := [(0, { Ctx.reset with uid := 1, haltReq := some (9, 0x1000) })] }
     s.task? 1 = some probeTask ∧ (s.ctx 0).uid = 1 ∧ (s.ctx 0).haltReq = some (9, 0x1000) ∧ s.pmaBusy (brickOfCtx 0) 1 = false ∧
       s.accBad 1 (fullMasks (naccOf (s.ctx 0).poolsplit)) = false) :=
  ⟨⟨{ probeTask with phase := .ending (some 5) 0, cont := 0x800001 }, rfl, rfl, rfl, by decide, rfl, rfl, by decide⟩,
   ⟨{ probeTask with phase := .ending none 7 }, rfl, rfl, by decide, rfl, rfl, by simp⟩,
   ⟨{ probeTask with phase := .ending none 14, mute := true }, rfl, rfl, by decide, rfl, rfl⟩,
   ⟨{ probeTask with phase := .ending none 0, torn := true }, rfl, rfl, by decide, rfl, by decide⟩,
   ⟨{ probeTask with phase := .ending none 0, torn := true }, rfl, rfl, by decide, rfl, by decide⟩,
   ⟨{ probeTask with phase := .ending none 0 }, rfl, rfl, by decide⟩,
   ⟨{ probeTask with phase := .suspended, accUnits := 8 }, rfl, rfl, by decide, by decide, by decide⟩, rfl, rfl, rfl, by decide, by decide +kernel⟩

/-- The translation of flat 0 to 2^25. -/
def page0 : Trans := ⟨0x2000000, 0x2000000, false, true, true, true, 0, 0x20001⟩

/-- A placement list at 0x1000 whose first entry is e, with a word of memory set and some poisoned words. -/
def placing (e : List Byte) (k : Nat × Nat) (bad : List Nat) : State :=
  { tabled State.reset with
    dram := mwriteN 0x2001000 e (mwriteN k.1 (leBytes 4 k.2) (tabled State.reset).dram)
    dies := [(0, { Die.reset with plBusy := some 0x1000 })], badDram := bad }

theorem witness_DistributorControlsAct :
    (let s := tasked .ready id fun s => { tabled s with
       dies := [(0, { Die.reset with repriog := 1, graphs := [(2, ⟨0, true, none, true⟩)] })]
       bricks := [(0, { Brick.reset with pending := some (8, 16) })] }
     (s.pier (pierOfDie 0)).owner = some 0 ∧ s.task? 1 = some { probeTask with phase := .ready } ∧ probeTask.die = 0 ∧
      probeTask.graph = (s.die 0).repriog ∧
      s.tearing 0 2 = true ∧ 0 ∈ s.diesOf 0 ∧ s.tasks.any (fun t => t.2.part == 0 && t.2.graph == 2) = false ∧
      (∀ d ∈ s.diesOf 0, s.graphFctxs d 0 2 = [] ∧ (s.die d).gq.any (fun m => m.part == 0 && m.graph == 2) = false) ∧
      (s.die 0).plBusy = none ∧ (s.brick 0).pending = some (8, 16) ∧ s.boundCtxs 0 = []) ∧
    (let s := placing [9] (0, 0) [0x2001000 / 8]
     (s.pier (pierOfDie 0)).owner = some 0 ∧ (s.die 0).plBusy = some 0x1000 ∧ (s.readFlat 0 (dieAgent 0) 0 0x1000 16).isSome = true ∧
      s.flatPoison 0 (dieAgent 0) 0 0x1000 16 = some 0x1000) ∧
    (∀ e ∈ [(0 : Nat), 1, 8 * 2 ^ 64, 9 * 2 ^ 64],
      let s := placing (leBytes 16 e) (0, 0) []
      (s.pier (pierOfDie 0)).owner = some 0 ∧ (s.die 0).plBusy = some 0x1000 ∧
       s.readFlat 0 (dieAgent 0) 0 0x1000 16 = some (leBytes 16 e) ∧ leNat (leBytes 16 e) = e ∧
       s.flatPoison 0 (dieAgent 0) 0 0x1000 16 = none ∧ s.placePage 0 e = (if e = 1 then none else some page0) ∧
       s.pagePinned page0.phys page0.size = false ∧ s.pageInFlight page0.phys page0.size = false ∧
       field (leBytes 16 e) 8 8 = e / 2 ^ 64 ∧ (s.pier (e / 2 ^ 64 % 8)).owner = (if e / 2 ^ 64 = 9 then none else some 0)) ∧
    page0.phys / Config.pierSpan = 8 % 8 ∧
    ((placing (leBytes 16 (8 * 2 ^ 64)) (countAt 0x2000000, 1) []).placePage 0 (8 * 2 ^ 64) = some page0 ∧
     (placing (leBytes 16 (8 * 2 ^ 64)) (countAt 0x2000000, 1) []).pagePinned page0.phys page0.size = true) ∧
    ((placing (leBytes 16 (8 * 2 ^ 64)) (countAt 0x2000000 + 4, 1) []).placePage 0 (8 * 2 ^ 64) = some page0 ∧
     (placing (leBytes 16 (8 * 2 ^ 64)) (countAt 0x2000000 + 4, 1) []).pagePinned page0.phys page0.size = false ∧
     (placing (leBytes 16 (8 * 2 ^ 64)) (countAt 0x2000000 + 4, 1) []).pageInFlight page0.phys page0.size = true) ∧
    (let s := { tabled State.reset with
       ctxs := [(0, { Ctx.reset with uid := 1 })], bricks := [(0, { Brick.reset with pending := some (8, 16) })] }
     (s.brick 0).pending = some (8, 16) ∧ s.boundCtxs 0 ≠ []) := by
  refine ⟨⟨rfl, rfl, rfl, rfl, by decide, by decide, by decide, by decide, rfl, rfl, by decide⟩, ⟨rfl, rfl, ?_, ?_⟩, ?_, by decide, ⟨?_, ?_⟩, ⟨?_, ?_, ?_⟩, rfl, by decide⟩
  all_goals decide +kernel

/-- A command of task 1 that has left brick 0, with its 64 KiB counted in flight, and its task. -/
def tCmd (k : CmdKind) : Cmd :=
  { id := 9, uid := 1, part := 0, brick := 0, graph := 1, ctxId := 0, taskId := 0, blk := 0, ord := 1, tl := 0, num := 1, kind := k,
    rel := none, relRanges := none, tl7 := 0, trk := [], running := true, ended := false, pos := 0, wptr := 0, stopped := false,
    total := 0, fail := none, failCount := 0, allFill := false, frozen := none, recAddr := 0, recOrd := 0, recBusy := false,
    recBad := false, fed := [], abort := false, params := [], work := [], arrived := none, pkts := [], got := [], pier := 0, flights := [0x2000000], missed := [], run := none }
def cmdTask : Task := { winTask with lease := [(0, 0x4000000)] }
def cmdState (c : Cmd) : State :=
  { tabled State.reset with cmds := [(9, c)], tasks := [(1, cmdTask)], bricks := [(0, { Brick.reset with chan0 := [9] })] }

/-- A valid descriptor in memory: FP8 tiles of 16 columns, at the scratchpad window. -/
def tileDesc (a : Nat) : List Host.Cell := [(a + 3, 0xFC), (a + 4, 0xFF), (a + 5, 0xFF), (a + 6, 0xFF), (a + 7, 1), (a + 8, 64), (a + 12, 128), (a + 16, 16)]

/-- Whether a tile record names two descriptors that can be read and is a fault free one. -/
def chainOperands (s : State) (c : Cmd) (bs : List Byte) : Bool :=
  let s0 := s.recFly c c.recAddr
  let c0 := (s0.cmd? c.id).getD c
  match s0.recRead c0 cmdTask (field bs 8 8) 32, s0.recRead c0 cmdTask (field bs 16 8) 32 with
  | .ok x, .ok y => (field bs 56 1).testBit 0 && field bs 45 1 == 1 && recFault cmdTask (bs ++ x ++ y) == none
  | _, _ => false

theorem exists_of_isOk {r : CRes} (h : (match r with | .ok _ => true | _ => false) = true) : ∃ s, r = .ok s := by
  cases r <;> simp_all
theorem exists_of_recRead {r : RecRead} {p : List Byte → Bool} (h : (match r with | .ok bs => p bs | _ => false) = true) :
    ∃ bs, r = .ok bs ∧ p bs = true := by
  cases r <;> simp_all

/-- n bytes of the page of flat 0, which is DRAM. -/
theorem reach_page {c : Cmd} {acc : Acc} {a n : Nat} (w : c.who = ⟨0, 0, 1⟩)
    (hb : (match (cmdState c).flatByte ⟨0, 0, 1⟩ a acc with | .ok l p => l == ⟨.dram, 0x2000000 + a⟩ && p == 0x20001 | _ => false) = true)
    (h1 : a % 2 ^ 16 + n ≤ 2 ^ 16) (hd : (cmdState c).discOf 0x20001 = 0)
    (hf : c.flights.contains ((0x2000000 + a) / 2 ^ 16 * 2 ^ 16) = true) : Reach (cmdState c) c acc a n ⟨.dram, 0x2000000 + a⟩ 0x20001 := by
  refine ⟨?_, h1, hd, fun _ => hf⟩
  rw [w]
  revert hb
  cases (cmdState c).flatByte ⟨0, 0, 1⟩ a acc <;> simp

theorem calm_empty {s : State} {die n : Nat} {l : PLoc} (h : s.writes = []) (hr : s.dirtyLines die + ((l.a + n - 1) / 128 - l.a / 128 + 1) ≤ dieLines) :
    Calm s die l n := ⟨fun w hw => (by rw [h] at hw; cases hw), hr⟩

theorem witness_CopyChannelsDeliverInOrder :
    (let c := tCmd (.copyf 0x1000 0x2000 8 none)
     let s := cmdState c
     s.chanCmd 0 0 = some c ∧ s.cmd? c.id = some c ∧ c.running = true ∧ c.abort = false ∧ c.pos < 8 ∧
      (Job.flat 0x1000 0x2000 8).usesSpad = false ∧
      Reach s c .read 0x1000 1 ⟨.dram, 0x2001000⟩ 0x20001 ∧ Reach s c .write 0x2000 1 ⟨.dram, 0x2002000⟩ 0x20001 ∧
      s.readPoison (dieOfBrick 0) 0 ⟨.dram, 0x2001000⟩ 1 = false ∧ Calm s 0 ⟨.dram, 0x2002000⟩ 1 ∧
      (∀ a ∈ c.flights, 0x2002000 + 1 ≤ countAt a + 4 ∨ countAt a + 8 ≤ 0x2002000)) ∧
    (let c := tCmd (.copy handleA handleA none)
     let s := cmdState c
     s.chanCmd 0 0 = some c ∧ s.cmd? c.id = some c ∧ c.running = true ∧ c.abort = false ∧ c.pos < (Job.tile ⟨View.of handleA, View.of handleA⟩).bytes ∧
      (Job.tile ⟨View.of handleA, View.of handleA⟩).usesSpad = true ∧
      ∃ s1, (s.freeConflicts 0 c.uid).jobByte c (.tile ⟨View.of handleA, View.of handleA⟩) c.pos = .ok s1) ∧
    (let c := { tCmd (.copyf 0x1000 0x2000 8 (some 0x2008)) with pos := 8 }
     let s := cmdState c
     s.chanCmd 0 0 = some c ∧ 8 ≤ c.pos ∧ c.recBad = false ∧ c.abort = false ∧ (Job.flat 0x1000 0x2000 8).usesSpad = false ∧
      Reach s c .write 0x2008 8 ⟨.dram, 0x2002008⟩ 0x20001 ∧
      0x2008 % 8 = 0 ∧ Calm s 0 ⟨.dram, 0x2002008⟩ 8) ∧
    (let c := { tCmd (.chain 0x1000) with recAddr := 0x1000, running := false }
     let s := cmdState c
     s.chanCmd 0 0 = some c ∧ s.task? c.uid = some cmdTask ∧ c.recBusy = false ∧ c.abort = false ∧
      ∃ bs, s.recRead c cmdTask c.recAddr 64 = .ok bs ∧ (!(field bs 56 1).testBit 0) = true) ∧
    (let c := { tCmd (.chain 0x1000) with recAddr := 0x1000, running := false }
     let s := { cmdState c with dram := (cmdState c).dram ++ [(0x2001018, 8), (0x2001038, 1)] }
     s.chanCmd 0 0 = some c ∧ ∃ bs, s.recRead c cmdTask c.recAddr 64 = .ok bs ∧
      ((field bs 56 1).testBit 0 && field bs 45 1 != 1 && recFault cmdTask bs == none) = true) ∧
    (let c := { tCmd (.chain 0x1000) with recAddr := 0x1000, running := false }
     let s := { cmdState c with dram := (cmdState c).dram ++ [(0x2001009, 0x11), (0x2001011, 0x12), (0x2001018, 1), (0x200101A, 1), (0x200102D, 1), (0x2001038, 1)] ++ tileDesc 0x2001100 ++ tileDesc 0x2001200 }
     s.chanCmd 0 0 = some c ∧ ∃ bs, s.recRead c cmdTask c.recAddr 64 = .ok bs ∧
      chainOperands s c bs = true) ∧
    (let c := { tCmd (.chain 0x1000) with recAddr := 0x1000, running := false, recBusy := true, params := leBytes 64 0 }
     let s := cmdState c
     s.chanCmd 0 0 = some c ∧ c.recBusy = true ∧ c.running = false ∧ c.recAddr % 64 = 0 ∧
      Reach s c .write (c.recAddr + 56) 8 ⟨.dram, 0x2001038⟩ 0x20001 ∧ Calm s 0 ⟨.dram, 0x2001038⟩ 8 ∧
      (∀ a ∈ c.flights, 0x2001038 + 8 ≤ countAt a + 4 ∨ countAt a + 8 ≤ 0x2001038)) := by
  refine ⟨⟨?_, rfl, rfl, rfl, by decide, rfl, reach_page rfl ?_ ?_ ?_ ?_, reach_page rfl ?_ ?_ ?_ ?_, ?_, calm_empty rfl ?_, ?_⟩,
    ⟨?_, rfl, rfl, rfl, ?_, ?_, exists_of_isOk ?_⟩, ⟨?_, by decide, rfl, rfl, rfl, reach_page rfl ?_ ?_ ?_ ?_, rfl, calm_empty rfl ?_⟩, ⟨?_, rfl, rfl, rfl, exists_of_recRead ?_⟩,
    ⟨?_, exists_of_recRead ?_⟩, ⟨?_, exists_of_recRead ?_⟩, ?_, rfl, rfl, by decide, reach_page rfl ?_ ?_ ?_ ?_, calm_empty rfl ?_, ?_⟩
  all_goals decide +kernel

theorem walk_page {s : State} {c : Cmd} {acc : Acc} {a n : Nat} {t : Trans} (hw : s.footWalk c a acc = .ok t) (he : s.writes = [])
    (h : (!t.host && decide (a % 2 ^ 16 + n ≤ 2 ^ 16) && decide (0 < n) && decide (s.discOf t.pte = 0)
      && c.flights.contains ((t.loc a).a / 2 ^ 16 * 2 ^ 16)) = true)
    (hr : ((t.loc a).a + n - 1) / 128 - (t.loc a).a / 128 + 1 ≤ dieLines) : Footed s c acc a n t := by
  simp only [Bool.and_eq_true, decide_eq_true_eq, Bool.not_eq_true'] at h
  refine ⟨hw, h.1.1.1.1, h.1.1.1.2, h.1.1.2, h.1.2, h.2, fun die => calm_empty he ?_⟩
  simpa [State.dirtyLines, he] using hr

theorem witness_DiscardsZeroAndCommandsFinish :
    (let c := tCmd (.disc 0x10000 0x10000)
     (cmdState c).chanCmd 0 0 = some c ∧ c.abort = false ∧ c.pos < 0x10000 ∧ (cmdState c).walk c.part (0x10000 + c.pos) .write = .ok page0 ∧
      page0.pte ≠ 0 ∧ pteAddr page0.pte + 8 ≤ page0.phys) ∧
    (let c := { tCmd (.disc 0x10000 0x10000) with pos := 0x10000 }
     (cmdState c).chanCmd 0 0 = some c ∧ 0x10000 ≤ c.pos) ∧
    (let s := { tabled State.reset with
       dram := [(0x400, 0x39), (0x402, 0x01), (0x10000, 0x39), (0x10002, 0x02), (0x20000, 0xBD), (0x20001, 0x01), (0x20003, 0x02), (0x20008, 0xFD)] }
     ∃ t, s.walk 0 0x1000 .any = .ok t ∧ t.disc = 1 ∧ s.pageInFlight t.phys t.size = false) ∧
    ((tabled State.reset).walk 0 0x1000 .any = .ok page0 ∧ page0.disc ≠ 1) ∧
    (∀ c ∈ [tCmd (.copyf 0x1000 0x2000 8 none), { tCmd (.copyf 0x1000 0x2000 8 none) with ended := true },
        { tCmd (.copyf 0x1000 0x2000 8 none) with ended := true, fail := some ⟨7, 0, 0, 0, 0⟩ }],
      (cmdState c).cmd? 9 = some c ∧ c.id = 9 ∧ (cmdState c).task? c.uid = some cmdTask ∧ c.tl < cmdTask.tls.length ∧
      c.num = (cmdTask.tl c.tl).val + 1 ∧ ((cmdState c).cmds.map (·.1)).Pairwise (· < ·)) := by
  refine ⟨⟨?_, rfl, by decide, ?_, by decide, by decide⟩, ⟨?_, by decide⟩,
    ⟨⟨0x2000000, 0x2000000, false, true, true, true, 1, 0x20001⟩, ?_, rfl, ?_⟩, ⟨?_, by decide⟩, fun c hc => ?_⟩
  · decide +kernel
  · decide +kernel
  · decide +kernel
  · decide +kernel
  · decide +kernel
  · decide +kernel
  · fin_cases hc <;> exact ⟨rfl, rfl, rfl, by decide, by decide, by decide⟩

theorem counted_page {s : State} {c : Cmd} {acc : Acc} {a n : Nat} {t : Trans} (hp : piecesOf a n = [(a, n)])
    (hw : s.footWalk c a acc = .ok t) (hf : c.flights.contains ((t.loc a).a / 2 ^ 16 * 2 ^ 16) = true) : Counted s c acc a n := by
  intro p hpm t' h _
  rw [hp] at hpm
  simp only [List.mem_cons, List.not_mem_nil, or_false] at hpm
  subst hpm
  rw [hw] at h
  cases h
  exact hf

theorem uncounted_of {c : Cmd} {l : PLoc} {n : Nat} (h : (c.flights.all fun p => l.a + n ≤ countAt p + 4 || countAt p + 8 ≤ l.a) = true) :
    Uncounted c l n := by
  intro _ p hp
  simpa using List.all_eq_true.mp h p hp

/-- An XRED block: n sources at 0x1000 and on, one element, flag at 0x3000; and its command, which has arrived. -/
def redBlk (n : Nat) : List Byte :=
  leBytes 4 n ++ leBytes 4 1 ++ leBytes 24 0 ++ leBytes 8 0x1000 ++ leBytes 8 0x1100 ++ leBytes 112 0 ++ leBytes 8 0x2000 ++ leBytes 8 0x3000 ++
    leBytes 8 7 ++ leBytes 8 0
def redCmd (n : Nat) (run : Bool) : Cmd :=
  { tCmd (.xred 0x4000) with tl := 3, running := run, params := redBlk n, arrived := some 0 }

theorem witness_GathersReductionsAndScattersMoveTheirElements :
    (∀ scat ∈ [true, false],
      let c := { tCmd (if scat then .scat 0x1000 0x2000 0x3000 8 1 else .gath 0x1000 0x2000 0x3000 8 1) with tl := 2 }
      let s := cmdState c
      let dst : PLoc := if scat then ⟨.dram, 0x2001000⟩ else ⟨.dram, 0x2003000⟩
      s.cmd? 9 = some c ∧ c.id = 9 ∧ s.task? c.uid = some cmdTask ∧ c.ended = false ∧ s.relIssued c = true ∧
      (∀ x ∈ s.cmds, x.2.uid = c.uid → x.2.tl = 2 → c.num ≤ x.2.num) ∧ c.pos < 1 ∧
      Reach s c .read 0x2000 4 ⟨.dram, 0x2002000⟩ 0x20001 ∧ s.readPoison (dieOfBrick 0) 0 ⟨.dram, 0x2002000⟩ 4 = false ∧
      (s.check cmdTask c.brick 0x1000 8 (if scat then .write else .read)).1 = .ok ⟨.dram, 0x2001000⟩ 0x20001 ∧
      leNat (s.engRead 0 ⟨.dram, 0x2002000⟩ 0x20001 4) = 0 ∧ s.discOf 0x20001 = 0 ∧ c.flights.contains (0x2001000 / 2 ^ 16 * 2 ^ 16) = true ∧
      Reach s c (if scat then .read else .write) 0x3000 8 ⟨.dram, 0x2003000⟩ 0x20001 ∧
      s.readPoison 0 0 (if scat then ⟨.dram, 0x2003000⟩ else ⟨.dram, 0x2001000⟩) 8 = false ∧ Calm s 0 dst 8) ∧
    (∀ scat ∈ [true, false],
      let c := { tCmd (if scat then .scat 0x5000000 0x2000 0x3000 8 1 else .gath 0x5000000 0x2000 0x3000 8 1) with tl := 2 }
      let s := cmdState c
      s.cmd? 9 = some c ∧ c.fail = none ∧ Reach s c .read 0x2000 4 ⟨.dram, 0x2002000⟩ 0x20001 ∧
      s.readPoison (dieOfBrick 0) 0 ⟨.dram, 0x2002000⟩ 4 = false ∧ leNat (s.engRead 0 ⟨.dram, 0x2002000⟩ 0x20001 4) = 0 ∧
      (s.check cmdTask c.brick 0x5000000 8 (if scat then .write else .read)).1 = .bad 6 0x5000000) ∧
    (let c := { tCmd (.gath 0x1000 0x2000 0x3000 8 1) with tl := 2, pos := 1 }
     (cmdState c).cmd? 9 = some c ∧ (cmdState c).relIssued c = true ∧ 1 ≤ c.pos ∧ ∀ x ∈ (cmdState c).cmds, x.2.uid = c.uid → x.2.tl = 2 → c.num ≤ x.2.num) ∧
    (let c := redCmd 2 false
     (cmdState c).cmd? 9 = some c ∧ (cmdState c).footCmd 9 3 = some (c, cmdTask) ∧ c.fail = none ∧ (cmdState c).xredBad cmdTask c 0x4000 = none) ∧
    (let c := redCmd 1 false
     (cmdState c).footCmd 9 3 = some (c, cmdTask) ∧ (cmdState c).xredBad cmdTask c 0x4000 = some (1, 0x4000)) ∧
    (let c := { redCmd 2 false with fail := some ⟨0x0E, 3, 0, 0x4000, 0⟩ }
     (cmdState c).footCmd 9 3 = some (c, cmdTask) ∧ c.running = false ∧ c.fail ≠ none) ∧
    (let c := redCmd 2 true
     let s := { cmdState c with badDram := [0x2001100 / 8] }
     s.footCmd 9 3 = some (c, cmdTask) ∧ c.running = true ∧ c.pos < c.par 4 4 ∧ c.fail = none ∧
      (s.unread c (c.xredSrcs.map fun a => (a + c.xredSize * c.pos, c.xredSize))
        <|> s.unwritten c [(c.par 160 8 + c.xredSize * c.pos, c.xredSize)]) = some (0x1100, 7)) ∧
    (let c := redCmd 2 true
     (cmdState c).footCmd 9 3 = some (c, cmdTask) ∧ c.running = true ∧ c.pos < c.par 4 4 ∧ 2 ≤ c.par 0 1 ∧ c.par 0 1 ≤ 16 ∧
      (c.xredSrcs.map fun a => ((cmdState c).footGets c (a + c.xredSize * c.pos) c.xredSize).map leNat) = [0, 0].map .ok ∧
      (∀ a ∈ c.xredSrcs, Counted (cmdState c) c .read (a + c.xredSize * c.pos) c.xredSize) ∧
      Footed (cmdState c) c .write (c.par 160 8 + c.xredSize * c.pos) c.xredSize page0 ∧
      Uncounted c (page0.loc (c.par 160 8 + c.xredSize * c.pos)) c.xredSize) ∧
    (let c := { redCmd 2 true with pos := 1 }
     (cmdState c).footCmd 9 3 = some (c, cmdTask) ∧ c.par 4 4 ≤ c.pos ∧ c.fail = none ∧ c.par 168 8 ≠ 0 ∧
      Footed (cmdState c) c .write (c.par 168 8) 8 page0 ∧ Uncounted c (page0.loc (c.par 168 8)) 8) := by
  refine ⟨fun b hb => ?_, fun b hb => ?_, ⟨rfl, ?_, ?_, ?_⟩, ⟨rfl, ?_, rfl, ?_⟩, ⟨?_, ?_⟩, ⟨?_, rfl, ?_⟩, ⟨?_, rfl, ?_, rfl, ?_⟩,
    ⟨?_, rfl, ?_, ?_, ?_, ?_, fun a ha => ?_, walk_page ?_ rfl ?_ ?_, uncounted_of ?_⟩, ⟨?_, ?_, rfl, ?_, walk_page ?_ rfl ?_ ?_, uncounted_of ?_⟩⟩
  · fin_cases hb <;> refine ⟨rfl, rfl, rfl, rfl, ?_, ?_, ?_, reach_page rfl ?_ ?_ ?_ ?_, ?_, ?_, ?_, ?_, ?_, reach_page rfl ?_ ?_ ?_ ?_, ?_, calm_empty rfl ?_⟩ <;> decide +kernel
  · fin_cases hb <;> refine ⟨rfl, rfl, reach_page rfl ?_ ?_ ?_ ?_, ?_, ?_, ?_⟩ <;> decide +kernel
  all_goals try decide +kernel
  have h : a = 0x1000 ∨ a = 0x1100 := by
    have : Cmd.xredSrcs (redCmd 2 true) = [0x1000, 0x1100] := by decide +kernel
    rw [this] at ha
    simpa using ha
  rcases h with rfl | rfl <;> refine counted_page (t := page0) ?_ ?_ ?_ <;> decide +kernel

/-- An XIRED block: one command at 0x1000, one table named at 0x2000, one slot at 0x3000, flag at 0x4000. -/
def iredBlk (len init : Nat) : List Byte :=
  leBytes 8 0x1000 ++ leBytes 4 1 ++ leBytes 2 len ++ leBytes 2 1 ++ leBytes 8 0x2000 ++ leBytes 8 0x3000 ++ leBytes 4 1 ++ leBytes 4 init ++
    leBytes 8 0x4000 ++ leBytes 8 7 ++ leBytes 8 0
/-- Its command, with the table's rows as they were read: the one table stands at flat 0. -/
def iredCmd (len init pos rows : Nat) : Cmd :=
  { tCmd (.xired 0x5000) with tl := 4, params := iredBlk len init, pos := pos, arrived := some 0, work := [(2, [0, 0, BitVec.ofNat 32 rows, 0])] }

theorem witness_IndexedReductionsWorkInOrder :
    (let c := iredCmd 1 1 0 1
     (cmdState c).cmd? 9 = some c ∧ (cmdState c).footCmd 9 4 = some (c, cmdTask) ∧ c.running = true ∧ c.pos < c.xired.slots * c.xired.len ∧
      c.xired.init = true ∧ Footed (cmdState c) c .write (c.xired.dest + 4 * c.pos) 4 page0 ∧
      Uncounted c (page0.loc (c.xired.dest + 4 * c.pos)) 4) ∧
    (let c := iredCmd 1 1 1 0
     (cmdState c).footCmd 9 4 = some (c, cmdTask) ∧ c.xired.slots * c.xired.len ≤ c.pos ∧ (c.pos - 1) / c.xired.len < c.xired.count ∧
      (c.pos - 1) % c.xired.len = 0 ∧ (cmdState c).xiredItem c 0 = .error (6, 0x1000) ∧ c.fail = none) ∧
    (∀ op ∈ [0, 1, 2],
      let c := iredCmd 2 0 0 1
      let s := { cmdState c with dram := (cmdState c).dram ++ (if op = 0 then [] else [(0x2001005, BitVec.ofNat 8 op)]) }
      let it : XItem := ⟨op, 4, 0, 0x3000, 0⟩
      s.footCmd 9 4 = some (c, cmdTask) ∧ s.xiredItem c 0 = .ok (it, [0, 0]) ∧ c.pos % c.xired.len = 0 ∧
      Counted s c .read it.row (c.xired.len * it.sz) ∧ Counted s c .read it.slot (c.xired.len * 4) ∧
      Counted s c .write (it.at' 0).1 (c.xired.len * (it.at' 0).2) ∧
      let a := if it.op = 2 then it.row + it.sz * 0 else it.slot + 4 * 0
      let n := if it.op = 2 then it.sz else 4
      Footed s c .write a n page0 ∧ Uncounted c (page0.loc a) n ∧ s.footGet c a n = .ok [0, 0, 0, 0]) ∧
    (let it : XItem := ⟨0, 4, 0, 0x3000, 0⟩
     let c := ({ iredCmd 2 0 1 1 with held := [(0, page0)] } : Cmd).keepItem it [5, 6]
     let s := cmdState c
     s.footCmd 9 4 = some (c, cmdTask) ∧ c.pos % c.xired.len = 1 ∧ c.item = it ∧ (kget 0 [] c.work).map BitVec.toNat = [5, 6] ∧
      kget? ((0x3000 + 4 * 1) / 2 ^ 16) c.held = some page0 ∧ Uncounted c (page0.loc (0x3000 + 4 * 1)) 4 ∧
      Footed s c .write (0x3000 + 4 * 1) 4 page0 ∧ s.footGet c (0x3000 + 4 * 1) 4 = .ok [0, 0, 0, 0]) ∧
    (let c := iredCmd 1 0 1 1
     (cmdState c).footCmd 9 4 = some (c, cmdTask) ∧ c.xired.count ≤ c.pos / c.xired.len ∧ c.fail = none ∧ c.xired.flag ≠ 0 ∧
      Footed (cmdState c) c .write c.xired.flag 8 page0 ∧ Uncounted c (page0.loc c.xired.flag) 8) := by
  refine ⟨⟨rfl, ?_, rfl, ?_, ?_, walk_page ?_ rfl ?_ ?_, uncounted_of ?_⟩, ⟨?_, ?_, ?_, ?_, ?_, rfl⟩, fun op h => ?c,
    ⟨?_, ?_, ?_, ?_, rfl, uncounted_of ?_, walk_page ?_ rfl ?_ ?_, ?_⟩, ⟨?_, ?_, rfl, ?_, walk_page ?_ rfl ?_ ?_, uncounted_of ?_⟩⟩
  case c =>
    fin_cases h <;> refine ⟨?_, ?_, ?_, counted_page (t := page0) ?_ ?_ ?_, counted_page (t := page0) ?_ ?_ ?_,
      counted_page (t := page0) ?_ ?_ ?_, walk_page ?_ rfl ?_ ?_, uncounted_of ?_, ?_⟩ <;> decide +kernel
  all_goals decide +kernel

/-- An XPKL block: one query of two elements, one key a half, one value row of one element. -/
def pklBlk (back flags index grad : Nat) : List Byte :=
  leBytes 1 back ++ leBytes 1 0 ++ leBytes 1 flags ++ leBytes 1 1 ++ leBytes 2 1 ++ leBytes 2 2 ++ leBytes 2 1 ++ leBytes 2 1 ++ leBytes 4 0 ++
    leBytes 8 0x1000 ++ leBytes 8 0x1100 ++ leBytes 8 0x1200 ++ leBytes 8 0x1300 ++ leBytes 8 0x1400 ++ leBytes 8 index ++ leBytes 8 index ++
    leBytes 8 grad ++ leBytes 8 0 ++ leBytes 8 0 ++ leBytes 32 0
def pklCmd (back flags index grad : Nat) : Cmd :=
  { tCmd (.xpkl 0x5000) with tl := 5, params := pklBlk back flags index grad, arrived := some 0 }

/-- With the footing die's tokens. -/
def pklState (c : Cmd) : State := { cmdState c with piers := [(0, { Pier.reset with owner := some 0, bucket := 256 })] }

theorem witness_ProductKeyLookupsScoreGatherAndScatter :
    (let c := pklCmd 0 0 0 0
     let s := { cmdState c with piers := [(0, { Pier.reset with owner := some 0, bucket := 255 })] }
     s.cmd? 9 = some c ∧ s.footCmd 9 5 = some (c, cmdTask) ∧ c.running = true ∧ c.xpkl.back = false ∧ c.pos < c.xpkl.nq ∧ c.work = [] ∧
      (s.pier c.pier).bucket < 256 * cdiv (2 * cdiv (c.xpkl.nk * c.xpkl.h) 1024) 4096) ∧
    (∀ bad ∈ [[], [0x2001100 / 8]],
     let c := pklCmd 0 0 0 0
     let s := { pklState c with badDram := bad }
     let x := c.xpkl
     let reads := [(x.q + c.pos * 2 * x.h * x.qsz, 2 * x.h * x.qsz), (x.k1, 2 * x.h * x.nk), (x.k2, 2 * x.h * x.nk)]
     s.footCmd 9 5 = some (c, cmdTask) ∧ 256 * cdiv (2 * cdiv (x.nk * x.h) 1024) 4096 ≤ (s.pier c.pier).bucket ∧
      s.unread c reads = (if bad = [] then none else some (0x1100, 7)) ∧ c.fail = none ∧
      reads = [(0x1000, 8), (0x1100, 2), (0x1200, 2)] ∧
      Counted s c .read 0x1000 8 ∧ Counted s c .read 0x1100 2 ∧ Counted s c .read 0x1200 2) ∧
    (∀ bad ∈ [[], [0x2001300 / 8]],
     let c := { pklCmd 0 0 0 0 with work := [(0, [0]), (1, [0])] }
     let s := { pklState c with badDram := bad }
     s.footCmd 9 5 = some (c, cmdTask) ∧ kget? 0 c.work = some [0] ∧ kget? 1 c.work = some [0] ∧ c.xpkl.index = 0 ∧ c.xpkl.weight = 0 ∧
      s.unread c ([(0 : BitVec 32)].map fun r => (c.xpkl.rowAt r.toNat, c.xpkl.dv * c.xpkl.vsz)) = (if bad = [] then none else some (0x1300, 7)) ∧
      Counted s c .read (c.xpkl.rowAt 0) (c.xpkl.dv * c.xpkl.vsz) ∧ Footed s c .write (c.xpkl.rows + 4 * c.pos * c.xpkl.dv) (4 * c.xpkl.dv) page0 ∧
      Uncounted c (page0.loc (c.xpkl.rows + 4 * c.pos * c.xpkl.dv)) (4 * c.xpkl.dv)) ∧
    (∀ grad ∈ [0, 0x1600],
     let c := pklCmd 1 1 0x1500 grad
     let s := pklState c
     s.footCmd 9 5 = some (c, cmdTask) ∧ c.xpkl.back = true ∧ c.pos < c.xpkl.nq * c.xpkl.k ∧ s.pklItem c 0 = .ok (0, 0, [0]) ∧
      Counted s c .write (c.xpkl.rowAt 0) (c.xpkl.dv * c.xpkl.vsz) ∧ c.xpkl.grad = grad ∧ Footed s c .write (0x1600 + 4 * 0) 4 page0 ∧
      Uncounted c (page0.loc (0x1600 + 4 * 0)) 4) ∧
    (let c := pklCmd 1 1 0x1500 0
     let s := { pklState c with dram := (pklState c).dram ++ [(0x2001500, 1)] }
     s.footCmd 9 5 = some (c, cmdTask) ∧ s.pklItem c 0 = .error (6, 0x1500) ∧ c.fail = none) ∧
    (∀ flags ∈ [0, 1, 4, 5],
     let c := { pklCmd 1 flags 0x1500 0 with pos := 1, work := [(0, [0]), (1, [0, 0, 0])], held := [(0, page0)] }
     let s := pklState c
     let s1 := if c.xpkl.sorted then s else s.drawNat.2
     let n := if c.xpkl.sorted then 0 else s.drawNat.1 % [(0 : BitVec 32)].length
     s.footCmd 9 5 = some (c, cmdTask) ∧ c.xpkl.back = true ∧ c.xpkl.nq * c.xpkl.k ≤ c.pos ∧ kget? 0 c.work = some [0] ∧
      [(0 : BitVec 32)][n]? = some (BitVec.ofNat 32 (4096 * 0 + 0)) ∧ kget? (0 + 1) c.work = some [0, 0, 0] ∧
      s1.unread c [(c.xpkl.rowAt 0, c.xpkl.dv * c.xpkl.vsz)] = none ∧ kget? ((c.xpkl.rowAt 0 + c.xpkl.vsz * 0) / 2 ^ 16) c.held = some page0 ∧
      Uncounted c (page0.loc (c.xpkl.rowAt 0 + c.xpkl.vsz * 0)) c.xpkl.vsz ∧
      Footed s1 c .write (c.xpkl.rowAt 0 + c.xpkl.vsz * 0) c.xpkl.vsz page0 ∧
      s1.footGet c (c.xpkl.rowAt 0 + c.xpkl.vsz * 0) c.xpkl.vsz = .ok (leBytes c.xpkl.vsz 0)) := by
  refine ⟨⟨rfl, ?_, rfl, ?_, ?_, rfl, ?_⟩, fun bad h => ?a, fun bad h => ?b, fun grad h => ?c, ⟨?_, ?_, rfl⟩, fun flags h => ?d⟩
  case a =>
    fin_cases h <;> refine ⟨?_, ?_, ?_, rfl, ?_, counted_page (t := page0) ?_ ?_ ?_, counted_page (t := page0) ?_ ?_ ?_, counted_page (t := page0) ?_ ?_ ?_⟩ <;>
      decide +kernel
  case b =>
    fin_cases h <;> refine ⟨?_, ?_, ?_, ?_, ?_, ?_, counted_page (t := page0) ?_ ?_ ?_, walk_page ?_ rfl ?_ ?_, uncounted_of ?_⟩ <;> decide +kernel
  case c =>
    fin_cases h <;> refine ⟨?_, ?_, ?_, ?_, counted_page (t := page0) ?_ ?_ ?_, ?_, walk_page ?_ rfl ?_ ?_, uncounted_of ?_⟩ <;> decide +kernel
  case d =>
    fin_cases h <;> refine ⟨?_, ?_, ?_, ?_, ?_, ?_, ?_, ?_, uncounted_of ?_, walk_page ?_ rfl ?_ ?_, ?_⟩ <;>
      first
      | decide +kernel
      | (show [(0 : BitVec 32)][_ % 1]? = some 0
         rw [Nat.mod_one]
         rfl)
  all_goals decide +kernel

/-- An instruction of the matrix array in brick 0: queued, or under way. -/
def tOp (k : PmaKind) : PmaOp := ⟨1, 0, 1, 1, 0, k, [], 0⟩
def pmaState (f : Brick → Brick) (g : State → State) : State :=
  g { tabled State.reset with tasks := [(1, winTask)], ctxs := [(0, { Ctx.reset with uid := 1 })], bricks := [(0, f Brick.reset)] }
def mmaOp (st : Option (Bool × Bool × Nat)) : PmaOp := tOp (.mma .int32 handleA handleB 0 st)

/-- Where no word is poisoned an integer operand in scratchpad can be read. -/
theorem viewPoison_clean {s : State} {w : Who} {v : View} {mode : AccMode} {u : Nat → Nat → Bool} (hb : ∀ sp, s.bad sp = [])
    (ht : v.d.tiled = false) (hf : (bfqM v.d.fmt).isSome = false) (hr : v.readsScales mode = false) : s.viewPoison w v mode u = false := by
  have h : ∀ r c p, s.tPoison w v.d (v.d.planeAt r c p) 1 = false := by
    intro r c p
    simp only [Desc.planeAt, ht, Bool.false_eq_true, if_false, State.tPoison, State.tAt, State.readPoison, State.badWords, hb]
    split
    · simp
    · rename_i h; split at h <;> cases h
    · rfl
  simp [State.viewPoison, h, hf, hr]

theorem witness_MatrixInstructionsStartStreamAndComplete :
    (∀ bucket ∈ [0, 16384], ∀ ws ∈ [[], [{ tWrite with loc := ⟨.spad, 64⟩ }]],
      let o := mmaOp none
      let s := pmaState (fun b => { b with pma := [o], bucket := bucket }) fun s => { s with writes := ws }
      s.task? o.uid = some winTask ∧ winTask.uid = o.uid ∧ (s.brick 0).run = none ∧ (s.brick 0).pma = o :: [] ∧
      s.pmaSees o = ws.isEmpty ∧ o.since ≤ s.cycle 0 ∧ (s.ctx o.ctx).uid = o.uid ∧ (s.ctx o.ctx).held = 0 ∧
      256 * cdiv (o.kind.fixed + (s.planOf ⟨0, 0, 1⟩ o).charged o.kind) 4096 = 256 ∧ (s.brick 0).bucket = bucket) ∧
    (∀ cs ∈ [[], [(9, tCmd (.copyf 0x1000 Config.localWin 1024 none))]],
      let o := mmaOp (some (false, false, 1))
      let s := pmaState (fun b => { b with run := some ⟨o, 0, 0, 0⟩ }) fun s => { s with cmds := cs }
      let plan := s.planOf ⟨0, 0, 1⟩ o
      s.task? o.uid = some winTask ∧ (s.brick 0).run = some ⟨o, 0, 0, 0⟩ ∧ o.kind.streamView = some (View.of handleA) ∧
      o.kind.copyOf = some (0, 1) ∧ (View.of handleA).groups[0]? = some (0, 0, 0) ∧
      s.tagStands ⟨0, 0, 1⟩ winTask (View.of handleA) (0, 1) 0 0 = true ∧
      0 < plan.streamPlanes o.kind.streamsB 0 0 + (if (View.of handleA).d.fmt < 2 then (View.of handleA).lo else 0) ∧
      s.planeFed ⟨0, 0, 1⟩ (View.of handleA) (0, 1) 0 0 0 = cs.isEmpty) ∧
    (let t := { winTask with copies := [(0, 1, handleA, handleA)] }
     let s := pmaState id fun s => { s with cmds := [(9, tCmd (.copy handleA handleA none))] }
     s.tagStands ⟨0, 0, 1⟩ t (View.of handleA) (0, 1) 0 0 = false) ∧
    (∀ k ∈ [PmaKind.mzero .fp32 0, .mma .int32 handleA handleB 0 none, .madda 1 0], ∀ free ∈ [0, 10],
      let t := { winTask with accMode := [(1, .int32)] }
      let r : PmaRun := ⟨tOp k, free, 0, 0⟩
      let s := pmaState (fun b => { b with run := some r }) fun s => { s with tasks := [(1, t)] }
      (s.brick 0).run = some r ∧ s.task? r.op.uid = some t ∧ t.uid = r.op.uid ∧ 7 < t.tls.length ∧ (∀ v, r.op.kind.streamView ≠ some v) ∧
      s.cycle 0 = 0) ∧
    (let s := pmaState (fun b => { b with run := some ⟨tOp (.mzero .fp32 0), 0, 0, 0⟩ }) id
     ∃ s1 fl, s.pmaWork ⟨0, 0, 1⟩ winTask (tOp (.mzero .fp32 0)) = .ok s1 fl ∧ s1.task? 1 ≠ none ∧
       ∀ t1, s1.task? 1 = some t1 → 7 < t1.tls.length) ∧
    (let s := pmaState id id
     (tOp (.madda 1 0)).kind = .madda 1 0 ∧
      s.pmaWork ⟨0, 0, 1⟩ { winTask with accMode := [(1, .int32)] } (tOp (.madda 1 0)) = .fail 0x10 ∧ winTask.phase = .bound 0) ∧
    (let s := pmaState id id
     let va := View.of handleA
     let vb := View.of handleB
     let z := s.startMode (mmaOp none)
     AccMode.int32 ≠ .int64 ∧ z.viewPoison ⟨0, 0, 1⟩ va .int32 (s.untrim ⟨0, 0, 1⟩ winTask va none) = false ∧
      z.viewPoison ⟨0, 0, 1⟩ vb .int32 (s.untrim ⟨0, 0, 1⟩ winTask vb none) = false ∧
      z.accPoison 1 0 .int32 va.rows vb.cols = false ∧ va.rows ≤ 128 ∧ vb.cols ≤ 128 ∧ 63 < va.rows ∧ 63 < vb.cols) := by
  refine ⟨fun bucket hb ws hw => ?_, fun cs hc => ?_, ?_, fun k hk free hf => ?_, ⟨_, _, rfl, by decide, fun t1 h => ?_⟩, ⟨rfl, rfl, rfl⟩,
    by decide, viewPoison_clean ?_ ?_ ?_ ?_, viewPoison_clean ?_ ?_ ?_ ?_, by decide +kernel, by decide +kernel, by decide +kernel,
    by decide +kernel, by decide +kernel⟩
  · fin_cases hb <;> fin_cases hw <;> exact ⟨rfl, rfl, rfl, rfl, by decide, by decide, rfl, rfl, by decide +kernel, rfl⟩
  · fin_cases hc <;> exact ⟨rfl, rfl, rfl, rfl, by decide +kernel, by decide +kernel, by decide +kernel, by decide +kernel⟩
  · decide +kernel
  · fin_cases hk <;> fin_cases hf <;> exact ⟨rfl, rfl, rfl, by decide, fun v h => (by cases h), by decide⟩
  · cases h; decide
  · intro sp; cases sp <;> rfl
  · decide +kernel
  · decide +kernel
  · decide +kernel
  · intro sp; cases sp <;> rfl
  · decide +kernel
  · decide +kernel
  · decide +kernel

/-- A scratchpad tensor at the window's start, which the brick reaches whole. -/
theorem inPool_win {s : State} {d : Desc} (hs : (s.brick 0).spadBytes = Brick.reset.spadBytes) (hl : d.loc = 1)
    (hb : d.base = Config.localWin) (hn : d.blkOff (cdiv d.rows d.blkRows * cdiv d.cols d.blkCols) ≤ Brick.reset.spadBytes)
    (hw : s.writes = []) : InPool s 0 d 0 := by
  refine ⟨hl, fun i hi => ?_, fun w h => by rw [hw] at h; cases h⟩
  have hr : i < Brick.reset.spadBytes := by omega
  have h2 : Brick.reset.spadBytes ≤ Config.unmappedWin - Config.localWin := by decide +kernel
  have h3 : Config.localWin < Config.unmappedWin := by decide +kernel
  unfold State.spadLoc
  rw [hb, if_neg (by omega), if_neg (by decide), if_pos (by omega), Nat.add_sub_cancel_left, hs]
  show some (if i < _ then _ else _) = _
  rw [if_pos hr]
  simp

/-- A tl7 instruction of kind k under way in brick 0, its work at its end. -/
def endState (k : PmaKind) (t : Task) : State :=
  pmaState (fun b => { b with run := some ⟨tOp k, 0, 0, 0⟩ }) fun s => { s with tasks := [(1, t)] }

/-- One element of a UINT tensor of 8 planes at the window's start, and 32 of a BFQ one, as views. -/
def oneView : HandleVal := BitVec.ofNat 512 (handleOf (Config.localWin + 2 ^ 64 + 2 ^ 96 + 2 ^ 132 + 7 * 2 ^ 135 + 2 ^ 139))
def bfqView : HandleVal := BitVec.ofNat 512 (handleOf (Config.localWin + 2 ^ 64 + 32 * 2 ^ 96 + 2 ^ 132 + 3 * 2 ^ 139))

theorem witness_MatrixInstructionsGiveTheirValues :
    (∀ k ∈ [PmaKind.mmac .int32 1 0 handleB none false 0 7 0 0 0, .mcvt handleA 0 0, .mcvt bfqView 0 0, .madda 1 0, .ptrim handleA,
        .pxpose oneView 1 false 0x1000 1, .pxpose oneView 1 true 0x1000 1], ∀ m ∈ [[], [(1, AccMode.int32)]],
      let t := { winTask with accMode := m }
      let s := endState k t
      (s.brick 0).run = some ⟨tOp k, 0, 0, 0⟩ ∧ s.task? (tOp k).uid = some t ∧ t.uid = (tOp k).uid ∧ 7 < t.tls.length ∧
        k.streamView = none ∧ 0 ≤ s.cycle 0) ∧
    (let k := PmaKind.mmac .int32 1 0 handleB none false 0 7 0 0 0
     let z := (endState k winTask).startMode (tOp k)
     let vb := View.of handleB
     ∃ tz, z.task? 1 = some tz ∧
      z.viewPoison ⟨0, 0, 1⟩ vb .int32 ((endState k winTask).untrim ⟨0, 0, 1⟩ winTask vb none) = false ∧
      z.accPoison 1 0 .int32 128 vb.cols = false ∧ z.accPoison 1 1 (tz.modeOf 1) 128 128 = false ∧ vb.cols ≤ 128 ∧ 63 < vb.cols) ∧
    (∀ h ∈ [handleA, bfqView],
      let s := endState (.mcvt h 0 0) winTask
      let v := View.of h
      InPool s 0 v.d 0 ∧ mcvtOk v = true ∧ v.row0 + v.rows ≤ v.d.rows ∧ v.col0 + v.cols ≤ v.d.cols ∧
        s.accPoison 1 0 (winTask.modeOf 0) v.rows v.cols = false ∧ v.d.fmt ≠ 2 ∧
        (h = bfqView → bfqM v.d.fmt = some 3 ∧ 32 * 0 + 32 ≤ v.cols ∧ 0 < v.rows ∧ v.d.kmajor = false)) ∧
    (let s := endState (.madda 1 0) { winTask with accMode := [(1, .int32)] }
     ({ winTask with accMode := [(1, .int32)] } : Task).modeOf 1 ≠ winTask.modeOf 0 ∧ winTask.phase = .bound 0 ∧
      s.accPoison 1 0 (winTask.modeOf 0) 128 128 = false ∧ s.accPoison 1 1 (winTask.modeOf 1) 128 128 = false ∧
      winTask.modeOf 1 = winTask.modeOf 0) ∧
    (let s := endState (.ptrim handleA) winTask
     let d := (View.of handleA).d
     InPool s 0 d 0 ∧ d.isElem = false ∧ ∃ b ∈ d.blocksOf 0 0 64 128, d.has b.1 b.2 = true) ∧
    (∀ un ∈ [false, true],
      let s := endState (.pxpose oneView 1 un 0x1000 1) winTask
      let v := View.of oneView
      InPool s 0 v.d 0 ∧ intFmt v.d.fmt = true ∧ v.rows = 1 ∧ v.cols = 1 ∧ v.row0 + v.rows ≤ v.d.rows ∧ v.col0 + v.cols ≤ v.d.cols ∧
      (pxAddr 0x1000 1 1 0 0).toNat = 0x1000 ∧ s.readFlat 0 0 0 0x1000 1 = some [0] ∧ s.flatPoison 0 0 0 0x1000 1 = none ∧
      winTask.drops = [] ∧ v.d.w ≤ 8 * 1 ∧ v.cols * 1 ≤ (1 : Word).toNat ∧ 0x1000 % 2 ^ 16 + v.rows * (1 : Word).toNat ≤ 2 ^ 16 ∧
      s.flatLoc 0 0 0x1000 .write = some ⟨.dram, 0x2001000⟩ ∧ s.discOf (s.flatPte 0 0 0x1000 .write) = 0 ∧ s.writes = [] ∧
      s.dirtyLines (dieOfBrick 0) + v.rows * (v.cols * 1 / 128 + 2) ≤ dieLines ∧
      ∀ y ∈ v.cells, ∀ p ∈ List.range v.d.stored, s.tPoison ⟨0, 0, 1⟩ v.d (v.d.planeAt y.1 y.2 p) 1 = false) := by
  refine ⟨fun k hk m hm => ?a, ⟨_, rfl, viewPoison_clean ?_ ?_ ?_ ?_, ?_, ?_, ?_, ?_⟩, fun h hh => ?b, ⟨?_, rfl, ?_, ?_, rfl⟩,
    ⟨inPool_win rfl ?_ ?_ ?_ rfl, ?_, ?_⟩, fun un h => ?c⟩
  case a => fin_cases hk <;> fin_cases hm <;> refine ⟨?_, ?_, ?_, ?_, ?_, ?_⟩ <;> decide +kernel
  case b =>
    rw [List.mem_cons, List.mem_singleton] at hh
    rcases hh with rfl | rfl <;> refine ⟨inPool_win rfl ?_ ?_ ?_ rfl, ?_, ?_, ?_, ?_, ?_, ?_⟩ <;> decide +kernel
  case c => fin_cases h <;> refine ⟨inPool_win rfl ?_ ?_ ?_ rfl, ?_, ?_, ?_, ?_, ?_, ?_, ?_, ?_, rfl, ?_, ?_, ?_, ?_, ?_, rfl, ?_, ?_⟩ <;> decide +kernel
  case refine_1 => intro sp; cases sp <;> rfl
  all_goals decide +kernel

/-- A network record of n bytes at a, to device 5, and a command with it and what it has outstanding. -/
def netBlk (a n ord : Nat) : List Byte :=
  leBytes 8 a ++ leBytes 8 0x2000 ++ leBytes 4 n ++ leBytes 4 5 ++ leBytes 8 0 ++ leBytes 1 ord ++ leBytes 7 0 ++ leBytes 24 0
def netCmd (k : CmdKind) (a n : Nat) (ps : List NetPkt) : Cmd :=
  { tCmd k with tl := 6, params := netBlk a n 0, pkts := ps, arrived := some 0 }
/-- A destination that device 5 is, at some time. -/
def destState (c : Cmd) (now : Nat) (f : NetDest → NetDest) : State :=
  { cmdState c with now := now, pkg := { Pkg.reset with dests := [f (NetDest.fresh 0 5 0)] } }
/-- A network command whose task may reach more, with a page that is not resident at 0x4000000 and one without translation. -/
def netState (c : Cmd) : State := { absented (cmdState c) with tasks := [(1, { cmdTask with lease := [(0, 0x10000000)] })] }
/-- A window of partition 0 for job 1. -/
def windowed : State :=
  { tabled State.reset with
    parts := [(0, { (tabled State.reset).part 0 with jobKey := some 5, netjob := 1, netwin := [(0x1000, 0x1000), (0x8000000, 0x1000)] })] }
def tNet (kind counter : Nat) : NetOp := ⟨7, 1, kind, 0x1000, leBytes 8 5, 8, counter, 0, 0, 3, some 2, some 5⟩

theorem witness_NetworkCommandsSendCompleteAndArrive :
    (∀ n ∈ [0, 8], ∀ a ∈ [0x1000, 0x5000000], ∀ ord ∈ [0, 1], let c := { netCmd (.nput 0x4000) a n [] with params := netBlk a n ord }
      let s := cmdState c
      s.cmd? 9 = some c ∧ c.id = 9 ∧ s.task? c.uid = some cmdTask ∧ c.kind.net = some 0 ∧ c.ended = false ∧ c.arrived.isSome = true ∧ c.frozen = none ∧
        c.fail = none ∧ NetRec.ok c.params (0 == 2) = (n == 8) ∧ (n = 8 → cmdTask.inLease (NetRec.of c.params).locl (NetRec.of c.params).len = (a == 0x1000)) ∧
        (NetRec.of c.params).ordered = (ord == 1)) ∧
    (∃ f, let c := { netCmd (.nput 0x4000) 0x1000 8 [] with fail := some f }
      (cmdState c).cmd? 9 = some c ∧ c.fail = some f) ∧
    (∀ a ∈ [0x1000, 0x4000000, 0x8000000], ∀ k ∈ [CmdKind.nput 0x4000, .nget 0x4000],
     let c := netCmd k a 8 []
     let s := netState c
     let r := NetRec.of c.params
     let n := if c.kind.net = some 0 then min 4096 (r.len - c.pos) else 0
     s.cmd? 9 = some c ∧ NetRec.ok c.params false = true ∧ (∃ t, s.task? c.uid = some t ∧ t.inLease r.locl r.len = true) ∧
      s.orderedBehind c r = false ∧ c.pos < r.len ∧ c.pos = 0 ∧
      (s.dest (s.pickPort r.dev r.ordered / 4) 5).unacked + n ≤ (s.dest (s.pickPort r.dev r.ordered / 4) 5).w ∧
      (c.kind.net = some 0 → s.netReadable c (r.locl + c.pos) n =
        if a = 0x1000 then none else if a = 0x4000000 then some (a, .absent a) else some (a, .bad a)) ∧ (s.part c.part).fqFull = true) ∧
    (let c := netCmd (.nput 0x4000) 0x1000 8 []
     let s := { netState c with badDram := [0x2001000 / 8] }
     s.cmd? 9 = some c ∧ s.netReadable c 0x1000 8 = some (0x1000, .poison 0x1000)) ∧
    (let c := netCmd (.nput 0x4000) 0x1000 8 []
     let s := destState c 0 fun d => { d with unacked := 262144 }
     s.cmd? 9 = some c ∧ (s.dest 0 5).w < (s.dest 0 5).unacked + 8 ∧ s.pickPort 5 false = 0) ∧
    (∀ dec ∈ [0, 1], ∀ rtt ∈ [2100, 5000],
     let c := netCmd (.nput 0x4000) 0x1000 8 [⟨0, 8, 0, 0⟩]
     let s := destState c 20 fun d => { d with samples := [(10, 100)], lastDec := dec }
     s.cmd? 9 = some c ∧ c.abort = false ∧ (c.pkts.find? fun p => p.place == 4096 * 0) = some ⟨0, 8, 0, 0⟩ ∧
      (((s.dest 0 5).samples.filter fun x => s.now ≤ x.1 + 10000000).foldl (fun b x => min b x.2) rtt) = 100 ∧
      (s.part c.part).nettgt.toNat % 2 ^ 16 = 2000 ∧ (s.dest 0 5).lastDec = dec) ∧
    (∀ now ∈ [49999, 100000000],
     let c := netCmd (.nput 0x4000) 0x1000 8 [⟨0, 8, 0, 0⟩]
     let s := destState c now fun d => { d with packets := 1, samples := [(now, 100)] }
     s.cmd? 9 = some c ∧ c.fail = none ∧ (s.dest (0 / 4) 5).base s.now = some 100 ∧
      s.pktDue 5 c.pkts = (if now = 49999 then none else some ⟨0, 8, 0, 0⟩) ∧
      s.netReadable c ((NetRec.of c.params).locl + 0) 8 = none ∧ (s.cmds.map (·.1)).Pairwise (· < ·) ∧
      (now = 100000000 → ∀ e ∈ s.pkg.dests, e.dev = 5 → e.packets = 0 ∨ e.lastAck + 100000000 ≤ s.now)) ∧
    (∀ k ∈ [CmdKind.nget 0x4000, .namo 0x4000],
     let c := netCmd k 0x1000 8 [⟨0, 0, 0, 0⟩]
     (cmdState c).cmd? 9 = some c ∧ (c.kind.net = some 1 ∨ c.kind.net = some 2) ∧ (c.pkts.find? fun p => p.place == 0) = some ⟨0, 0, 0, 0⟩ ∧
      (NetRec.of c.params).locl = 0x1000 ∧ (leBytes 8 7).length = min 4096 ((NetRec.of c.params).len - 4096 * 0) ∧ c.got.contains 0 = false ∧
      Reach (cmdState c) c .write 0x1000 8 ⟨.dram, 0x2001000⟩ 0x20001 ∧ Calm (cmdState c) 0 ⟨.dram, 0x2001000⟩ 8 ∧
      Uncounted c ⟨.dram, 0x2001000⟩ 8) ∧
    ({ State.reset with pkg := { Pkg.reset with boot := .up, netHeld := [tNet 0 0] } }.netBehind (tNet 0 0) = true ∧
     { State.reset with pkg := { Pkg.reset with boot := .up, netHeld := [tNet 0 0] } }.netAuth (tNet 0 0) = true) ∧
    (windowed.pkg.boot ≠ .off ∧ windowed.netAuth { tNet 0 0 with key := some 6 } = false) ∧
    (State.reset.pkg.boot ≠ .off ∧ State.reset.netAuth (tNet 0 0) = true ∧ State.reset.netBehind (tNet 0 0) = false ∧ State.reset.netTarget (tNet 0 0) = none) ∧
    (∀ kind ∈ [0, 1, 2], ∀ n ∈ [0, 0x1800], windowed.netBehind (tNet kind n) = false ∧ windowed.netTarget (tNet kind n) = some 0 ∧
      windowed.netAuth (tNet kind n) = true) ∧
    (let op := { tNet 0 0 with addr := 0x8000000 }
     windowed.netTarget op = some 0 ∧ windowed.netXlate 0 op.addr (netOpBytes op) .write = .bad) ∧
    (let op := { tNet 2 0 with addr := 0x1002 }
     windowed.netTarget op = some 0 ∧ (∃ f, namoOp op.amoOp op.amoSize = some (4, f)) ∧ op.addr % 4 ≠ 0) ∧
    (windowed.netWalk 0 0x1000 .write = .ok page0 ∧ windowed.netWalk 0 0x1000 .read = .ok page0 ∧ windowed.netWalk 0 0x1800 .write = .ok page0 ∧
      page0.host = false ∧ windowed.discOf page0.pte = 0 ∧ (tNet 0 0).counter = 0 ∧ (tNet 0 0).data ≠ [] ∧ (tNet 1 0x1800).counter = 0x1800 ∧
      (tNet 0 0).addr % 2 ^ 16 + (tNet 0 0).data.length ≤ 2 ^ 16 ∧ 0 < (tNet 1 0).len ∧ (tNet 1 0).addr % 2 ^ 16 + (tNet 1 0).len ≤ 2 ^ 16 ∧
      (∃ f, namoOp (tNet 2 0).amoOp (tNet 2 0).amoSize = some (4, f)) ∧ (tNet 2 0).addr % 4 = 0 ∧ 0x1800 % 8 = 0 ∧
      windowed.netPoison 0 0x1000 8 = false ∧ windowed.netPoison 0 0x1000 4 = false ∧ windowed.netPoison 0 0x1800 8 = false ∧
      ∀ a ∈ [0x1000, 0x1800], ∀ n ∈ [4, 8], Calm windowed 0 (page0.loc a) n) ∧
    (∀ un ∈ [0, 262144],
      let x : Reply := ⟨4, 0, 5, false, leBytes 8 1, 0, []⟩
      let s := { windowed with pkg := { windowed.pkg with replies := [x], dests := [{ NetDest.fresh 0 5 0 with unacked := un }] } }
      s.cmd? 4 = none ∧ s.reply? 4 = some x ∧ x.pos < x.data.length ∧ s.pickPort x.dev x.ordered = 0 ∧
       ((s.dest 0 x.dev).w < (s.dest 0 x.dev).unacked + min 4096 (x.data.length - x.pos)) = (un ≠ 0)) := by
  refine ⟨fun n hn a ha o ho => ?a, ⟨⟨7, 0, 0, 0, 0⟩, rfl, rfl⟩, fun a ha k hk => ?b, ⟨rfl, ?_⟩, ⟨rfl, ?_, ?_⟩, fun d hd n hn => ?r, fun n hn => ?c, fun k hk => ?d,
    ⟨?_, ?_⟩, ⟨?_, ?_⟩, ⟨?_, ?_, ?_, ?_⟩, fun k hk n hn => ?e, ⟨?_, ?_⟩, ⟨?_, ⟨_, rfl⟩, ?_⟩,
    ⟨?_, ?_, ?_, rfl, ?_, rfl, ?_, rfl, ?_, ?_, ?_, ⟨_, rfl⟩, rfl, rfl, ?_, ?_, ?_, fun a ha n hn => ?f⟩, fun n hn => ?g⟩
  case a => fin_cases hn <;> fin_cases ha <;> fin_cases ho <;> exact ⟨rfl, rfl, rfl, rfl, rfl, rfl, rfl, rfl, by decide +kernel, by decide +kernel, by decide +kernel⟩
  case b => fin_cases ha <;> fin_cases hk <;> refine ⟨rfl, ?_, ⟨_, rfl, ?_⟩, ?_, ?_, ?_, ?_, ?_, ?_⟩ <;> decide +kernel
  case r => fin_cases hd <;> fin_cases hn <;> refine ⟨rfl, rfl, rfl, ?_, ?_, rfl⟩ <;> decide +kernel
  case c => fin_cases hn <;> refine ⟨rfl, rfl, ?_, ?_, ?_, ?_, ?_⟩ <;> decide +kernel
  case d => fin_cases hk <;> refine ⟨rfl, ?_, rfl, ?_, ?_, rfl, reach_page rfl ?_ ?_ ?_ ?_, calm_empty rfl ?_, uncounted_of ?_⟩ <;> decide +kernel
  case e => fin_cases hk <;> fin_cases hn <;> decide +kernel
  case f => fin_cases ha <;> fin_cases hn <;> exact calm_empty rfl (by decide +kernel)
  case g => fin_cases hn <;> refine ⟨?_, ?_, ?_, ?_, propext ?_⟩ <;> decide +kernel
  all_goals decide +kernel

/-! The fabric: context 2 of die 0. -/

/-- Its state, owned by graph 1 and with lease ranges, and the commands that have left for it. -/
def fabState (gq : List GMsg) (f : FCtx → FCtx) : State :=
  { tabled State.reset with
    dies := [(0, { Die.reset with ctrl := 1, gq := gq, grout := [(2, f { FCtx.reset with owner := some (0, 1), leases := [(0, 0x10000)] })] })] }
def tG (k : GKind) : GMsg := ⟨3, 1, 1, 0, 1, 0, 0, 0, 2, k, []⟩
/-- One operator of it. -/
def opState (gq : List GMsg) (op : Nat) (o : FOp) (f : FCtx → FCtx) : State :=
  fabState gq fun g => f { g with ops := [(op, o)] }
/-- An entry of kind 1 (SNK), and an operator that holds it. -/
def tEntry (op kind : Nat) (p : List Word) : GEntry := ⟨op, [], [], BitVec.ofNat 64 (kind * 2 ^ 60), p⟩
def tFop (op kind : Nat) (p : List Word) : FOp := { FOp.reset with entry := some (tEntry op kind p), cached := true }
/-- An image of that one entry at flat 0x1000. -/
def imaged (n : Byte) (s : State) : State :=
  { s with dram := s.dram ++ [(0x2001000, n), (0x2001080, 0x10), (0x2001097, 0x10), (0x20010B8, 1)] }

theorem witness_FabricContextsAndCommandsAct :
    (∀ n ∈ [1, 0],
     let m := tG (.gcfg 0x1000)
     let s := imaged n (fabState [m] id)
     let s' := ((s.gAccept 0 m).fabFree 0 2).modFctx 0 2 fun g => { g with owner := some (m.part, m.graph), image := 0x1000, resv := g.resv.eraseP fun r => r.1 == m.uid && r.2.1 == m.ord }
     s.gCommand 0 2 (fun k => match k with
      | .gcfg _ => true
      | _ => false) = some m ∧ (s.fctx 0 2).drain = none ∧ (∀ o ∈ (s.fctx 0 2).ops, o.2.due = none) ∧
      s'.checkImage 0 m.brick 0x1000 = if n = 1 then .ok ⟨[], [], [tEntry 0x10 1 [0, 0, 0, 0, 1]]⟩ else .error 0x1000) ∧
    (let m := tG (.greconf 0x10 0x1000)
     let s := imaged 1 (opState [m] 0x10 (tFop 0x10 1 []) id)
     s.gCommand 0 2 (fun k => match k with
      | .greconf .. => true
      | _ => false) = some m ∧ (s.fctx 0 2).ops.any (fun o => o.2.next.isSome) = false ∧ (s.fctx 0 2).errStop = false ∧
      (s.fctx 0 2).owner ≠ none ∧ (s.fop ⟨0, 2, 0x10⟩).entry.isSome = true ∧ ∃ im, (s.gAccept 0 m).checkImage 0 m.brick 0x1000 = .ok im) ∧
    (∀ q ∈ [[], [FTok.reconf 1]],
     let o := { tFop 0x10 1 [] with next := some (1, [(0, 0)], none), q0 := q }
     let s := opState [] 0x10 o id
     s.fop ⟨0, 2, 0x10⟩ = o ∧ (o.round = none ∧ o.firing = false ∧ groutKind 0x10 ≠ some 10 ∧ o.outq = []) ∧
      ([((0 : Nat), (0 : Nat))].all fun i => headIs 1 (if i.1 = 0 then o.q0 else o.q1)) = !q.isEmpty) ∧
    (let o := { tFop 0x7C 10 [] with next := some (1, [(0, 0)], none), q0 := [.reconf 1], pend := [1] }
     (opState [] 0x7C o id).fop ⟨0, 2, 0x7C⟩ = o ∧ groutKind 0x7C = some 10 ∧ (!o.pend.isEmpty || o.eosPend) = true) ∧
    (let m := tG (.gdrain 0x2000 7 true)
     let s := opState [m] 0x7C { tFop 0x7C 10 [] with cnt := 1 } id
     groutKind 0x7C = some 10 ∧ (s.fop ⟨0, 2, 0x7C⟩).cnt = 1 ∧
     s.gCommand 0 2 (fun k => match k with
      | .gdrain .. => true
      | _ => false) = some m ∧ (s.fctx 0 2).drain = none) ∧
    (let s := fabState [] fun g => { g with drain := some (0x2000, 7, true, 0, 1) }
     (s.fctx 0 2).drain = some (0x2000, 7, true, 0, 1) ∧ (s.fctx 0 2).ops.all (fun o => o.2.quiet) = true ∧ s.fabQuiet 0 2 = true ∧
      s.canWrite (s.fpart 0) 0 0x2000 8 = true ∧ s.fabPoison 0 0 0x2000 8 .write = false) ∧
    (∀ pend ∈ [[], [(7 : BitVec 32)]],
     let o := { tFop 0x10 1 [] with cached := false, pend := pend }
     let s := opState [] 0x10 o id
     (s.fop ⟨0, 2, 0x10⟩) = o ∧ o.entry.isSome = true ∧ s.needsEntry ⟨0, 2, 0x10⟩ = !pend.isEmpty ∧ (s.cachedCtxs 0 0x10).length < 4) ∧
    (∀ pend ∈ [[], [(7 : BitVec 32)]], ∀ nx ∈ [none, some (0, [(0, 0)], some (tEntry 0x10 1 []))],
     let m := tG (.garg 0x10 3 9)
     let o := { tFop 0x10 1 [0, 0, 0, 0, 1] with pend := pend, next := nx }
     let s := opState [m] 0x10 o id
     s.gCommand 0 2 (fun x => match x with
      | .garg o _ _ => o == 0x10
      | _ => false) = some m ∧ s.fop ⟨0, 2, 0x10⟩ = o ∧ o.entry = some (tEntry 0x10 1 [0, 0, 0, 0, 1]) ∧ (3 : Nat) ≠ 7 ∧
      o.next.any (fun n => n.2.2.isNone) = false ∧ o.isOpen = !pend.isEmpty ∧ o.gargs = [] ∧ 0 ≤ (s.fctx 0 2).reconfs ∧
      o.next.any (fun x => x.1 ≤ (s.fctx 0 2).reconfs) = nx.isSome) ∧
    (let m := tG (.garg 0x10 3 9)
     let s := fabState [m] id
     s.gCommand 0 2 (fun x => match x with
      | .garg o _ _ => o == 0x10
      | _ => false) = some m ∧ (s.fop ⟨0, 2, 0x10⟩).entry = none ∧ (s.fop ⟨0, 2, 0x10⟩).next = none ∧ (s.fop ⟨0, 2, 0x10⟩).gargs = []) ∧
    (∀ cached ∈ [false, true],
     let m := tG (.gsend 0x80 5 1 true)
     let o := { tFop 0x80 11 [] with cached := cached }
     let s := opState [m] 0x80 o id
     s.gCommand 0 2 (fun x => match x with
      | .gsend o .. => o == 0x80
      | _ => false) = some m ∧ (s.fctx 0 2).drain = none ∧ (s.fctx 0 2).errStop = false ∧ s.fop ⟨0, 2, 0x80⟩ = o ∧ o.outq = [] ∧
      o.entry.isSome = true ∧ o.next.any (fun n => n.2.2.isNone) = false) ∧
    (let m := tG (.gsend 0x80 5 1 true)
     let s := fabState [m] id
     s.gCommand 0 2 (fun x => match x with
      | .gsend o .. => o == 0x80
      | _ => false) = some m ∧ (s.fop ⟨0, 2, 0x80⟩).outq = [] ∧ (s.fop ⟨0, 2, 0x80⟩).entry = none) ∧
    (let m := tG (.grecv 0x80 0x2000)
     let s := fabState [m] id
     s.gCommand 0 2 (fun x => match x with
      | .grecv o _ => o == 0x80
      | _ => false) = some m ∧ (s.fctx 0 2).errStop = false) ∧
    (∀ ls ∈ [[], [(0x2000, 64)], [(0, 0x10000)]], ∀ bad ∈ [[], [0x2002040 / 8]],
     let o := { tFop 0x80 11 [] with q0 := [.tok 5 1 true], recvs := [(0x2000, 0)] }
     let s := { opState [] 0x80 o fun g => { g with leases := ls } with badDram := bad }
     s.gCommand 0 2 (fun x => match x with
      | .grecv o _ => o == 0x80
      | _ => false) = none ∧ s.fop ⟨0, 2, 0x80⟩ = o ∧ o.cached = true ∧ covered (s.fabLease ⟨0, 2, 0x80⟩) 0x2000 64 = !ls.isEmpty ∧
      covered (s.fabLease ⟨0, 2, 0x80⟩) (0x2000 + 64) 8 = (ls == [(0, 0x10000)]) ∧
      s.canWrite (s.fpart 0) 0 0x2000 64 = true ∧ s.canWrite (s.fpart 0) 0 (0x2000 + 64) 8 = true ∧
      s.fabPoison 0 0 (0x2000 + 64) 8 .write = !bad.isEmpty) := by
  refine ⟨fun n h => ?a, ⟨?_, ?_, ?_, ?_, ?_, ⟨⟨[], [], [tEntry 0x10 1 [0, 0, 0, 0, 1]]⟩, ?_⟩⟩, fun q h => ?b, ⟨?_, ?_, ?_⟩, ⟨?_, ?_, ?_, ?_⟩, ⟨?_, ?_, ?_, ?_, ?_⟩, fun p h => ?c, fun p h nx h' => ?d,
    ⟨?_, rfl, rfl, rfl⟩, fun q h => ?e, ⟨?_, ?_, ?_⟩, ⟨?_, ?_⟩, fun l h b h' => ?f⟩
  case a => fin_cases h <;> refine ⟨?_, ?_, ?_, ?_⟩ <;> decide +kernel
  case b => fin_cases h <;> exact ⟨rfl, ⟨rfl, rfl, by decide, rfl⟩, by decide +kernel⟩
  case c => fin_cases h <;> exact ⟨rfl, rfl, by decide +kernel, by decide +kernel⟩
  case d => fin_cases h <;> fin_cases h' <;> exact ⟨rfl, rfl, rfl, by decide, rfl, rfl, rfl, by decide, by decide +kernel⟩
  case e => fin_cases h <;> exact ⟨rfl, rfl, rfl, rfl, rfl, rfl, rfl⟩
  case f => fin_cases h <;> fin_cases h' <;> refine ⟨?_, rfl, rfl, ?_, ?_, ?_, ?_, ?_⟩ <;> decide +kernel
  all_goals decide +kernel

/-- An operator of kind with a token at its input 0, and what f sets. -/
def tokState (op kind cfg : Nat) (p : List Word) (l : BitVec 512) (m : BitVec 16) (eos : Bool) (f : FOp → FOp) : State :=
  let e : GEntry := { tEntry op kind p with cfg := BitVec.ofNat 64 (kind * 2 ^ 60 + cfg) }
  opState [] op (f { FOp.reset with entry := some e, cached := true, q0 := [.tok l m eos] }) id
def tokEntry (op kind cfg : Nat) (p : List Word) : GEntry := { tEntry op kind p with cfg := BitVec.ofNat 64 (kind * 2 ^ 60 + cfg) }

/-- An operator writes n bytes of the page of flat 0. -/
theorem fab_page {s : State} {k : OpId} {a n : Nat} (he : s.writes = [])
    (h : (decide (a < 2 ^ 57) && covered (s.fabLease k) a n && s.canWrite (s.fpart k.die) (dieAgent k.die) a n
      && decide (s.flatLoc (s.fpart k.die) (dieAgent k.die) a .write = some ⟨.dram, 0x2000000 + a⟩) && decide (a % 2 ^ 16 + n ≤ 2 ^ 16)
      && decide (s.discOf (s.flatPte (s.fpart k.die) (dieAgent k.die) a .write) = 0)
      && decide ((0x2000000 + a + n - 1) / 128 - (0x2000000 + a) / 128 + 1 ≤ dieLines)) = true) :
    FabWrites s k a n ⟨.dram, 0x2000000 + a⟩ := by
  simp only [Bool.and_eq_true, decide_eq_true_eq] at h
  refine ⟨h.1.1.1.1.1.1, h.1.1.1.1.1.2, h.1.1.1.1.2, h.1.1.1.2, h.1.1.2, h.1.2, calm_empty he ?_⟩
  simpa [State.dirtyLines, he] using h.2

/-- Lanes 0 and 1 hold 3 and 5. -/
def lanes35 : BitVec 512 := 0x500000003

theorem witness_FabricOperatorsWorkOnTheirTokens :
    (∀ cfg ∈ [0, 11], Takes (tokState 0x20 2 cfg [9] lanes35 3 true id) ⟨0, 2, 0x20⟩ 2 (tokEntry 0x20 2 cfg [9]) lanes35 3 true ∧
      wbits (tokEntry 0x20 2 cfg [9]).cfg 0 5 = cfg) ∧
    Takes (tokState 0x40 3 2 [9] lanes35 3 true id) ⟨0, 2, 0x40⟩ 3 (tokEntry 0x40 3 2 [9]) lanes35 3 true ∧
    (∀ eos ∈ [true, false], Takes (tokState 0x68 6 64 [0x90] lanes35 3 eos id) ⟨0, 2, 0x68⟩ 6 (tokEntry 0x68 6 64 [0x90]) lanes35 3 eos) ∧
    (let s := tokState 0x90 7 0 [0x2000] lanes35 3 true id
     Takes s ⟨0, 2, 0x90⟩ 7 (tokEntry 0x90 7 0 [0x2000]) lanes35 3 true ∧
      ∀ j, j < 8 → pairAt 3 j = true → s.fabPeek ⟨0, 2, 0x90⟩ ((tokEntry 0x90 7 0 [0x2000]).par 0 + 4 * (ftLane lanes35 (2 * j)).toNat) 4 = .val 0) ∧
    (let s := tokState 0xB0 8 0 [0x2000] lanes35 3 true id
     Takes s ⟨0, 2, 0xB0⟩ 8 (tokEntry 0xB0 8 0 [0x2000]) lanes35 3 true ∧ ftPairs lanes35 3 = [(0, ftLane lanes35 0, ftLane lanes35 1)] ∧
      FabWrites s ⟨0, 2, 0xB0⟩ 0x200C 4 ⟨.dram, 0x200200C⟩ ∧ (tokEntry 0xB0 8 0 [0x2000]).par 0 + 4 * (ftLane lanes35 0).toNat = 0x200C) ∧
    (∀ eos ∈ [true, false], ∀ n ∈ [1, 2],
     let s := tokState 0x70 9 0 [BitVec.ofNat 64 n] lanes35 3 eos id
     Takes s ⟨0, 2, 0x70⟩ 9 (tokEntry 0x70 9 0 [BitVec.ofNat 64 n]) lanes35 3 eos ∧ (s.fop ⟨0, 2, 0x70⟩).results = [] ∧
      (if n = 1 then (tokEntry 0x70 9 0 [BitVec.ofNat 64 n]).par 0 ≤ 0 + 1 else 0 + 1 < (tokEntry 0x70 9 0 [BitVec.ofNat 64 n]).par 0)) := by
  refine ⟨fun n h => ?a, ⟨?_, ?_⟩, fun b h => ?b, ⟨⟨?_, ?_⟩, fun j h h' => ?c⟩, ⟨⟨?_, ?_⟩, ?_, fab_page (k := ⟨0, 2, 0xB0⟩) (a := 0x200C) rfl ?_, ?_⟩,
    fun b h n h' => ?d⟩
  case a => fin_cases h <;> exact ⟨⟨by decide +kernel, by decide +kernel⟩, by decide +kernel⟩
  case b => fin_cases h <;> exact ⟨by decide +kernel, by decide +kernel⟩
  case c =>
    have e : j = 0 := by
      revert h'
      revert j
      decide
    subst e
    decide +kernel
  case d => fin_cases h <;> fin_cases h' <;> exact ⟨⟨by decide +kernel, by decide +kernel⟩, rfl, by decide +kernel⟩
  all_goals decide +kernel

/-- A SRC in a round, and some bytes of memory. -/
def srcState (e : GEntry) (r : SrcRound) (m : List Host.Cell) : State :=
  let s := opState [] 0 { FOp.reset with entry := some e, cached := true, round := some r } id
  { s with dram := s.dram ++ m }

theorem witness_FabricOperatorsCollectAndDeliver :
    (let e := tokEntry 0 0 0 [0x2000, 20, 0, 0, 0]
     let s := opState [] 0 { FOp.reset with entry := some e, cached := true, gargs := [(0, 0x2000, 0), (7, 0, 0)] } id
     s.opEntry ⟨0, 2, 0⟩ 0 = some e ∧ (s.fop ⟨0, 2, 0⟩).round = none ∧ (s.fop ⟨0, 2, 0⟩).next = none ∧
      (s.fop ⟨0, 2, 0⟩).boundary.gargs = (7, 0, 0) :: [] ∧ (s.fop ⟨0, 2, 0⟩).boundary.entry = some e ∧ (SrcCfg.of e).mode ≠ 1) ∧
    (∀ idx ∈ [0, 16],
     ∀ cfg ∈ [0, 1, 2, 3, 8], ∀ p4 ∈ [(0 : Word), 0x10000],
     let e := tokEntry 0 0 cfg [0x2000, if cfg = 1 then 0x3000 else 20, 1, 0, p4]
     let s := srcState e ⟨0, idx⟩ [(0x2003004, 20)]
     let x := SrcCfg.of e
     let per := if x.pair || x.mode = 2 then 8 else 16
     let n := min per (20 - idx)
     let s1 := if n = per then s else s.blank.2
     s.opEntry ⟨0, 2, 0⟩ 0 = some e ∧ (s.fop ⟨0, 2, 0⟩).round = some ⟨0, idx⟩ ∧ idx < 20 ∧ x.p2 = 1 ∧
      (if x.mode = 1 then s.rowFrom ⟨0, 2, 0⟩ x (x.p2 + 1) 0 = some 0 ∧ s.nnzOf ⟨0, 2, 0⟩ x ≠ 0 ∧ s.fabPeek ⟨0, 2, 0⟩ (x.p1 + 4 * 0) 4 = .val 0 ∧
        s.fabPeek ⟨0, 2, 0⟩ (x.p1 + 4 * 1) 4 = .val (0 + 20) else x.p1 = 20) ∧
      ∀ j ∈ List.range (if x.pair && x.mode != 2 then 2 * n else n),
        s1.fabPeek ⟨0, 2, 0⟩ (x.p0 + (if x.pair && x.mode != 2 then 8 else 4) * (0 + idx) + 4 * j) 4 = .val 0) ∧
    (let e := tokEntry 0 0 1 [0x2000, 0x3000, 1, 0, 0]
     let s := srcState e ⟨0, 0⟩ [(0x2003000, 5)]
     s.opEntry ⟨0, 2, 0⟩ 0 = some e ∧ (SrcCfg.of e).mode = 1 ∧ (SrcCfg.of e).shares = 0 ∧ 0 < (SrcCfg.of e).p2 ∧
      s.fabPeek ⟨0, 2, 0⟩ ((SrcCfg.of e).p1 + 4 * 0) 4 = .val 5 ∧ s.fabPeek ⟨0, 2, 0⟩ ((SrcCfg.of e).p1 + 4 * (0 + 1)) 4 = .val 0) ∧
    (∀ cfg ∈ [1, 3],
     let e := tokEntry 0 0 cfg [0x2000, 0x3000, 1, 0, 0]
     let s := srcState e ⟨1, 0⟩ []
     s.opEntry ⟨0, 2, 0⟩ 0 = some e ∧ (s.fop ⟨0, 2, 0⟩).round = some ⟨1, 0⟩ ∧ ((SrcCfg.of e).mode = 1 ∨ (SrcCfg.of e).mode = 3) ∧ (SrcCfg.of e).p2 ≤ 1) ∧
    (∀ p4 ∈ [(0 : Word), 0x20000, 0x20001], ∀ row ∈ [0, 1],
     let e := tokEntry 0 0 1 [0x2000, 0x3000, 2, 0, p4]
     let s := srcState e ⟨0, 0⟩ [(0x2003004, 4), (0x2003008, 8)]
     let x := SrcCfg.of e
     row < x.p2 ∧ s.rowPtr ⟨0, 2, 0⟩ x 0 = some 0 ∧ s.rowPtr ⟨0, 2, 0⟩ x row = some (4 * row) ∧ s.rowPtr ⟨0, 2, 0⟩ x (row + 1) = some (4 * row + 4) ∧
      s.rowPtr ⟨0, 2, 0⟩ x x.p2 = some 8) ∧
    (let s := tokState 0x10 1 1 [0x2000, 0, 0x3000, 7, 1] lanes35 3 false id
     Takes s ⟨0, 2, 0x10⟩ 1 (tokEntry 0x10 1 1 [0x2000, 0, 0x3000, 7, 1]) lanes35 3 false ∧ (s.fop ⟨0, 2, 0x10⟩).due = none ∧
      ftPairs lanes35 3 = [(0, 3, 5)] ∧ FabWrites s ⟨0, 2, 0x10⟩ (0x2000 + 4 * 5) 4 ⟨.dram, 0x2002014⟩) ∧
    (let s := tokState 0x10 1 0 [0x2000, 0x3000, 0, 7, 2] lanes35 0 true id
     Takes s ⟨0, 2, 0x10⟩ 1 (tokEntry 0x10 1 0 [0x2000, 0x3000, 0, 7, 2]) lanes35 0 true ∧ (s.fop ⟨0, 2, 0x10⟩).due = none ∧
      ftElems lanes35 0 = [] ∧ (s.fop ⟨0, 2, 0x10⟩).snkEos + 1 < (tokEntry 0x10 1 0 [0x2000, 0x3000, 0, 7, 2]).par 4 ∧
      FabWrites s ⟨0, 2, 0x10⟩ 0x3000 4 ⟨.dram, 0x2003000⟩) ∧
    (let s := tokState 0x10 1 0 [0x2000, 0, 0x3000, 7, 1] lanes35 1 false id
     Takes s ⟨0, 2, 0x10⟩ 1 (tokEntry 0x10 1 0 [0x2000, 0, 0x3000, 7, 1]) lanes35 1 false ∧ (s.fop ⟨0, 2, 0x10⟩).due = none ∧
      ftElems lanes35 1 = [3] ∧ FabWrites s ⟨0, 2, 0x10⟩ 0x2000 4 ⟨.dram, 0x2002000⟩) ∧
    (∀ p2 ∈ [0, 0x3000, 0x20000],
     let s := tokState 0x10 1 0 [0x2000, 0, BitVec.ofNat 64 p2, 7, 1] lanes35 0 true id
     Takes s ⟨0, 2, 0x10⟩ 1 (tokEntry 0x10 1 0 [0x2000, 0, BitVec.ofNat 64 p2, 7, 1]) lanes35 0 true ∧ ftElems lanes35 0 = [] ∧
      covered (s.fabLease ⟨0, 2, 0x10⟩) p2 8 = decide (p2 < 0x20000)) ∧
    (∀ ws ∈ [[], [{ tWrite with cmd := fabMark 0 2 }]],
     let s := { opState [] 0x10 { tFop 0x10 1 [] with due := some (0x3000, 7) } id with writes := ws }
     (s.fop ⟨0, 2, 0x10⟩).due = some (0x3000, 7) ∧ s.fabQuiet 0 2 = ws.isEmpty ∧
      s.canWrite (s.fpart 0) (dieAgent 0) 0x3000 8 = true ∧ s.fabPoison 0 (dieAgent 0) 0x3000 8 .write = false) ∧
    (∀ eos ∈ [true, false],
     let s := tokState 0x50 4 0 [] lanes35 3 eos id
     Takes s ⟨0, 2, 0x50⟩ 4 (tokEntry 0x50 4 0 []) lanes35 3 eos ∧ (s.fop ⟨0, 2, 0x50⟩).held = none ∧
      ((s.fop ⟨0, 2, 0x50⟩).pend ++ ftElems lanes35 3).length < 16) ∧
    (∀ kb ∈ [(2 : BitVec 32), 3, 4],
     let s := tokState 0x60 5 0 [] lanes35 3 false fun o => { o with seg1 := [(kb, 8)] }
     s.opEntry ⟨0, 2, 0x60⟩ 5 = some (tokEntry 0x60 5 0 []) ∧ (s.fop ⟨0, 2, 0x60⟩).seg1 = [(kb, 8)] ∧
      headTok (s.fop ⟨0, 2, 0x60⟩).q0 = some (lanes35, 3, false) ∧ ftPairs lanes35 3 = [(0, 3, 5)] ∧ (s.fop ⟨0, 2, 0x60⟩).keys.length < 7) ∧
    (let s := tokState 0x78 10 0 [0x2000, 8, 0, 0x1000, 2] lanes35 1 false fun o => { o with cnt := 1 }
     Takes s ⟨0, 2, 0x78⟩ 10 (tokEntry 0x78 10 0 [0x2000, 8, 0, 0x1000, 2]) lanes35 1 false ∧ (s.fop ⟨0, 2, 0x78⟩).cnt = 1 ∧
      exqBuf (tokEntry 0x78 10 0 [0x2000, 8, 0, 0x1000, 2]) 0 + 64 + 4 * 1 = 0x2044 ∧ FabWrites s ⟨0, 2, 0x78⟩ 0x2044 4 ⟨.dram, 0x2002044⟩) ∧
    (∀ eos ∈ [false, true],
     let m := if eos then 0 else 1
     let e := tokEntry 0x78 10 0 [0x2000, 8, 0, 0x1000, 2]
     let s := tokState 0x78 10 0 [0x2000, 8, 0, 0x1000, 2] lanes35 m eos fun o => { o with cnt := 7 }
     Takes s ⟨0, 2, 0x78⟩ 10 e lanes35 m eos ∧ (s.fop ⟨0, 2, 0x78⟩).cnt = 7 ∧ (eos = false → ftElems lanes35 m = [3]) ∧ (eos = true → ftElems lanes35 m = []) ∧
      7 + 1 = e.par 1 ∧ s.dirtyLines 0 + 6 ≤ dieLines ∧ exqBuf e 0 = 0x2000 ∧ FabWrites s ⟨0, 2, 0x78⟩ 0x2000 8 ⟨.dram, 0x2002000⟩ ∧
      FabWrites s ⟨0, 2, 0x78⟩ (0x2000 + 8) 8 ⟨.dram, 0x2002008⟩ ∧ FabWrites s ⟨0, 2, 0x78⟩ (0x2000 + 64 + 4 * 7) 4 ⟨.dram, 0x200205C⟩) ∧
    (∀ now ∈ [99, 100],
     let s := { tokState 0x78 10 0 [0x2000, 8, 100, 0x1000, 2] lanes35 1 false fun o => { o with cnt := 1 } with now := now }
     s.opEntry ⟨0, 2, 0x78⟩ 10 = some (tokEntry 0x78 10 0 [0x2000, 8, 100, 0x1000, 2]) ∧
      (tokEntry 0x78 10 0 [0x2000, 8, 100, 0x1000, 2]).par 2 = 100 ∧ (s.fop ⟨0, 2, 0x78⟩).cnt = 1 ∧ (s.fop ⟨0, 2, 0x78⟩).firing = false ∧
      (s.fop ⟨0, 2, 0x78⟩).firstAt = 0) := by
  refine ⟨⟨?_, rfl, rfl, ?_, ?_, ?_⟩, fun n h c h' p h'' => ?a, ⟨?_, rfl, rfl, ?_, ?_, ?_⟩, fun c h => ?g, fun p h q h' => ?i,
    ⟨⟨?_, ?_⟩, rfl, ?_, fab_page (k := ⟨0, 2, 0x10⟩) (a := 0x2014) rfl ?_⟩, ⟨⟨?_, ?_⟩, rfl, ?_, ?_, fab_page (k := ⟨0, 2, 0x10⟩) (a := 0x3000) rfl ?_⟩,
    ⟨⟨?_, ?_⟩, rfl, ?_, fab_page (k := ⟨0, 2, 0x10⟩) (a := 0x2000) rfl ?_⟩, fun n h => ?b, fun w h => ?c,
    fun b h => ?d, fun k h => ?e, ⟨⟨?_, ?_⟩, rfl, ?_, fab_page (k := ⟨0, 2, 0x78⟩) (a := 0x2044) rfl ?_⟩, fun b h => ?j, fun n h => ?f⟩
  case a => fin_cases h <;> fin_cases h' <;> fin_cases h'' <;> refine ⟨?_, ?_, ?_, ?_, ?_, ?_⟩ <;> decide +kernel
  case g => fin_cases h <;> refine ⟨?_, ?_, ?_, ?_⟩ <;> decide +kernel
  case i => fin_cases h <;> fin_cases h' <;> refine ⟨?_, ?_, ?_, ?_, ?_⟩ <;> decide +kernel
  case b => fin_cases h <;> exact ⟨⟨by decide +kernel, by decide +kernel⟩, by decide +kernel, by decide +kernel⟩
  case c => fin_cases h <;> exact ⟨rfl, by decide +kernel, by decide +kernel, by decide +kernel⟩
  case d => fin_cases h <;> exact ⟨⟨by decide +kernel, by decide +kernel⟩, rfl, by decide +kernel⟩
  case e => fin_cases h <;> exact ⟨by decide +kernel, rfl, rfl, by decide +kernel, by decide⟩
  case f => fin_cases h <;> exact ⟨by decide +kernel, by decide +kernel, rfl, rfl, rfl⟩
  case j => fin_cases h <;> refine ⟨⟨?_, ?_⟩, ?_, ?_, ?_, ?_, ?_, ?_, fab_page (k := ⟨0, 2, 0x78⟩) (a := 0x2000) rfl ?_,
      fab_page (k := ⟨0, 2, 0x78⟩) (a := 0x2008) rfl ?_, fab_page (k := ⟨0, 2, 0x78⟩) (a := 0x205C) rfl ?_⟩ <;> decide +kernel
  all_goals decide +kernel

theorem witness_FabricFiringsStartTheirTask :
    ∀ pool ∈ [0, 1], ∀ n ∈ [(2 : Byte), 3],
     let o := { tFop 0x78 10 [0x2000, 8, 100, 0x1000, 2] with cnt := 1, firing := true }
     let s0 := opState [] 0x78 o id
     let s := { s0 with dram := s0.dram ++ [(0x2001014, n)], dies := [(0, { s0.die 0 with poolSize := pool })] }
     s.fop ⟨0, 2, 0x78⟩ = o ∧ o.entry = some (tEntry 0x78 10 [0x2000, 8, 100, 0x1000, 2]) ∧ groutKind 0x78 = some 10 ∧ s.fabQuiet 0 2 = true ∧ o.firstAt ≤ s.now ∧
      s.readClass (s.fpart 0) 0 ((tEntry 0x78 10 [0x2000, 8, 100, 0x1000, 2]).par 3) = .ok { tClass with kinds := List.replicate n.toNat 0 } ∧
      2 ≤ ((List.replicate n.toNat 0).filter (· == 0)).length ∧ o.gargs = [] ∧ (s.die 0).ctrl.getLsbD 0 = true ∧ s.tearing 0 (s.fctx 0 2).graph = false ∧
      (s.freePool 0 = none ↔ pool = 0) ∧ (s.takeIndex 0).1 ≠ none ∧
      (fillScalars [BitVec.ofNat 64 (exqBuf (tEntry 0x78 10 [0x2000, 8, 100, 0x1000, 2]) 0), BitVec.ofNat 64 1] (initSlots (List.replicate n.toNat 0) tClass.counts)).all FSlot.full = (n == 2) := by
  intro pool h n h'
  fin_cases h <;> fin_cases h' <;> refine ⟨rfl, rfl, rfl, ?_, ?_, ?_, ?_, rfl, ?_, ?_, ?_, fun h => ?_, ?_⟩ <;> first | decide +kernel | (cases h)

theorem witness_RegisterWritesStoreTheirFields :
    (State.reset.part 0).configured = false ∧ ((tabled State.reset).part 0).configured = true ∧ ((tabled State.reset).part 0).ide = false ∧ ((tabled State.reset).die 0).plBusy = none ∧ ((tabled State.reset).part 0).fqWait = [] ∧
      ((tabled State.reset).pier (pierOfDie 0)).owner = some 0 ∧ ((tabled State.reset).pier (pierOfDie 15)).owner ≠ some 0 ∧ 0x24000 ≤ 0x24000 ∧
      (let s := tabled State.reset
       { s with parts := [(0, { s.part 0 with ide := true })] }.part 0).ide = true ∧
      (tabled State.reset).boundCtxs 0 = [] ∧ ({ tabled State.reset with ctxs := [(0, { Ctx.reset with uid := 1 })] } : State).boundCtxs 0 ≠ [] :=
  ⟨rfl, rfl, rfl, rfl, rfl, rfl, by decide, by decide, rfl, by decide, by decide⟩

/-- Two waits of partition 0: a task's lease and a frozen command. -/
def waiting : State :=
  let s := tasked (.firing (some 4)) id tabled
  let c := { tCmd (.disc 0x10000 0x10000) with frozen := some 5 }
  { s with cmds := [(9, c)], parts := [(0, { s.part 0 with waits := [(4, .lease 1 0x4000000 0), (5, .cmd 9 0x4000000 3)] })] }

theorem witness_FaultsAreQueuedAnsweredAndScrubbed :
    (let s := tabled State.reset
     (s.part 0).fqFull = false ∧ s.walk 0 (s.part 0).fqNext .write = .ok page0 ∧ s.discOf page0.pte = 0 ∧ Calm s 0 (page0.loc (s.part 0).fqNext) 64) ∧
    (State.reset.part 0).fqFull = false ∧ (∀ t, State.reset.walk 0 (State.reset.part 0).fqNext .write ≠ .ok t) ∧
    ((absented State.reset).part 0).fqFull = true ∧
    (let s0 := tabled State.reset
     let s := { s0 with parts := [(0, { s0.part 0 with evPage := some 0, evstat := 1 })] }
     s.evicting 0 0x1000 = true ∧ (s.part 0).fqWait = [] ∧ wbits (s.part 0).evstat 0 2 = 1 ∧ s.leafOf 0 0 = some page0 ∧ s.pageOpen page0 = false ∧
      { s with writes := [{ tWrite with pte := 0x20001, loc := ⟨.dram, 0x2000000⟩ }] }.pageOpen page0 = true) ∧
    (let p := waiting.part 0
     4 < 2 ^ 32 ∧ p.fqWait = [] ∧ kget? 4 p.waits = some (.lease 1 0x4000000 0) ∧ (waiting.task? 1).map (·.phase) = some (.firing (some 4)) ∧
      kget? 5 p.waits = some (.cmd 9 0x4000000 3) ∧ (waiting.cmd? 9).bind (·.frozen) = some 5 ∧ kget? (wbits 6 0 32) p.waits = none) ∧
    (∃ r, [((leBytes 4 0 ++ leBytes 4 6, r) : List Byte × Waiter)].any (fun r => field r.1 4 4 == wbits 6 0 32) = true) ∧
    (let s := tabled State.reset
     wbits (s.part 0).evstat 0 2 ≠ 1 ∧ s.leafOf 0 0 = some page0 ∧ page0.host = false ∧ s.pagePinned page0.phys page0.size = false ∧
      s.pageInFlight page0.phys page0.size = false ∧ ∃ t, s.leafOf 0 0x2000000 = some t ∧ t.host = true) ∧
    (∀ bad ∈ [[], [0x100 / 8]],
      let s0 := tabled State.reset
      let s := { s0 with badDram := bad, parts := [(0, { s0.part 0 with scrubper := 1 })] }
      (s.pier 0).owner = some 0 ∧ wbits (s.part 0).scrubper 0 16 ≠ 0 ∧ 0x100 / Config.pierSpan = 0 ∧ 0x100 % Config.pierSpan < Config.pierBytes ∧
        (0x100 / 8 ∈ s.badDram ↔ bad ≠ [])) := by
  refine ⟨⟨?_, ?_, ?_, calm_empty rfl ?_⟩, ?_, fun t h => ?b, ?_, ⟨?_, rfl, ?_, ?_, ?_, ?_⟩, ⟨?_, rfl, ?_, ?_, ?_, ?_, ?_⟩, ⟨.lease 0 0 0, ?_⟩,
    ⟨?_, ?_, rfl, ?_, ?_, ⟨⟨0, 0x2000000, true, true, true, true, 0, 0x20009⟩, ?_, rfl⟩⟩, fun b h => ?a⟩
  case a => fin_cases h <;> exact ⟨rfl, by decide, by decide, by decide, by decide +kernel⟩
  case b =>
    have e : State.reset.walk 0 (State.reset.part 0).fqNext .write = .invalid := by decide +kernel
    rw [e] at h
    cases h
  all_goals decide +kernel

/-- Course 0 of partition 0 and its bounds at a device time. -/
def courseState (now : Nat) (f : Course → Course) (g : Part → Part) : State :=
  let s := tabled State.reset
  { s with now := now, courses := [(0, f Course.reset)], parts := [(0, g (s.part 0))] }
def tSensors (amps watts : Nat) : Sensors := ⟨[], [], amps, watts, [], 750⟩

theorem witness_ClocksAndPowerFollowTheirRules :
    (∀ asked ∈ [(9 : Word), 0, 15], ∀ x ∈ [tSensors 0 0, tSensors 15001 0, tSensors 0 9000000],
     let s0 := courseState 1000 (fun c => { c with vf := asked }) fun p => { p with vffloor := 1, vfceil := 9 }
     let s := { s0 with pkg := { s0.pkg with overRun := 19, inflow := 256 } }
     let k := (({ s with pkg := { s.pkg with boundary := 1000, sram := x.sramMV } } : State).vfUpTo 0 1000).course 0
     s.pkg.boundary + 1000 ≤ s.now ∧ s.courseOwner 0 = some 0 ∧ kget? 0 s.courses = some (s.course 0) ∧ kget? 0 x.therm = none ∧
      (k.therm.toInt < 1600 ∧ k.tceil = 15 ∧ k.grants = [] ∧ k.earlies = [] ∧ k.curlim = 0) ∧ (∀ w ∈ s.pkg.msWatts, w ≤ 8000) ∧
      (x.packAmps ≤ 15000 ∧ x.packWatts ≤ 8000 ∨ 15000 < x.packAmps ∨ 8000 * 1000 < ((x.packWatts :: s.pkg.msWatts).take 1000).sum ∧
        8000 < x.packWatts ∧ 19 ≤ s.pkg.overRun)) ∧
    (let s := courseState 1000 (fun c => { c with curlim := 5 }) id
     let x := { tSensors 0 0 with current := [(0, 6)] }
     s.pkg.boundary + 1000 ≤ s.now ∧ kget? 0 s.courses = some (s.course 0) ∧ (s.course 0).curlim ≠ 0 ∧ wbits (s.course 0).curlim 0 16 < kget 0 0 x.current) ∧
    (∀ now ∈ [99, 100, 500], ∀ clk ∈ [9, 8],
     let c := (courseState now (fun c => { c with step := some (0, 8), clk := clk, target := 8 }) id).course 0
     c.step = some (0, 8) ∧ min now (State.reset.pkg.boundary + 1000) = now ∧ 8 < c.cur ∧ c.clk = clk ∧ c.target = 8) ∧
    (∀ st ∈ [none, some (0, 8)],
     let s := courseState 100 (fun c => { c with step := st }) id
     (s.course 0).droop = false ∧ s.courseOwner 0 = some 0 ∧ (s.course 0).hopping s.now = st.isSome ∧
      min 559 s.pkg.sram + 40 < pointMV (s.course 0).cur ∧ pointMV (s.course 0).cur ≤ min 560 s.pkg.sram + 40) ∧
    (∀ at' ∈ [none, some 0],
     let c := (courseState 100 (fun c => { c with droop := true, steadyAt := at' }) id).course 0
     c.droop = true ∧ c.steadyAt = at' ∧ (min 580 750 ≤ pointMV c.cur + 20 ∧ pointMV c.cur ≤ min 580 750 + 20) ∧
      ¬ (min 579 750 ≤ pointMV c.cur + 20 ∧ pointMV c.cur ≤ min 579 750 + 20)) ∧
    ((State.reset.course 0).sample = none ∧ ((courseState 0 (fun c => { c with sample := some (3, 8) }) id).course 0).sample = some (3, 8)) ∧
    (∀ stall ∈ [(0x8000 : BitVec 16), 0x1000, 0], ∀ status ∈ [0, 2],
     let s := courseState 20000 (fun c => { c with stall := stall, status := status, sampleAt := 20000 }) fun p =>
       { p with pwrctl := 1, govthr := 0x08008000, vfceil := 12 }
     let c := s.course 0
     let p := s.part 0
     s.courseOwner 0 = some 0 ∧ p.pwrctl.getLsbD 0 = true ∧ c.govAt < c.sampleAt ∧ s.now ≤ c.sampleAt + 200 ∧ (∀ o ∈ c.vfOps.ops, o.1 ≤ governorId) ∧
      c.cur ≠ 0 ∧ c.cur ≤ 10 ∧ (wbits p.govthr 0 16 ≤ c.stall.toNat ↔ stall = 0x8000) ∧ (c.stall.toNat ≤ wbits p.govthr 16 16 ↔ stall = 0) ∧
      min (c.cur + 1) (max p.vffloor p.vfceil) ≠ c.cur ∧ (c.status = 2 ↔ status = 2)) ∧
    ((courseState 0 (fun c => { c with notices := [(true, 3, 4)] }) id).course 0).notices = (true, 3, 4) :: [] ∧
    (let s := courseState 0 (fun c => { c with therm := 2000 }) id
     kget? 0 s.courses = some (s.course 0) ∧ 2000 ≤ (s.course 0).therm.toInt) ∧
    ∀ x ∈ (courseState 0 id id).courses, x.2.therm.toInt < 2000 := by
  refine ⟨fun a h x h' => ?a, ⟨?_, rfl, ?_, ?_⟩, fun a h x h' => ?b, fun a h => ?c, fun a h => ?d, ⟨rfl, rfl⟩, fun a h x h' => ?e, rfl, ⟨rfl, ?_⟩, ?_⟩
  case a =>
    fin_cases h <;> fin_cases h' <;> exact ⟨by decide, rfl, rfl, rfl, ⟨by decide, rfl, rfl, rfl, rfl⟩, by decide, by decide +kernel⟩
  case b => fin_cases h <;> fin_cases h' <;> decide +kernel
  case c => fin_cases h <;> decide +kernel
  case d => fin_cases h <;> decide +kernel
  case e => fin_cases h <;> fin_cases h' <;> exact ⟨rfl, rfl, by decide, by decide, by decide, by decide, by decide, by decide, by decide, by decide, by decide⟩
  all_goals decide +kernel

theorem witness_HostAccessesReachTheirPartition :
    (State.reset.part 0).configured = false ∧ (0 : Nat) ≠ 8 ∧
    (let s := tabled State.reset
     (s.part 0).configured = true ∧ 0x1000 / Config.pierSpan < 8 ∧ 0x1000 % Config.pierSpan + 4 ≤ Config.pierBytes ∧
      (s.pier (0x1000 / Config.pierSpan)).owner = some 0 ∧ (s.pier (Config.pierSpan / Config.pierSpan)).owner ≠ some 0 ∧
      s.poisoned ⟨.dram, 0x1000⟩ 4 = false ∧ Calm s 0 ⟨.dram, 0x1000⟩ (leBytes 4 7).length ∧ s.anyLive 0 = false ∧ s.quietPart 0 = true ∧
      (s.pier (pierOfDie 0)).owner = some 0 ∧ (s.pier (pierOfDie 15)).owner ≠ some 0) ∧
    (∀ t ∈ [0, 1, 2, 3], ∀ st ∈ [0, 1, 2],
      let p := ({ State.reset with parts := [(0, { Part.reset with tdisp := t })] } : State).part 0
      p.tdisp = t ∧ (p.tdisp, st) = (t, st) ∧ ((t, st) ∈ [(0, 1), (1, 2), (1, 0), (2, 0)] ∨ (t, st) ∉ [(0, 1), (1, 2), (1, 0), (2, 0)])) ∧
    (∀ ide ∈ [true, false], ∀ q ∈ [0, 8],
      let s0 := tabled State.reset
      let s := { s0 with parts := [(0, { s0.part 0 with ide := ide })], pkg := { Pkg.reset with boot := .up } }
      (s.part 0).ide = ide ∧ (s.part 0).configured = true ∧ (s.part 0).tdisp = 0 ∧ s.pkg.boot = .up ∧ memFn (.memRead 0 0x1000 4) = some 0 ∧ q < 9) := by
  refine ⟨rfl, by decide, ⟨?_, ?_, ?_, ?_, ?_, ?_, calm_empty rfl ?_, ?_, ?_, ?_, ?_⟩, fun t h st h' => ?a, fun i h q h' => ?b⟩
  case a => fin_cases h <;> fin_cases h' <;> exact ⟨rfl, rfl, by decide⟩
  case b => fin_cases h <;> fin_cases h' <;> exact ⟨rfl, rfl, rfl, rfl, rfl, by decide⟩
  all_goals decide +kernel

/-- The package up, with what f sets. -/
def upState (f : State → State) : State := let s := f (tabled State.reset); { s with pkg := { s.pkg with boot := .up } }

theorem witness_ManagementCommandsAct :
    (let s := upState id
     s.pkg.mbarg.length = 4 ∧ s.pkg.boot = .up ∧ wbits s.pkg.mbstat 0 2 ≠ 1 ∧ (s.affected 0 1).any (fun a => (s.part a).locked) = false ∧
      (0x700 : Word).getLsbD 8 = true ∧ (0 : Word).getLsbD 8 = false ∧ (s.affected 0 1).any (fun a => s.anyLive a) = false ∧
      (s.affected 0 1).all (fun a => s.quietPart a) = true ∧ wbits (0 : Word) 0 3 = 0 ∧ wbits (1 : Word) 0 8 = 1 ∧
      (s.haltedOf 0).filter (fun c => ctxIdOf c == 0) = []) ∧
    (∀ k ∈ [none, some 5],
      let s := upState fun s => { s with pkg := { s.pkg with spdmKey := k, mbstat := if k = none then 0 else 1 } }
      s.pkg.boot = .up ∧ s.pkg.spdmKey = k ∧ (wbits s.pkg.mbstat 0 2 = 1 ↔ k ≠ none)) ∧
    (let s := upState fun s => { s with parts := [(0, { s.part 0 with tdisp := 1 })] }
     (s.affected 0 1).any (fun a => (s.part a).locked) = true ∧ (s.part (wbits 0 0 3)).locked = true) ∧
    (let s := upState fun s => { s with tasks := [(1, probeTask)] }
     (s.affected 0 1).any (fun a => (s.part a).locked) = false ∧ (s.affected 0 1).any (fun a => s.anyLive a) = true ∧
      s.affected 0 0 = [0] ∧ probeTask.graph ∈ s.graphsOf 0 ∧ s.graphLive 0 probeTask.graph = true ∧ 0 ∈ s.movedPiers 0 0 ∧ (0x100 : Word).getLsbD 8 = true) ∧
    (let s := upState fun s => { s with ctxs := [(0, { Ctx.reset with uid := 1 })], tasks := [(1, probeTask)] }
     pierOfBrick (brickOfCtx 0) = 0 ∧ (s.ctx 0).uid ≠ 0 ∧ 0 ∈ s.movedPiers 0 0) ∧
    (let s := upState fun s =>
       { s with tasks := [(1, probeTask)], ctxs := [(0, { Ctx.reset with uid := 1, halted := true, savearea := 0x2000 })] }
     let fixed := leBytes 512 0
     (0 : Word).getLsbD 16 = false ∧ (0x10000 : Word).getLsbD 16 = true ∧ s.haltedOf (wbits 0 0 3) = [0] ∧ (s.haltedOf (wbits 0 0 3)).filter (fun c => ctxIdOf c == wbits 0 0 13) = [0] ∧ s.taskOf 0 = some probeTask ∧
      s.readFlat 0 0 1 (s.ctx 0).savearea.toNat 512 = some fixed ∧ recordNa fixed ≤ naccOf (s.ctx 0).poolsplit ∧
      s.flatPoison 0 0 1 0x2000 (masksOf fixed).size = none ∧ (∃ bs, s.readFlat 0 0 1 0x2000 (masksOf fixed).size = some bs)) ∧
    (∀ b ∈ [Boot.rom, .firmware, .dram, .link, .recovery],
      let s := { State.reset with pkg := { Pkg.reset with boot := b } }
      s.pkg.mbarg.length = 4 ∧ s.pkg.boot = b ∧ wbits s.pkg.mbstat 0 2 ≠ 1) := by
  refine ⟨?_, fun k h => ?b, ?_, ?_, ?_, ⟨?_, ?_, ?_, ?_, rfl, ?_, ?_, ?_, ⟨leBytes 512 0, ?_⟩⟩, fun b h => ?a⟩
  case b => fin_cases h <;> exact ⟨rfl, rfl, by decide⟩
  case a => fin_cases h <;> exact ⟨rfl, rfl, by decide⟩
  all_goals decide +kernel


end Sys2Proof.Tests
end

section
/-!
SUPPORT. What operations on the memories leave alone: MemOnly is the state with its memories, its pending writes, the monitors
that a write wakes and the cached translations of a revived page changed, and nothing else.
-/

namespace Sys2Proof.Proofs

open Sys2Proof Sys2Proof.Machine Sys2Proof.Safety Sys2Proof.Laws

theorem kget?_map {α β : Type} (k : Nat) (g : α → β) (m : KMap α) :
    kget? k (m.map fun e => (e.1, g e.2)) = (kget? k m).map g := by
  induction m with
  | nil => rfl
  | cons e r ih =>
    obtain ⟨j, a⟩ := e
    simp only [List.map_cons, kget?]
    split
    · rfl
    · exact ih

/-- A state after some writes at a home. -/
structure MemOnly (s t : State) : Prop where
  now : t.now = s.now
  agenda : t.agenda = s.agenda
  focus : t.focus = s.focus
  free : t.free = s.free
  nextUid : t.nextUid = s.nextUid
  nextId : t.nextId = s.nextId
  writes : t.writes.Sublist s.writes
  homeOps : t.homeOps = s.homeOps
  ctxs : t.ctxs = s.ctxs
  tasks : ∀ u, ∃ w : Task → Wake, t.task? u = (s.task? u).map fun x => { x with wake := w x }
  cmds : t.cmds = s.cmds
  bricks : t.bricks = s.bricks
  courses : t.courses = s.courses
  dies : t.dies = s.dies
  piers : t.piers = s.piers
  parts : ∀ q, ∃ l, t.part q = { s.part q with tlb := l }
  bars : t.bars = s.bars
  places : t.places = s.places
  pkg : t.pkg = s.pkg
  outbox : t.outbox = s.outbox

variable {s t u : State}

theorem MemOnly.refl : MemOnly s s :=
  ⟨rfl, rfl, rfl, rfl, rfl, rfl, List.Sublist.refl _, rfl, rfl, fun _ => ⟨fun x => x.wake, by simp⟩, rfl, rfl, rfl, rfl, rfl,
    fun _ => ⟨_, rfl⟩, rfl, rfl, rfl, rfl⟩

theorem MemOnly.trans (h : MemOnly s t) (h' : MemOnly t u) : MemOnly s u where
  now := h'.now.trans h.now
  agenda := h'.agenda.trans h.agenda
  focus := h'.focus.trans h.focus
  free := h'.free.trans h.free
  nextUid := h'.nextUid.trans h.nextUid
  nextId := h'.nextId.trans h.nextId
  writes := h'.writes.trans h.writes
  homeOps := h'.homeOps.trans h.homeOps
  ctxs := h'.ctxs.trans h.ctxs
  tasks v := by
    obtain ⟨w, e⟩ := h.tasks v
    obtain ⟨w', e'⟩ := h'.tasks v
    exact ⟨fun x => w' { x with wake := w x }, by rw [e', e, Option.map_map]; rfl⟩
  cmds := h'.cmds.trans h.cmds
  bricks := h'.bricks.trans h.bricks
  courses := h'.courses.trans h.courses
  dies := h'.dies.trans h.dies
  piers := h'.piers.trans h.piers
  parts q := by
    obtain ⟨l, e⟩ := h.parts q
    obtain ⟨l', e'⟩ := h'.parts q
    exact ⟨l', by rw [e', e]⟩
  bars := h'.bars.trans h.bars
  places := h'.places.trans h.places
  pkg := h'.pkg.trans h.pkg
  outbox := h'.outbox.trans h.outbox

/-- A state in which only memories, poison and the pending writes differ. -/
theorem MemOnly.of_eq {m1 m2 m3 m4 : List Host.Cell} {p1 p2 p3 : List Nat} {hs : List Heads} {ws : List Write}
    (hw : ws.Sublist s.writes) : MemOnly s { s with
      dram := m1, spad := m2, host := m3, acc := m4, badDram := p1, badSpad := p2, badAcc := p3, heads := hs, writes := ws } :=
  ⟨rfl, rfl, rfl, rfl, rfl, rfl, hw, rfl, rfl, fun _ => ⟨fun x => x.wake, by simp [State.task?]⟩, rfl, rfl, rfl, rfl, rfl,
    fun _ => ⟨_, rfl⟩, rfl, rfl, rfl, rfl⟩

theorem memOnly_setCells (s : State) (sp : Space) (m : List Host.Cell) : MemOnly s (s.setCells sp m) := by
  cases sp <;> exact MemOnly.of_eq (List.Sublist.refl _)
theorem memOnly_setBad (s : State) (sp : Space) (l : List Nat) : MemOnly s (s.setBad sp l) := by
  cases sp <;> exact MemOnly.of_eq (List.Sublist.refl _)
theorem memOnly_endHeads (s : State) (l : PLoc) (n : Nat) : MemOnly s (s.endHeads l n) := by
  unfold State.endHeads
  split
  · exact .refl
  · exact MemOnly.of_eq (List.Sublist.refl _)
theorem memOnly_setHeads (s : State) (l : PLoc) (n : Nat) (rels : List (Nat × Scope)) : MemOnly s (s.setHeads l n rels) :=
  MemOnly.of_eq (List.Sublist.refl _)
theorem memOnly_writeHeads (s : State) (w : Write) : MemOnly s (s.writeHeads w) := by
  unfold State.writeHeads
  split
  · split
    · exact .refl
    · exact memOnly_setHeads _ _ _ _
  · exact .refl

/-- A state in which monitors have been woken. -/
theorem MemOnly.of_wake (p : Task → Bool) : MemOnly s { s with
    tasks := s.tasks.map fun t => if p t.2 then (t.1, { t.2 with wake := .now }) else t } := by
  refine ⟨rfl, rfl, rfl, rfl, rfl, rfl, List.Sublist.refl _, rfl, rfl, fun u => ?_, rfl, rfl, rfl, rfl, rfl,
    fun _ => ⟨_, rfl⟩, rfl, rfl, rfl, rfl⟩
  refine ⟨fun x => if p x then .now else x.wake, ?_⟩
  have e : (fun t : Nat × Task => if p t.2 then (t.1, { t.2 with wake := .now }) else t) =
      fun t => (t.1, { t.2 with wake := if p t.2 then .now else t.2.wake }) := by
    funext x; split <;> rfl
  unfold State.task?
  rw [e]
  exact kget?_map u (fun x : Task => { x with wake := if p x then .now else x.wake }) s.tasks

theorem memOnly_wakeMem (s : State) (l : PLoc) (n : Nat) : MemOnly s (s.wakeMem l n) := by
  unfold State.wakeMem
  dsimp only
  split
  · exact MemOnly.of_wake (s := s) fun t => match t.wake with
      | .mem m => m.sp == l.sp && overlaps m.a 8 l.a n
      | _ => false
  · exact .refl

theorem memOnly_homeWrite (s : State) (l : PLoc) (bs : List Byte) : MemOnly s (s.homeWrite l bs) := by
  have h : MemOnly s (((s.setCells l.sp (mwriteN l.a bs (s.cells l.sp))).endHeads l bs.length).wakeMem l bs.length) :=
    ((memOnly_setCells _ _ _).trans (memOnly_endHeads _ _ _)).trans (memOnly_wakeMem _ _ _)
  unfold State.homeWrite
  dsimp only
  split
  · exact h
  · exact h.trans (memOnly_setBad _ _ _)

theorem memOnly_zeroRange (s : State) (sp : Space) (a n : Nat) : MemOnly s (s.zeroRange sp a n) :=
  ((memOnly_setCells _ _ _).trans (memOnly_endHeads _ _ _)).trans (memOnly_setBad _ _ _)

theorem memOnly_dropTransOf (s : State) (pte : Nat) : MemOnly s (s.dropTransOf pte) := by
  refine ⟨rfl, rfl, rfl, rfl, rfl, rfl, List.Sublist.refl _, rfl, rfl, fun _ => ⟨fun x => x.wake, by simp [State.dropTransOf, State.task?]⟩,
    rfl, rfl, rfl, rfl, rfl, fun q => ?_, rfl, rfl, rfl, rfl⟩
  refine ⟨(s.part q).tlb.filter fun e => e.2.pte != pte, ?_⟩
  have e := kget?_map q (fun p : Part => { p with tlb := p.tlb.filter fun e => e.2.pte != pte }) s.parts
  unfold State.part kget State.dropTransOf
  refine (congrArg (Option.getD · Part.reset) e).trans ?_
  cases kget? q s.parts <;> rfl

theorem memOnly_homeApply (s : State) (l : PLoc) (bs : List Byte) (pte : Nat) : MemOnly s (s.homeApply l bs pte) := by
  unfold State.homeApply
  split
  · exact .refl
  · exact (((memOnly_homeWrite _ _ _).trans (memOnly_dropTransOf _ _)).trans (memOnly_zeroRange _ _ _ _)).trans
      (memOnly_homeWrite _ _ _)
  · exact memOnly_homeWrite _ _ _

theorem memOnly_performOne (s : State) (w : Write) : MemOnly s (s.performOne w) := by
  have h := (memOnly_homeApply s w.loc w.bytes w.pte).trans (memOnly_writeHeads _ w)
  exact { h with writes := List.filter_sublist }

theorem memOnly_performAll (ws : List Write) (s : State) : MemOnly s (s.performAll ws) := by
  induction ws generalizing s with
  | nil => exact .refl
  | cons w ws ih => exact (memOnly_performOne s w).trans (ih _)

theorem memOnly_drainLines (s : State) (l : PLoc) (n : Nat) (skip : Nat → Bool) : MemOnly s (s.drainLines l n skip) := by
  unfold State.drainLines
  split
  · exact .refl
  · exact memOnly_performAll _ _

theorem memOnly_writeNow (s : State) (l : PLoc) (bs : List Byte) (pte : Nat) : MemOnly s (s.writeNow l bs pte) :=
  (memOnly_drainLines _ _ _ _).trans (memOnly_homeApply _ _ _ _)

theorem memOnly_writeFlat (s : State) (q b fa : Nat) (bs : List Byte) : MemOnly s (s.writeFlat q b fa bs) := by
  have h : ∀ (ps : List (Nat × Nat)) (x : State × List Byte), MemOnly x.1
      (ps.foldl (fun (x : State × List Byte) p => match x.1.flatLoc q b p.1 .write with
        | some l => (x.1.writeNow l (x.2.take p.2) (x.1.flatPte q b p.1 .write), x.2.drop p.2)
        | none => (x.1, x.2.drop p.2)) x).1 := fun ps => by
    induction ps with
    | nil => exact fun _ => .refl
    | cons p ps ih =>
      intro x
      rw [List.foldl_cons]
      refine MemOnly.trans ?_ (ih _)
      split
      · exact memOnly_writeNow _ _ _ _
      · exact .refl
  unfold State.writeFlat
  exact h (piecesOf fa bs.length) (s, bs)

end Sys2Proof.Proofs
end

section
/-!
SUPPORT. What a firing can change (02 R29, 09 R188, R192). Quiet says what no firing changes at all; Frames adds what a firing
leaves of the memories, under a premise on the pending writes that each instruction names. One lemma for each operation on
the state that a firing is made of, each from Frames up to the operation to Frames after it, so that they chain.
-/

namespace Sys2Proof.Proofs

open Sys2Proof Sys2Proof.Machine Sys2Proof.Safety Sys2Proof.Laws

/-- The registers of a context that RegsKept compares. -/
def regsOf (x : Ctx) := (x.uid, x.g, x.v, x.h, x.m, x.pc, x.prev, x.fpmode, x.poolsplit, x.mxstall, x.mxissue, x.trimsave,
  x.priv, x.trapvec, x.trapcause, x.trapinfo, x.savearea)

theorem regsKept_iff {s t : State} : RegsKept s t ↔ ∀ c, regsOf (t.ctx c) = regsOf (s.ctx c) := by
  simp [RegsKept, regsOf]

theorem regsKept_of_ctxs {s t : State} (h : t.ctxs = s.ctxs) : RegsKept s t :=
  regsKept_iff.2 fun c => by simp [State.ctx, h]

/-- The reservations of a context's blocks in flight, block by block. -/
def resvsOf (x : Ctx) : List (List Resv) := x.blks.map Blk.resv

/-- Neither the focused block nor a younger one holds a spill record reserved for a spawn. -/
def NoResv (f : Focus) (s : State) : Prop := ∀ r ∈ (resvsOf (s.ctx f.ctx)).drop f.blk, r = []

theorem noResv_iff {f : Focus} {s : State} : NoResv f s ↔ ∀ b ∈ (s.ctx f.ctx).blks.drop f.blk, b.resv = [] := by
  simp [NoResv, resvsOf, ← List.map_drop]

/-- What no firing changes: the registers, and what has left a brick; pending writes may go home, and none is added. -/
structure Quiet (s t : State) : Prop where
  regs : ∀ c, regsOf (t.ctx c) = regsOf (s.ctx c)
  writes : t.writes.Sublist s.writes
  homeOps : t.homeOps = s.homeOps
  cmds : t.cmds = s.cmds

/-- A firing of f: quiet, and where no block from the focused one on holds a reservation and E holds of the pending writes,
every memory and the pending writes are as before. -/
structure Frames (f : Focus) (E : List Write → Prop) (s t : State) : Prop extends Quiet s t where
  still : NoResv f s → E s.writes → NoResv f t ∧ (∀ sp, t.cells sp = s.cells sp) ∧ t.writes = s.writes

variable {f : Focus} {E : List Write → Prop} {s t u : State}

@[simp] theorem Frames.refl : Frames f E s s := ⟨⟨fun _ => rfl, List.Sublist.refl _, rfl, rfl⟩, fun h _ => ⟨h, fun _ => rfl, rfl⟩⟩

theorem Frames.trans (h : Frames f E s t) (h' : Frames f E t u) : Frames f E s u where
  regs c := (h'.regs c).trans (h.regs c)
  writes := h'.writes.trans h.writes
  homeOps := h'.homeOps.trans h.homeOps
  cmds := h'.cmds.trans h.cmds
  still hr he := by
    obtain ⟨hr', hc, hw⟩ := h.still hr he
    obtain ⟨hr'', hc', hw'⟩ := h'.still hr' (hw ▸ he)
    exact ⟨hr'', fun sp => (hc' sp).trans (hc sp), hw'.trans hw⟩

/-- An operation that only sends pending writes home, or writes a memory, is quiet; it is a frame under no premise that holds. -/
theorem Frames.of_quiet (h : Quiet s t) : Frames f (fun _ => False) s t := ⟨h, fun _ e => e.elim⟩

/-- A state that differs in none of the contexts, the memories and what has left a brick. -/
theorem Frames.same (h : Frames f E s t) (hx : u.ctxs = t.ctxs) (hw : u.writes = t.writes) (ho : u.homeOps = t.homeOps)
    (hc : u.cmds = t.cmds) (hm : ∀ sp, u.cells sp = t.cells sp) : Frames f E s u := by
  have e : ∀ c, u.ctx c = t.ctx c := fun c => by simp [State.ctx, hx]
  refine h.trans ⟨⟨fun c => by rw [e], hw ▸ List.Sublist.refl _, ho, hc⟩, fun hr _ => ⟨?_, hm, hw⟩⟩
  unfold NoResv; rw [e]; exact hr

/-- A context whose registers are as before, with no more reservations from the focused block on. -/
theorem Frames.setCtx (h : Frames f E s t) {c : Nat} {x : Ctx} (hr : regsOf x = regsOf (t.ctx c))
    (hb : c = f.ctx → NoResv f s → NoResv f t → ∀ r ∈ (resvsOf x).drop f.blk, r = []) : Frames f E s (t.setCtx c x) := by
  refine ⟨⟨fun c' => ?_, h.writes, h.homeOps, h.cmds⟩, fun hn he => ?_⟩
  · by_cases e : c' = c
    · subst e; rw [State.ctx_setCtx, hr, h.regs]
    · rw [State.ctx_setCtx_ne _ _ _ _ e, h.regs]
  · obtain ⟨hn', hc, hw⟩ := h.still hn he
    refine ⟨?_, fun sp => by rw [← hc sp]; cases sp <;> rfl, hw⟩
    unfold NoResv
    by_cases e : f.ctx = c
    · rw [e, State.ctx_setCtx]; exact hb e.symm hn hn'
    · rw [State.ctx_setCtx_ne _ _ _ _ e]; exact hn'

/-- A change of a context that keeps its registers and its blocks. -/
theorem Frames.modCtx (h : Frames f E s t) {c : Nat} {g : Ctx → Ctx} (hr : ∀ x, regsOf (g x) = regsOf x)
    (hb : ∀ x, resvsOf (g x) = resvsOf x) : Frames f E s (t.modCtx c g) :=
  h.setCtx (hr _) fun e _ hn => by rw [hb, e]; exact hn

/-- What modBlk makes of its context. -/
theorem ctx_modBlk (s : State) (c k : Nat) (g : Blk → Blk) :
    ∃ d, (s.modBlk c k g).ctx c = { s.ctx c with blks := (s.ctx c).blks.modify k g, didAt := d } := by
  unfold State.modBlk
  rw [State.ctx_modCtx]
  dsimp only
  split
  · exact ⟨_, rfl⟩
  · exact ⟨_, rfl⟩

theorem resvsOf_modify (x : Ctx) (k : Nat) (g : Blk → Blk) (hg : ∀ b, (g b).resv = b.resv) :
    (x.blks.modify k g).map Blk.resv = resvsOf x := by
  apply List.ext_getElem?
  intro n
  simp only [resvsOf, List.getElem?_map, List.getElem?_modify]
  cases x.blks[n]? <;> simp
  split <;> simp [hg]

/-- A change of a block in flight that keeps its reservations. -/
theorem Frames.modBlk (h : Frames f E s t) {c k : Nat} {g : Blk → Blk} (hg : ∀ b, (g b).resv = b.resv) :
    Frames f E s (t.modBlk c k g) := by
  unfold State.modBlk
  refine h.setCtx ?_ fun e _ hn => ?_
  · dsimp only; split <;> rfl
  · have e' : ∀ y : Ctx, y.blks = (t.ctx c).blks.modify k g → resvsOf y = resvsOf (t.ctx c) := fun y hy => by
      rw [resvsOf, hy, resvsOf_modify _ k g hg]
    rw [e', e]
    · exact hn
    · dsimp only; split <;> rfl

theorem Frames.modTask (h : Frames f E s t) {uid : Nat} {g : Task → Task} : Frames f E s (t.modTask uid g) := by
  unfold State.modTask
  split
  · exact h.same rfl rfl rfl rfl fun sp => by cases sp <;> rfl
  · exact h

theorem Frames.modBrick (h : Frames f E s t) {b : Nat} {g : Brick → Brick} : Frames f E s (t.modBrick b g) :=
  h.same rfl rfl rfl rfl fun sp => by cases sp <;> rfl
theorem Frames.modDie (h : Frames f E s t) {d : Nat} {g : Die → Die} : Frames f E s (t.modDie d g) :=
  h.same rfl rfl rfl rfl fun sp => by cases sp <;> rfl
theorem Frames.modPart (h : Frames f E s t) {q : Nat} {g : Part → Part} : Frames f E s (t.modPart q g) :=
  h.same rfl rfl rfl rfl fun sp => by cases sp <;> rfl
theorem Frames.parts (h : Frames f E s t) {ps : KMap Part} : Frames f E s { t with parts := ps } :=
  h.same rfl rfl rfl rfl fun sp => by cases sp <;> rfl
theorem Frames.drawNat (h : Frames f E s t) : Frames f E s t.drawNat.2 :=
  h.same rfl rfl rfl rfl fun sp => by cases sp <;> rfl
theorem Frames.drawBool (h : Frames f E s t) : Frames f E s t.drawBool.2 :=
  h.same rfl rfl rfl rfl fun sp => by cases sp <;> rfl

/-! The blocks of a slot keep their reservations whatever fires in them. -/

@[simp] theorem resv_setSlot (b : Blk) (n : Nat) (x : Slot) : (b.setSlot n x).resv = b.resv := rfl
@[simp] theorem resv_setSt (b : Blk) (n : Nat) (x : SlotSt) : (b.setSt n x).resv = b.resv := rfl
@[simp] theorem resv_hold (b : Blk) (c : Nat) (i : Word) (x : Option Nat) : (b.hold c i x).resv = b.resv := rfl
@[simp] theorem resv_deliver (b : Blk) (n : Nat) (t : Target) (tok : Tok) : (b.deliver n t tok).resv = b.resv := by
  unfold Blk.deliver Blk.refuse
  dsimp only
  split_ifs <;> rfl
@[simp] theorem resv_deliverAll (ts : List (Target × Tok)) (b : Blk) (n : Nat) : (b.deliverAll n ts).resv = b.resv := by
  induction ts generalizing b with
  | nil => rfl
  | cons x xs ih => exact (ih _).trans (resv_deliver b n x.1 x.2)
@[simp] theorem resv_resolveLsid (b : Blk) (n : Nat) (i : Instr) : (b.resolveLsid n i).resv = b.resv := by
  unfold Blk.resolveLsid
  split
  · split_ifs <;> rfl
  · rfl
@[simp] theorem resv_resolveG (b : Blk) (n r : Nat) (v : Option Word) : (b.resolveG n r v).resv = b.resv := by
  unfold Blk.resolveG
  split_ifs <;> rfl
@[simp] theorem resv_resolveX (b : Blk) (n : Nat) (k : XKind) (r : Nat) (t : Option Tok) :
    (b.resolveX n k r t).resv = b.resv := by
  unfold Blk.resolveX
  split_ifs
  · rfl
  · cases k <;> rfl
@[simp] theorem resv_resolveNull (b : Blk) (n : Nat) (i : Instr) : (b.resolveNull n i).resv = b.resv := by
  unfold Blk.resolveNull
  split_ifs
  · rfl
  · cases gDest i <;> cases xDest i <;> simp
@[simp] theorem resv_resolveOff (b : Blk) (n : Nat) (i : Instr) : (b.resolveOff n i).resv = b.resv := by simp [Blk.resolveOff]
@[simp] theorem resv_fireExit (b : Blk) (n : Nat) (e : ExitRec) : (b.fireExit n e).resv = b.resv := by
  unfold Blk.fireExit
  split_ifs <;> rfl
@[simp] theorem resv_sendNum (b : Blk) (m n tl : Nat) : (b.sendNum m n tl).resv = b.resv := by
  unfold Blk.sendNum
  split_ifs
  · rfl
  · dsimp only; split <;> simp

theorem resv_flushBlks (bs : List Blk) (newest : Nat → Nat) (fixed : Nat → Bool) :
    (flushBlks newest fixed bs).map Blk.resv = bs.map Blk.resv := by
  induction bs generalizing newest fixed with
  | nil => rfl
  | cons b bs ih =>
    have e : ∀ (l : List (Nat × Nat)) (b : Blk),
        (l.foldl (fun b x => if fixed x.2 then b.sendNum (newest x.2) x.1 x.2 else b) b).resv = b.resv := fun l => by
      induction l with
      | nil => exact fun _ => rfl
      | cons x l ih =>
        intro b
        rw [List.foldl_cons, ih]
        split <;> simp
    simp [flushBlks, ih, e]

theorem Frames.flush (h : Frames f E s t) {c : Nat} : Frames f E s (t.flush c) := by
  unfold State.flush
  split
  · exact h
  · split
    · exact h
    · exact h.modCtx (fun _ => rfl) fun _ => resv_flushBlks _ _ _

end Sys2Proof.Proofs
end

section
/-!
SUPPORT. Frames of the operations that firings share: records of frames given back, blocks discarded, loads performed again,
reads and stores of a block.
-/

namespace Sys2Proof.Proofs

open Sys2Proof Sys2Proof.Machine Sys2Proof.Safety Sys2Proof.Laws

variable {f : Focus} {E : List Write → Prop} {s t u : State}

/-- Under no premise on the memories, a write at a home is part of a firing. -/
theorem Frames.memOnly (h : Frames f (fun _ => False) s t) (hm : MemOnly t u) : Frames f (fun _ => False) s u := by
  refine h.trans (Frames.of_quiet ⟨fun c => ?_, hm.writes, hm.homeOps, hm.cmds⟩)
  simp [State.ctx, hm.ctxs]

theorem Frames.foldl {α : Type} {g : State → α → State} (h : Frames f E s t) (l : List α)
    (hg : ∀ u a, a ∈ l → Frames f E s u → Frames f E s (g u a)) : Frames f E s (l.foldl g t) := by
  induction l generalizing t with
  | nil => exact h
  | cons a l ih => exact ih (hg _ _ (by simp) h) fun u b hb => hg u b (by simp [hb])

theorem Frames.graphError (h : Frames f E s t) {q : Nat} {g : Word} : Frames f E s (t.graphError q g) := by
  unfold State.graphError
  split
  · exact h.modPart
  · exact h

theorem Frames.sweepGraphs (h : Frames f E s t) {q : Nat} : Frames f E s (t.sweepGraphs q) :=
  Frames.foldl h.modPart _ fun _ _ _ h => h.modDie

theorem Frames.fillBricks (bs : List Nat) (n : Nat) (h : Frames f E s t) : Frames f E s (t.fillBricks n bs).1 := by
  induction bs generalizing t n with
  | nil => exact h
  | cons b bs ih =>
    unfold State.fillBricks
    split
    · exact h
    · dsimp only
      split
      · exact ih _ h
      · exact ih _ h.modBrick

theorem Frames.giveTokens (h : Frames f E s t) {b n : Nat} : Frames f E s (t.giveTokens b n) := by
  unfold State.giveTokens
  split
  · exact h
  · exact h.fillBricks _ _

/-! The records of frames (R351 to R353), which stand in memory. -/

section
variable (h : Frames f (fun _ => False) s t)
include h

theorem Frames.syncFrame {die idx : Nat} {x : Frame} : Frames f (fun _ => False) s (t.syncFrame die idx x) := by
  unfold State.syncFrame
  split
  · exact h
  · exact h.foldl _ fun _ _ _ h => h.memOnly (memOnly_writeFlat _ _ _ _ _)

theorem Frames.clearValid {q die : Nat} {p : FramePlace} : Frames f (fun _ => False) s (t.clearValid q die p) := by
  unfold State.clearValid
  split
  · exact h.memOnly (memOnly_writeFlat _ _ _ _ _)
  · exact h
  · exact h

theorem Frames.loseFrame {die idx : Nat} {x : Frame} : Frames f (fun _ => False) s (t.loseFrame die idx x) :=
  h.graphError.clearValid.modDie.sweepGraphs

theorem Frames.migrate {die r : Nat} (n : Nat) : Frames f (fun _ => False) s (t.migrate die r n) := by
  induction n generalizing t with
  | zero => exact h
  | succ n ih =>
    unfold State.migrate
    split
    · exact h
    · split
      · exact ih h.loseFrame
      · exact h.clearValid.modDie.syncFrame

theorem Frames.giveRecord {q die : Nat} {p : FramePlace} : Frames f (fun _ => False) s (t.giveRecord q die p) := by
  unfold State.giveRecord
  split
  · exact h.migrate _
  · exact h.clearValid
end

/-- Giving back no record changes nothing. -/
theorem Frames.unreserve (h : Frames f E s t) {q : Nat} {rs : List Resv} (hrs : NoResv f s → rs = []) :
    Frames f E s (t.unreserve q rs) := by
  have hq : Frames f (fun _ => False) t (t.unreserve q rs) := Frames.refl.foldl _ fun _ _ _ h => h.giveRecord
  have hu := (Frames.of_quiet h.toQuiet).trans hq
  refine ⟨hu.toQuiet, fun hn he => ?_⟩
  rw [hrs hn]
  exact h.still hn he

/-- Discarding blocks of the focused context, none older than the focused one (R30). -/
@[simp] theorem Frames.discardFrom (h : Frames f E s t) {k : Nat} (hk : f.blk ≤ k) : Frames f E s (t.discardFrom f.ctx k) := by
  refine h.trans ?_
  unfold State.discardFrom
  dsimp only
  split
  · exact .refl
  · next b0 bs hd =>
    have hgone : NoResv f t → (b0 :: bs).flatMap Blk.resv = [] := fun hn => by
      rw [← hd, List.flatMap_eq_nil_iff]
      intro b hb
      refine noResv_iff.1 hn b ?_
      rw [← Nat.add_sub_cancel' hk, ← List.drop_drop] at hb
      exact List.mem_of_mem_drop hb
    have hcut : Frames f E t (t.setCtx f.ctx { t.ctx f.ctx with
        blks := (t.ctx f.ctx).blks.take k, held := (t.ctx f.ctx).held - ((b0 :: bs).map Blk.granted).sum, didAt := t.now }) := by
      refine Frames.refl.setCtx rfl fun _ _ hn r hr => hn r ?_
      simp only [resvsOf, List.map_take] at hr
      rw [List.drop_take] at hr
      exact List.mem_of_mem_take hr
    refine Frames.modDie ?_
    split
    · exact hcut.giveTokens
    · exact (hcut.giveTokens.unreserve hgone).modTask

theorem Frames.squashReaders (h : Frames f E s t) {l : PLoc} {n : Nat} : Frames f E s (t.squashReaders f.ctx f.blk l n) := by
  unfold State.squashReaders
  split
  · exact h.discardFrom (by omega)
  · exact h

@[simp] theorem Frames.squashAfter (h : Frames f E s t) : Frames f E s (t.squashAfter f.ctx f.blk) := by
  unfold State.squashAfter
  split
  · exact h.discardFrom (by omega)
  · exact h

theorem resv_without (b : Blk) (gone : Nat → Bool) (h : b.resv = []) : (b.without gone).resv = [] := by
  have e : ∀ (ts : List TrapRec) (c : Blk), (ts.foldl (fun c t => match t.src, t.lost with
      | some n, some (tgt, tok) => if gone n then c else c.deliver n tgt tok
      | _, _ => c) c).resv = c.resv := fun ts => by
    induction ts with
    | nil => exact fun _ => rfl
    | cons x xs ih =>
      intro c
      rw [List.foldl_cons, ih]
      split
      · split <;> simp
      · rfl
  unfold Blk.without
  refine (e b.traps _).trans ?_
  simp [h]

/-- The focused block holds no reservation where none from it on does. -/
theorem NoResv.blk {b : Blk} (hn : NoResv f s) (hb : s.blk? f.ctx f.blk = some b) : b.resv = [] := by
  refine noResv_iff.1 hn b ?_
  have h0 : ((s.ctx f.ctx).blks.drop f.blk)[0]? = some b := by rw [List.getElem?_drop]; exact hb
  exact List.mem_of_getElem? h0

/-- Slots of the focused block fire again (R190). -/
theorem Frames.refire (h : Frames f E s t) {ns : List Nat} : Frames f E s (t.refire f.ctx f.blk ns) := by
  refine h.trans ?_
  unfold State.refire
  split
  · exact .refl
  · next b hb =>
    have hcut : Frames f E t (t.discardFrom f.ctx (f.blk + 1)) := Frames.refl.discardFrom (by omega)
    dsimp only
    have hset : ∀ gone : Nat → Bool, ∀ back, Frames f E t ((t.discardFrom f.ctx (f.blk + 1)).modCtx f.ctx fun x =>
        { x with held := x.held - back, blks := x.blks.set f.blk (b.without gone), didAt := (t.discardFrom f.ctx (f.blk + 1)).now }) := by
      intro gone back
      refine hcut.setCtx rfl fun _ hn hn' r hr => ?_
      simp only [resvsOf, List.map_set, List.drop_set, lt_irrefl, if_false] at hr
      rcases List.mem_or_eq_of_mem_set hr with hr | e
      · exact hn' r hr
      · rw [e]; exact resv_without _ _ (hn.blk hb)
    refine Frames.modDie ?_
    split
    · exact (hset _ _).giveTokens
    · refine Frames.modTask (((hset _ _).giveTokens).unreserve fun hn => ?_)
      rw [hn.blk hb]; rfl

@[simp] theorem Frames.again (h : Frames f E s t) {ns : List Nat} : Frames f E s (t.again f ns) := by
  unfold State.again
  split
  · exact h
  · split
    · exact h
    · exact h.refire

@[simp] theorem Frames.againAbove (h : Frames f E s t) {k : Nat} {l : Option PLoc} : Frames f E s (t.againAbove f k l) := by
  unfold State.againAbove
  split
  · exact h.again
  · exact h

@[simp] theorem Frames.afterWait (h : Frames f E s t) : Frames f E s (t.afterWait f) := by
  unfold State.afterWait
  dsimp only
  split
  · exact h.squashAfter.again
  · exact h.squashAfter

theorem Frames.unmix (h : Frames f E s t) {b : Blk} {l : PLoc} {n : Nat} {v : Sees} : Frames f E s (t.unmix f b l n v) := by
  unfold State.unmix
  split
  · split
    · exact h.againAbove
    · exact h
  · exact h

theorem Frames.conflicts (h : Frames f E s t) {c n : Nat} {l : PLoc} : Frames f E s (t.conflicts c l n) := by
  unfold State.conflicts
  split
  · exact h.modBrick.modCtx (fun _ => rfl) fun _ => rfl
  · exact h

@[simp] theorem Frames.noteRead (h : Frames f E s t) {r : ReadRec} : Frames f E s (t.noteRead f r) := by
  unfold State.noteRead
  exact Frames.squashReaders (Frames.modBlk h (by intro; rfl))

@[simp] theorem Frames.hold (h : Frames f E s t) {w : StoreRec} : Frames f E s (t.hold f w) := by
  unfold State.hold
  exact Frames.squashReaders (Frames.modBlk h (by intro; rfl))

@[simp] theorem Frames.eff (h : Frames f E s t) {e : CEff} : Frames f E s (t.eff f e) := h.modBlk fun _ => rfl

@[simp] theorem Frames.flag (h : Frames f E s t) {x : FFlags} : Frames f E s (t.flag f x) := by
  unfold State.flag
  split
  · exact h
  · exact h.modBlk fun _ => rfl

@[simp] theorem Frames.setV (h : Frames f E s t) {r : Nat} {x : VecVal} : Frames f E s (t.setV f r x) := h.modBlk fun _ => rfl
@[simp] theorem Frames.setH (h : Frames f E s t) {r : Nat} {x : HandleVal} : Frames f E s (t.setH f r x) := h.modBlk fun _ => rfl
@[simp] theorem Frames.setM (h : Frames f E s t) {r : Nat} {x : MaskVal} : Frames f E s (t.setM f r x) := by
  unfold State.setM
  split
  · exact h
  · exact h.modBlk fun _ => rfl

@[simp] theorem Frames.check (h : Frames f E s t) {k : Task} {b n : Nat} {a : Word} {acc : Acc} :
    Frames f E s (t.check k b a n acc).2 := by
  obtain ⟨ps, e⟩ := check_frame t k b a n acc
  rw [e]; exact h.parts

theorem Frames.readAt (h : Frames f E s t) {k : Task} {b : Blk} {l : PLoc} {pte flat n : Nat} {v : Sees} :
    Frames f E s (t.readAt f k b l pte flat n v).2 := by
  have hx : Frames f E s (if b.crosses v l n then t.drawNat else (0, t)).2 := by
    split
    · exact h.drawNat
    · exact h
  unfold State.readAt
  revert hx
  generalize (if b.crosses v l n then t.drawNat else (0, t)) = x
  intro hx
  exact Frames.noteRead (Frames.conflicts hx)

/-- A read of a block waits, traps or gives bytes, in a state that a firing may leave. -/
def GotFrames (f : Focus) (E : List Write → Prop) (s : State) : Got → Prop
  | .wait => True
  | .bytes _ t => Frames f E s t
  | .trap t _ _ => Frames f E s t

theorem gotFrames_load {a : Word} {n : Nat} {v : Sees} : GotFrames f E s (s.load f a n v) := by
  unfold State.load
  split
  · next k b _ _ =>
    have hc : Frames f E s (s.check k (brickOfCtx f.ctx) a n .read).2 := Frames.refl.check
    split
    · next e => rw [e] at hc; exact hc
    · next e =>
      rw [e] at hc
      split
      · trivial
      · split
        · exact hc.noteRead
        · exact hc.unmix.readAt
  · trivial

theorem Frames.orders (h : Frames f E s t) {c n : Nat} {l : PLoc} {saw : List Nat} {sc : Scope} :
    Frames f E s (t.orders c l n saw sc).2 := by
  unfold State.orders
  split
  · exact h.drawBool
  · exact h

@[simp] theorem Frames.acquire (h : Frames f E s t) {sc : Scope} : Frames f E s (t.acquire f sc).2 := by
  unfold State.acquire
  split
  · exact h
  · dsimp only
    split
    · exact h.orders.squashAfter
    · exact h.orders

/-- With nothing in a die's cache, no write goes home. -/
theorem dragged_none (l : PLoc) (n : Nat) (skip : Nat → Bool) {ws : List Write} (h : ∀ w ∈ ws, w.cached = false) :
    dragged l n skip ws = [] := by
  have e : ∀ us : List Write, (∀ w ∈ us, w.cached = false) → us.foldr (fun w (acc : List Write × List Nat) =>
      if w.cached && !skip w.die
          && (acc.2.contains w.die || (w.loc.sp == l.sp && overlaps w.loc.a w.bytes.length l.a n))
      then (w :: acc.1, w.die :: acc.2) else acc) ([], []) = ([], []) := fun us hu => by
    induction us with
    | nil => rfl
    | cons w us ih => rw [List.foldr_cons, ih fun x hx => hu x (by simp [hx])]; simp [hu w (by simp)]
  unfold dragged
  rw [e ws h]

/-- No pending write stands in a die's cache. -/
def Uncached (ws : List Write) : Prop := ∀ w ∈ ws, w.cached = false

theorem Frames.drainLines (h : Frames f E s t) (hE : ∀ ws, E ws → Uncached ws) {l : PLoc} {n : Nat} {skip : Nat → Bool} :
    Frames f E s (t.drainLines l n skip) := by
  have hq : Frames f (fun _ => False) s (t.drainLines l n skip) :=
    (Frames.of_quiet h.toQuiet).memOnly (memOnly_drainLines _ _ _ _)
  refine ⟨hq.toQuiet, fun hn he => ?_⟩
  have hs := h.still hn he
  have e : t.drainLines l n skip = t := by
    unfold State.drainLines
    split
    · rfl
    · rw [dragged_none l n skip (hs.2.2 ▸ hE _ he)]; rfl
  rw [e]; exact hs

end Sys2Proof.Proofs
end

section
/-!
SUPPORT. Every firing is a frame: first what fireG adds to the meaning of an instruction, then the meanings, family by family.
-/

namespace Sys2Proof.Proofs

open Sys2Proof Sys2Proof.Machine Sys2Proof.Safety Sys2Proof.Laws

variable {E : List Write → Prop} {s : State}

/-- A meaning waits, or leaves a state that a firing may leave. -/
def FireFrames (f : Focus) (E : List Write → Prop) (s : State) : Fire → Prop
  | .wait | .stuck => True
  | .busy t | .numbered t | .done t _ | .trap t _ _ => Frames f E s t

section
variable {f : Focus} {t : State}
@[simp] theorem fireFrames_wait : FireFrames f E s .wait := trivial
@[simp] theorem fireFrames_stuck : FireFrames f E s .stuck := trivial
@[simp] theorem fireFrames_busy : FireFrames f E s (.busy t) ↔ Frames f E s t := Iff.rfl
@[simp] theorem fireFrames_numbered : FireFrames f E s (.numbered t) ↔ Frames f E s t := Iff.rfl
@[simp] theorem fireFrames_done {ts : List Tok} : FireFrames f E s (.done t ts) ↔ Frames f E s t := Iff.rfl
@[simp] theorem fireFrames_trap {c : Nat} {x : Word} : FireFrames f E s (.trap t c x) ↔ Frames f E s t := Iff.rfl
@[simp] theorem fireFrames_badItem {x : Nat} : FireFrames f E s (badItem t x) ↔ Frames f E s t := Iff.rfl
end

/-- An answer whose state is as a firing of the focused slot may leave it; with no slot focused, nothing fires. -/
def Framed (E : List Write → Prop) (s : State) (o : Res) : Prop :=
  ∀ t, o = .next t → Quiet s t ∧ ∀ f, s.focus = some f → Frames f E s t

theorem Framed.same : Framed E s (.next s) := fun t e => by
  cases e
  exact ⟨(Frames.refl (f := ⟨0, 0, 0, false⟩) (E := E)).toQuiet, fun _ _ => .refl⟩

theorem Framed.of_frames {f : Focus} {t : State} (hf : s.focus = some f) (h : Frames f E s t) : Framed E s (.next t) :=
  fun u e => by
    cases e
    refine ⟨h.toQuiet, fun g hg => ?_⟩
    rw [hf] at hg
    cases hg
    exact h

/-- What fireG adds to a meaning changes nothing but the focused context's blocks (R51, R52, R250). -/
theorem fireG_framed {i : Instr} {act : Focus → List Tok → State → Fire} (h : ∀ f ops, FireFrames f E s (act f ops s)) :
    Framed E s (fireG i act s) := by
  unfold fireG
  split
  · exact .same
  · next f hf =>
    split
    · exact .same
    · split
      · exact .same
      · split
        · exact .same
        · exact .of_frames hf ((Frames.refl.modBlk (by simp)).flush)
        · exact .of_frames hf ((Frames.refl.modBlk (by simp)).flush)
        · next ops _ =>
          split
          · exact .same
          · have ha := h f ops
            split <;> rename_i e <;> rw [e] at ha
            · exact .same
            · exact .of_frames hf (Frames.modBlk ha (by simp))
            · refine .of_frames hf ?_
              unfold State.finish
              exact Frames.flush (Frames.modBlk ha (by simp))
            · exact .of_frames hf (Frames.flush (Frames.modBlk ha (by simp)))
            · exact .of_frames hf (Frames.modBlk ha (by simp))
            · exact .of_frames hf (Frames.refl.modBlk (by simp))

/-! Plumbing, integers, floating point and exits. -/

theorem framed_fireVal {i : Instr} {val : List Tok → Word} : Framed E s (fireVal i val s) := fireG_framed fun _ _ => by simp

theorem framed_fireFp {i : Instr} {rm : Rm} {val : Rm → List Tok → Nat × FFlags} : Framed E s (fireFp i rm val s) :=
  fireG_framed fun f ops => by
    split
    · trivial
    · exact Frames.refl.flag

theorem framed_gread {r : BitVec 6} {t1 t0 : Target} : Framed E s (execGread r t1 t0 s) :=
  fireG_framed fun f ops => by split <;> simp

theorem framed_xread {k : XKind} {r : BitVec 5} {t1 t0 : Target} : Framed E s (execXread k r t1 t0 s) :=
  fireG_framed fun f ops => by split <;> simp

theorem framed_gwrite {pr : Pr} {r : BitVec 6} : Framed E s (execGwrite pr r s) :=
  fireG_framed fun f ops => Frames.refl.modBlk fun b => by split <;> simp

theorem framed_xwrite {pr : Pr} {k : XKind} {r : BitVec 5} : Framed E s (execXwrite pr k r s) :=
  fireG_framed fun f ops => Frames.refl.modBlk fun b => by split <;> simp

theorem framed_exit {i : Instr} {e : Focus → List Tok → Blk → Blk} (he : ∀ f ops b, (e f ops b).resv = b.resv) :
    Framed E s (fireG i (fun f ops s => .done (s.modBlk f.ctx f.blk (e f ops)) []) s) :=
  fireG_framed fun _ _ => Frames.refl.modBlk (he _ _)

theorem framed_fireIndirect {i : Instr} : Framed E s (fireIndirect i s) := fireG_framed fun f ops => by
  split
  · exact Frames.refl
  · exact Frames.refl.modBlk (by simp)

theorem framed_yield {pr : Pr} {e : BitVec 3} {off : BitVec 20} : Framed E s (execYield pr e off s) :=
  fireG_framed fun f ops => (Frames.refl.modBlk (by simp)).eff

/-! Loads, stores and atomics. -/

/-- A read of the focused block that gives bytes, or traps, leaves a state that a firing may leave. -/
theorem Frames.of_load {f : Focus} {a : Word} {n : Nat} {v : Sees} {t : State} {bs : List Byte}
    (e : s.load f a n v = .bytes bs t) : Frames f E s t := by
  have h : GotFrames f E s (s.load f a n v) := gotFrames_load
  rw [e] at h; exact h
theorem Frames.of_load_trap {f : Focus} {a : Word} {n : Nat} {v : Sees} {t : State} {c : Nat} {x : Word}
    (e : s.load f a n v = .trap t c x) : Frames f E s t := by
  have h : GotFrames f E s (s.load f a n v) := gotFrames_load
  rw [e] at h; exact h

theorem framed_fireLoad {i : Instr} {ls : BitVec 5} {imm : BitVec 9} {n : Nat} {conv : Word → Word} :
    Framed E s (fireLoad i ls imm n conv s) := fireG_framed fun f ops => by
  split
  · trivial
  · next e => exact Frames.of_load_trap e
  · next e => exact Frames.of_load e

theorem framed_lda {pr : Pr} {ls : BitVec 5} {sc : Scope} {d : Bool} {t0 : Target} : Framed E s (execLda pr ls sc d t0 s) :=
  fireG_framed fun f ops => by
    split
    · trivial
    · next e => exact Frames.of_load_trap e
    · next e =>
      have h : Frames f E s _ := Frames.of_load e
      simp only [fireFrames_done]
      split
      · exact h.acquire.againAbove
      · exact h.acquire

/-- The checks of an access leave a state that a firing may leave. -/
theorem Frames.of_check {f : Focus} {k : Task} {b n : Nat} {a : Word} {acc : Acc} {c : Chk} {t : State}
    (e : s.check k b a n acc = (c, t)) : Frames f E s t := by
  have h : Frames f E s (s.check k b a n acc).2 := Frames.refl.check
  rw [e] at h; exact h

theorem framed_fireStore {i : Instr} {ls : BitVec 5} {addr : List Tok → Word} {n : Nat} {rel : Option Scope} :
    Framed E s (fireStore i ls addr n rel s) := fireG_framed fun f ops => by
  split
  · split
    · next e => exact Frames.of_check e
    · next e =>
      dsimp only
      split
      · exact Frames.hold (Frames.modBlk (Frames.of_check e).again (by simp))
      · trivial
  · trivial

theorem framed_fireAtomic {i : Instr} : Framed E s (fireAtomic i s) := fireG_framed fun f ops => by
  split
  · split
    · next e => exact Frames.of_check e
    · next e =>
      split
      · exact Frames.of_check e
      · split
        · split
          · trivial
          · exact Frames.modBlk (Frames.of_check e) (by simp)
        · trivial
  · trivial

/-! Handles and the matrix arrays. -/

theorem framed_fireHandle {i : Instr} {hd hs : BitVec 4} {g : List Tok → Nat → Nat} : Framed E s (fireHandle i hd hs g s) :=
  fireG_framed fun f ops => by
    split
    · trivial
    · split
      · simp
      · dsimp only; split <;> simp

theorem framed_hdef {pr : Pr} {hd : BitVec 4} : Framed E s (execHdef pr hd s) := fireG_framed fun f ops => by
  split
  · trivial
  · next e => exact Frames.of_load_trap e
  · next e =>
    dsimp only
    split
    · exact (Frames.of_load e).setH
    · exact Frames.of_load e

theorem FireFrames.leaveSpad {f : Focus} {vs : List View} {k : PmaKind} : FireFrames f E s (s.leaveSpad f vs k) := by
  unfold State.leaveSpad
  split <;> simp

theorem FireFrames.leavePma {f : Focus} {t : Task} {mode : AccMode} {vs : List View} {k : PmaKind} :
    FireFrames f E s (s.leavePma f t mode vs k) := by
  unfold State.leavePma
  split
  · simp
  · exact .leaveSpad

theorem framed_mma {pr : Pr} {mode : AccMode} {stream : Bool} {ha hb acc : BitVec 4} {sideB chan : Bool} {t1 t0 : Target} :
    Framed E s (execMma pr mode stream ha hb acc sideB chan t1 t0 s) := fireG_framed fun f ops => by
  dsimp only
  split
  · split_ifs
    all_goals simp [FireFrames.leavePma]
  · trivial

theorem framed_mmac {pr : Pr} {mode : AccMode} {stream : Bool} {src hb acc : BitVec 4} {chan trim : Bool} {fmt : BitVec 5}
    {w : BitVec 4} {t1 t0 : Target} : Framed E s (execMmac pr mode stream src hb acc chan trim fmt w t1 t0 s) :=
  fireG_framed fun f ops => by
    dsimp only
    split
    · split_ifs
      all_goals simp [FireFrames.leavePma]
    · trivial

theorem framed_mcvt {pr : Pr} {hd acc : BitVec 4} {t1 t0 : Target} : Framed E s (execMcvt pr hd acc t1 t0 s) :=
  fireG_framed fun f ops => by
    dsimp only
    split
    · split
      · simp
      · split
        · simp
        · split
          · simp
          · exact .leaveSpad
    · trivial

theorem framed_ptrim {pr : Pr} {h : BitVec 4} {t1 t0 : Target} : Framed E s (execPtrim pr h t1 t0 s) :=
  fireG_framed fun f ops => by
    split
    · dsimp only; split_ifs <;> simp
    · trivial

theorem framed_pxpose {pr : Pr} {h : BitVec 4} {e : PxSize} {unpack : Bool} {t1 t0 : Target} :
    Framed E s (execPxpose pr h e unpack t1 t0 s) := fireG_framed fun f ops => by
  split
  · dsimp only
    split
    · simp
    · split
      · simp
      · exact .leaveSpad
  · trivial

theorem framed_mstat {pr : Pr} {acc : BitVec 4} {t1 t0 : Target} : Framed E s (execMstat pr acc t1 t0 s) :=
  fireG_framed fun f ops => by
    split
    · trivial
    · dsimp only; split_ifs <;> simp

theorem framed_mzero {pr : Pr} {mode : AccMode} {acc : BitVec 4} {t1 t0 : Target} : Framed E s (execMzero pr mode acc t1 t0 s) :=
  fireG_framed fun f ops => by split <;> simp

theorem framed_madda {pr : Pr} {src acc : BitVec 4} {t1 t0 : Target} : Framed E s (execMadda pr src acc t1 t0 s) :=
  fireG_framed fun f ops => by dsimp only; split <;> simp

/-! Engine commands and timelines. -/

theorem FireFrames.leave {f : Focus} {t : State} (h : Frames f E s t) {trap : Option (Nat × Word)} {tl : Nat} {k : CmdKind}
    {rel : Option Scope} : FireFrames f E s (t.leave f trap tl k rel) := by
  unfold State.leave
  split <;> simp [h]

theorem framed_fireCmd {i : Instr} {tl : Nat} {rel : Option Scope} {trap : State → Focus → Task → List Tok → Option (Nat × Word)}
    {k : List Tok → CmdKind} : Framed E s (fireCmd i tl rel trap k s) := fireG_framed fun f ops => by
  split
  · trivial
  · exact .leave .refl

theorem framed_xcopy {pr : Pr} {rel : Option Scope} {hd hs : BitVec 4} {chan stamp : Bool} {t1 t0 : Target} :
    Framed E s (execXcopy pr rel hd hs chan stamp t1 t0 s) := fireG_framed fun f ops => by
  dsimp only
  split
  · exact .leave .refl
  · trivial

theorem framed_fireNet {i : Instr} {amo : Bool} {rel : Option Scope} {k : Nat → CmdKind} : Framed E s (fireNet i amo rel k s) :=
  fireG_framed fun f ops => by
    split
    · trivial
    · dsimp only
      split
      · simp
      · split
        · trivial
        · next e => exact Frames.of_load_trap e
        · next e =>
          split
          · exact Frames.of_load e
          · exact .leave (Frames.of_load e)

theorem framed_waitt {pr : Pr} {sc : Scope} {trapErr : Bool} {tl : BitVec 3} {t1 t0 : Target} :
    Framed E s (execWaitt pr sc trapErr tl t1 t0 s) := fireG_framed fun f ops => by
  split
  · trivial
  · dsimp only
    split
    · simp
    · split
      · trivial
      · split
        · trivial
        · split <;> simp

/-! Fences, barriers and rings. -/

theorem FireFrames.addFence {f : Focus} {b : Blk} {t : Task} {sc : Scope} {k : FenceKind}
    {rs : Option (List (Option (Nat × Nat)))} : FireFrames f E s (s.addFence f b t sc k rs) := Frames.refl.modTask

theorem framed_fence {pr : Pr} {sc : Scope} {k : FenceKind} {t1 t0 : Target} : Framed E s (execFence pr sc k t1 t0 s) :=
  fireG_framed fun f ops => by
    split
    · exact .addFence
    · trivial

theorem framed_fencer {pr : Pr} {sc : Scope} {k : FenceKind} {hm : BitVec 16} {flat : Bool} {t1 t0 : Target} :
    Framed E s (execFencer pr sc k hm flat t1 t0 s) := fireG_framed fun f ops => by
  split
  · split
    · trivial
    · simp
    · split
      · trivial
      · exact .addFence
  · trivial

theorem framed_arm {pr : Pr} {hm : BitVec 16} {flat : Bool} {t1 t0 : Target} : Framed E s (execFencerArm pr hm flat t1 t0 s) :=
  fireG_framed fun f ops => by
    split
    · trivial
    · split <;> simp

theorem framed_disarm {pr : Pr} {hm : BitVec 16} {flat : Bool} {t1 t0 : Target} :
    Framed E s (execFencerDisarm pr hm flat t1 t0 s) := fireG_framed fun f ops => by
  split
  · trivial
  · split <;> simp

theorem framed_fwait {pr : Pr} {t1 t0 : Target} : Framed E s (execFwait pr t1 t0 s) := fireG_framed fun f ops => by
  split
  · trivial
  · split
    · simp
    · split_ifs <;> simp

theorem framed_mwait {pr : Pr} {sc : Scope} {c : MCond} {t1 t0 : Target} : Framed E s (execMwait pr sc c t1 t0 s) :=
  fireG_framed fun f ops => by
    unfold State.mwaitRead
    split
    · trivial
    · next e => exact Frames.of_load_trap e
    · next e =>
      have h : Frames f E s _ := Frames.of_load e
      split
      · simp only [fireFrames_done]
        split
        · exact h.acquire.afterWait
        · exact h.acquire
      · exact .refl

theorem gotFrames_readRec {f : Focus} {t : Task} {a : Word} {acc : Acc} {cause : Nat} :
    GotFrames f E s (s.readRec f t a acc cause) := by
  unfold State.readRec
  split
  · exact .refl
  · split
    · exact .refl
    · exact gotFrames_load

theorem framed_bara {pr : Pr} {sc : Scope} {t1 t0 : Target} : Framed E s (execBara pr sc t1 t0 s) :=
  fireG_framed fun f ops => by
    split
    · trivial
    · next t _ =>
      have h : GotFrames f E s (s.readRec f t (opw ops 0) .write 0x13) := gotFrames_readRec
      dsimp only
      split <;> rename_i e <;> rw [e] at h
      · trivial
      · exact h
      · split
        · exact Frames.eff h
        · exact h

theorem framed_barw {pr : Pr} {sc : Scope} {t1 t0 : Target} : Framed E s (execBarw pr sc t1 t0 s) :=
  fireG_framed fun f ops => by
    split
    · trivial
    · next t _ =>
      have h : GotFrames f E s (s.readRec f t (opw ops 0) .read 0x13) := gotFrames_readRec
      dsimp only
      split <;> rename_i e <;> rw [e] at h
      · trivial
      · exact h
      · split
        · exact h
        · split
          · simp only [fireFrames_done]
            split
            · exact (Frames.acquire h).afterWait
            · exact Frames.acquire h
          · trivial

/-- Reading a ring's header for the focused slot, where no die's cache holds a write to it. -/
def RingFrames (f : Focus) (E : List Write → Prop) (s : State) : GotRing → Prop
  | .wait => True
  | .trap t _ _ | .ok _ _ _ _ t => Frames f E s t

theorem ringFrames_ringHdr (hE : ∀ ws, E ws → Uncached ws) {f : Focus} {a : Word} {acc : Acc} :
    RingFrames f E s (s.ringHdr f a acc) := by
  unfold State.ringHdr
  split
  · trivial
  · split
    · exact .refl
    · split
      · exact .refl
      · split
        · trivial
        · split
          · trivial
          · next e => exact Frames.of_load_trap e
          · next e =>
            split
            · trivial
            · dsimp only
              generalize RingHdr.of _ = r
              split
              · exact (Frames.of_load e).drainLines hE
              · exact (Frames.of_load e).drainLines hE

theorem framed_qinit {pr : Pr} {lg : BitVec 5} : Framed E s (execQinit pr lg s) := fireG_framed fun f ops => by
  split
  · trivial
  · dsimp only
    split
    · simp
    · split
      · simp
      · split
        · simp
        · split <;> simp

section
variable (hE : ∀ ws, E ws → Uncached ws)
include hE

theorem framed_qfill {pr : Pr} : Framed E s (execQfill pr s) := fireG_framed fun f ops => by
  have h := ringFrames_ringHdr (s := s) hE (f := f) (a := opw ops 0) (acc := .write)
  split
  · next e =>
    rw [e] at h
    dsimp only
    split
    · exact Frames.eff h
    · split
      · exact h
      · exact Frames.eff h
  · next e => rw [e] at h; exact h
  · trivial

theorem framed_qpeek {pr : Pr} {t1 t0 : Target} : Framed E s (execQpeek pr t1 t0 s) := fireG_framed fun f ops => by
  have h := ringFrames_ringHdr (s := s) hE (f := f) (a := opw ops 0) (acc := .read)
  split <;> rename_i e <;> rw [e] at h
  · trivial
  · exact h
  · split
    · exact h
    · split
      · exact h
      · dsimp only
        split
        · exact h
        · split <;> exact h

theorem framed_qocc {pr : Pr} {t1 t0 : Target} : Framed E s (execQocc pr t1 t0 s) := fireG_framed fun f ops => by
  have h := ringFrames_ringHdr (s := s) hE (f := f) (a := opw ops 0) (acc := .read)
  split <;> rename_i e <;> rw [e] at h
  · trivial
  · exact h
  · exact h

end

/-! QTKT, QPOP and the spawns, which act on a memory at once: quiet, and no more. -/

theorem Frames.ringMark {f : Focus} {t : State} (h : Frames f (fun _ => False) s t) {w : Who} {r : RingHdr} {n : Nat}
    {full : Bool} : Frames f (fun _ => False) s (t.ringMark w r n full) := by
  unfold State.ringMark
  split
  · exact h.memOnly (memOnly_writeFlat _ _ _ _ _)
  · exact h

/-- An irrevocable act goes on from the state that pins the block and discards its readers (R31, R32). -/
theorem FireFrames.pinning {f : Focus} {t : State} {i : Instr} {l : PLoc} {act : State → Fire}
    (ha : ∀ u, Frames f E s u → FireFrames f E s (act u)) (h : Frames f E s t) : FireFrames f E s (t.pinning f i l act) := by
  unfold State.pinning
  split
  · split
    · exact ha _ (Frames.squashReaders (Frames.modBlk h (by simp)))
    · trivial
  · trivial

theorem framed_qtkt {pr : Pr} {t1 t0 : Target} : Framed (fun _ => False) s (execQtkt pr t1 t0 s) :=
  fireG_framed fun f ops => by
    have h := ringFrames_ringHdr (E := fun _ => False) (s := s) (fun _ e => e.elim) (f := f) (a := opw ops 0) (acc := .write)
    split <;> rename_i e <;> rw [e] at h
    · trivial
    · exact h
    · split
      · trivial
      · exact .pinning (fun u hu => hu.memOnly (memOnly_writeNow _ _ _ _)) h

theorem framed_qpop {pr : Pr} {t1 t0 : Target} : Framed (fun _ => False) s (execQpop pr t1 t0 s) :=
  fireG_framed fun f ops => by
    have h := ringFrames_ringHdr (E := fun _ => False) (s := s) (fun _ e => e.elim) (f := f) (a := opw ops 0) (acc := .write)
    split <;> rename_i e <;> rw [e] at h
    · trivial
    · exact h
    · have hgo : ∀ u, Frames f (fun _ => False) s u → ∀ w r l bs pte, Frames f (fun _ => False) s
          ((u.ringMark w r r.head false).writeNow l bs pte) :=
        fun u hu w r l bs pte => hu.ringMark.memOnly (memOnly_writeNow _ _ _ _)
      split
      · exact h
      · split
        · trivial
        · dsimp only
          split
          · exact .pinning (fun u hu => hgo u hu _ _ _ _ _) h
          · split
            · exact .pinning (fun u hu => hgo u hu _ _ _ _ _) h
            · exact h
          · exact h

/-- A block that takes a reservation: its registers stay. -/
theorem Frames.addResv {f : Focus} {t : State} (h : Frames f (fun _ => False) s t) {c k : Nat} {g : Blk → Blk} :
    Frames f (fun _ => False) s (t.modBlk c k g) := by
  refine h.trans (Frames.of_quiet ⟨fun c' => ?_, List.Sublist.refl _, rfl, rfl⟩)
  by_cases e : c' = c
  · subst e
    obtain ⟨d, hd⟩ := ctx_modBlk t c' k g
    rw [hd]; rfl
  · unfold State.modBlk State.modCtx
    rw [State.ctx_setCtx_ne _ _ _ _ e]

theorem Frames.reserve {f : Focus} {t : State} (h : Frames f (fun _ => False) s t) {die n : Nat} {k : Task} :
    Frames f (fun _ => False) s (t.reserve die n k).2 := by
  have hi : Frames f (fun _ => False) s (t.takeIndex die).2 := h.drawNat
  unfold State.reserve
  split
  · next e => rw [e] at hi; exact hi
  · next e =>
    rw [e] at hi
    split
    · exact hi
    · split
      · exact hi
      · split
        · exact hi.memOnly (memOnly_writeFlat _ _ _ _ _)
        · exact hi

/-- What a spawn comes to, in a state that a firing may leave. -/
def SpawnFrames (f : Focus) (E : List Write → Prop) (s : State) : Spawn → Prop
  | .bad .. => True
  | .full t | .ok t _ => Frames f E s t

theorem spawnFrames_spawn {f : Focus} {t : Task} {a : Word} {cont : Option Word} {fills : List Word} {fork : Bool} :
    SpawnFrames f (fun _ => False) s (s.spawn f t a cont fills fork) := by
  have h := (Frames.refl (f := f) (s := s)).reserve (die := dieOfCtx f.ctx) (n := f.slot) (k := t)
  unfold State.spawn
  dsimp only
  split
  · trivial
  · trivial
  · split
    · trivial
    · split
      · trivial
      · split <;> rename_i e <;> rw [e] at h
        · exact h
        · exact h.addResv.eff

theorem framed_fireSpawn {i : Instr} {cont : List Tok → Option Word} {fills : List Tok → List Word} {fork : Bool} :
    Framed (fun _ => False) s (fireSpawn i cont fills fork s) := fireG_framed fun f ops => by
  split
  · trivial
  · next t _ =>
    have h := spawnFrames_spawn (s := s) (f := f) (t := t) (a := opw ops 0) (cont := cont ops) (fills := fills ops) (fork := fork)
    split
    · simp
    · split
      · trivial
      · split <;> rename_i e <;> rw [e] at h
        · simp
        · exact h
        · exact h

end Sys2Proof.Proofs
end

section
/-!
SUPPORT. Frames of the remaining families: control, messages, vectors and the fabric; then of every instruction.
-/

namespace Sys2Proof.Proofs

open Sys2Proof Sys2Proof.Machine Sys2Proof.Safety Sys2Proof.Laws

variable {E : List Write → Prop} {s : State}

/-! Control and messages. -/

theorem framed_tokens {i : Instr} {toks : Focus → List Tok → State → List Tok} :
    Framed E s (fireG i (fun f ops s => .done s (toks f ops s)) s) := fireG_framed fun f ops => by simp

theorem framed_note {i : Instr} {e : Focus → List Tok → CEff} :
    Framed E s (fireG i (fun f ops s => .done (s.eff f (e f ops)) []) s) := fireG_framed fun f ops => by simp

theorem framed_trap {i : Instr} {c : Nat} {x : Word} : Framed E s (fireG i (fun _ _ s => .trap s c x) s) :=
  fireG_framed fun f ops => by simp

theorem framed_self {pr : Pr} {k : SelfSel} {t1 t0 : Target} : Framed E s (execTself pr k t1 t0 s) :=
  fireG_framed fun f ops => by split <;> simp
theorem framed_xwptr {pr : Pr} {chan : Bool} {t1 t0 : Target} : Framed E s (execXwptr pr chan t1 t0 s) :=
  fireG_framed fun f ops => by split <;> simp
theorem framed_rdtl {pr : Pr} {tl : BitVec 3} {t1 t0 : Target} : Framed E s (execRdtl pr tl t1 t0 s) :=
  fireG_framed fun f ops => by split <;> simp
theorem framed_hget {pr : Pr} {hs : BitVec 4} {k : HGetF} {t1 t0 : Target} : Framed E s (execHget pr hs k t1 t0 s) :=
  fireG_framed fun f ops => by split <;> simp
theorem framed_br {pr : Pr} {e : BitVec 3} {off : BitVec 20} : Framed E s (execBr pr e off s) :=
  framed_exit fun f ops b => by simp
theorem framed_callb {pr : Pr} {e : BitVec 3} {off : BitVec 20} : Framed E s (execCallb pr e off s) :=
  framed_exit fun f ops b => by simp
theorem framed_tend {pr : Pr} {e : BitVec 3} {code : BitVec 8} : Framed E s (execTend pr e code s) :=
  framed_exit fun f ops b => by simp
theorem framed_tendOp0 {pr : Pr} {e : BitVec 3} : Framed E s (execTendOp0 pr e s) := framed_exit fun f ops b => by simp

theorem framed_fireCtl {i : Instr} {op : Nat} {reg : BitVec 12} : Framed E s (fireCtl i op reg s) := fireG_framed fun f ops => by
  dsimp only
  split_ifs <;> simp

theorem framed_ctlrd {pr : Pr} {reg : BitVec 12} {t1 t0 : Target} : Framed E s (execCtlrd pr reg t1 t0 s) :=
  fireG_framed fun f ops => by
    dsimp only
    split_ifs <;> simp

theorem framed_firePriv {i : Instr} {subop : Nat} {act : Focus → List Tok → State → Fire}
    (h : ∀ f ops, FireFrames f E s (act f ops s)) : Framed E s (firePriv i subop act s) := fireG_framed fun f ops => by
  split_ifs
  · trivial
  · simp
  · exact h f ops

theorem framed_eret {pr : Pr} : Framed E s (execEret pr s) := framed_firePriv fun f ops => by simp
theorem framed_ttinv {pr : Pr} {k : InvKind} : Framed E s (execTtinv pr k s) := framed_firePriv fun f ops => by simp
theorem framed_idle {pr : Pr} : Framed E s (execIdle pr s) := framed_firePriv fun f ops => by simp

theorem framed_ctxsv {pr : Pr} {t1 t0 : Target} : Framed E s (execCtxsv pr t1 t0 s) := framed_firePriv fun f ops => by
  dsimp only
  split
  · split
    · simp
    · split
      · simp
      · split_ifs <;> simp
  · trivial

theorem framed_ctxld {pr : Pr} : Framed E s (execCtxld pr s) := framed_firePriv fun f ops => by
  dsimp only
  split
  · trivial
  · split
    · simp
    · split
      · simp
      · split
        · simp
        · split
          · simp
          · split
            · simp
            · split <;> simp

theorem framed_leaseAdd {pr : Pr} : Framed E s (execLeaseAdd pr s) := framed_firePriv fun f ops => by split <;> simp
theorem framed_leaseDrop {pr : Pr} : Framed E s (execLeaseDrop pr s) := framed_firePriv fun f ops => by split <;> simp

theorem framed_ptok {pr : Pr} {t1 t0 : Target} : Framed E s (execPtok pr t1 t0 s) := fireG_framed fun f ops => by
  dsimp only
  split
  · exact Frames.modBlk (Frames.modCtx (Frames.modBrick .refl) (by intro; rfl) (by intro; rfl)) (by intro; rfl)
  · exact .refl

theorem framed_haltd {pr : Pr} {code : BitVec 8} : Framed E s (execHaltd pr code s) := fireG_framed fun f ops => by
  split <;> simp

theorem framed_tsendh {pr : Pr} {h : BitVec 4} {slot : BitVec 3} : Framed E s (execTsendh pr h slot s) :=
  fireG_framed fun f ops => by split <;> simp

/-! Vectors. -/

theorem framed_fireLanes {i : Instr} {ty : ElemTy} {m : BitVec 3} {vd : BitVec 5} {srcs : List (BitVec 5)}
    {op : List Tok → LaneOp} : Framed E s (fireLanes i ty m vd srcs op s) := fireG_framed fun f ops => by
  dsimp only
  split <;> simp

theorem Frames.checkLanes {f : Focus} {t : Task} {b : Nat} {ty : ElemTy} {a : LaneAddr} {acc : Acc} (is : List Nat) {u : State}
    (h : Frames f E s u) : Frames f E s (checkLanes t b ty a acc is u).2 := by
  induction is generalizing u with
  | nil => exact h
  | cons i is ih =>
    unfold Machine.checkLanes
    split
    · next e => exact h.trans (.of_check e)
    · next e => exact ih (h.trans (.of_check e))

theorem gotFrames_loadLanes {f : Focus} {ty : ElemTy} {a : LaneAddr} (is ls : List Nat) {u : State} (h : Frames f E s u) :
    GotFrames f E s (loadLanes f ty a is ls u).1 := by
  induction is generalizing u ls with
  | nil => exact h
  | cons i is ih =>
    unfold loadLanes
    split
    · next e => exact ih _ (h.trans (.of_load e))
    · next x _ =>
      cases e : u.load f (a.at ty i) ty.bytes (.vec f.slot) with
      | wait => trivial
      | trap t c w => exact h.trans (.of_load_trap e)
      | bytes bs t => exact h.trans (.of_load e)

theorem framed_fireVload {i : Instr} {ty : ElemTy} {m : BitVec 3} {vd : BitVec 5} {ixs : List (BitVec 5)}
    {addr : List Tok → List (List Nat) → LaneAddr} : Framed E s (fireVload i ty m vd ixs addr s) := fireG_framed fun f ops => by
  dsimp only
  split
  · next t vs old mk _ _ _ _ =>
    have hc := Frames.refl (f := f) (E := E) (s := s) |>.checkLanes (t := t) (b := brickOfCtx f.ctx) (ty := ty)
      (a := addr ops (vs.map (lanesOf ty))) (acc := .read) (activeLanes ty mk)
    split <;> rename_i e <;> rw [e] at hc
    · exact hc
    · have hl := gotFrames_loadLanes (ty := ty) (a := addr ops (vs.map (lanesOf ty))) (activeLanes ty mk) (lanesOf ty old) hc
      split <;> rename_i e <;> rw [e] at hl
      · trivial
      · exact hl
      · exact Frames.setV hl
  · trivial

theorem FireFrames.storeLanes {f : Focus} {t : Task} {ty : ElemTy} {a : LaneAddr} {data : List Nat} (is : List Nat) {u : State}
    (h : Frames f E s u) : FireFrames f E s (storeLanes f t ty a data is u) := by
  induction is generalizing u with
  | nil => exact h
  | cons i is ih =>
    unfold Machine.storeLanes
    split
    · next e => exact h.trans (.of_check e)
    · next e => exact ih (h.trans (.of_check e)).hold

theorem framed_fireVstore {i : Instr} {ty : ElemTy} {m : BitVec 3} {va : BitVec 5} {ixs : List (BitVec 5)}
    {addr : List Tok → List (List Nat) → LaneAddr} : Framed E s (fireVstore i ty m va ixs addr s) := fireG_framed fun f ops => by
  dsimp only
  split
  · next t d vs mk _ _ _ _ =>
    have h := FireFrames.storeLanes (t := t) (ty := ty) (a := addr ops (vs.map (lanesOf ty))) (data := lanesOf ty d)
      (activeLanes ty mk) (Frames.refl (f := f) (E := E) (s := s))
    split
    · next e => rw [e] at h; exact Frames.modBlk h (by simp)
    · exact h
  · trivial

theorem framed_vcmp {pr : Pr} {ty : ElemTy} {m md : BitVec 3} {va vb : BitVec 5} {c : VCond} :
    Framed E s (execVcmp pr ty m md va vb c s) := fireG_framed fun f ops => by dsimp only; split <;> simp
theorem framed_vsel {pr : Pr} {ty : ElemTy} {m : BitVec 3} {vd va vb : BitVec 5} : Framed E s (execVsel pr ty m vd va vb s) :=
  fireG_framed fun f ops => by dsimp only; split <;> simp
theorem framed_vcvt {pr : Pr} {ty : ElemTy} {m : BitVec 3} {vd va : BitVec 5} {src : ElemTy} {part : BitVec 3} :
    Framed E s (execVcvt pr ty m vd va src part s) := fireG_framed fun f ops => by dsimp only; split <;> simp
theorem framed_vred {pr : Pr} {ty : ElemTy} {m : BitVec 3} {va : BitVec 5} {op : RedOp} {t1 t0 : Target} :
    Framed E s (execVred pr ty m va op t1 t0 s) := fireG_framed fun f ops => by dsimp only; split <;> simp
theorem framed_vscan {pr : Pr} {ty : ElemTy} {m : BitVec 3} {vd va : BitVec 5} {op : RedOp} :
    Framed E s (execVscan pr ty m vd va op s) := fireG_framed fun f ops => by dsimp only; split <;> simp
theorem framed_vperm {pr : Pr} {ty : ElemTy} {m : BitVec 3} {vd va vb : BitVec 5} : Framed E s (execVperm pr ty m vd va vb s) :=
  fireG_framed fun f ops => by dsimp only; split <;> simp
theorem framed_vsplt {pr : Pr} {m : BitVec 3} {vd va : BitVec 5} : Framed E s (execVsplt pr m vd va s) :=
  fireG_framed fun f ops => by dsimp only; split <;> simp
theorem framed_vplane {pr : Pr} {ty : ElemTy} {m : BitVec 3} {vd va : BitVec 5} {unpack : Bool} :
    Framed E s (execVplane pr ty m vd va unpack s) := fireG_framed fun f ops => by dsimp only; split <;> simp
theorem framed_vgetl {pr : Pr} {ty : ElemTy} {va : BitVec 5} {t1 t0 : Target} : Framed E s (execVgetl pr ty va t1 t0 s) :=
  fireG_framed fun f ops => by split <;> simp
theorem framed_vsetl {pr : Pr} {ty : ElemTy} {vd : BitVec 5} : Framed E s (execVsetl pr ty vd s) :=
  fireG_framed fun f ops => by split <;> simp

theorem framed_mset {pr : Pr} {k : MsetKind} {md ma mb : BitVec 3} {t1 t0 : Target} :
    Framed E s (execMset pr k md ma mb t1 t0 s) := fireG_framed fun f ops => by
  dsimp only
  split
  · cases k <;> simp
  · trivial

theorem framed_vacrd {pr : Pr} {ty : ElemTy} {m : BitVec 3} {vd : BitVec 5} {acc : BitVec 4} {q : BitVec 6} :
    Framed E s (execVacrd pr ty m vd acc q s) := fireG_framed fun f ops => by
  dsimp only
  split
  · split
    · trivial
    · split
      · simp
      · split
        · simp
        · exact Frames.refl.setV.squashAfter
  · trivial

theorem framed_vacwr {pr : Pr} {ty : ElemTy} {m : BitVec 3} {va : BitVec 5} {acc : BitVec 4} {q : BitVec 6} :
    Framed E s (execVacwr pr ty m va acc q s) := fireG_framed fun f ops => by
  dsimp only
  split
  · split
    · trivial
    · split
      · simp
      · exact (Frames.refl.foldl _ fun _ _ _ h => h.foldl _ fun _ _ _ h => h.hold).squashAfter
  · trivial

/-! The fabric. -/

theorem framed_fireGrout {i : Instr} {c op : Nat} {checks : List Tok → List (Word × Nat × Acc)} {kind : List Tok → GKind} :
    Framed E s (fireGrout i c op checks kind s) := fireG_framed fun f ops => by
  split
  · trivial
  · extract_lets isCfg
    clear_value isCfg
    split
    · simp
    · split
      · simp
      · split
        · simp
        · simp only [fireFrames_done]
          split
          · unfold State.gReserve State.modFctx State.setFctx
            split
            · exact Frames.refl.eff.modDie
            · exact Frames.refl.eff
          · exact Frames.refl.eff

/-! Every instruction. -/

/-- What O26 asks of the pending writes for an instruction to change no memory. -/
def Calm (i : Instr) (ws : List Write) : Prop :=
  match i with
  | .qtkt .. | .qpop .. | .tspawn .. | .tfork .. => False
  | .qfill .. | .qpeek .. | .qocc .. => Uncached ws
  | _ => True

theorem exec_framed (i : Instr) (h : i.encodes = true) (s : State) : Framed (Calm i) s (exec i s) := by
  cases i
  all_goals simp only [exec]
  case gread => exact framed_gread
  case xread => exact framed_xread
  case gwrite => exact framed_gwrite
  case xwrite => exact framed_xwrite
  case mov | movl | null | pref | hint | cycrd | gstat => exact framed_tokens
  case tsend | tkill => exact framed_note
  case trap => exact framed_trap
  case genc | gencn | appc | gencl | add | sub | mul | mulh | div | rem | and | or | xor | andn | shl | shr | sar | rot | min | max
    | bits | ext | sel | madd | addi | muli | andi | ori | xori | shli | shri | sari | mini | maxi | tcmp | tcmpi | tbit =>
    exact framed_fireVal
  case fcmp | fadd | fsub | fmul | fdiv | fsqrt | fma | fmin | fmax | fcvt | fclass | fsgn => exact framed_fireFp
  case ldb | ldbn | ldh | ldhn | ldw | ldwn | ldd => exact framed_fireLoad
  case lda => exact framed_lda
  case stb | sth | stw | std | stl => exact framed_fireStore
  case amo | cas | famo => exact framed_fireAtomic
  case fence => exact framed_fence
  case fencer => exact framed_fencer
  case fencerArm => exact framed_arm
  case fencerDisarm => exact framed_disarm
  case fwait => exact framed_fwait
  case mwait => exact framed_mwait
  case br => exact framed_br
  case tend => exact framed_tend
  case tendOp0 => exact framed_tendOp0
  case callb => exact framed_callb
  case bri | retb => exact framed_fireIndirect
  case yield => exact framed_yield
  case tspawn | tfork => exact framed_fireSpawn
  case tsendh => exact framed_tsendh
  case tself => exact framed_self
  case xwptr => exact framed_xwptr
  case rdtl => exact framed_rdtl
  case hget => exact framed_hget
  case bara => exact framed_bara
  case barw => exact framed_barw
  case qtkt => exact framed_qtkt
  case qpop => exact framed_qpop
  case qfill => exact framed_qfill fun _ e => e
  case qpeek => exact framed_qpeek fun _ e => e
  case qocc => exact framed_qocc fun _ e => e
  case qinit => exact framed_qinit
  case vld | vlds | vldx => exact framed_fireVload
  case vst | vsts | vstx => exact framed_fireVstore
  case vbcst | vmov | vadd | vsub | vmul | vfma | vdiv | vmin | vmax | vabs | vneg | vand | vor | vxor | vshl | vshr | vsar
    | vrcp | vrsq | vexp2 | vlog2 => exact framed_fireLanes
  case vcmp => exact framed_vcmp
  case vsel => exact framed_vsel
  case vcvt => exact framed_vcvt
  case vred => exact framed_vred
  case vscan => exact framed_vscan
  case vperm => exact framed_vperm
  case vsplt => exact framed_vsplt
  case vplane => exact framed_vplane
  case vgetl => exact framed_vgetl
  case vsetl => exact framed_vsetl
  case mset => exact framed_mset
  case vacrd => exact framed_vacrd
  case vacwr => exact framed_vacwr
  case hdef => exact framed_hdef
  case hset | hadv => exact framed_fireHandle
  case mzero => exact framed_mzero
  case mma => exact framed_mma
  case mmac => exact framed_mmac
  case mcvt => exact framed_mcvt
  case madda => exact framed_madda
  case ptrim => exact framed_ptrim
  case pxpose => exact framed_pxpose
  case mstat => exact framed_mstat
  case xcopy => exact framed_xcopy
  case xcopyf | xchain | xgath | xscat | xred | xired | xpkl | xdisc => exact framed_fireCmd
  case nput | nget | namo => exact framed_fireNet
  case waitt => exact framed_waitt
  case gcfg | garg | gsend | grecv | greconf | gdrain => exact framed_fireGrout
  case ctlrd => exact framed_ctlrd
  case ctlwr | ctlset | ctlclr => exact framed_fireCtl
  case eret => exact framed_eret
  case ttinv => exact framed_ttinv
  case idle => exact framed_idle
  case ctxsv => exact framed_ctxsv
  case ctxld => exact framed_ctxld
  case leaseAdd => exact framed_leaseAdd
  case leaseDrop => exact framed_leaseDrop
  case ptok => exact framed_ptok
  case haltd => exact framed_haltd
  all_goals exact absurd h Bool.false_ne_true

/-- Settles O26: every firing is a frame of its focused slot (exec_framed); with no slot focused, nothing fires. -/
theorem firingChangesNoRegisterAndNoMemory : Obligations.FiringChangesNoRegisterAndNoMemory := by
  unfold Obligations.FiringChangesNoRegisterAndNoMemory
  refine ⟨fun i s t hi e => ?_, fun i s t f hi e hf hb hc => ?_⟩
  · obtain ⟨hq, -⟩ := exec_framed i hi s t e
    exact ⟨regsKept_iff.2 hq.regs, hq.writes, hq.homeOps, hq.cmds⟩
  · obtain ⟨-, hframe⟩ := exec_framed i hi s t e
    have hcalm : Calm i s.writes := hc
    obtain ⟨-, hcells, hwrites⟩ := (hframe f hf).still (noResv_iff.2 hb) hcalm
    exact ⟨fun sp a => by rw [hcells], hwrites⟩

end Sys2Proof.Proofs
end

section
/-!
SUPPORT. Every step goes on (02 R29, log entry 6): the arms of exec that are no instructions, chapter by chapter, then the
agenda's moves and the default order.
-/

namespace Sys2Proof.Proofs

open Sys2Proof Sys2Proof.Machine Sys2Proof.Safety Sys2Proof.Laws

variable {s : State}

theorem goes_next (t : State) : Goes (.next t) := ⟨t, rfl⟩

/-- The steps of the distributor and the task records (R18 to R22, R356 to R361). -/
theorem goes_distributor :
    (∀ a, Goes (execLaunchAccept a s)) ∧
    (∀ a b, Goes (execTokenApply a b s)) ∧
    (∀ a b, Goes (execTkillApply a b s)) ∧
    (∀ a, Goes (execSpawnRetry a s)) ∧
    (∀ a, Goes (execTaskCompletion a s)) ∧
    (∀ a, Goes (execAccumulatorRelease a s)) ∧
    (∀ a b, Goes (execFencePerform a b s)) := by
  unfold execLaunchAccept execTokenApply execTkillApply execSpawnRetry execTaskCompletion execAccumulatorRelease
    execFencePerform
  and_intros
  all_goals intros
  all_goals repeat' first | with_reducible exact goes_next _ | (extract_lets; split) | split

/-- The steps of binding, suspension and waking (R35, R36, R362 to R370). -/
theorem goes_scheduling :
    (∀ a, Goes (execTaskAging a s)) ∧
    (∀ a, Goes (execContextSuspend a s)) ∧
    (∀ a, Goes (execTaskWake a s)) ∧
    (∀ a, Goes (execWakeTimeout a s)) ∧
    (∀ a, Goes (execWatchdogExpiry a s)) ∧
    (∀ a, Goes (execIdleWake a s)) ∧
    (∀ a, Goes (execPreemptSave a s)) ∧
    (∀ a, Goes (execTimeSliceExpiry a s)) ∧
    (∀ a b, Goes (execDrainSlotFree a b s)) ∧
    (∀ a b, Goes (execDpreempt a b s)) ∧
    (∀ a b, Goes (execDrepriop a b s)) := by
  unfold execTaskAging execContextSuspend execTaskWake execWakeTimeout execWatchdogExpiry execIdleWake execPreemptSave
    execTimeSliceExpiry execDrainSlotFree execDpreempt execDrepriop
  and_intros
  all_goals intros
  all_goals repeat' first | with_reducible exact goes_next _ | (extract_lets; split) | split

/-- The steps of blocks of a context (R29, R33, R62). -/
theorem goes_blocks :
    (∀ a b, Goes (execBlockMap a b s)) ∧
    (∀ a, Goes (execBlockCommit a s)) ∧
    (∀ a, Goes (execTrapTaken a s)) ∧
    (∀ a, Goes (execDebugHalt a s)) := by
  unfold execBlockMap execBlockCommit execTrapTaken execDebugHalt
  and_intros
  all_goals intros
  all_goals repeat' first | with_reducible exact goes_next _ | (extract_lets; split) | split

/-- The steps of writes, atomics and monitors at their homes (R192 to R208). -/
theorem goes_homes :
    (∀ a, Goes (execWritePerform a s)) ∧
    (∀ a b, Goes (execAtomicPerform a b s)) ∧
    (∀ a b, Goes (execMonitorWrite a b s)) ∧
    (∀ a b, Goes (execMonitorPoll a b s)) ∧
    (∀ a, Goes (execQinitHome a s)) ∧
    (∀ a, Goes (execBarrierArrival a s)) := by
  unfold execWritePerform execAtomicPerform execMonitorWrite execMonitorPoll execQinitHome execBarrierArrival
  and_intros
  all_goals intros
  all_goals repeat' first | with_reducible exact goes_next _ | (extract_lets; split) | split

/-- The steps of teardown, placement and splits (R371 to R373). -/
theorem goes_control :
    (∀ a b, Goes (execDteardown a b s)) ∧
    (∀ a b, Goes (execTeardownComplete a b s)) ∧
    (∀ a b, Goes (execDplace a b s)) ∧
    (∀ a, Goes (execDsplitApply a s)) := by
  unfold execDteardown execTeardownComplete execDplace execDsplitApply
  and_intros
  all_goals intros
  all_goals repeat' first | with_reducible exact goes_next _ | (extract_lets; split) | split

/-- The steps of the engines (R275 to R283, R330 to R347). -/
theorem goes_engines :
    (∀ a b, Goes (execChainRecord a b s)) ∧
    (∀ a b, Goes (execGatherScatterExecute a b s)) ∧
    (∀ a b, Goes (execXredExecute a b s)) ∧
    (∀ a b, Goes (execXiredExecute a b s)) ∧
    (∀ a b, Goes (execXpklExecute a b s)) ∧
    (∀ a, Goes (execPklQueryScore a s)) ∧
    (∀ a b, Goes (execDiscardExecute a b s)) ∧
    (∀ a b, Goes (execPageDeath a b s)) ∧
    (∀ a, Goes (execEngineCommandFinish a s)) := by
  unfold execChainRecord execGatherScatterExecute execXredExecute execXiredExecute execXpklExecute execPklQueryScore
    execDiscardExecute execPageDeath execEngineCommandFinish
  and_intros
  all_goals intros
  all_goals repeat' first | with_reducible exact goes_next _ | (extract_lets; split) | split

/-- The steps of the matrix arrays (R257 to R268). -/
theorem goes_arrays :
    (∀ a, Goes (execPmaStart a s)) ∧
    (∀ a, Goes (execMmaStreamStep a s)) ∧
    (∀ a, Goes (execPmaComplete a s)) := by
  unfold execPmaStart execMmaStreamStep execPmaComplete
  and_intros
  all_goals intros
  all_goals repeat' first | with_reducible exact goes_next _ | (extract_lets; split) | split

/-- The steps of the network (R426 to R429). -/
theorem goes_network :
    (∀ a, Goes (execNetworkPacketSend a s)) ∧
    (∀ a b bs c, Goes (execNetworkAck a b bs c s)) ∧
    (∀ a, Goes (execPacketRetransmit a s)) ∧
    (∀ a, Goes (execDestinationTimeout a s)) ∧
    (∀ op, Goes (execNetworkArrival op s)) := by
  unfold execNetworkPacketSend execNetworkAck execPacketRetransmit execDestinationTimeout execNetworkArrival
  and_intros
  all_goals intros
  all_goals repeat' first | with_reducible exact goes_next _ | (extract_lets; split) | split

/-- The steps of the fabric's commands (R320 to R327). -/
theorem goes_fabricCommands :
    (∀ a b, Goes (execGcfgApply a b s)) ∧
    (∀ a b, Goes (execGreconfApply a b s)) ∧
    (∀ a b c, Goes (execReconfToken a b c s)) ∧
    (∀ a b c, Goes (execGargApply a b c s)) ∧
    (∀ a b c, Goes (execGsendArrival a b c s)) ∧
    (∀ a b c, Goes (execGrecvDeliver a b c s)) ∧
    (∀ a b, Goes (execGdrainComplete a b s)) ∧
    (∀ a b, Goes (execGdrainArrival a b s)) := by
  unfold execGcfgApply execGreconfApply execReconfToken execGargApply execGsendArrival execGrecvDeliver
    execGdrainComplete execGdrainArrival
  and_intros
  all_goals intros
  all_goals repeat' first | with_reducible exact goes_next _ | (extract_lets; split) | split

/-- The steps of the fabric's operators (R310 to R319). -/
theorem goes_fabricOperators :
    (∀ a b c, Goes (execSrcRound a b c s)) ∧
    (∀ a b c, Goes (execExqToken a b c s)) ∧
    (∀ a b c, Goes (execExqTimer a b c s)) ∧
    (∀ a b c, Goes (execExqRetry a b c s)) := by
  unfold execSrcRound execExqToken execExqTimer execExqRetry
  and_intros
  all_goals intros
  all_goals repeat' first | with_reducible exact goes_next _ | (extract_lets; split) | split

/-- The steps of the fault queue, eviction and scrubbing (R383 to R394). -/
theorem goes_faults :
    (∀ a v, Goes (execFqanswer a v s)) ∧
    (∀ a v, Goes (execFqheadWrite a v s)) ∧
    (∀ a v, Goes (execFqlostClear a v s)) ∧
    (∀ a v, Goes (execEvreq a v s)) ∧
    (∀ a, Goes (execEvictionComplete a s)) ∧
    (∀ a b c, Goes (execPatrolScrub a b c s)) ∧
    (∀ a v, Goes (execDroopcntClear a v s)) ∧
    (∀ a v, Goes (execThrotcntClear a v s)) ∧
    (∀ a v, Goes (execNetstatClear a v s)) ∧
    (∀ a v, Goes (execPintstatClear a v s)) := by
  unfold execFqanswer execFqheadWrite execFqlostClear execEvreq execEvictionComplete execPatrolScrub execDroopcntClear
    execThrotcntClear execNetstatClear execPintstatClear
  and_intros
  all_goals intros
  all_goals repeat' first | with_reducible exact goes_next _ | (extract_lets; split) | split

/-- The steps of power and thermal control (R400 to R414, R437). -/
theorem goes_power :
    (∀ x, Goes (execIntervalBoundary x s)) ∧
    (∀ a, Goes (execVfStep a s)) ∧
    (∀ a, Goes (execDroopEvent a s)) ∧
    (∀ a, Goes (execDroopRecovery a s)) ∧
    (∀ a b c, Goes (execStallSample a b c s)) ∧
    (∀ a, Goes (execGovernorAction a s)) ∧
    (∀ a, Goes (execBoostNotice a s)) ∧
    (∀ a, Goes (execBoostExpiry a s)) ∧
    Goes (execThermalShutdown s) := by
  unfold execIntervalBoundary execVfStep execDroopEvent execDroopRecovery execStallSample execGovernorAction
    execBoostNotice execBoostExpiry execThermalShutdown
  and_intros
  all_goals intros
  all_goals repeat' first | with_reducible exact goes_next _ | (extract_lets; split) | split

/-- The steps of management, security and reset (R424 to R436). -/
theorem goes_management :
    (∀ q, Goes (execIdeKeySetup q s)) ∧
    (∀ q st, Goes (execTdispStateChange q st s)) ∧
    (∀ q nonce, Goes (execAttestationReport q nonce s)) ∧
    (∀ v w, Goes (execPartcfg v w s)) ∧
    (∀ v w key, Goes (execNetcfg v w key s)) ∧
    (∀ v w, Goes (execDbgen v w s)) ∧
    (∀ v w, Goes (execDbgresume v w s)) ∧
    (∀ v w, Goes (execFwstage v w s)) ∧
    Goes (execFwapply s) ∧
    Goes (execMgmtreset s) ∧
    Goes (execPackageReset s) ∧
    (∀ q, Goes (execPartitionReset q s)) ∧
    Goes (execManagementFlr s) ∧
    Goes (execBootSequence s) := by
  unfold execIdeKeySetup execTdispStateChange execAttestationReport execPartcfg execNetcfg execDbgen execDbgresume
    execFwstage execFwapply execMgmtreset execPackageReset execPartitionReset execManagementFlr execBootSequence
  and_intros
  all_goals intros
  all_goals repeat' first | with_reducible exact goes_next _ | (extract_lets; split) | split

/-! The arms with a helper of their own. -/

/-- A task whose lease meets an absent page asks for it, and goes on whatever the answer. -/
theorem goes_askPage {u a x : Nat} {t : Task} : Goes (match
      s.request t.part { cause := 7, graph := t.graph, addr := a, task := t.frame, item := x } (.lease u a x) with
      | (s, .waiting n) => .next (s.modTask u fun t => { t with phase := .firing (some n) })
      | (s, .failed) => .next (s.leaseFail u 7 a x)) := by
  split
  · exact goes_next _
  · exact goes_next _
/-- A step that turns on the test of a lease goes on where each of its outcomes does. -/
theorem goes_leaseRes {r : LeaseRes LeaseSet} {f : Nat → Nat → Nat → Res} {g : Nat → Nat → Res} {h : LeaseSet → Res}
    (hf : ∀ c a i, Goes (f c a i)) (hg : ∀ a i, Goes (g a i)) (hh : ∀ x, Goes (h x)) : Goes (match r with
      | .fail c a i => f c a i
      | .absent a i => g a i
      | .ok x => h x) := by
  cases r with
  | fail c a i => exact hf c a i
  | absent a i => exact hg a i
  | ok x => exact hh x

/-- The same of a save slot. -/
theorem goes_slotRes {r : LeaseRes (Nat × State)} {f : Nat → Nat → Nat → Res} {g : Nat → Nat → Res} {h : Nat → State → Res}
    (hf : ∀ c a i, Goes (f c a i)) (hg : ∀ a i, Goes (g a i)) (hh : ∀ x t, Goes (h x t)) : Goes (match r with
      | .fail c a i => f c a i
      | .absent a i => g a i
      | .ok (x, t) => h x t) := by
  cases r with
  | fail c a i => exact hf c a i
  | absent a i => exact hg a i
  | ok x => exact hh x.1 x.2

theorem goes_leaseEstablish {u : Nat} : Goes (execLeaseEstablish u s) := by
  unfold execLeaseEstablish
  split
  · exact goes_next _
  · split
    · exact goes_next _
    · refine goes_leaseRes ?_ ?_ ?_
      · exact fun _ _ _ => goes_next _
      · intro a i
        exact goes_askPage
      · exact fun _ => goes_next _

theorem goes_taskBind {b : Nat} : Goes (execTaskBind b s) := by
  unfold execTaskBind
  extract_lets
  split
  · exact goes_next _
  · split
    · exact goes_next _
    · split
      · exact goes_next _
      · extract_lets
        refine goes_slotRes ?_ ?_ ?_
        · exact fun _ _ _ => goes_next _
        · intro a i
          exact goes_askPage
        · exact fun _ _ => goes_next _

theorem goes_copyExecute {b ch n : Nat} : Goes (execCopyExecute b ch n s) := by
  unfold execCopyExecute
  split
  · exact goes_next _
  · extract_lets go
    have hgo : ∀ jb fill, Goes (go jb fill) := fun jb fill => by
      show Goes (match State.jobRun _ _ _ _ _ with | (s, true) => _ | (s, false) => _)
      split <;> exact goes_next _
    split
    · exact hgo _ _
    · exact hgo _ _
    · split
      · exact goes_next _
      · split
        · exact goes_next _
        · split <;> exact goes_next _
    · exact goes_next _

theorem goes_opStep {k : OpId} {kind : Nat} {act : State → GEntry → BitVec 512 → BitVec 16 → Bool → State} :
    Goes (s.opStep k kind act) := by
  unfold State.opStep
  split <;> exact goes_next _

theorem goes_tokens :
    (∀ d c op, Goes (execMapToken d c op s)) ∧ (∀ d c op, Goes (execFiltToken d c op s)) ∧
    (∀ d c op, Goes (execCoalToken d c op s)) ∧ (∀ d c op, Goes (execPartToken d c op s)) ∧
    (∀ d c op, Goes (execGathToken d c op s)) ∧ (∀ d c op, Goes (execScatToken d c op s)) ∧
    (∀ d c op, Goes (execSredToken d c op s)) := by
  unfold execMapToken execFiltToken execCoalToken execPartToken execGathToken execScatToken execSredToken
  and_intros
  all_goals exact fun _ _ _ => goes_opStep

theorem goes_snkToken {d c op : Nat} : Goes (execSnkToken d c op s) := by
  unfold execSnkToken
  extract_lets
  split
  · split <;> exact goes_next _
  · exact goes_opStep

theorem goes_isectToken {d c op : Nat} : Goes (execIsectToken d c op s) := by
  unfold execIsectToken
  extract_lets _ _ _ _ pick
  split
  · exact goes_next _
  · clear_value pick
    split
    · exact goes_next _
    · split <;> exact goes_next _

theorem goes_configFetch {d c op : Nat} : Goes (execConfigFetch d c op s) := by
  unfold execConfigFetch
  extract_lets k o held take oldest
  split
  · exact goes_next _
  · split
    · exact goes_next _
    · clear_value oldest
      split <;> exact goes_next _

theorem goes_launchWrite {q off : Nat} {data : List Byte} : Goes (s.launchWrite q off data) := by
  unfold State.launchWrite
  repeat' first | with_reducible exact goes_next _ | (extract_lets; split) | split

theorem goes_qfillHome {n : Nat} : Goes (execQfillHome n s) := by
  unfold execQfillHome
  split
  · exact goes_next _
  · split
    · split
      · exact goes_next _
      · extract_lets
        split
        extract_lets _ bad
        clear_value bad
        split
        · exact goes_next _
        · split <;> exact goes_next _
    · exact goes_next _

theorem goes_windowWrite {q off : Nat} {v : Word} : Goes (s.windowWrite q off v) := by
  unfold State.windowWrite
  split
  · exact goes_next _
  · split
    · exact goes_launchWrite
    · split
      · split
        · exact goes_next _
        · split
          · simp only [goes_scheduling]
          · simp only [goes_scheduling]
          · simp only [goes_control]
          · split
            · exact goes_next _
            · simp only [goes_control]
          · exact goes_next _
      · split
        · exact goes_next _
        · simp only [goes_faults]
        · simp only [goes_faults]
        · simp only [goes_faults]
        · simp only [goes_faults]
        · simp only [goes_faults]
        · simp only [goes_faults]
        · simp only [goes_faults]
        · simp only [goes_faults]
        · exact goes_next _

theorem goes_mailboxCommand {n : Nat} : Goes (s.mailboxCommand n) := by
  unfold State.mailboxCommand
  split
  case h_2 => exact goes_next _
  case h_8 => exact goes_next _
  all_goals simp only [goes_management]

theorem goes_regWrite {q off : Nat} {v : Word} : Goes (s.regWrite q off v) := by
  unfold State.regWrite
  split
  · unfold State.mailboxWrite
    split
    · exact goes_next _
    · split
      · exact goes_mailboxCommand
      all_goals exact goes_next _
  · exact goes_windowWrite

theorem goes_accept {r : HostReq} : Goes (s.accept r) := by
  cases r with
  | regWrite q off val => exact goes_regWrite
  | launchWrite q off data => exact goes_launchWrite
  | memWrite | jobKey | hostWrite | stream | cfgWrite => exact goes_next _
  | memRead q a n =>
    simp only [State.accept]
    split
    · exact goes_next _
    · split
      · exact goes_next _
      · exact goes_next _
  | regRead q off =>
    simp only [State.accept]
    split
    · exact goes_next _
    · split
      · exact goes_next _
      · exact goes_next _
  | cfgRead q off =>
    simp only [State.accept]
    split
    · exact goes_next _
    · exact goes_next _

theorem goes_host :
    (∀ q off v, Goes (execRegisterWrite q off v s)) ∧
    (∀ q off data, Goes (execLaunchWindowWrite q off data s)) ∧
    (∀ r, Goes (execHostMemoryAccess r s)) := by
  refine ⟨fun q off v => ?_, fun q off data => ?_, fun r => ?_⟩
  · unfold execRegisterWrite
    split
    · exact goes_regWrite
    · exact goes_next _
  · unfold execLaunchWindowWrite
    split
    · exact goes_launchWrite
    · exact goes_next _
  · unfold execHostMemoryAccess
    split
    · split
      · exact goes_accept
      · exact goes_next _
    · split
      · exact goes_accept
      · exact goes_next _

/-! Every instruction, every step. -/

theorem exec_event_goes (i : Instr) (h : i.encodes = false) : Goes (exec i s) := by
  cases i with
  | launchWindowWrite | launchAccept | tokenApply | tkillApply | spawnRetry | leaseEstablish | taskBind | taskAging |
    blockMap | blockCommit | trapTaken | contextSuspend | taskWake | wakeTimeout | watchdogExpiry | taskCompletion |
    accumulatorRelease | idleWake | debugHalt | writePerform | atomicPerform | monitorWrite | monitorPoll |
    fencePerform | qfillHome | qinitHome | barrierArrival | copyExecute | chainRecord | gatherScatterExecute |
    xredExecute | xiredExecute | xpklExecute | pklQueryScore | discardExecute | pageDeath | engineCommandFinish |
    pmaStart | mmaStreamStep | pmaComplete | networkPacketSend | networkAck | packetRetransmit | destinationTimeout |
    networkArrival | gcfgApply | greconfApply | reconfToken | gargApply | gsendArrival | grecvDeliver | gdrainComplete
    | configFetch | srcRound | snkToken | mapToken | filtToken | coalToken | partToken | gathToken | scatToken |
    sredToken | exqToken | isectToken | exqTimer | exqRetry | dpreempt | preemptSave | drepriop |
    dteardown | teardownComplete | dplace | dsplitApply | timeSliceExpiry | drainSlotFree | registerWrite | fqanswer |
    fqheadWrite | fqlostClear | evreq | evictionComplete | patrolScrub | intervalBoundary | vfStep | droopEvent |
    droopRecovery | stallSample | governorAction | boostNotice | boostExpiry | thermalShutdown | droopcntClear |
    throtcntClear | netstatClear | pintstatClear | hostMemoryAccess | ideKeySetup | tdispStateChange |
    attestationReport | partcfg | netcfg | dbgen | dbgresume | fwstage | fwapply | mgmtreset | packageReset |
    partitionReset | managementFlr | bootSequence | gdrainArrival =>
    simp only [exec, goes_distributor, goes_scheduling, goes_blocks, goes_homes, goes_control, goes_engines,
      goes_arrays, goes_network, goes_fabricCommands, goes_fabricOperators, goes_faults, goes_power, goes_management,
      goes_leaseEstablish, goes_taskBind, goes_snkToken, goes_isectToken, goes_copyExecute, goes_configFetch,
      goes_tokens, goes_qfillHome, goes_host]
  | _ => exact absurd h.symm Bool.false_ne_true

theorem exec_goes (i : Instr) : Goes (exec i s) := by
  cases h : i.encodes with
  | false => exact exec_event_goes i h
  | true =>
    obtain ⟨act, e⟩ := exec_fireG i h
    rw [e]
    unfold fireG
    repeat' split
    all_goals exact goes_next _

theorem fireAt_goes {f : Focus} : Goes (fireAt f s) := by
  unfold fireAt
  split
  · exact goes_next _
  · exact exec_goes _

theorem runMove_goes {m : Move} : Goes (runMove m s) := by
  cases m with
  | fire f => exact fireAt_goes
  | event i =>
    simp only [runMove]
    split
    · exact goes_next _
    · exact exec_goes i
  | tick n => exact goes_next _

theorem tryFires_goes {last : Act} (hl : ∀ s, Goes (last s)) (fs : List Focus) (s : State) : Goes (tryFires last fs s) := by
  induction fs with
  | nil => exact hl s
  | cons f fs ih =>
    obtain ⟨t, e⟩ := fireAt_goes (f := f) (s := s)
    simp only [tryFires, e]
    split
    · exact goes_next _
    · exact ih

/-! The lists of the default order. -/

/-- Every step of a list goes on, from every state. -/
def AllGo (es : List Act) : Prop := ∀ e ∈ es, ∀ s, Goes (e s)

section
variable {es fs : List Act} {a : Act}
@[simp] theorem allGo_nil : AllGo [] := by simp [AllGo]
@[simp] theorem allGo_cons : AllGo (a :: es) ↔ (∀ s, Goes (a s)) ∧ AllGo es := List.forall_mem_cons
@[simp] theorem allGo_append : AllGo (es ++ fs) ↔ AllGo es ∧ AllGo fs := List.forall_mem_append
@[simp] theorem allGo_map {α : Type} {l : List α} {g : α → Act} : AllGo (l.map g) ↔ ∀ x ∈ l, ∀ s, Goes (g x s) :=
  List.forall_mem_map
@[simp] theorem allGo_flatMap {α : Type} {l : List α} {g : α → List Act} : AllGo (l.flatMap g) ↔ ∀ x ∈ l, AllGo (g x) := by
  simp only [AllGo, List.mem_flatMap]
  exact ⟨fun h x hx e he => h e ⟨x, hx, he⟩, fun h e ⟨x, hx, he⟩ => h x hx e he⟩

theorem allGo_rotated {n : Nat} (h : AllGo es) : AllGo (rotated n es) := by
  intro e he
  rw [rotated, List.mem_append] at he
  exact h e (he.elim List.mem_of_mem_drop List.mem_of_mem_take)
end

theorem tryEvents_goes {last : Act} (hl : ∀ s, Goes (last s)) {es : List Act} (he : AllGo es) (s : State) :
    Goes (tryEvents last es s) := by
  induction es with
  | nil => exact hl s
  | cons a es ih =>
    obtain ⟨ha, hes⟩ := allGo_cons.1 he
    obtain ⟨t, e⟩ := ha s
    simp only [tryEvents, e]
    split
    · exact goes_next _
    · exact ih hes

theorem ctxEvents_go {c : Nat} : AllGo (s.ctxEvents c) := by
  unfold State.ctxEvents
  split
  · split <;> simp [goes_homes, goes_blocks, goes_distributor, goes_scheduling]
  · simp [goes_homes, goes_blocks, goes_distributor, goes_scheduling]

theorem taskEvents_go {x : Nat × Task} : AllGo (taskEvents x) := by
  simp [taskEvents, goes_leaseEstablish, goes_distributor, goes_scheduling]

theorem brickEvents_go {x : Nat × Brick} : AllGo (brickEvents x) := by
  simp [brickEvents, goes_taskBind, goes_scheduling, goes_control, goes_arrays, goes_engines, goes_copyExecute]

theorem cmdEvents_go {x : Nat × Cmd} : AllGo (cmdEvents x) := by simp [cmdEvents, goes_engines, goes_network]

theorem opEvents_go {d c op : Nat} : AllGo (opEvents d c op) := by
  simp [opEvents, goes_fabricCommands, goes_fabricOperators, goes_tokens, goes_configFetch, goes_snkToken, goes_isectToken]

theorem dieEvents_go {x : Nat × Die} : AllGo (dieEvents x) := by
  unfold dieEvents
  dsimp only
  split <;> simp [goes_control, goes_distributor, goes_fabricCommands, opEvents_go]

theorem partEvents_go {x : Nat × Part} : AllGo (s.partEvents x) := by
  unfold State.partEvents
  dsimp only
  split <;> simp [goes_distributor, goes_faults, goes_control, goes_management]

theorem dueEvents_go : AllGo s.dueEvents := by
  simp [State.dueEvents, goes_power]

theorem defaultEvents_go : AllGo s.defaultEvents := by
  unfold State.defaultEvents
  split <;> simp [ctxEvents_go, goes_homes, goes_qfillHome, cmdEvents_go, brickEvents_go, taskEvents_go, dieEvents_go,
    partEvents_go, goes_management, courseEvents, goes_power, goes_network]

theorem timedStep_goes (s : State) : Goes (timedStep s) := by
  unfold timedStep
  extract_lets t fs es late
  have hlate : ∀ u, Goes (late u) := tryFires_goes (fun _ => runMove_goes) _
  have hes : AllGo es := allGo_rotated defaultEvents_go
  split
  · exact tryFires_goes (tryEvents_goes hlate hes) _ _
  · exact tryEvents_goes (tryFires_goes hlate _) hes _

/-- Settles O2: every arm of exec answers a next state, and the agenda and the default order only choose among them. -/
theorem everyStepGoesOn : Obligations.EveryStepGoesOn := by
  intro s
  unfold step
  split
  · exact runMove_goes
  · unfold defaultStep
    split
    · exact goes_next _
    · exact tryEvents_goes timedStep_goes dueEvents_go _

end Sys2Proof.Proofs
end

section
/-!
SUPPORT. Two states that refute a statement, over tables that map the low 32 MiB of a partition (18 R374): what discarding a
block gives back can reach a pending write, and the priority of a graph (17 R353, R371).
-/

namespace Sys2Proof.Proofs

open Sys2Proof Sys2Proof.Machine Sys2Proof.Safety Sys2Proof.Laws

/-- Partition 0 owns pier 0, and its tables map the flat addresses below 32 MiB to the device's second 32 MiB. -/
def mappedLow : State :=
  { State.reset with
    dram := [(0x1000, 0x19), (0x1002, 0x01), (0x10000, 0x19), (0x10002, 0x02), (0x20000, 0x9D), (0x20003, 0x02)]
    piers := [(0, { Pier.reset with owner := some 0 })]
    parts := [(0, { Part.reset with xlctrl := 1, xlroot := 0x1000 })] }

/-- A class with no slots and no spill area. -/
def bareClass : ClassDesc :=
  { addr := 0, entry := 0, spill := 0, spillSize := 0, kinds := [], prio := 1, placement := 0, accUnits := 0, noSteal := false,
    longWait := false, counts := [], lease := 0, stamp := 0, cont := 0 }

/-- A task of that class and of a graph. -/
def bareTask (graph : Word) (phase : Phase) : Task :=
  { taskOfFrame 1 0 0 (newFrame bareClass graph 0 (.tag 0) 0 0 0) none 0 with phase := phase }

/-- A block with no instruction. -/
def bareBlk (hdr : List Word32) : Blk := newBlk 0 1 0 0 hdr []

/-! A commit whose successor is not the next block discards it, and with it a spill record: its VALID bit is cleared at home,
after the die cache's writes of those bytes (R288, R353). -/

/-- The die cache's write of the VALID bit of the first spill record at address 0. -/
def cachedValid : Write :=
  { id := 1, uid := 0, ord := 0, die := 0, brick := 0, loc := ⟨.dram, 0x2000018⟩, bytes := [1, 1, 1, 1], cached := true,
    cmd := 0, rel := none, deps := [], flat := 0, pte := 0, trk := [], part := 0 }

/-- A block that goes on at address 64. -/
def leavingBlk : Blk := { bareBlk [] with exit := some (.to 0 64) }

/-- Before its commit, with a younger block at another address that has reserved that spill record. -/
def beforeCommit : State :=
  { mappedLow with
    writes := [cachedValid]
    ctxs := [(0, { Ctx.reset with uid := 1, blks := [leavingBlk, { bareBlk [] with resv := [⟨0, 0, 5, .spill 0 0⟩] }] })]
    tasks := [(1, bareTask 5 (.bound 0))] }

theorem commits_leavingBlk : Commits beforeCommit 0 leavingBlk (bareTask 5 (.bound 0)) (.to 0 64) where
  blk := rfl
  task := rfl
  uid := rfl
  live := rfl
  quiet := rfl
  settled := by decide
  owes := by decide
  exit := rfl
  fills := rfl
  whole := rfl
  adds := rfl
  drops := rfl

/-- The pending write has gone home with the commit. -/
theorem writes_after_leavingBlk {u : State} (h : exec (.blockCommit 0) beforeCommit = .next u) : u.writes = [] := by
  have e : (match exec (.blockCommit 0) beforeCommit with
    | .next u => u.writes
    | _ => [cachedValid]) = [] := by decide
  rw [h] at e
  exact e

/-- Refutes O36: a commit that discards a younger block gives back the spill record reserved there, which sends home a die
cache's write of the record's VALID bit; what was pending before the commit is then no longer pending. -/
theorem not_commitMakesABlocksWritesVisible : ¬ Obligations.CommitMakesABlocksWritesVisible := by
  unfold Obligations.CommitMakesABlocksWritesVisible
  intro h
  obtain ⟨-, -, -, goesOn, -⟩ := h beforeCommit 0 leavingBlk (bareTask 5 (.bound 0)) commits_leavingBlk.toOldest
  obtain ⟨u, hu, -, -, -, -, -, -, -, -, -, -, -, -, -, -, -, -, -, -, ⟨new, hnew, -⟩, -⟩ :=
    goesOn 0 64 commits_leavingBlk rfl
  rw [writes_after_leavingBlk hu] at hnew
  exact absurd hnew (by simp [beforeCommit])

/-! A save discards the blocks of the context: a pool record given back goes to a spilled frame, and where that frame's own
record is poisoned, it is lost and the graphs of its partition that are no longer live lose their priority (R353, R371, R392). -/

/-- A spilled frame of another graph, whose record stands at address 0. -/
def spilledFrame : Frame := newFrame bareClass 7 0 (.spill 0 0) 0 0 0

/-- A task of graph 5, which no task or frame keeps live. -/
def endedTask : Task := bareTask 5 .finished

/-- A block at a safe point (R43) that has reserved a pool record. -/
def safeBlk : Blk := { bareBlk [0x00010000#32] with resv := [⟨0, 0, 5, .tag 0⟩] }

/-- A context about to be pre-empted: graph 5 has priority 3, and the spilled frame's record is poisoned. -/
def beforeSave : State :=
  { mappedLow with
    badDram := [0x400000]
    ctxs := [(0, { Ctx.reset with uid := 1, preemptAt := some 0, blks := [safeBlk] })]
    tasks := [(1, endedTask)]
    dies := [(0, { Die.reset with frames := [(0, spilledFrame)], graphs := [(5, ⟨0, false, some 3, true⟩)] })] }

/-- The save leaves nothing on the deque of priority 3. -/
theorem dq_after_preemptSave {u : State} (h : exec (.preemptSave 0) beforeSave = .next u) : (u.brick 0).dq 3 = [] := by
  have e : (match exec (.preemptSave 0) beforeSave with
    | .next u => (u.brick 0).dq 3
    | _ => [0]) = [] := by decide +kernel
  rw [h] at e
  exact e

/-- Refutes O43: the statement lets the task bound to a context be one that no longer keeps its graph live; the save's discard
can then drop the graph's priority, and the task is pushed at its own, not at the one it had before the step. -/
theorem not_tasksSuspendWakeAndAge : ¬ Obligations.TasksSuspendWakeAndAge := by
  unfold Obligations.TasksSuspendWakeAndAge
  intro h
  obtain ⟨-, preempts, -⟩ := h.1 beforeSave 0 endedTask rfl rfl (by decide)
  obtain ⟨saves, -⟩ := preempts safeBlk [] 0 rfl rfl rfl (by decide) rfl rfl rfl rfl rfl rfl (by decide)
  obtain ⟨u, t', hu, -, -, -, -, -, -, ⟨p, hmem, hp⟩, -⟩ := saves (by decide)
  have h3 : beforeSave.pushPrio endedTask = 3 := by decide
  rw [hp, h3, show brickOfCtx 0 = 0 from rfl, dq_after_preemptSave hu] at hmem
  exact absurd hmem (by simp)

end Sys2Proof.Proofs
end

section
/-!
SUPPORT. What mapping a block does to the blocks of its context (02 R29, 03 R63).
-/

namespace Sys2Proof.Proofs

open Sys2Proof Sys2Proof.Machine Sys2Proof.Safety Sys2Proof.Laws

/-- Noting an entry leaves the blocks of every context. -/
theorem blks_noteEntry (s : State) (c c' : Nat) : ((s.noteEntry c).ctx c').blks = (s.ctx c').blks := by
  unfold State.noteEntry
  split
  · rfl
  · by_cases h : c' = c
    · subst h; rw [State.ctx_modCtx]
    · rw [State.ctx_modCtx_ne _ _ _ _ h]

/-- A block pushed stands last. -/
theorem blks_pushBlk (s : State) (c : Nat) (b : Blk) : ((s.pushBlk c b).ctx c).blks = (s.ctx c).blks ++ [b] := by
  unfold State.pushBlk
  rw [State.ctx_modCtx]
  dsimp only
  split
  · rw [blks_noteEntry]
  · rfl

theorem ctx_modTask (s : State) (u c : Nat) (g : Task → Task) : (s.modTask u g).ctx c = s.ctx c := by
  unfold State.modTask
  split <;> rfl

/-- Remembering translations leaves the contexts. -/
theorem ctxs_codeKeep (s : State) (q b fa n : Nat) : (s.codeKeep q b fa n).ctxs = s.ctxs := by
  unfold State.codeKeep
  generalize piecesOf fa n = ps
  induction ps generalizing s with
  | nil => rfl
  | cons p ps ih =>
    obtain ⟨l, h⟩ := xlate_frame s (unitOf b) q p.1 .fetch
    rw [List.foldl_cons, ih, h]

/-! The outcomes of a mapping, one by one. -/

section
variable {s : State} {c addr : Nat} {t : Task} {known : Bool}

theorem mapAt_outside (hf : (s.ctx c).fetchFail = none) (h : s.fetchBlock t.part (brickOfCtx c) t.uid addr = .outside) :
    s.mapAt c addr t known = s.pushBlk c (refusedBlk addr (t.ords + 1 + (s.ctx c).blks.length) [] (mapTrap 1 0xFF)) := by
  unfold State.mapAt
  simp [hf, h]

theorem mapAt_poison {a : Nat} (hf : (s.ctx c).fetchFail = none)
    (h : s.fetchBlock t.part (brickOfCtx c) t.uid addr = .poison a) : s.mapAt c addr t known =
      s.pushBlk c (refusedBlk addr (t.ords + 1 + (s.ctx c).blks.length) [] ⟨0x0F, BitVec.ofNat 64 a, none, none⟩) := by
  unfold State.mapAt
  simp [hf, h]

theorem mapAt_bad {hdr body : List Word32} {code n : Nat} (hf : (s.ctx c).fetchFail = none)
    (h : s.fetchBlock t.part (brickOfCtx c) t.uid addr = .ok hdr body)
    (hc : mapCheck (naccOf (s.ctx c).poolsplit) hdr body = some (code, n)) : s.mapAt c addr t known =
      s.pushBlk c (refusedBlk addr (t.ords + 1 + (s.ctx c).blks.length) hdr (mapTrap code n)) := by
  unfold State.mapAt
  simp [hf, h, hc]

/-- A block that passes its checks stands last in its context. -/
theorem blks_mapAt_ok {hdr body : List Word32} (hf : (s.ctx c).fetchFail = none)
    (h : s.fetchBlock t.part (brickOfCtx c) t.uid addr = .ok hdr body)
    (hc : mapCheck (naccOf (s.ctx c).poolsplit) hdr body = none) : ((s.mapAt c addr t known).ctx c).blks = (s.ctx c).blks ++
      [newBlk addr (t.ords + 1 + (s.ctx c).blks.length) t.fenceNewest (s.part t.part).tileroot hdr body] := by
  unfold State.mapAt
  simp only [hf, h, hc, reduceCtorEq, if_false]
  rw [ctx_modTask, blks_pushBlk]
  simp only [State.ctx, ctxs_codeKeep]

theorem mapAt_absent_unknown {a : Nat} (hf : (s.ctx c).fetchFail = none)
    (h : s.fetchBlock t.part (brickOfCtx c) t.uid addr = .absent a) : s.mapAt c addr t false = s := by
  unfold State.mapAt
  simp [hf, h]

/-- With the fault queue full, a residency request waits under the partition's sequence number (R389). -/
theorem request_full {q : Nat} {r : FaultRec} {w : Waiter} (h : (s.part q).fqFull = true) :
    ∃ u, s.request q r w = (u, .waiting (s.part q).seq) ∧ u.ctxs = s.ctxs := by
  unfold State.request
  simp only [h, Bool.true_or, if_true]
  exact ⟨_, rfl, rfl⟩

/-- A page of the next block that is not resident is asked for, and the context waits for it (R388). -/
theorem mapAt_absent_full {a : Nat} (hf : (s.ctx c).fetchFail = none)
    (h : s.fetchBlock t.part (brickOfCtx c) t.uid addr = .absent a) (hq : (s.part t.part).fqFull = true) :
    ((s.mapAt c addr t true).ctx c).fetchWait = some ((s.part t.part).seq, addr) ∧
      ((s.mapAt c addr t true).ctx c).blks = (s.ctx c).blks := by
  obtain ⟨u, hu, hx⟩ := request_full (r := s.ctxRec c { cause := 7, blk := addr, addr := a }) (w := .fetch c) hq
  unfold State.mapAt
  simp only [hf, h, hu, reduceCtorEq, if_false, Bool.not_true, Bool.false_eq_true]
  rw [State.ctx_modCtx]
  exact ⟨rfl, by simp only [State.ctx, hx]⟩

end

/-- Settles O39: a mapping goes through the one outcome that the fetch and the checks of its words name. -/
theorem blocksAreCheckedWhenTheyAreMapped : Obligations.BlocksAreCheckedWhenTheyAreMapped := by
  unfold Obligations.BlocksAreCheckedWhenTheyAreMapped
  intro s c addr t ht
  dsimp only
  refine ⟨fun hm => ?_, fun hm hw hf hn => ?_⟩
  · simp [exec, execBlockMap, ht, hm]
  · have hexec : ∃ known, (known = true ↔ (s.ctx c).nextAddr.isSome) ∧
        exec (.blockMap c addr) s = .next (s.mapAt c addr t known) := by
      simp only [exec, execBlockMap, ht, hm, hw, Bool.not_true, Bool.or_self, Bool.false_eq_true, if_false]
      cases hx : (s.ctx c).nextAddr with
      | none => exact ⟨false, by simp, rfl⟩
      | some a => exact ⟨true, by simp, by simp [hn a hx]⟩
    obtain ⟨known, hk, he⟩ := hexec
    have refused : ∀ {h : List Word32} {r : TrapRec},
        s.mapAt c addr t known = s.pushBlk c (refusedBlk addr (t.ords + 1 + (s.ctx c).blks.length) h r) →
        ∃ h, ∃ u, exec (.blockMap c addr) s = .next u ∧
          (u.ctx c).blks = (s.ctx c).blks ++ [refusedBlk addr (t.ords + 1 + (s.ctx c).blks.length) h r] :=
      fun e => ⟨_, _, he.trans (congrArg _ e), blks_pushBlk _ _ _⟩
    refine ⟨fun hdr body hb => ⟨fun hc => ⟨_, he, blks_mapAt_ok hf hb hc⟩, fun code n hc => refused (mapAt_bad hf hb hc)⟩,
      fun hb => refused (mapAt_outside hf hb), fun a hb => refused (mapAt_poison hf hb), fun a hb => ⟨fun hx => ?_, fun hx hq => ?_⟩⟩
    · have : known = false := by simpa [hx] using hk
      rw [he, this, mapAt_absent_unknown hf hb]
    · have : known = true := by simpa [hx] using hk
      subst this
      exact ⟨_, he, mapAt_absent_full hf hb hq⟩

end Sys2Proof.Proofs
end

section
/-!
SUPPORT. What the bookkeeping beside a context leaves alone: Beside for frame records given back, power tokens, fault records
and the graphs' marks; Aside for those of them that keep what the dies hold of frames and messages. One lemma an operation,
each from the relation up to the operation to the relation after it.
-/

namespace Sys2Proof.Proofs

open Sys2Proof Sys2Proof.Machine Sys2Proof.Safety Sys2Proof.Laws

/-- The contexts, the tasks that exist, the next task's number and the launch queues are as before. -/
structure Beside (s t : State) : Prop where
  ctxs : t.ctxs = s.ctxs
  tasks : ∀ u, (t.task? u).isSome = (s.task? u).isSome
  nextUid : t.nextUid = s.nextUid
  queue : ∀ q, (t.part q).queue = (s.part q).queue

/-- And the dies but for their graphs. -/
structure Aside (s t : State) : Prop extends Beside s t where
  dies : ∀ d, ∃ g, t.die d = { s.die d with graphs := g }

variable {s t u : State}

theorem Beside.refl : Beside s s := ⟨rfl, fun _ => rfl, rfl, fun _ => rfl⟩
theorem Aside.refl : Aside s s := ⟨.refl, fun _ => ⟨_, rfl⟩⟩

theorem Beside.trans (h : Beside s t) (h' : Beside t u) : Beside s u :=
  ⟨h'.ctxs.trans h.ctxs, fun v => (h'.tasks v).trans (h.tasks v), h'.nextUid.trans h.nextUid, fun q => (h'.queue q).trans (h.queue q)⟩
theorem Aside.trans (h : Aside s t) (h' : Aside t u) : Aside s u :=
  ⟨h.toBeside.trans h'.toBeside, fun d => by
    obtain ⟨g, e⟩ := h.dies d
    obtain ⟨g', e'⟩ := h'.dies d
    exact ⟨g', by rw [e', e]⟩⟩

theorem Beside.ctx (h : Beside s t) (c : Nat) : t.ctx c = s.ctx c := by simp only [State.ctx, h.ctxs]
theorem Aside.frames (h : Aside s t) (d : Nat) : (t.die d).frames = (s.die d).frames := by
  obtain ⟨g, e⟩ := h.dies d
  rw [e]
theorem Aside.inbox (h : Aside s t) (d : Nat) : (t.die d).inbox = (s.die d).inbox := by
  obtain ⟨g, e⟩ := h.dies d
  rw [e]

theorem task?_modTask_isSome (s : State) (u v : Nat) (g : Task → Task) :
    ((s.modTask u g).task? v).isSome = (s.task? v).isSome := by
  unfold State.modTask
  split
  · next x hx =>
    by_cases e : v = u
    · subst e; rw [State.task?_setTask, hx]; rfl
    · rw [State.task?_setTask_ne _ _ _ _ e]
  · rfl

theorem MemOnly.aside (h : MemOnly s t) : Aside s t where
  ctxs := h.ctxs
  tasks v := by
    obtain ⟨w, e⟩ := h.tasks v
    rw [e, Option.isSome_map]
  nextUid := h.nextUid
  queue q := by
    obtain ⟨l, e⟩ := h.parts q
    rw [e]
  dies d := ⟨(s.die d).graphs, by simp only [State.die, h.dies]⟩

theorem queue_setPart {s : State} {q : Nat} {p : Part} (hp : p.queue = (s.part q).queue) (q' : Nat) :
    ((s.setPart q p).part q').queue = (s.part q').queue := by
  by_cases e : q' = q
  · subst e; rw [State.part_setPart, hp]
  · rw [State.part_setPart_ne _ _ _ _ e]

/-- The sequence number after one (R389). -/
def nextSeq (n : Nat) : Nat := if n + 1 = 2 ^ 32 then 0 else n + 1

/-- The state a report leaves: the sequence number goes on, and the record is lost or put into the queue (R389). -/
theorem report_fst (s : State) (q : Nat) (r : FaultRec) : (s.report q r).1 =
    if (s.part q).fqFull then (s.setPart q { s.part q with seq := nextSeq (s.part q).seq }).modPart q Part.lose
    else ((s.setPart q { s.part q with seq := nextSeq (s.part q).seq }).putRecord q (r.bytes (s.part q).seq q)).1 := by
  unfold State.report
  extract_lets p s1
  have e : s.setPart q { s.part q with seq := nextSeq (s.part q).seq } = s1 := rfl
  have ep : s.part q = p := rfl
  rw [e, ep]
  clear_value s1
  split
  · rfl
  · cases s1.putRecord q (r.bytes p.seq q)
    rfl

/-! The operations that Beside allows. -/

section
variable (h : Beside s t)
include h

theorem Beside.modTask {v : Nat} {g : Task → Task} : Beside s (t.modTask v g) :=
  h.trans ⟨by unfold State.modTask; split <;> rfl, fun w => task?_modTask_isSome t v w g, by unfold State.modTask; split <;> rfl,
    fun q => by unfold State.modTask; split <;> rfl⟩
theorem Beside.modDie {d : Nat} {g : Die → Die} : Beside s (t.modDie d g) := h.trans ⟨rfl, fun _ => rfl, rfl, fun _ => rfl⟩
theorem Beside.modBrick {b : Nat} {g : Brick → Brick} : Beside s (t.modBrick b g) := h.trans ⟨rfl, fun _ => rfl, rfl, fun _ => rfl⟩

theorem Beside.aside (h' : Aside t u) : Beside s u := h.trans h'.toBeside
end

theorem Beside.foldl {α : Type} {g : State → α → State} (l : List α) (h : Beside s t)
    (hg : ∀ u a, Beside s u → Beside s (g u a)) : Beside s (l.foldl g t) := by
  induction l generalizing t with
  | nil => exact h
  | cons a l ih => exact ih (hg _ _ h)

theorem Beside.fillBricks (bs : List Nat) (n : Nat) (h : Beside s t) : Beside s (t.fillBricks n bs).1 := by
  induction bs generalizing t n with
  | nil => exact h
  | cons b bs ih =>
    unfold State.fillBricks
    split
    · exact h
    · dsimp only
      split
      · exact ih _ h
      · exact ih _ h.modBrick

theorem Beside.giveTokens (h : Beside s t) {b n : Nat} : Beside s (t.giveTokens b n) := by
  unfold State.giveTokens
  split
  · exact h
  · exact h.fillBricks _ _

/-! Those that Aside allows too: parts of a partition other than its launch queue, marks of graphs, and memory. -/

theorem Aside.foldl {α : Type} {g : State → α → State} (l : List α) (h : Aside s t)
    (hg : ∀ u a, Aside s u → Aside s (g u a)) : Aside s (l.foldl g t) := by
  induction l generalizing t with
  | nil => exact h
  | cons a l ih => exact ih (hg _ _ h)

section
variable (h : Aside s t)
include h

theorem Aside.memOnly (hm : MemOnly t u) : Aside s u := h.trans hm.aside

theorem Aside.setPart {q : Nat} {p : Part} (hp : p.queue = (t.part q).queue) : Aside s (t.setPart q p) :=
  h.trans ⟨⟨rfl, fun _ => rfl, rfl, queue_setPart hp⟩, fun _ => ⟨_, rfl⟩⟩

theorem Aside.modPart {q : Nat} {g : Part → Part} (hg : ∀ p, (g p).queue = p.queue) : Aside s (t.modPart q g) :=
  h.setPart (hg _)

theorem Aside.modGraphs {d : Nat} {g : Die → Die} (hg : ∀ x, ∃ l, g x = { x with graphs := l }) : Aside s (t.modDie d g) := by
  refine h.trans ⟨⟨rfl, fun _ => rfl, rfl, fun _ => rfl⟩, fun d' => ?_⟩
  by_cases e : d' = d
  · subst e; rw [State.die_modDie]; exact hg _
  · rw [State.die_modDie_ne _ _ _ _ e]; exact ⟨_, rfl⟩

theorem Aside.out {o : Out} : Aside s (t.out o) := h.trans ⟨⟨rfl, fun _ => rfl, rfl, fun _ => rfl⟩, fun _ => ⟨_, rfl⟩⟩

theorem Aside.graphError {q : Nat} {g : Word} : Aside s (t.graphError q g) := by
  unfold State.graphError
  split
  · exact h.modPart fun _ => rfl
  · exact h

theorem Aside.sweepGraphs {q : Nat} : Aside s (t.sweepGraphs q) :=
  Aside.foldl _ (h.modPart fun _ => rfl) fun _ _ h => h.modGraphs fun _ => ⟨_, rfl⟩

theorem Aside.beginGraph {q : Nat} {g : Word} : Aside s (t.beginGraph q g) :=
  Aside.foldl _ h fun _ _ h => by
    split
    · exact h.modGraphs fun _ => ⟨_, rfl⟩
    · exact h

theorem Aside.interrupt {q b : Nat} : Aside s (t.interrupt q b) := by
  unfold State.interrupt
  dsimp only
  split
  · exact (Aside.setPart h (by rfl)).out
  · exact Aside.setPart h (by rfl)

theorem Aside.putRecord {q : Nat} {bs : List Byte} : Aside s (t.putRecord q bs).1 := by
  unfold State.putRecord
  dsimp only
  split
  · exact (Aside.modPart (h.memOnly (memOnly_writeNow _ _ _ _)) (by intro; rfl)).interrupt
  · exact Aside.modPart h (by intro; rfl)

theorem Aside.report {q : Nat} {r : FaultRec} : Aside s (t.report q r).1 := by
  rw [report_fst]
  split
  · exact Aside.modPart (Aside.setPart h (by rfl)) (by intro; rfl)
  · exact (Aside.setPart h (by rfl)).putRecord

theorem Aside.syncFrame {die idx : Nat} {f : Frame} : Aside s (t.syncFrame die idx f) := by
  unfold State.syncFrame
  split
  · exact h
  · exact Aside.foldl _ h fun _ _ h => h.memOnly (memOnly_writeFlat _ _ _ _ _)

theorem Aside.clearValid {q die : Nat} {p : FramePlace} : Aside s (t.clearValid q die p) := by
  unfold State.clearValid
  split
  · exact h.memOnly (memOnly_writeFlat _ _ _ _ _)
  · exact h
  · exact h
end

/-! Frame records given back (R353). -/

theorem Beside.loseFrame (h : Beside s t) {die idx : Nat} {f : Frame} : Beside s (t.loseFrame die idx f) :=
  ((h.aside Aside.refl.graphError.clearValid).modDie).aside Aside.refl.sweepGraphs

theorem Beside.migrate (n : Nat) (h : Beside s t) {die r : Nat} : Beside s (t.migrate die r n) := by
  induction n generalizing t with
  | zero => exact h
  | succ n ih =>
    unfold State.migrate
    split
    · exact h
    · split
      · exact ih h.loseFrame
      · exact ((h.aside Aside.refl.clearValid).modDie).aside Aside.refl.syncFrame

theorem Beside.giveRecord (h : Beside s t) {q die : Nat} {p : FramePlace} : Beside s (t.giveRecord q die p) := by
  unfold State.giveRecord
  split
  · exact h.migrate _
  · exact h.aside Aside.refl.clearValid

theorem Beside.unreserve (h : Beside s t) {q : Nat} {rs : List Resv} : Beside s (t.unreserve q rs) :=
  Beside.foldl _ h fun _ _ h => h.giveRecord

/-! Discarding blocks (R30), freeing a context and ending its task (R39). -/

/-- A discard is the cut of the context's blocks, and bookkeeping beside it. -/
theorem discardFrom_beside (s : State) (c k : Nat) :
    ∃ h d, Beside (s.setCtx c { s.ctx c with blks := (s.ctx c).blks.take k, held := h, didAt := d }) (s.discardFrom c k) ∨
      s.discardFrom c k = s ∧ (s.ctx c).blks.take k = (s.ctx c).blks := by
  unfold State.discardFrom
  dsimp only
  split
  · next e => exact ⟨0, 0, .inr ⟨rfl, List.take_of_length_le (List.drop_eq_nil_iff.1 e)⟩⟩
  · next b0 bs _ =>
    refine ⟨_, _, .inl (Beside.modDie (s := s.setCtx c { s.ctx c with
      blks := (s.ctx c).blks.take k, held := (s.ctx c).held - ((b0 :: bs).map Blk.granted).sum, didAt := s.now }) ?_)⟩
    split
    · exact Beside.refl.giveTokens
    · exact Beside.refl.giveTokens.unreserve.modTask

theorem ctx_discardFrom (s : State) (c k : Nat) :
    ∃ h d, (s.discardFrom c k).ctx c = { s.ctx c with blks := (s.ctx c).blks.take k, held := h, didAt := d } := by
  obtain ⟨h, d, hb | ⟨e, et⟩⟩ := discardFrom_beside s c k
  · exact ⟨h, d, by rw [hb.ctx, State.ctx_setCtx]⟩
  · exact ⟨(s.ctx c).held, (s.ctx c).didAt, by rw [e, et]⟩

theorem ctx_discardFrom_ne (s : State) {c c' : Nat} (k : Nat) (h : c' ≠ c) : (s.discardFrom c k).ctx c' = s.ctx c' := by
  obtain ⟨_, _, hb | ⟨e, -⟩⟩ := discardFrom_beside s c k
  · rw [hb.ctx, State.ctx_setCtx_ne _ _ _ _ h]
  · rw [e]

theorem task?_discardFrom_isSome (s : State) (c k u : Nat) : ((s.discardFrom c k).task? u).isSome = (s.task? u).isSome := by
  obtain ⟨_, _, hb | ⟨e, -⟩⟩ := discardFrom_beside s c k
  · exact hb.tasks u
  · rw [e]

/-- A discard leaves the older blocks. -/
theorem blk?_discardFrom (s : State) (c : Nat) {j k : Nat} (h : j < k) : (s.discardFrom c k).blk? c j = s.blk? c j := by
  obtain ⟨_, _, e⟩ := ctx_discardFrom s c k
  simp [State.blk?, e, h]

theorem ctx_freeCtx (s : State) (c : Nat) : (s.freeCtx c).ctx c = Ctx.reset := by
  unfold State.freeCtx
  dsimp only
  rw [(Beside.refl.giveTokens).ctx, State.ctx_setCtx]

theorem task?_freeCtx_isSome (s : State) (c u : Nat) : ((s.freeCtx c).task? u).isSome = (s.task? u).isSome := by
  unfold State.freeCtx
  dsimp only
  rw [(Beside.refl.giveTokens).tasks]
  exact task?_discardFrom_isSome s c 0 u

/-- Sweeping the graphs' marks leaves the tasks. -/
theorem task?_sweepGraphs (s : State) (q u : Nat) : (s.sweepGraphs q).task? u = s.task? u := by
  have e : ∀ (ds : List Nat) (v : State) (g : State → Nat → Die → Die),
      (ds.foldl (fun v d => v.modDie d (g v d)) v).task? u = v.task? u := fun ds => by
    induction ds with
    | nil => exact fun _ _ => rfl
    | cons d ds ih => exact fun v g => ih _ g
  unfold State.sweepGraphs
  exact e _ _ _

/-- A task that a fault ends: its context is free, and it is ending with the cause. -/
theorem faultEnd_ends {s : State} {c : Nat} {t : Task} (r : FaultRec) (ht : s.taskOf c = some t) (hu : s.task? t.uid = some t) :
    ((s.faultEnd c r).ctx c).uid = 0 ∧ ∃ t', (s.faultEnd c r).task? t.uid = some t' ∧ t'.phase = .ending none r.cause := by
  unfold State.faultEnd
  rw [ht]
  dsimp only
  generalize hv : ((s.graphError t.part t.graph).report t.part _).1 = v
  have hb : Beside s v := hv ▸ (Aside.refl.graphError.report).toBeside
  obtain ⟨t', h'⟩ : ∃ t', (v.freeCtx c).task? t.uid = some t' := by
    rw [← Option.isSome_iff_exists, task?_freeCtx_isSome, hb.tasks, hu]
    rfl
  refine ⟨?_, { t' with phase := .ending none r.cause }, ?_, rfl⟩
  · rw [Aside.refl.sweepGraphs.ctx, ctx_modTask, ctx_freeCtx]
    rfl
  · rw [task?_sweepGraphs, State.modTask_of _ _ h', State.task?_setTask]

end Sys2Proof.Proofs
end

section
/-!
SUPPORT. Taking a trap (02 R33, 18 R385): which way the trap of an oldest block goes, and what the handler's context holds.
-/

namespace Sys2Proof.Proofs

open Sys2Proof Sys2Proof.Machine Sys2Proof.Safety Sys2Proof.Laws

variable {s : State} {c : Nat} {b : Blk} {t : Task} {r : TrapRec}

/-- A trap that stands is one the block holds. -/
theorem trap_isSome_of_firm (h : b.firm = some r) : b.trap.isSome = true := by
  unfold Blk.firm at h
  split at h
  · exact absurd h (by simp)
  · next hne => cases hb : b.traps with
    | nil => exact absurd hb hne
    | cons x xs => simp [Blk.trap, hb]

/-- The trap to take: one that stands, or once the block is settled the first it holds. -/
def TrapDue (b : Blk) (r : TrapRec) : Prop := b.firm = some r ∨ b.firm = none ∧ b.settled = true ∧ b.trap = some r

theorem execTrapTaken_due (h : Oldest s c b t) (hd : TrapDue b r) : exec (.trapTaken c) s = .next
    (if (s.ctx c).delivers b r.cause then
      if s.pmaBusy (brickOfCtx c) t.uid then s else s.deliverTrap c t b.addr r
    else s.faultEnd c { cause := r.cause, blk := b.addr, addr := r.info.toNat,
                        resume := if r.cause = 1 && r.info.toNat % 256 = 1 then (s.ctx c).prev else 0 }) := by
  have hblks : ∃ bs, (s.ctx c).blks = b :: bs := by
    have := h.blk
    unfold State.blk? at this
    cases hx : (s.ctx c).blks with
    | nil => simp [hx] at this
    | cons x xs => rw [hx] at this; exact ⟨xs, by simpa using this⟩
  obtain ⟨bs, hbs⟩ := hblks
  have hsome : b.trap.isSome = true ∧ (b.firm.isSome || b.settled) = true ∧ (b.firm <|> b.trap) = some r := by
    rcases hd with hf | ⟨hf, hset, ht⟩
    · exact ⟨trap_isSome_of_firm hf, by simp [hf], by simp [hf]⟩
    · exact ⟨by simp [ht], by simp [hset], by simp [hf, ht]⟩
  obtain ⟨htrap, hgo, hr⟩ := hsome
  simp only [exec, execTrapTaken, h.blk, h.task, h.live, hgo, Option.isNone_eq_false_iff.2 htrap, Bool.not_true,
    Bool.or_self, Bool.false_eq_true, if_false, State.takeTrap, hbs, hr]

theorem memOnly_writeRecord (q br a : Nat) (bs : List Byte) (s : State) : MemOnly s (s.writeRecord q br a bs) := by
  unfold State.writeRecord
  generalize recordRuns bs.length = rs
  induction rs generalizing s with
  | nil => exact .refl
  | cons x rs ih => exact (memOnly_writeFlat _ _ _ _ _).trans (ih _)

theorem cells_modCtx (s : State) (c : Nat) (g : Ctx → Ctx) (sp : Space) : (s.modCtx c g).cells sp = s.cells sp := by
  cases sp <;> rfl

/-- The record that a trap delivered to the handler writes: the registers at entry to the block (R369, R385). -/
def trapRecord (s : State) (c : Nat) (t : Task) (addr : Nat) : List Byte :=
  let d := s.discardFrom c 0
  d.saveRecord ((d.task? t.uid).getD t) (d.ctx c) (s.ctx c).regs (s.ctx c).fpmode
    (fullMasks (naccOf (s.ctx c).poolsplit)) true addr

/-- Delivering a trap: discard, record, registers of the handler. -/
theorem deliverTrap_eq (addr : Nat)
    (hacc : (s.discardFrom c 0).accBad t.uid (fullMasks (naccOf (s.ctx c).poolsplit)) = false) :
    s.deliverTrap c t addr r = ((s.discardFrom c 0).writeRecord t.part (brickOfCtx c) (s.ctx c).savearea.toNat
      (trapRecord s c t addr)).modCtx c fun x =>
        { x with trapcause := BitVec.ofNat 64 r.cause, trapinfo := r.info, priv := true, pc := x.trapvec.toNat } := by
  obtain ⟨h, d, e⟩ := ctx_discardFrom s c 0
  have hps : ((s.discardFrom c 0).ctx c).poolsplit = (s.ctx c).poolsplit := by rw [e]
  have hsa : ((s.discardFrom c 0).ctx c).savearea = (s.ctx c).savearea := by rw [e]
  have hrg : ((s.discardFrom c 0).ctx c).regs = (s.ctx c).regs := by rw [e]; rfl
  have hfp : ((s.discardFrom c 0).ctx c).fpmode = (s.ctx c).fpmode := by rw [e]
  simp only [State.deliverTrap, hps, hsa, hrg, hfp, hacc, Bool.false_eq_true, if_false, trapRecord]

/-- What the handler finds: the registers as they were, the cause, and no block in flight (R385). -/
theorem ctx_deliverTrap (addr : Nat)
    (hacc : (s.discardFrom c 0).accBad t.uid (fullMasks (naccOf (s.ctx c).poolsplit)) = false) :
    ∃ h d, (s.deliverTrap c t addr r).ctx c = { s.ctx c with
      blks := [], held := h, didAt := d, trapcause := BitVec.ofNat 64 r.cause, trapinfo := r.info, priv := true, pc := (s.ctx c).trapvec.toNat } := by
  obtain ⟨h, d, e⟩ := ctx_discardFrom s c 0
  refine ⟨h, d, ?_⟩
  rw [deliverTrap_eq addr hacc, State.ctx_modCtx, (memOnly_writeRecord _ _ _ _ _).aside.ctx, e]
  rfl

/-- Settles O38: what taking a trap does follows from where the trap goes. -/
theorem trapsGoToTheHandlerOrEndTheTask : Obligations.TrapsGoToTheHandlerOrEndTheTask := by
  unfold Obligations.TrapsGoToTheHandlerOrEndTheTask
  intro s c b t r ho
  refine ⟨fun hw => ?_, fun hd => ?_⟩
  · have : (b.trap.isNone || !(b.firm.isSome || b.settled)) = true := by
      rcases hw with h | ⟨h, h'⟩
      · simp [h]
      · simp [h, h']
    simp only [exec, execTrapTaken, ho.blk, ho.task, this, if_true]
  have he := execTrapTaken_due ho hd
  have hdel : (s.ctx c).delivers b r.cause = true ↔
      (s.ctx c).trapvec ≠ 0 ∧ (s.ctx c).priv = false ∧ b.pinned = false ∧ r.cause ≠ 0x0D ∧ r.cause ≠ 4 := by
    simp [Ctx.delivers, and_assoc]
  dsimp only
  rw [← hdel]
  refine ⟨fun hh hp => ?_, fun hh hp hacc => ?_, fun hh => ?_⟩
  · rw [he, if_pos hh, if_pos hp]
  · rw [if_pos hh, if_neg (by simp [hp])] at he
    obtain ⟨h, d, e⟩ := ctx_deliverTrap (r := r) b.addr hacc
    refine ⟨_, he, ?_⟩
    rw [e]
    refine ⟨rfl, rfl, rfl, rfl, rfl, rfl, rfl, rfl, rfl, rfl, rfl, rfl, rfl, rfl, rfl, fun c' hc => ?_, fun sp => ?_⟩
    · rw [deliverTrap_eq _ hacc, State.ctx_modCtx_ne _ _ _ _ hc, (memOnly_writeRecord _ _ _ _ _).aside.ctx,
        ctx_discardFrom_ne _ _ hc]
    · rw [deliverTrap_eq _ hacc, cells_modCtx]
      rfl
  · rw [if_neg hh] at he
    have hu : s.task? t.uid = some t := by rw [ho.uid]; exact ho.task
    obtain ⟨h0, t', ht', hph⟩ := faultEnd_ends
      { cause := r.cause, blk := b.addr, addr := r.info.toNat,
        resume := if r.cause = 1 && r.info.toNat % 256 = 1 then (s.ctx c).prev else 0 } ho.task hu
    exact ⟨_, t', he, h0, ht', hph⟩

end Sys2Proof.Proofs
end

section
/-!
SUPPORT. What a block reads (02 R29, 03 R56, 12 R287): the stores in view laid over the memory, seen through the window of the
bytes that the read asks for.
-/

namespace Sys2Proof.Proofs

open Sys2Proof Sys2Proof.Machine Sys2Proof.Safety Sys2Proof.Laws

/-- n bytes of some, from the k-th on. -/
def window (bs : List Byte) (k n : Nat) : List Byte := (bs.drop k).take n

theorem length_window {bs : List Byte} {k n : Nat} (h : k + n ≤ bs.length) : (window bs k n).length = n := by
  simp [window]
  omega

theorem getElem_window {bs : List Byte} {k n i : Nat} (h : i < (window bs k n).length) :
    (window bs k n)[i] = bs[k + i]'(by simp [window] at h; omega) := by
  simp [window]

@[simp] theorem length_overlay (bs : List Byte) (a wa : Nat) (wb : List Byte) : (overlay bs a wa wb).length = bs.length := by
  unfold overlay
  split <;> simp

/-- A byte under a write is the write's; any other is as before. -/
theorem getElem_overlay {bs : List Byte} {a wa i : Nat} {wb : List Byte} (h : i < (overlay bs a wa wb).length) :
    (overlay bs a wa wb)[i] = if wa ≤ a + i ∧ a + i < wa + wb.length then wb.getD (a + i - wa) (bs[i]'(by simpa using h))
      else bs[i]'(by simpa using h) := by
  rw [length_overlay] at h
  by_cases ho : overlaps a bs.length wa wb.length
  · simp [overlay, ho, lget]
  · have e : overlay bs a wa wb = bs := if_neg ho
    have hout : ¬ (wa ≤ a + i ∧ a + i < wa + wb.length) := by
      simp [overlaps] at ho
      omega
    simp only [e, if_neg hout]

/-- A write that touches none of the window leaves it. -/
theorem window_overlay_apart {bs : List Byte} {a k n wa : Nat} {wb : List Byte} (hk : k + n ≤ bs.length)
    (h : overlaps (a + k) n wa wb.length = false) : window (overlay bs a wa wb) k n = window bs k n := by
  apply List.ext_getElem
  · rw [length_window (by simpa using hk), length_window hk]
  · intro i h1 h2
    rw [length_window hk] at h2
    rw [getElem_window, getElem_window, getElem_overlay, if_neg]
    simp [overlaps] at h
    omega

/-- A write of just the window gives its bytes. -/
theorem window_overlay_whole {bs wb : List Byte} {a k : Nat} (hk : k + wb.length ≤ bs.length) :
    window (overlay bs a (a + k) wb) k wb.length = wb := by
  apply List.ext_getElem
  · rw [length_window (by simpa using hk)]
  · intro i h1 h2
    rw [getElem_window, getElem_overlay, if_pos (by omega)]
    simp [show a + (k + i) - (a + k) = i by omega, h2]

/-! Stores and pending writes laid over, one after another. -/

/-- Laying a list of writes over keeps the length. -/
theorem length_foldl_lay {α : Type} (f : List Byte → α → List Byte) (hf : ∀ bs x, (f bs x).length = bs.length) (xs : List α)
    (bs : List Byte) : (xs.foldl f bs).length = bs.length := by
  induction xs generalizing bs with
  | nil => rfl
  | cons x xs ih => rw [List.foldl_cons, ih, hf]

/-- Where none of them touches the window, it is as before. -/
theorem window_foldl_lay {α : Type} (f : List Byte → α → List Byte) (hf : ∀ bs x, (f bs x).length = bs.length) {k n m : Nat}
    (xs : List α) (hx : ∀ x ∈ xs, ∀ bs : List Byte, bs.length = m → window (f bs x) k n = window bs k n) (bs : List Byte)
    (hm : bs.length = m) : window (xs.foldl f bs) k n = window bs k n := by
  induction xs generalizing bs with
  | nil => rfl
  | cons x xs ih =>
    rw [List.foldl_cons, ih (fun y hy => hx y (by simp [hy])) _ (by rw [hf, hm]), hx x (by simp) bs hm]

@[simp] theorem length_overStores (b : Blk) (l : PLoc) (bs : List Byte) (sel : StoreRec → Bool) :
    (b.overStores l bs sel).length = bs.length := by
  unfold Blk.overStores
  refine length_foldl_lay _ (fun bs w => ?_) _ _
  split <;> simp

/-- One store, where it is in view. -/
theorem window_store_apart {l : PLoc} {w : StoreRec} {sel : StoreRec → Bool} {k n : Nat} {bs : List Byte} (hk : k + n ≤ bs.length)
    (h : w.loc.sp = l.sp → sel w = true → overlaps (l.a + k) n w.loc.a w.bytes.length = false) :
    window (if w.loc.sp == l.sp && sel w then overlay bs l.a w.loc.a w.bytes else bs) k n = window bs k n := by
  split
  · next hc =>
    simp only [Bool.and_eq_true, beq_iff_eq] at hc
    exact window_overlay_apart hk (h hc.1 hc.2)
  · rfl

/-- Stores that touch none of the window leave it. -/
theorem window_overStores_apart {b : Blk} {l : PLoc} {sel : StoreRec → Bool} {k n : Nat} {bs : List Byte}
    (hk : k + n ≤ bs.length)
    (h : ∀ w ∈ b.stores, w.loc.sp = l.sp → sel w = true → overlaps (l.a + k) n w.loc.a w.bytes.length = false) :
    window (b.overStores l bs sel) k n = window bs k n := by
  unfold Blk.overStores
  refine window_foldl_lay _ (fun bs w => ?_) _ (fun w hw bs' hb => window_store_apart (by omega) (h w hw)) bs rfl
  split <;> simp

/-- The last store in view that touches the window gives it, where it writes just that. -/
theorem window_overStores_last {b : Blk} {l : PLoc} {sel : StoreRec → Bool} {k : Nat} {bs : List Byte} {w : StoreRec}
    {pre post : List StoreRec} (hs : b.stores = pre ++ w :: post) (hk : k + w.bytes.length ≤ bs.length)
    (hw : w.loc = ⟨l.sp, l.a + k⟩) (hsel : sel w = true)
    (h : ∀ x ∈ post, sel x = true → overlaps (l.a + k) w.bytes.length x.loc.a x.bytes.length = false) :
    window (b.overStores l bs sel) k w.bytes.length = w.bytes := by
  unfold Blk.overStores
  rw [hs, List.foldl_append, List.foldl_cons]
  have hlen : ∀ (bs : List Byte) (x : StoreRec),
      (if x.loc.sp == l.sp && sel x then overlay bs l.a x.loc.a x.bytes else bs).length = bs.length := fun bs x => by
    split <;> simp
  have hpre := length_foldl_lay _ hlen pre bs
  rw [window_foldl_lay _ hlen (m := bs.length) post (fun x hx bs' hb => window_store_apart (by omega) fun _ => h x hx) _
    (by rw [hlen, hpre])]
  simp only [hw, hsel, beq_self_eq_true, Bool.and_self, if_true]
  exact window_overlay_whole (by omega)

theorem pickBytes_self (cross : Nat) (x : List Byte) : pickBytes cross x x = x := by
  unfold pickBytes
  apply List.ext_getElem
  · simp
  · intro i h1 h2
    simp

/-! The bytes at the home, and the pending writes in view. -/

section
variable {s : State} {die uid : Nat} {l : PLoc} {n k m : Nat}

@[simp] theorem length_viewRead : (s.viewRead die uid l n).1.length = n := by
  unfold State.viewRead
  dsimp only
  rw [length_foldl_lay _ fun bs w => length_overlay _ _ _ _]
  simp [State.homeRead]

/-- A window of bytes at the home. -/
theorem window_mreadN (a : Nat) (cells : List Host.Cell) (h : k + n ≤ m) :
    window (mreadN a m cells) k n = mreadN (a + k) n cells := by
  apply List.ext_getElem
  · rw [length_window (by simpa using h)]; simp
  · intro i h1 h2
    rw [getElem_window, getElem_mreadN, getElem_mreadN, Nat.add_assoc]

/-- Where no pending write touches the window, it is as at the home. -/
theorem window_viewRead (hk : k + n ≤ m)
    (h : ∀ w ∈ s.writes, w.loc.sp = l.sp → overlaps w.loc.a w.bytes.length (l.a + k) n = false) :
    window (s.viewRead die uid l m).1 k n = mreadN (l.a + k) n (s.cells l.sp) := by
  unfold State.viewRead
  dsimp only
  rw [window_foldl_lay _ (fun bs w => length_overlay _ _ _ _) (m := m) _ (fun w hw bs hb => ?_) _ (by simp [State.homeRead])]
  · exact window_mreadN _ _ hk
  · refine window_overlay_apart (by omega) ?_
    have hw' : w ∈ s.writes ∧ w.loc.sp = l.sp := by
      simp only [List.mem_append, List.mem_filter, Bool.and_eq_true, beq_iff_eq] at hw
      tauto
    have := h w hw'.1 hw'.2
    simp [overlaps] at this ⊢
    omega

end

section
variable {s : State} {c j uid i n : Nat} {l : PLoc} {b : Blk}

@[simp] theorem length_outerRead : (s.outerRead c j uid l n).length = n := by
  unfold State.outerRead
  rw [length_foldl_lay _ fun bs b => length_overStores _ _ _ _]
  simp

/-- A read of an LSID with no higher one before it in its word: the word as the older blocks leave it, and the block's own
stores in view, through the window of the bytes asked for. -/
theorem blockRead_window {cross : Nat} {dead : Bool} (hb : s.blk? c j = some b) (hh : b.higher i l = none) :
    (s.blockRead c j uid l n (.lsid i) dead cross).1 =
      let base := if dead then List.replicate 8 0 else s.outerRead c j uid l.word 8
      let laid (x : Bool) := window (b.overStores l.word base fun w => w.performed.isNone && (Sees.lsid i).sel x w)
        (l.a - l.word.a) n
      pickBytes cross (laid false) (laid true) := by
  simp only [State.blockRead, State.readBase, hb, Option.bind_some, hh, window]

/-- The place of the bytes in their word. -/
theorem word_add (l : PLoc) : l.word.a + (l.a - l.word.a) = l.a ∧ l.a - l.word.a = l.a % 8 := by
  simp only [PLoc.word]
  omega

/-- Bytes that no pending write, no store of an older block and no store of the block touches are those at the home, or zero
where the page is dying or dead (R287, R384). -/
theorem blockRead_untouched {cross : Nat} {dead : Bool} (hb : s.blk? c j = some b) (hh : b.higher i l = none)
    (hn : l.a % 8 + n ≤ 8) (hw : ∀ w ∈ s.writes, w.loc.sp = l.sp → overlaps w.loc.a w.bytes.length l.a n = false)
    (hs : ∀ x ∈ (s.ctx c).blks.take (j + 1), ∀ w ∈ x.stores, w.loc.sp = l.sp →
      overlaps l.a n w.loc.a w.bytes.length = false) :
    (s.blockRead c j uid l n (.lsid i) dead cross).1 = if dead then List.replicate n 0 else mreadN l.a n (s.cells l.sp) := by
  obtain ⟨hadd, hmod⟩ := word_add l
  have hown : b ∈ (s.ctx c).blks.take (j + 1) := by
    refine List.mem_of_getElem? (i := j) ?_
    rw [List.getElem?_take_of_lt (by omega)]
    exact hb
  have houter : window (s.outerRead c j uid l.word 8) (l.a - l.word.a) n = mreadN l.a n (s.cells l.sp) := by
    unfold State.outerRead
    rw [window_foldl_lay _ (fun bs b => length_overStores _ _ _ _) (m := 8) _ (fun x hx bs hbs => ?_) _ (by simp)]
    · rw [window_viewRead (by omega) (by rw [hadd]; exact hw), hadd]
      rfl
    · refine window_overStores_apart (by omega) fun w hw' hsp _ => ?_
      rw [hadd]
      exact hs x (List.take_subset_take_left _ (by omega) hx) w hw' hsp
  have hlen : (if dead then List.replicate 8 0 else s.outerRead c j uid l.word 8).length = 8 := by split <;> simp
  have hbase : ∀ sel, window (b.overStores l.word (if dead then List.replicate 8 0 else s.outerRead c j uid l.word 8) sel)
      (l.a - l.word.a) n = if dead then List.replicate n 0 else mreadN l.a n (s.cells l.sp) := fun sel => by
    rw [window_overStores_apart (by omega) fun w hw' hsp _ => by rw [hadd]; exact hs b hown w hw' hsp]
    split
    · simp only [window, List.drop_replicate, List.take_replicate]
      congr 1
      omega
    · exact houter
  rw [blockRead_window hb hh]
  dsimp only
  rw [hbase, hbase, pickBytes_self]

/-- Bytes that a store of the block with a lower LSID covers are the store's, where no later one in view touches them (R56). -/
theorem blockRead_own {cross : Nat} {dead : Bool} {w : StoreRec} {pre post : List StoreRec} {m : Nat}
    (hb : s.blk? c j = some b) (hh : b.higher i l = none) (hn : l.a % 8 + w.bytes.length ≤ 8) (hs : b.stores = pre ++ w :: post)
    (hl : w.lsid = some m) (hm : m < i) (hp : w.performed = none) (hloc : w.loc = l)
    (hpost : ∀ x ∈ post, (∃ k, x.lsid = some k ∧ i ≤ k) ∨ overlaps l.a w.bytes.length x.loc.a x.bytes.length = false) :
    (s.blockRead c j uid l w.bytes.length (.lsid i) dead cross).1 = w.bytes := by
  obtain ⟨hadd, hmod⟩ := word_add l
  have hlen : (if dead then List.replicate 8 0 else s.outerRead c j uid l.word 8).length = 8 := by split <;> simp
  have hlaid : ∀ x, window (b.overStores l.word (if dead then List.replicate 8 0 else s.outerRead c j uid l.word 8)
      fun w => w.performed.isNone && (Sees.lsid i).sel x w) (l.a - l.word.a) w.bytes.length = w.bytes := fun x => by
    refine window_overStores_last hs (by omega) ?_ (by simp [hp, Sees.sel, hl, hm]) fun y hy hsel => ?_
    · rw [hadd, hloc]
      rfl
    · rw [hadd]
      rcases hpost y hy with ⟨k, hk, hik⟩ | h
      · simp [Sees.sel, hk] at hsel
        omega
      · exact h
  rw [blockRead_window hb hh]
  dsimp only
  rw [hlaid, hlaid, pickBytes_self]

end

end Sys2Proof.Proofs
end

section
/-!
SUPPORT. Loads (09 R190, R191): what a read that can be made gives and notes, and when it waits.
-/

namespace Sys2Proof.Proofs

open Sys2Proof Sys2Proof.Machine Sys2Proof.Safety Sys2Proof.Laws

section
variable {s : State} {c k : Nat} {b : Blk}

/-- A change of a block changes it. -/
theorem blk?_modBlk {g : Blk → Blk} (h : s.blk? c k = some b) : (s.modBlk c k g).blk? c k = some (g b) := by
  obtain ⟨d, e⟩ := ctx_modBlk s c k g
  unfold State.blk? at h ⊢
  simp [e, h]

theorem blk?_squashReaders {l : PLoc} {n : Nat} : (s.squashReaders c k l n).blk? c k = s.blk? c k := by
  unfold State.squashReaders
  split
  · exact blk?_discardFrom s c (by omega)
  · rfl

theorem blk?_squashAfter : (s.squashAfter c k).blk? c k = s.blk? c k := by
  unfold State.squashAfter
  split
  · exact blk?_discardFrom s c (by omega)
  · rfl

theorem blk?_noteRead {f : Focus} {r : ReadRec} (h : s.blk? f.ctx f.blk = some b) :
    (s.noteRead f r).blk? f.ctx f.blk = some { b with reads := b.reads ++ [r] } := by
  unfold State.noteRead
  rw [blk?_squashReaders, blk?_modBlk h]

theorem blk?_conflicts {l : PLoc} {n : Nat} : (s.conflicts c l n).blk? c k = s.blk? c k := by
  unfold State.conflicts
  split
  · simp only [State.blk?, State.ctx_modCtx]
    rfl
  · rfl
end

section
variable {s s' u : State} {f : Focus} {b : Blk} {t : Task} {l : PLoc} {pte n : Nat} {a : Word} {v : Sees}

/-- What a read at a checked place gives, and the note it leaves. -/
theorem readAt_gives (hb : s.blk? f.ctx f.blk = some b) : ∃ u, s.readAt f t b l pte a.toNat n v = (readBytes s f b t l pte n v, u) ∧
    u.blk? f.ctx f.blk = some { b with reads := b.reads ++ [readNote s f b t l pte n v a] } := by
  by_cases hc : b.crosses v l n
  · refine ⟨(s.drawNat.2.conflicts f.ctx l n).noteRead f (readNote s f b t l pte n v a), ?_, blk?_noteRead (blk?_conflicts.trans hb)⟩
    simp only [State.readAt, hc, if_true, readBytes, readNote, readGot, crossOf]
    rfl
  · refine ⟨(s.conflicts f.ctx l n).noteRead f (readNote s f b t l pte n v a), ?_, blk?_noteRead (blk?_conflicts.trans hb)⟩
    simp only [State.readAt, hc, Bool.false_eq_true, if_false, readBytes, readNote, readGot, crossOf]

/-- After its check, an access stands in the same block. -/
theorem blk?_of_allowed {acc : Acc} (h : Allowed s f a n acc t l pte s') (c k : Nat) : s'.blk? c k = s.blk? c k := by
  obtain ⟨ps, e⟩ := check_frame s t (brickOfCtx f.ctx) a n acc
  rw [h.ok] at e
  simp only at e
  rw [e]
  rfl

/-- A read that can be made gives the bytes its block sees. -/
theorem load_readable {i : Nat} (hb : s.blk? f.ctx f.blk = some b) (h : Readable s f b a n .read (.lsid i) t l pte s') :
    ∃ u, s.load f a n (.lsid i) = .bytes (readBytes s' f b t l pte n (.lsid i)) u ∧
      u.blk? f.ctx f.blk = some { b with reads := b.reads ++ [readNote s' f b t l pte n (.lsid i) a] } := by
  have hb' : s'.blk? f.ctx f.blk = some b := (blk?_of_allowed h.toAllowed _ _).trans hb
  have hturn : (b.ahead i && !f.early) = false := by
    cases ha : b.ahead i
    · rfl
    · simp [h.turn i rfl ha]
  have hclean : (s'.blockPoison f.ctx f.blk t.uid l n (.lsid i) && !s'.dying pte) = false := by
    cases hp : s'.blockPoison f.ctx f.blk t.uid l n (.lsid i)
    · rfl
    · simp [h.clean hp]
  have hmix : s'.unmix f b l n (.lsid i) = s' := by
    simp only [State.unmix]
    rw [if_neg]
    cases hh : b.higher i l with
    | none => simp
    | some x =>
      obtain ⟨j, r⟩ := x
      cases hm : r.mixed
      · simp [hm]
      · have := h.whole i j r rfl hh hm
        simp [hm, this]
  obtain ⟨u, hu, hn⟩ := readAt_gives (t := t) (l := l) (pte := pte) (a := a) (n := n) (v := .lsid i) hb'
  refine ⟨u, ?_, hn⟩
  simp only [State.load, h.task, hb, h.ok, h.known, h.home, h.own, seesLsid, Option.any_some, hturn, hclean, hmix, hb',
    Option.getD_some, hu, Bool.not_true, Bool.or_self, Bool.false_eq_true, if_false]

/-- A read that must wait waits. -/
theorem load_waits {i : Nat} (hb : s.blk? f.ctx f.blk = some b) (h : Allowed s f a n .read t l pte s')
    (hw : (s'.ctx f.ctx).storesKnown f.blk = false ∨ s'.homeAhead f.ctx f.blk t l n = true ∨
      s'.partOwn f.ctx f.blk t.uid l n = true ∨ (b.ahead i = true ∧ f.early = false)) :
    s.load f a n (.lsid i) = .wait := by
  simp only [State.load, h.task, hb, h.ok, seesLsid, Option.any_some]
  rw [if_pos]
  rcases hw with h | h | h | ⟨h, h'⟩
  · simp [h]
  · simp [h]
  · simp [h]
  · simp [h, h']

end

/-! The instructions. -/

/-- A load of a number of bytes sends what the read gives. -/
theorem fireLoad_sends {i : Instr} {ls : BitVec 5} {imm : BitVec 9} {n : Nat} {conv : Word → Word} {s : State} {f : Focus}
    {b : Blk} {ops : List Tok} (hf : Fires s f b i ops) :
    fireLoad i ls imm n conv s = match s.load f (effAddr (opw ops 0) imm n) n (.lsid ls.toNat) with
      | .wait => .next s
      | .bytes bs u => .next (u.finish f i [.s (conv (leWord bs))])
      | .trap u c x => .next (u.modBlk f.ctx f.blk fun b => (b.setSt f.slot .done).hold c x (some f.slot)) := by
  unfold fireLoad
  rw [fireG_fires hf]
  cases s.load f (effAddr (opw ops 0) imm n) n (.lsid ls.toNat) <;> rfl

/-- A read by the LSID itself is no load above it. -/
theorem loadsAbove_note (b : Blk) (r : ReadRec) (k : Nat) (h : r.sees = .lsid k) :
    ({ b with reads := b.reads ++ [r] } : Blk).loadsAbove k none = b.loadsAbove k none := by
  simp [Blk.loadsAbove, List.filter_append, ReadRec.lsid, h]

section
variable {s : State} {f : Focus} {b : Blk}

/-- An acquire leaves its own block. -/
theorem blk?_acquire {sc : Scope} : (s.acquire f sc).2.blk? f.ctx f.blk = s.blk? f.ctx f.blk := by
  have horders : ∀ (c : Nat) (l : PLoc) (n : Nat) (saw : List Nat), (s.orders c l n saw sc).2.blk? f.ctx f.blk = s.blk? f.ctx f.blk :=
    fun c l n saw => by unfold State.orders; split <;> rfl
  unfold State.acquire
  split
  · rfl
  · dsimp only
    split
    · rw [blk?_squashAfter, horders]
    · exact horders _ _ _ _

/-- With no load above, an acquire has nothing of its own block performed again. -/
theorem againAbove_none {k : Nat} (hb : s.blk? f.ctx f.blk = some b) (h : b.loadsAbove k none = []) : s.againAbove f k none = s := by
  simp [State.againAbove, hb, h, State.again]

end

/-- The acquire load sends what the read gives (R191). -/
theorem execLda_sends {pr : Pr} {ls : BitVec 5} {sc : Scope} {d : Bool} {t0 : Target} {s : State} {f : Focus} {b : Blk}
    {ops : List Tok} (hf : Fires s f b (.lda pr ls sc d t0) ops) :
    execLda pr ls sc d t0 s = match s.load f (opw ops 0) (dwBytes d) (.lsid ls.toNat) with
      | .wait => .next s
      | .bytes bs u => .next ((if (u.acquire f sc).1 then (u.acquire f sc).2.againAbove f ls.toNat none
          else (u.acquire f sc).2).finish f (.lda pr ls sc d t0) [.s (leWord bs)])
      | .trap u c x => .next (u.modBlk f.ctx f.blk fun b => (b.setSt f.slot .done).hold c x (some f.slot)) := by
  unfold execLda
  rw [fireG_fires hf]
  cases s.load f (opw ops 0) (dwBytes d) (.lsid ls.toNat) <;> rfl

/-- What O18 says of one load: what it sends and notes when its read can be made, and that it waits when it must. -/
def LoadSends (s : State) (f : Focus) (b : Blk) (ops : List Tok) (ls : BitVec 5) (i : Instr) (a : Word) (n : Nat)
    (conv : Word → Word) (alone : Prop) : Prop :=
  (∀ t l pte s', Fires s f b i ops → Readable s f b a n .read (.lsid ls.toNat) t l pte s' →
    ∃ u : State, exec i s = .next (u.finish f i [.s (conv (leWord (readBytes s' f b t l pte n (.lsid ls.toNat))))]) ∧
      (alone → u.blk? f.ctx f.blk = some { b with reads := b.reads ++ [readNote s' f b t l pte n (.lsid ls.toNat) a] })) ∧
  (∀ t l pte s', Fires s f b i ops → Allowed s f a n .read t l pte s' →
    (s'.ctx f.ctx).storesKnown f.blk = false ∨ s'.homeAhead f.ctx f.blk t l n = true ∨
      s'.partOwn f.ctx f.blk t.uid l n = true ∨ (b.ahead ls.toNat = true ∧ f.early = false) → exec i s = .next s)

theorem loadSends_fireLoad {i : Instr} {ls : BitVec 5} {imm : BitVec 9} {n : Nat} {conv : Word → Word} {s : State} {f : Focus}
    {b : Blk} {ops : List Tok} (he : exec i s = fireLoad i ls imm n conv s) :
    LoadSends s f b ops ls i (effAddr (opw ops 0) imm n) n conv True := by
  refine ⟨fun t l pte s' hf hr => ?_, fun t l pte s' hf ha hw => ?_⟩
  · obtain ⟨u, hu, hn⟩ := load_readable hf.blk hr
    exact ⟨u, by rw [he, fireLoad_sends hf, hu], fun _ => hn⟩
  · rw [he, fireLoad_sends hf, load_waits hf.blk ha hw]

theorem loadSends_lda {pr : Pr} {ls : BitVec 5} {sc : Scope} {d : Bool} {t0 : Target} {s : State} {f : Focus} {b : Blk}
    {ops : List Tok} :
    LoadSends s f b ops ls (.lda pr ls sc d t0) (opw ops 0) (dwBytes d) id (b.loadsAbove ls.toNat none = []) := by
  have he : exec (.lda pr ls sc d t0) s = execLda pr ls sc d t0 s := by simp only [exec]
  refine ⟨fun t l pte s' hf hr => ?_, fun t l pte s' hf ha hw => ?_⟩
  · obtain ⟨u, hu, hn⟩ := load_readable hf.blk hr
    refine ⟨_, by rw [he, execLda_sends hf, hu]; rfl, fun alone => ?_⟩
    have hq := (blk?_acquire (sc := sc)).trans hn
    split
    · rw [againAbove_none hq (by rw [loadsAbove_note _ _ _ rfl, alone]), hq]
    · exact hq
  · rw [he, execLda_sends hf, load_waits hf.blk ha hw]

section
variable (pr : Pr) (ls : BitVec 5) (imm : BitVec 9) (t0 : Target) (s : State)
theorem exec_ldb : exec (.ldb pr ls imm t0) s =
    fireLoad (.ldb pr ls imm t0) ls imm 1 (fun x => (x.setWidth 8).signExtend 64) s := by
  simp only [exec, execLdb, sext]
theorem exec_ldbn : exec (.ldbn pr ls imm t0) s = fireLoad (.ldbn pr ls imm t0) ls imm 1 id s := by
  simp only [exec, execLdbn]; rfl
theorem exec_ldh : exec (.ldh pr ls imm t0) s =
    fireLoad (.ldh pr ls imm t0) ls imm 2 (fun x => (x.setWidth 16).signExtend 64) s := by
  simp only [exec, execLdh, sext]
theorem exec_ldhn : exec (.ldhn pr ls imm t0) s = fireLoad (.ldhn pr ls imm t0) ls imm 2 id s := by
  simp only [exec, execLdhn]; rfl
theorem exec_ldw : exec (.ldw pr ls imm t0) s =
    fireLoad (.ldw pr ls imm t0) ls imm 4 (fun x => (x.setWidth 32).signExtend 64) s := by
  simp only [exec, execLdw, sext]
theorem exec_ldwn : exec (.ldwn pr ls imm t0) s = fireLoad (.ldwn pr ls imm t0) ls imm 4 id s := by
  simp only [exec, execLdwn]; rfl
theorem exec_ldd : exec (.ldd pr ls imm t0) s = fireLoad (.ldd pr ls imm t0) ls imm 8 id s := by
  simp only [exec, execLdd]; rfl
end

/-- Settles O18: each load is one read of its block, and a read of a block is the stores in view over the memory. -/
theorem loadsSendTheBytesTheirBlockSees : Obligations.LoadsSendTheBytesTheirBlockSees := by
  unfold Obligations.LoadsSendTheBytesTheirBlockSees
  refine ⟨fun pr ls imm sc d t0 s f b ops => ?_, fun s c k uid i n cross l b dead hb hh hn =>
    ⟨fun hw hs => blockRead_untouched hb hh hn hw hs, fun pre w post j hs hl hj hp hloc hlen hpost => ?_⟩⟩
  · have ldb := loadSends_fireLoad (s := s) (f := f) (b := b) (ops := ops) (exec_ldb pr ls imm t0 s)
    have ldbn := loadSends_fireLoad (s := s) (f := f) (b := b) (ops := ops) (exec_ldbn pr ls imm t0 s)
    have ldh := loadSends_fireLoad (s := s) (f := f) (b := b) (ops := ops) (exec_ldh pr ls imm t0 s)
    have ldhn := loadSends_fireLoad (s := s) (f := f) (b := b) (ops := ops) (exec_ldhn pr ls imm t0 s)
    have ldw := loadSends_fireLoad (s := s) (f := f) (b := b) (ops := ops) (exec_ldw pr ls imm t0 s)
    have ldwn := loadSends_fireLoad (s := s) (f := f) (b := b) (ops := ops) (exec_ldwn pr ls imm t0 s)
    have ldd := loadSends_fireLoad (s := s) (f := f) (b := b) (ops := ops) (exec_ldd pr ls imm t0 s)
    exact ⟨ldb, ldbn, ldh, ldhn, ldw, ldwn, ldd, loadSends_lda⟩
  · subst hlen
    exact blockRead_own hb hh hn hs hl hj hp hloc hpost

end Sys2Proof.Proofs
end

section
/-!
SUPPORT. The end of a task (02 R37 to R39) and the debug halt (20 R434).
-/

namespace Sys2Proof.Proofs

open Sys2Proof Sys2Proof.Machine Sys2Proof.Safety Sys2Proof.Laws

/-! The values of the stamps and the continuation. -/

theorem stampValue_exit (n cause : Nat) : (stampValue (some n) cause).toNat = n % 2 ^ 64 := by
  simp [stampValue]

theorem stampValue_fault (cause : Nat) : (stampValue none cause).toNat = 0xFFFFFFFFFFFFFF00 ||| cause % 2 ^ 64 := by
  simp [stampValue]

theorem stampValue_toNat (code : Option Nat) (cause : Nat) : (stampValue code cause).toNat = match code with
    | some n => n % 2 ^ 64
    | none => 0xFFFFFFFFFFFFFF00 ||| cause % 2 ^ 64 := by
  cases code
  · exact stampValue_fault cause
  · exact stampValue_exit _ cause

/-- A task with no continuation sends nothing (R37). -/
theorem contMsg_none {t : Task} (n : Nat) (h : wbits t.cont 23 2 ∉ [1, 2]) : t.contMsg n = none := by
  simp only [List.mem_cons, List.not_mem_nil, or_false, not_or] at h
  unfold Task.contMsg
  dsimp only
  split
  · next e => exact absurd e h.1
  · next e => exact absurd e h.2
  · rfl

/-- The continuation a task sends (R37). -/
theorem contMsg_some {t : Task} (n : Nat) (h : wbits t.cont 23 2 ∈ [1, 2]) : ∃ m, t.contMsg n = some m ∧
    m.frame = wbits t.cont 0 20 ∧ m.graph = t.graph ∧ m.sender = t.frame ∧ m.kind =
      if wbits t.cont 23 2 = 1 then .fill (wbits t.cont 20 3) (BitVec.ofNat 64 n) else .dec (wbits t.cont 20 3) := by
  simp only [List.mem_cons, List.not_mem_nil, or_false] at h
  rcases h with h | h
  · exact ⟨_, by simp only [Task.contMsg, h]; rfl, rfl, rfl, rfl, by simp [h]⟩
  · exact ⟨_, by simp only [Task.contMsg, h]; rfl, rfl, rfl, rfl, by simp [h]⟩

/-! Completion, in its parts: the stamps, the continuation and the release. -/

/-- The state with both stamps written (R38). -/
def stamped (s : State) (t : Task) (code : Option Nat) (cause : Nat) : State :=
  let c := if t.cls.stamp = 0 then s else s.stampAt t t.cls.stamp (stampValue code cause)
  match t.launch with
  | none => c
  | some (a, v) => c.stampAt t a (match code with
    | some _ => v
    | none => stampValue none cause)

/-- A task's record is gone and its lease with it (R361). -/
def released (s : State) (uid : Nat) (t : Task) : State := ((s.leaseRelease uid).delTask uid).sweepGraphs t.part

section
variable {s : State} {uid : Nat} {t : Task} {code : Option Nat} {cause : Nat}

/-- The completion of a task. -/
theorem taskCompletion_eq (h : s.task? uid = some t) (hp : t.phase = .ending code cause) : exec (.taskCompletion uid) s =
    .next (if !s.settledTask t || (t.torn && !s.tornDrained t.die t.part t.graph) then s
      else released (if t.torn || t.mute then s.freeAccs t
        else match code.bind fun c => t.contMsg c with
          | some m => (stamped (s.freeAccs t) t code cause).sendMsg t.part m
          | none => stamped (s.freeAccs t) t code cause) uid t) := by
  simp only [exec, execTaskCompletion, h, hp]
  split <;> rfl

end

section
variable {s : State} {uid : Nat} {t : Task} {code : Option Nat} {cause : Nat}

/-- A torn task only releases, and so does one whose tl7 instruction failed after its end (R268, R372). -/
theorem taskCompletion_silent (h : s.task? uid = some t) (hp : t.phase = .ending code cause) (hs : s.settledTask t = true)
    (hq : t.torn = true ∧ s.tornDrained t.die t.part t.graph = true ∨ t.torn = false ∧ t.mute = true) :
    exec (.taskCompletion uid) s = .next (released (s.freeAccs t) uid t) := by
  rw [taskCompletion_eq h hp]
  rcases hq with ⟨h1, h2⟩ | ⟨h1, h2⟩
  · simp only [hs, h1, h2, Bool.not_true, Bool.and_false, Bool.or_self, Bool.false_eq_true, if_false, Bool.true_or, if_true]
  · simp only [hs, h1, h2, Bool.not_true, Bool.false_and, Bool.or_self, Bool.false_eq_true, if_false, Bool.or_true, if_true]

/-- Another writes its stamps, and sends the continuation it has (R37, R38). -/
theorem taskCompletion_speaks (h : s.task? uid = some t) (hp : t.phase = .ending code cause) (hs : s.settledTask t = true)
    (h1 : t.torn = false) (h2 : t.mute = false) :
    exec (.taskCompletion uid) s = .next (released (match code.bind fun c => t.contMsg c with
      | some m => (stamped (s.freeAccs t) t code cause).sendMsg t.part m
      | none => stamped (s.freeAccs t) t code cause) uid t) := by
  rw [taskCompletion_eq h hp]
  simp only [hs, h1, h2, Bool.not_true, Bool.false_and, Bool.or_self, Bool.false_eq_true, if_false]

end

/-- The stamps as the words that the statement writes. -/
theorem stamped_eq (s : State) (t : Task) (code : Option Nat) (cause : Nat) : stamped s t code cause =
    let c := if t.cls.stamp = 0 then s else s.writeFlat t.part t.brick t.cls.stamp (leBytes 8 (match code with
      | some n => n % 2 ^ 64
      | none => 0xFFFFFFFFFFFFFF00 ||| cause % 2 ^ 64))
    match t.launch with
    | none => c
    | some (a, v) => c.writeFlat t.part t.brick a (leBytes 8 (match code with
      | some _ => v.toNat
      | none => 0xFFFFFFFFFFFFFF00 ||| cause % 2 ^ 64)) := by
  unfold stamped State.stampAt
  rw [stampValue_toNat]
  cases t.launch with
  | none => rfl
  | some x => cases code with
    | none => simp only [stampValue_fault]
    | some n => rfl

/-! The units of accumulators given back (R38). -/

theorem regsKept_modTask (s : State) (u : Nat) (g : Task → Task) : RegsKept s (s.modTask u g) := by
  rw [regsKept_iff]
  exact fun c => by rw [ctx_modTask]

theorem cells_modTask (s : State) (u : Nat) (g : Task → Task) (sp : Space) : (s.modTask u g).cells sp = s.cells sp := by
  unfold State.modTask
  split
  · cases sp <;> rfl
  · rfl

/-- Zeroing accumulators leaves every other space. -/
theorem cells_zeroRange_acc (s : State) (a n : Nat) {sp : Space} (h : sp ≠ .acc) :
    (s.zeroRange .acc a n).cells sp = s.cells sp := by
  unfold State.zeroRange
  dsimp only
  rw [cells_setBad, cells_endHeads, cells_setCells_ne _ _ h]

section
variable {s : State} {t : Task}

/-- What freeing the units of a task leaves. -/
theorem freeAccs_frees (h : s.task? t.uid = some t) : (∃ t', (s.freeAccs t).task? t.uid = some t' ∧ t'.accUnits = 0) ∧
    RegsKept s (s.freeAccs t) ∧ ∀ sp a, sp ≠ .acc → mread a ((s.freeAccs t).cells sp) = mread a (s.cells sp) := by
  have hm := memOnly_zeroRange s .acc (accAt t.uid 0 0).a (2 ^ 24)
  obtain ⟨w, hw⟩ := hm.tasks t.uid
  rw [h] at hw
  unfold State.freeAccs
  refine ⟨⟨_, by rw [State.modTask_of _ _ hw, State.task?_setTask], rfl⟩, ?_, fun sp a hsp => ?_⟩
  · rw [regsKept_iff]
    exact fun c => by rw [ctx_modTask, hm.aside.ctx]
  · rw [cells_modTask, cells_zeroRange_acc _ _ _ hsp]

/-! The debug halt (R434). -/

theorem regsOf_modCtx (s : State) (c c' : Nat) (g : Ctx → Ctx) (hg : ∀ x, regsOf (g x) = regsOf x) :
    regsOf ((s.modCtx c g).ctx c') = regsOf (s.ctx c') := by
  by_cases e : c' = c
  · subst e; rw [State.ctx_modCtx, hg]
  · rw [State.ctx_modCtx_ne _ _ _ _ e]

end

section
variable {s w : State} {c uid code addr : Nat} {t : Task}

/-- The identity in a fault record of a context is its task's, which a write in memory leaves (R387). -/
theorem ctxRec_memOnly (hm : MemOnly s w) (h : s.taskOf c = some t) (r : FaultRec) :
    w.ctxRec c r = { r with graph := t.graph, task := t.frame, ctxId := ctxIdOf c } := by
  obtain ⟨g, hg⟩ := hm.tasks (s.ctx c).uid
  have ht : w.taskOf c = some { t with wake := g t } := by
    unfold State.taskOf at h ⊢
    rw [hm.aside.ctx, hg, h]
    rfl
  simp only [State.ctxRec, ht]

/-- A context about to halt, as it is saved (R434). -/
def haltSaved (s : State) (c : Nat) (t : Task) : State :=
  s.writeRecord t.part (brickOfCtx c) (s.ctx c).savearea.toNat (s.saveRecord t (s.ctx c) (s.ctx c).regs (s.ctx c).fpmode
    (fullMasks (naccOf (s.ctx c).poolsplit)) true (s.ctx c).pc)

/-- The fault record of a halt (R434). -/
def haltRec (s : State) (c code addr : Nat) (t : Task) : FaultRec :=
  { cause := 0x0B, reason := 0xDB, graph := t.graph, blk := addr, addr := (s.ctx c).savearea.toNat, task := t.frame,
    ctxId := ctxIdOf c, item := code }

/-- A context of a saved state as it halts (R434). -/
def haltWith (w : State) (c : Nat) : State :=
  w.modCtx c fun x => { x with haltReq := none, halted := true, preemptAt := x.preemptAt.map fun t0 => w.now - t0 }

theorem debugHalt_eq (ht : s.taskOf c = some t) (hh : (s.ctx c).haltReq = some (code, addr))
    (hp : s.pmaBusy (brickOfCtx c) t.uid = false) (ha : s.accBad t.uid (fullMasks (naccOf (s.ctx c).poolsplit)) = false) :
    exec (.debugHalt c) s = .next (haltWith ((haltSaved s c t).report t.part (haltRec s c code addr t)).1 c) := by
  have hr : (haltSaved s c t).ctxRec c { cause := 0x0B, reason := 0xDB, blk := addr, addr := (s.ctx c).savearea.toNat, item := code } =
      haltRec s c code addr t := ctxRec_memOnly (memOnly_writeRecord _ _ _ _ _) ht _
  rw [← hr]
  have e : exec (.debugHalt c) s = execDebugHalt c s := by simp only [exec]
  rw [e]
  unfold execDebugHalt
  extract_lets x k
  have hx : x.haltReq = some (code, addr) := hh
  rw [hx, ht]
  dsimp only
  rw [hp, if_neg Bool.false_ne_true]
  have ha' : s.accBad t.uid (fullMasks (naccOf x.poolsplit)) = false := ha
  rw [ha', if_neg Bool.false_ne_true]
  simp only [haltWith, haltSaved, x, k]

end

/-- A state that has the memories and the partition's registers as a report leaves them. -/
theorem reports_of_eq {s u : State} {q : Nat} {r : FaultRec} (hp : u.part q = (s.report q r).1.part q)
    (hc : ∀ sp, u.cells sp = (s.report q r).1.cells sp) : Reports s u q r := by
  unfold Reports
  dsimp only
  rw [hp]
  exact ⟨rfl, rfl, rfl, rfl, hc⟩

theorem part_modCtx (s : State) (c q : Nat) (g : Ctx → Ctx) : (s.modCtx c g).part q = s.part q := rfl

theorem regsOf_haltWith (w : State) (c c' : Nat) : regsOf ((haltWith w c).ctx c') = regsOf (w.ctx c') := by
  unfold haltWith
  exact regsOf_modCtx w c c' _ fun _ => rfl

/-- Settles O44: a completion is the stamps, the continuation and the release in this order, as far as they are due; the units
and the halt are one operation each. -/
theorem tasksCompleteAndContextsHalt : Obligations.TasksCompleteAndContextsHalt := by
  unfold Obligations.TasksCompleteAndContextsHalt
  intro s uid t ht huid
  subst huid
  refine ⟨fun code cause hp => ⟨fun hs => ?_, fun hs => ?_⟩, fun hp ha hpma hcmd => ?_, fun c code addr hc hh hp ha => ?_⟩
  · rw [taskCompletion_eq ht hp, hs]
    rfl
  · dsimp only
    refine ⟨fun h1 h2 => ?_, fun h1 h2 => ?_, fun h1 h2 => ?_, fun h1 h2 => ⟨fun hn => ?_, fun n hn => ?_⟩⟩
    · rw [taskCompletion_eq ht hp, h1, h2]
      simp only [Bool.not_false, Bool.true_and, Bool.or_true, if_true]
    · exact taskCompletion_silent ht hp hs (.inl ⟨h1, h2⟩)
    · exact taskCompletion_silent ht hp hs (.inr ⟨h1, h2⟩)
    · have hb : (code.bind fun c => t.contMsg c) = none := by
        cases code with
        | none => rfl
        | some n => exact contMsg_none n fun h => hn n ⟨rfl, h⟩
      rw [taskCompletion_speaks ht hp hs h1 h2, hb]
      dsimp only
      rw [stamped_eq]
      rfl
    · obtain ⟨rfl, hm⟩ := hn
      obtain ⟨m, hb, hfields⟩ := contMsg_some n hm
      refine ⟨m, ?_, hfields⟩
      rw [taskCompletion_speaks ht hp hs h1 h2, Option.bind_some, hb]
      dsimp only
      rw [stamped_eq]
      rfl
  · have he : exec (.accumulatorRelease t.uid) s = .next (s.freeAccs t) := by
      rcases hp with h | h | ⟨_, _, h⟩ <;> simp [exec, execAccumulatorRelease, ht, hpma, hcmd, h, ha]
    obtain ⟨⟨t', ht', h0⟩, hr, hc⟩ := freeAccs_frees ht
    exact ⟨_, t', he, ht', h0, hr, hc⟩
  · have hto : s.taskOf c = some t := by
      unfold State.taskOf
      rw [hc, ht]
    refine ⟨_, debugHalt_eq hto hh hp ha, by rw [haltWith, State.ctx_modCtx], by rw [haltWith, State.ctx_modCtx], ?_, ?_⟩
    · rw [regsKept_iff]
      intro c'
      rw [regsOf_haltWith, (Aside.refl.report).ctx, haltSaved, (memOnly_writeRecord _ _ _ _ _).aside.ctx]
    · exact reports_of_eq (s := haltSaved s c t) (part_modCtx _ _ _ _) (cells_modCtx _ _ _)

end Sys2Proof.Proofs
end

section
/-!
SUPPORT. A fault record reported from two states alike in what the record and the queue depend on (18 R387, R389) leaves the
same queue and the same bytes.
-/

namespace Sys2Proof.Proofs

open Sys2Proof Sys2Proof.Machine Sys2Proof.Safety Sys2Proof.Laws

/-! Operations at a home add no pending write and take none away. -/

section
variable (s : State)

@[simp] theorem writes_setCells (sp : Space) (m : List Host.Cell) : (s.setCells sp m).writes = s.writes := by cases sp <;> rfl
@[simp] theorem writes_setBad (sp : Space) (l : List Nat) : (s.setBad sp l).writes = s.writes := by cases sp <;> rfl
@[simp] theorem writes_endHeads (l : PLoc) (n : Nat) : (s.endHeads l n).writes = s.writes := by
  unfold State.endHeads
  split <;> rfl
@[simp] theorem writes_wakeMem (l : PLoc) (n : Nat) : (s.wakeMem l n).writes = s.writes := by
  unfold State.wakeMem
  dsimp only
  split <;> rfl
@[simp] theorem writes_dropTransOf (pte : Nat) : (s.dropTransOf pte).writes = s.writes := rfl
@[simp] theorem writes_zeroRange (sp : Space) (a n : Nat) : (s.zeroRange sp a n).writes = s.writes := by
  simp [State.zeroRange]
@[simp] theorem writes_homeWrite (l : PLoc) (bs : List Byte) : (s.homeWrite l bs).writes = s.writes := by
  unfold State.homeWrite
  dsimp only
  split <;> simp

/-- What zeroing a range leaves in each space. -/
theorem cells_zeroRange (q : Space) (a n : Nat) (sp : Space) : (s.zeroRange q a n).cells sp =
    if sp = q then (s.cells sp).filter fun c => !(a ≤ c.1 && c.1 < a + n) else s.cells sp := by
  unfold State.zeroRange
  dsimp only
  rw [cells_setBad, cells_endHeads]
  by_cases h : sp = q
  · subst h; simp
  · rw [if_neg h, cells_setCells_ne _ _ h]
end

/-- Two states with the same bytes and the same pending writes. -/
structure SameMem (s t : State) : Prop where
  cells : ∀ sp, t.cells sp = s.cells sp
  writes : t.writes = s.writes

section
variable {s t : State} (h : SameMem s t)
include h

theorem SameMem.dramWord (a : Nat) : t.dramWord a = s.dramWord a := by
  have := h.cells .dram
  simp only [State.cells] at this
  simp only [State.dramWord, this]

theorem SameMem.homeWrite (l : PLoc) (bs : List Byte) : SameMem (s.homeWrite l bs) (t.homeWrite l bs) :=
  ⟨fun sp => by rw [cells_homeWrite, cells_homeWrite, h.cells], by simp [h.writes]⟩

theorem SameMem.zeroRange (q : Space) (a n : Nat) : SameMem (s.zeroRange q a n) (t.zeroRange q a n) :=
  ⟨fun sp => by rw [cells_zeroRange, cells_zeroRange, h.cells], by simp [h.writes]⟩

theorem SameMem.dropTransOf (pte : Nat) : SameMem (s.dropTransOf pte) (t.dropTransOf pte) :=
  ⟨fun sp => by rw [cells_dropTransOf, cells_dropTransOf, h.cells], by simp [h.writes]⟩

theorem SameMem.discOf (pte : Nat) : t.discOf pte = s.discOf pte := by
  simp only [State.discOf, h.dramWord]

theorem SameMem.revive (pte : Nat) : SameMem (s.revive pte) (t.revive pte) := by
  simp only [State.revive, h.dramWord]
  exact ((h.homeWrite _ _).dropTransOf _).zeroRange _ _ _

theorem SameMem.homeApply (l : PLoc) (bs : List Byte) (pte : Nat) : SameMem (s.homeApply l bs pte) (t.homeApply l bs pte) := by
  simp only [State.homeApply, h.discOf]
  split
  · exact h
  · exact (h.revive pte).homeWrite l bs
  · exact h.homeWrite l bs

theorem SameMem.performOne (w : Write) : SameMem (s.performOne w) (t.performOne w) := by
  have h' := h.homeApply w.loc w.bytes w.pte
  have e : ∀ (u : State) sp, (u.performOne w).cells sp = (u.homeApply w.loc w.bytes w.pte).cells sp := fun u sp => by
    rw [← cells_writeHeads (u.homeApply w.loc w.bytes w.pte) w sp]; cases sp <;> rfl
  exact ⟨fun sp => by rw [e, e, h'.cells], by simp [State.performOne, h.writes]⟩
end

theorem SameMem.performAll (ws : List Write) {s t : State} (h : SameMem s t) : SameMem (s.performAll ws) (t.performAll ws) := by
  induction ws generalizing s t with
  | nil => exact h
  | cons w ws ih => exact ih (h.performOne w)

section
variable {s t : State} (h : SameMem s t)
include h

theorem SameMem.drainLines (l : PLoc) (n : Nat) (skip : Nat → Bool) : SameMem (s.drainLines l n skip) (t.drainLines l n skip) := by
  simp only [State.drainLines, h.writes]
  split
  · exact h
  · exact h.performAll _

theorem SameMem.writeNow (l : PLoc) (bs : List Byte) (pte : Nat) : SameMem (s.writeNow l bs pte) (t.writeNow l bs pte) :=
  (h.drainLines _ _ _).homeApply _ _ _
end

/-! What translates an address and queues a record. -/

/-- Two states alike in what a record of partition q and its queue depend on: they differ in the launch queue at most. -/
structure Alike (q : Nat) (s t : State) : Prop extends SameMem s t where
  bad : t.badDram = s.badDram
  piers : t.piers = s.piers
  part : ∃ l, t.part q = { s.part q with queue := l }

section
variable {q : Nat} {s t : State} (h : Alike q s t)
include h

theorem Alike.partDram (a n : Nat) : t.partDram q a n = s.partDram q a n := by
  simp only [State.partDram, State.pier, h.piers]

theorem Alike.pteOk (l e : Nat) : t.pteOk q l e = s.pteOk q l e := by
  simp only [State.pteOk, h.partDram]

theorem Alike.walkFrom (fa : Nat) (acc : Acc) (l table : Nat) : t.walkFrom q fa acc l table = s.walkFrom q fa acc l table := by
  induction l generalizing table with
  | zero =>
    unfold State.walkFrom
    simp only [h.toSameMem.dramWord, State.poisoned, State.bad, h.bad, h.pteOk]
  | succ l ih =>
    unfold State.walkFrom
    simp only [h.toSameMem.dramWord, State.poisoned, State.bad, h.bad, h.pteOk, ih]

theorem Alike.walk (fa : Nat) (acc : Acc) : t.walk q fa acc = s.walk q fa acc := by
  obtain ⟨l, e⟩ := h.part
  simp only [State.walk, h.partDram, h.walkFrom, e]

theorem Alike.setPart {p p' : Part} (hp : ∃ l, p' = { p with queue := l }) : Alike q (s.setPart q p) (t.setPart q p') where
  cells sp := by rw [show (t.setPart q p').cells sp = t.cells sp by cases sp <;> rfl, h.cells]; cases sp <;> rfl
  writes := h.writes
  bad := h.bad
  piers := h.piers
  part := by rw [State.part_setPart, State.part_setPart]; exact hp
end

/-- The registers of a partition's queue that a report changes. -/
def queueRegs (p : Part) := (p.seq, p.fqtail, p.fqlost, p.intstat)

theorem cells_setPart (s : State) (q : Nat) (p : Part) (sp : Space) : (s.setPart q p).cells sp = s.cells sp := by
  cases sp <;> rfl

/-- Raising an interrupt sets its status bit and changes no byte. -/
theorem interrupt_regs (s : State) (q b : Nat) : (s.interrupt q b).part q =
    { s.part q with intstat := (s.part q).intstat ||| (1 <<< b) } ∧ ∀ sp, (s.interrupt q b).cells sp = s.cells sp := by
  unfold State.interrupt
  dsimp only
  split
  · exact ⟨State.part_setPart _ _ _, fun sp => by cases sp <;> rfl⟩
  · exact ⟨State.part_setPart _ _ _, fun sp => by cases sp <;> rfl⟩

/-- A record written at its place in the queue (R389). -/
def queued (s : State) (q : Nat) (bs : List Byte) (tr : Trans) : State :=
  ((s.writeNow (tr.loc (s.part q).fqNext) bs tr.pte).modPart q fun p =>
    { p with fqtail := BitVec.ofNat 64 ((p.fqtail.toNat + 1) % 2 ^ 32) }).interrupt q 0

theorem putRecord_ok {s : State} {q : Nat} {bs : List Byte} {tr : Trans} (h : s.walk q (s.part q).fqNext .write = .ok tr) :
    (s.putRecord q bs).1 = queued s q bs tr := by
  simp only [State.putRecord, h, queued]

theorem putRecord_lost {s : State} {q : Nat} {bs : List Byte} (h : ∀ tr, s.walk q (s.part q).fqNext .write ≠ .ok tr) :
    (s.putRecord q bs).1 = s.modPart q Part.lose := by
  unfold State.putRecord
  dsimp only
  split
  · next tr e => exact absurd e (h tr)
  · rfl

/-- The queue's registers after a record has been written. -/
theorem queued_regs (s : State) (q : Nat) (bs : List Byte) (tr : Trans) : queueRegs ((queued s q bs tr).part q) =
    ((s.part q).seq, BitVec.ofNat 64 (((s.part q).fqtail.toNat + 1) % 2 ^ 32), (s.part q).fqlost,
      (s.part q).intstat ||| (1 <<< 0)) := by
  obtain ⟨l, e⟩ := (memOnly_writeNow s (tr.loc (s.part q).fqNext) bs tr.pte).parts q
  unfold queued
  rw [(interrupt_regs _ _ _).1, State.part_modPart, e]
  rfl

theorem cells_queued (s : State) (q : Nat) (bs : List Byte) (tr : Trans) (sp : Space) :
    (queued s q bs tr).cells sp = (s.writeNow (tr.loc (s.part q).fqNext) bs tr.pte).cells sp := by
  unfold queued
  rw [(interrupt_regs _ _ _).2, State.modPart, cells_setPart]

section
variable {q : Nat} {s t : State} (h : Alike q s t)
include h

theorem Alike.lose : queueRegs ((t.modPart q Part.lose).part q) = queueRegs ((s.modPart q Part.lose).part q) ∧
    ∀ sp, (t.modPart q Part.lose).cells sp = (s.modPart q Part.lose).cells sp := by
  obtain ⟨l, e⟩ := h.part
  refine ⟨?_, fun sp => ?_⟩
  · rw [State.part_modPart, State.part_modPart, e]
    rfl
  · rw [State.modPart, State.modPart, cells_setPart, cells_setPart, h.cells]

theorem Alike.putRecord (bs : List Byte) :
    queueRegs ((t.putRecord q bs).1.part q) = queueRegs ((s.putRecord q bs).1.part q) ∧
      ∀ sp, (t.putRecord q bs).1.cells sp = (s.putRecord q bs).1.cells sp := by
  obtain ⟨l, e⟩ := h.part
  have hn : (t.part q).fqNext = (s.part q).fqNext := by rw [e]; rfl
  by_cases hw : ∃ tr, s.walk q (s.part q).fqNext .write = .ok tr
  · obtain ⟨tr, hw⟩ := hw
    have hw' : t.walk q (t.part q).fqNext .write = .ok tr := by rw [hn, h.walk, hw]
    rw [putRecord_ok hw, putRecord_ok hw']
    refine ⟨by rw [queued_regs, queued_regs, e], fun sp => ?_⟩
    rw [cells_queued, cells_queued, hn]
    exact (h.toSameMem.writeNow _ _ _).cells sp
  · have hw' : ∀ tr, t.walk q (t.part q).fqNext .write ≠ .ok tr := fun tr hx => hw ⟨tr, by rw [← h.walk, ← hn, hx]⟩
    rw [putRecord_lost fun tr hx => hw ⟨tr, hx⟩, putRecord_lost hw']
    exact h.lose

/-- A report from alike states (R389). -/
theorem Alike.report (r : FaultRec) : Reports s (t.report q r).1 q r := by
  obtain ⟨l, e⟩ := h.part
  have hf : (t.part q).fqFull = (s.part q).fqFull := by rw [e]; rfl
  have hseq : (t.part q).seq = (s.part q).seq := by rw [e]
  have h' := h.setPart (p := { s.part q with seq := nextSeq (s.part q).seq })
    (p' := { t.part q with seq := nextSeq (t.part q).seq }) ⟨l, by rw [e]⟩
  have key : queueRegs ((t.report q r).1.part q) = queueRegs ((s.report q r).1.part q) ∧
      ∀ sp, (t.report q r).1.cells sp = (s.report q r).1.cells sp := by
    rw [report_fst, report_fst, hf, hseq]
    rw [hseq] at h'
    split
    · exact h'.lose
    · exact h'.putRecord _
  obtain ⟨hr, hc⟩ := key
  simp only [queueRegs, Prod.mk.injEq] at hr
  obtain ⟨h1, h2, h3, h4⟩ := hr
  exact ⟨h1, h2, h3, h4, hc⟩
end

/-- The sequence number after a report (R389; log entry 21). -/
theorem seq_report (s : State) (q : Nat) (r : FaultRec) : ((s.report q r).1.part q).seq = nextSeq (s.part q).seq := by
  have hlose : ∀ u : State, ((u.modPart q Part.lose).part q).seq = (u.part q).seq := fun u => by
    rw [State.part_modPart]; rfl
  rw [report_fst]
  split
  · rw [hlose, State.part_setPart]
  · generalize hu : s.setPart q _ = u
    have hseq : (u.part q).seq = nextSeq (s.part q).seq := by rw [← hu, State.part_setPart]
    by_cases hw : ∃ tr, u.walk q (u.part q).fqNext .write = .ok tr
    · obtain ⟨tr, hw⟩ := hw
      rw [putRecord_ok hw, ← hseq]
      exact congrArg Prod.fst (queued_regs u q _ tr)
    · rw [putRecord_lost fun tr hx => hw ⟨tr, hx⟩, hlose, hseq]

end Sys2Proof.Proofs
end

section
/-!
SUPPORT. Frames (02 R17 to R20, 17 R351 to R353): where one stands after it is put, and that none is left where one was freed.
-/

namespace Sys2Proof.Proofs

open Sys2Proof Sys2Proof.Machine Sys2Proof.Safety Sys2Proof.Laws

/-! Sparse maps: entries by membership. -/

theorem mem_of_mem_kdel {α : Type} {k : Nat} {m : KMap α} {e : Nat × α} (h : e ∈ kdel k m) : e ∈ m ∧ e.1 ≠ k := by
  induction m with
  | nil => simp [kdel] at h
  | cons x r ih =>
    obtain ⟨j, b⟩ := x
    unfold kdel at h
    split at h
    · obtain ⟨hm, hk⟩ := ih h
      exact ⟨by simp [hm], hk⟩
    · next hj =>
      rcases List.mem_cons.1 h with rfl | h
      · exact ⟨by simp, hj⟩
      · obtain ⟨hm, hk⟩ := ih h
        exact ⟨by simp [hm], hk⟩

theorem mem_of_mem_kset {α : Type} {k : Nat} {a : α} {m : KMap α} {e : Nat × α} (h : e ∈ kset k a m) : e = (k, a) ∨ e ∈ m := by
  induction m with
  | nil => simpa [kset] using h
  | cons x r ih =>
    obtain ⟨j, b⟩ := x
    unfold kset at h
    split at h
    · rcases List.mem_cons.1 h with rfl | h
      · simp
      · rcases ih h with h | h <;> simp [h]
    · split at h
      · rcases List.mem_cons.1 h with rfl | h <;> simp_all
      · rcases List.mem_cons.1 h with rfl | h
        · simp
        · exact .inr h

theorem kget?_eq_none_of {α : Type} {k : Nat} {m : KMap α} (h : ∀ e ∈ m, e.1 ≠ k) : kget? k m = none := by
  induction m with
  | nil => rfl
  | cons x r ih =>
    unfold kget?
    rw [if_neg (h x (by simp)), ih fun e he => h e (by simp [he])]

/-- Of some frames, the earliest is one of them. -/
theorem earliest_mem {l : KMap Frame} {e : Nat × Frame} (h : earliest l = some e) : e ∈ l := by
  have hf : ∀ (l : KMap Frame) (o : Option (Nat × Frame)), (l.foldl (fun best f => match best with
      | none => some f
      | some g => if f.2.seq < g.2.seq then some f else some g) o) = some e → o = some e ∨ e ∈ l := fun l => by
    induction l with
    | nil => exact fun o h => .inl h
    | cons x l ih =>
      intro o h
      rcases ih _ h with h | h
      · dsimp only at h
        split at h
        · simp_all
        · split at h <;> simp_all
      · simp [h]
  rcases hf l none h with h | h
  · simp at h
  · exact h

variable {s t : State} {die idx : Nat}

/-! Where no frame stands. -/

/-- No frame of a die stands at an index. -/
def NoFrame (die idx : Nat) (s : State) : Prop := ∀ e ∈ (s.die die).frames, e.1 ≠ idx

theorem NoFrame.get (h : NoFrame die idx s) : kget? idx (s.die die).frames = none := kget?_eq_none_of h

theorem NoFrame.aside (h : NoFrame die idx s) (ha : Aside s t) : NoFrame die idx t := by
  unfold NoFrame
  rw [ha.frames]
  exact h

theorem NoFrame.del (h : NoFrame die idx s) (i : Nat) :
    NoFrame die idx (s.modDie die fun d => { d with frames := kdel i d.frames }) := by
  unfold NoFrame
  rw [State.die_modDie]
  exact fun e he => h e (mem_of_mem_kdel he).1

/-- A frame's index is free once it is deleted. -/
theorem noFrame_del (s : State) : NoFrame die idx (s.modDie die fun d => { d with frames := kdel idx d.frames }) := by
  unfold NoFrame
  rw [State.die_modDie]
  exact fun e he => (mem_of_mem_kdel he).2

theorem NoFrame.loseFrame (h : NoFrame die idx s) {i : Nat} {f : Frame} : NoFrame die idx (s.loseFrame die i f) :=
  ((h.aside Aside.refl.graphError.clearValid).del i).aside Aside.refl.sweepGraphs

theorem NoFrame.migrate (n : Nat) (h : NoFrame die idx s) {r : Nat} : NoFrame die idx (s.migrate die r n) := by
  induction n generalizing s with
  | zero => exact h
  | succ n ih =>
    unfold State.migrate
    split
    · exact h
    · next i f he =>
      have hi : i ≠ idx := h (i, f) (List.mem_of_mem_filter (earliest_mem he))
      split
      · exact ih h.loseFrame
      · refine NoFrame.aside ?_ Aside.refl.syncFrame
        have h' := h.aside (Aside.refl.clearValid (q := f.part) (die := die) (p := f.place))
        unfold NoFrame
        rw [State.die_modDie]
        intro e he
        rcases mem_of_mem_kset he with rfl | he
        · exact hi
        · exact h' e he

theorem NoFrame.giveRecord (h : NoFrame die idx s) {q : Nat} {p : FramePlace} : NoFrame die idx (s.giveRecord q die p) := by
  unfold State.giveRecord
  split
  · exact h.migrate _
  · exact h.aside Aside.refl.clearValid

/-- A frame freed is gone (R20). -/
theorem noFrame_freeFrame (s : State) {f : Frame} (h : kget? idx (s.die die).frames = some f) :
    NoFrame die idx (s.freeFrame die idx) := by
  unfold State.freeFrame
  rw [h]
  exact (noFrame_del s).giveRecord

theorem beside_freeFrame (s : State) : Beside s (s.freeFrame die idx) := by
  unfold State.freeFrame
  split
  · exact .refl
  · exact Beside.refl.modDie.giveRecord

/-- A frame whose record cannot be read is gone (R392). -/
theorem noFrame_frameFail (s : State) {f : Frame} (h : kget? idx (s.die die).frames = some f) :
    NoFrame die idx (s.frameFail die idx f) :=
  (noFrame_freeFrame _ (by rw [Aside.refl.graphError.frames]; exact h)).aside Aside.refl.sweepGraphs

/-! A frame put at its place. -/

/-- A frame put stands at its index. -/
theorem get_putFrame (s : State) (f : Frame) : kget? idx ((s.putFrame die idx f).die die).frames = some f := by
  unfold State.putFrame
  rw [Aside.refl.syncFrame.frames, State.die_modDie]
  simp

theorem beside_putFrame (s : State) (f : Frame) : Beside s (s.putFrame die idx f) :=
  (Beside.refl.modDie).aside Aside.refl.syncFrame

theorem beside_tagRoom (s : State) : Beside s (s.tagRoom die) := by
  unfold State.tagRoom
  dsimp only
  split
  · exact .refl
  · split
    · unfold State.evictTag
      split
      · exact (Beside.refl.modDie).aside Aside.refl.syncFrame
      · exact .refl
      · exact .refl
    · exact .refl

/-- A frame allocated stands at its index. -/
theorem get_addFrame (s : State) (f : Frame) : kget? idx ((s.addFrame die idx f).die die).frames = some f := get_putFrame _ f

theorem beside_addFrame (s : State) (f : Frame) : Beside s (s.addFrame die idx f) := by
  unfold State.addFrame
  refine Beside.trans ?_ (beside_putFrame _ f)
  split
  · exact (beside_tagRoom s).aside Aside.refl.beginGraph
  · exact Beside.refl.aside Aside.refl.beginGraph

/-! Firing. -/

/-- A frame with a slot to fill stays. -/
theorem fireIfFull_waits {f : Frame} {near : Option Nat} {deps : List Nat} (h : kget? idx (s.die die).frames = some f)
    (hf : f.slots.all FSlot.full = false) : s.fireIfFull die idx near deps = s := by
  simp [State.fireIfFull, h, hf]

/-- A frame whose slots are full fires, as the next task (R20). -/
theorem fireIfFull_fires {f : Frame} {near : Option Nat} {deps : List Nat} (h : kget? idx (s.die die).frames = some f)
    (hf : f.slots.all FSlot.full = true) : NoFrame die idx (s.fireIfFull die idx near deps) ∧
      (s.fireIfFull die idx near deps).task? s.nextUid =
        some { taskOfFrame s.nextUid die idx f near s.now with deps := deps } ∧
      ∀ q, ((s.fireIfFull die idx near deps).part q).queue = (s.part q).queue := by
  have hg : kget? idx (s.newUid.2.die die).frames = some f := h
  have e : s.fireIfFull die idx near deps = (s.newUid.2.freeFrame die idx).setTask s.nextUid
      { taskOfFrame s.nextUid die idx f near s.now with deps := deps } := by
    simp only [State.fireIfFull, h, hf, Bool.not_true, Bool.false_eq_true, if_false]
    rfl
  rw [e]
  exact ⟨noFrame_freeFrame _ hg, State.task?_setTask _ _ _, (beside_freeFrame s.newUid.2).queue⟩

end Sys2Proof.Proofs
end

section
/-!
SUPPORT. Tokens and kills at their frames (02 R18 to R20, R216).
-/

namespace Sys2Proof.Proofs

open Sys2Proof Sys2Proof.Machine Sys2Proof.Safety Sys2Proof.Laws

variable {s t u : State} {die n idx q : Nat} {m : Msg} {f : Frame}

/-! A change of a die leaves the memories and what translates. -/

theorem alike_modDie (s : State) (q d : Nat) (g : Die → Die) : Alike q s (s.modDie d g) where
  cells sp := by cases sp <;> rfl
  writes := rfl
  bad := rfl
  piers := rfl
  part := ⟨(s.part q).queue, rfl⟩

theorem flatWalk_modDie (s : State) (d : Nat) (g : Die → Die) (q b fa : Nat) (acc : Acc) :
    (s.modDie d g).flatWalk q b fa acc = s.flatWalk q b fa acc := by
  have h : (s.modDie d g).unitWalk (unitOf b) q fa acc = s.unitWalk (unitOf b) q fa acc := by
    unfold State.unitWalk
    rw [(alike_modDie s q d g).walk]
    rfl
  unfold State.flatWalk
  rw [h]
  rfl

theorem flatPoison_modDie (s : State) (d : Nat) (g : Die → Die) (q b uid fa n : Nat) :
    (s.modDie d g).flatPoison q b uid fa n = s.flatPoison q b uid fa n := by
  unfold State.flatPoison
  simp only [flatWalk_modDie]
  rfl

/-! A message taken from its inbox. -/

theorem frames_dropMessage (s : State) (die n d : Nat) : ((s.dropMessage die n).die d).frames = (s.die d).frames := by
  unfold State.dropMessage
  by_cases e : d = die
  · subst e; rw [State.die_modDie]
  · rw [State.die_modDie_ne _ _ _ _ e]

theorem graphs_dropMessage (s : State) (die n d : Nat) : ((s.dropMessage die n).die d).graphs = (s.die d).graphs := by
  unfold State.dropMessage
  by_cases e : d = die
  · subst e; rw [State.die_modDie]
  · rw [State.die_modDie_ne _ _ _ _ e]

theorem tearing_dropMessage (s : State) (die n d : Nat) (g : Word) : (s.dropMessage die n).tearing d g = s.tearing d g := by
  simp only [State.tearing, graphs_dropMessage]

theorem recordBad_dropMessage (s : State) (die n d : Nat) (f : Frame) : (s.dropMessage die n).recordBad d f = s.recordBad d f := by
  have hp : ((s.dropMessage die n).die d).poolBase = (s.die d).poolBase := by
    unfold State.dropMessage
    by_cases e : d = die
    · subst e; rw [State.die_modDie]
    · rw [State.die_modDie_ne _ _ _ _ e]
  unfold State.recordBad State.recordAt Die.poolAt
  cases f.place with
  | tag r => rfl
  | pool r =>
    dsimp only
    rw [hp, State.dropMessage, flatPoison_modDie]
  | spill a r =>
    dsimp only
    rw [State.dropMessage, flatPoison_modDie]

theorem part_dropMessage (s : State) (die n q : Nat) : (s.dropMessage die n).part q = s.part q := rfl

/-- A report after the message has been taken is as one before. -/
theorem alike_graphError (s : State) (die n q : Nat) (g : Word) :
    Alike q (s.graphError q g) ((s.dropMessage die n).graphError q g) := by
  have hl : (s.dropMessage die n).graphLive q g = s.graphLive q g := by
    simp only [State.graphLive, State.liveOn, frames_dropMessage]
    rfl
  have ha : Alike q s (s.dropMessage die n) := alike_modDie _ _ _ _
  unfold State.graphError
  rw [hl, show (s.dropMessage die n).part q = s.part q from rfl]
  split
  · exact ha.setPart ⟨(s.part q).queue, rfl⟩
  · exact ha

/-! What a token and a kill do at their die. -/

/-- The record of a rejected token (R19). -/
def badToken (m : Msg) : FaultRec :=
  { cause := 3, source := 2, graph := m.graph, addr := m.kind.low, task := m.taskId, ctxId := m.ctxId,
    cmd := m.kind.mode * 2 ^ 23 + m.kind.slot * 2 ^ 20 + m.frame }

/-- The rejection as a function: the kernel compares its body whole and does not evaluate the report. -/
theorem rejectToken_fun : @State.rejectToken = fun s q m => ((s.graphError q m.graph).report q (badToken m)).1 :=
  have h : @State.rejectToken = fun s q m => ((s.graphError q m.graph).report q
      { cause := 3, source := 2, graph := m.graph, addr := m.kind.low, task := m.taskId, ctxId := m.ctxId,
        cmd := m.kind.mode * 2 ^ 23 + m.kind.slot * 2 ^ 20 + m.frame }).1 := rfl
  h

theorem rejectToken_eq (s : State) (q : Nat) (m : Msg) :
    s.rejectToken q m = ((s.graphError q m.graph).report q (badToken m)).1 :=
  congrFun (congrFun (congrFun rejectToken_fun s) q) m

theorem aside_rejectToken (s : State) (q : Nat) (m : Msg) : Aside s (s.rejectToken q m) := by
  rw [rejectToken_eq]
  exact Aside.refl.graphError.report

theorem seq_graphError (s : State) (q : Nat) (g : Word) : ((s.graphError q g).part q).seq = (s.part q).seq := by
  unfold State.graphError
  split
  · rw [State.part_modPart]
  · rfl

/-- A token that its frame refuses takes a sequence number (R19; log entry 21). -/
theorem seq_rejectToken (s : State) (q : Nat) (m : Msg) : ((s.rejectToken q m).part q).seq = nextSeq (s.part q).seq := by
  rw [rejectToken_eq, seq_report, seq_graphError]

section
variable (hm : s.message die n = some m) (hq : (s.pier (pierOfDie die)).owner = some q) (hk : m.kind ≠ .kill)
  (hd : s.depsDone (s.msgDeps die m) .dev = true)
include hm hq hk hd

/-- A token whose release has performed fetches a record that the tag store does not hold. -/
theorem execTokenApply_fetches {i r : Nat} (hu : s.untagged die m = some (i, r, f)) :
    exec (.tokenApply die n) s = .next (s.fetchTag die i r f) := by
  simp only [exec, execTokenApply, hm, hq, hk, hd, hu, decide_false, Bool.not_true, Bool.or_self, Bool.false_eq_true, if_false]

/-- And is applied where nothing is to be fetched. -/
theorem execTokenApply_applies (hu : s.untagged die m = none) : exec (.tokenApply die n) s =
    .next (((s.dropMessage die n).applyToken q die m).wakeIdle die m.graph) := by
  simp only [exec, execTokenApply, hm, hq, hk, hd, hu, decide_false, Bool.not_true, Bool.or_self, Bool.false_eq_true, if_false]

end

section
variable (ht : s.tearing die m.graph = false) (hf : m.frame / 2 ^ 16 = die)
include ht hf

/-- A token for no frame is rejected. -/
theorem applyToken_absent (h : kget? (m.frame % 2 ^ 16) (s.die die).frames = none) : s.applyToken q die m = s.rejectToken q m := by
  simp only [State.applyToken, ht, hf, h, Bool.false_eq_true, if_false, beq_self_eq_true, if_true]

variable (h : kget? (m.frame % 2 ^ 16) (s.die die).frames = some f)
include h

/-- One for a frame whose record cannot be read ends the frame. -/
theorem applyToken_bad (hb : s.recordBad die f = true) :
    s.applyToken q die m = (s.frameFail die (m.frame % 2 ^ 16) f).rejectToken q m := by
  simp only [State.applyToken, ht, hf, h, hb, Bool.false_eq_true, if_false, beq_self_eq_true, if_true]

/-- One of another graph, or that the slot does not take, is rejected. -/
theorem applyToken_refused (hb : s.recordBad die f = false)
    (hr : f.graph ≠ m.graph ∨ (f.slots[m.kind.slot]?).bind (fun x => x.apply m.kind) = none) :
    s.applyToken q die m = s.rejectToken q m := by
  simp only [State.applyToken, ht, hf, h, hb, Bool.false_eq_true, if_false, beq_self_eq_true, if_true]
  rcases hr with hg | hr
  · rw [if_pos (by simpa using hg)]
  · rw [hr]
    split <;> rfl

/-- Any other changes its slot, and the frame may fire. -/
theorem applyToken_taken (hb : s.recordBad die f = false) (hg : f.graph = m.graph) {x y : FSlot}
    (hx : f.slots[m.kind.slot]? = some x) (hy : x.apply m.kind = some y) : s.applyToken q die m =
      (s.putFrame die (m.frame % 2 ^ 16) { f with slots := f.slots.set m.kind.slot y }).fireIfFull die (m.frame % 2 ^ 16)
        (some m.brick) [] := by
  simp only [State.applyToken, ht, hf, h, hb, hg, hx, hy, Option.bind_some, bne_self_eq_false, Bool.false_eq_true, if_false,
    beq_self_eq_true, if_true]

end

/-! The tag store. -/

theorem untagged_pool {r : Nat} (hf : m.frame / 2 ^ 16 = die) (h : kget? (m.frame % 2 ^ 16) (s.die die).frames = some f)
    (hp : f.place = .pool r) : s.untagged die m = some (m.frame % 2 ^ 16, r, f) := by
  simp only [State.untagged, hf, h, hp, if_true, Option.bind_some]

theorem untagged_held (hf : m.frame / 2 ^ 16 = die) (h : kget? (m.frame % 2 ^ 16) (s.die die).frames = some f)
    (hp : ∀ r, f.place ≠ .pool r) : s.untagged die m = none := by
  cases e : f.place with
  | pool r => exact absurd e (hp r)
  | tag r => simp only [State.untagged, hf, h, e, if_true, Option.bind_some]
  | spill a r => simp only [State.untagged, hf, h, e, if_true, Option.bind_some]

theorem untagged_absent (h : kget? (m.frame % 2 ^ 16) (s.die die).frames = none) : s.untagged die m = none := by
  simp only [State.untagged, h, Option.bind_none, ite_self]

theorem inbox_tagRoom (s : State) (die d : Nat) : ((s.tagRoom die).die d).inbox = (s.die d).inbox := by
  unfold State.tagRoom
  dsimp only
  split
  · rfl
  · split
    · unfold State.evictTag
      split
      · rw [Aside.refl.syncFrame.inbox]
        by_cases e : d = die
        · subst e; rw [State.die_modDie]
        · rw [State.die_modDie_ne _ _ _ _ e]
      · rfl
      · rfl
    · rfl

/-- A pool record that can be read enters the tag store (R352). -/
theorem fetchTag_reads (s : State) {r : Nat} (hb : s.recordBad die f = false) :
    kget? idx ((s.fetchTag die idx r f).die die).frames = some { f with place := .tag r } ∧
      ((s.fetchTag die idx r f).die die).inbox = (s.die die).inbox := by
  simp only [State.fetchTag, hb, Bool.false_eq_true, if_false, State.die_modDie, kget?_kset_same, true_and]
  exact inbox_tagRoom s die die

/-! What the arrival of a message adds: nothing of the frames, the tasks, the partitions or the memories. -/

theorem die_wakeIdle (s : State) (die d : Nat) (g : Word) : (s.wakeIdle die g).die d = s.die d := rfl
theorem task?_wakeIdle (s : State) (die u : Nat) (g : Word) : (s.wakeIdle die g).task? u = s.task? u := rfl
theorem part_wakeIdle (s : State) (die q : Nat) (g : Word) : (s.wakeIdle die g).part q = s.part q := rfl
theorem cells_wakeIdle (s : State) (die : Nat) (g : Word) (sp : Space) : (s.wakeIdle die g).cells sp = s.cells sp := by
  cases sp <;> rfl

theorem NoFrame.wakeIdle (h : NoFrame die idx s) {d : Nat} {g : Word} : NoFrame die idx (s.wakeIdle d g) := by
  unfold NoFrame
  rw [die_wakeIdle]
  exact h

/-- A report's queue and bytes, in a state that has them as another. -/
theorem reports_congr {s t u : State} {q : Nat} {r : FaultRec} (h : Reports s t q r) (hp : u.part q = t.part q)
    (hc : ∀ sp, u.cells sp = t.cells sp) : Reports s u q r := by
  obtain ⟨h1, h2, h3, h4, h5⟩ := h
  unfold Reports
  dsimp only
  rw [hp]
  exact ⟨h1, h2, h3, h4, fun sp => (hc sp).trans (h5 sp)⟩

/-! Kills. -/

theorem execTkillApply_eq (hm : s.message die n = some m) (hk : m.kind = .kill) :
    exec (.tkillApply die n) s = .next ((s.dropMessage die n).applyKill die m) := by
  simp only [exec, execTkillApply, hm, hk, if_true]

section
variable (hf : m.frame / 2 ^ 16 = die) (h : kget? (m.frame % 2 ^ 16) (s.die die).frames = some f)
include hf h

theorem applyKill_frees (hg : f.graph = m.graph) :
    s.applyKill die m = (s.freeFrame die (m.frame % 2 ^ 16)).sweepGraphs f.part := by
  simp only [State.applyKill, hf, h, hg, beq_self_eq_true, if_true]

theorem applyKill_other (hg : f.graph ≠ m.graph) : s.applyKill die m = s := by
  simp only [State.applyKill, hf, h, beq_self_eq_true, if_true, beq_iff_eq, hg, if_false]
end

/-- Settles O40: a message takes one of the few ways that the tag store, the frame and its slot leave it. -/
theorem tokensAndKillsReachTheirFrames : Obligations.TokensAndKillsReachTheirFrames := by
  unfold Obligations.TokensAndKillsReachTheirFrames
  intro s die n q m hm hq ht hd hf
  extract_lets idx gone token
  have hgone : ∀ u, NoFrame die idx u → gone u := fun u h _ => h.get
  have ht' : (s.dropMessage die n).tearing die m.graph = false := by rw [tearing_dropMessage, ht]
  have applied : token → s.untagged die m = none → exec (.tokenApply die n) s =
      .next (((s.dropMessage die n).applyToken q die m).wakeIdle die m.graph) := fun hk =>
    execTokenApply_applies hm hq hk hd
  have fetched : ∀ {r f}, token → s.untagged die m = some (idx, r, f) → exec (.tokenApply die n) s =
      .next (s.fetchTag die idx r f) := fun hk => execTokenApply_fetches hm hq hk hd
  refine ⟨fun hk h => ?_, fun f h => ?_⟩
  · have h' : kget? (m.frame % 2 ^ 16) ((s.dropMessage die n).die die).frames = none := by rw [frames_dropMessage]; exact h
    refine ⟨_, applied hk (untagged_absent h), ?_, ?_⟩
    · rw [die_wakeIdle, applyToken_absent ht' hf h', (aside_rejectToken _ _ _).frames, frames_dropMessage]
    · rw [applyToken_absent ht' hf h', rejectToken_eq]
      exact reports_congr ((alike_graphError s die n q m.graph).report (badToken m)) (part_wakeIdle _ _ _ _)
        (cells_wakeIdle _ _ _)
  · have h' : kget? (m.frame % 2 ^ 16) ((s.dropMessage die n).die die).frames = some f := by rw [frames_dropMessage]; exact h
    extract_lets here
    refine ⟨fun hk hg => ?_, fun hk hg => ?_, fun hk hb => ?_, fun r hk hp hb => ?_, fun hk hh hr => ?_, fun hk hh hg x y hx hy => ?_⟩
    · refine ⟨_, execTkillApply_eq hm hk, hgone _ ?_⟩
      rw [applyKill_frees hf h' hg]
      exact (noFrame_freeFrame _ h').aside Aside.refl.sweepGraphs
    · refine ⟨_, execTkillApply_eq hm hk, ?_⟩
      rw [applyKill_other hf h' hg, frames_dropMessage]
    · by_cases hp : ∃ r, f.place = .pool r
      · obtain ⟨r, hp⟩ := hp
        refine ⟨_, fetched hk (untagged_pool hf h hp), hgone _ ?_⟩
        rw [State.fetchTag, if_pos hb]
        exact noFrame_frameFail s h
      · refine ⟨_, applied hk (untagged_held hf h fun r e => hp ⟨r, e⟩), hgone _ ?_⟩
        have hn : NoFrame die idx (((s.dropMessage die n).frameFail die idx f).rejectToken q m) :=
          (noFrame_frameFail _ h').aside (aside_rejectToken _ _ _)
        rw [applyToken_bad ht' hf h' (by rw [recordBad_dropMessage, hb])]
        exact hn.wakeIdle
    · exact ⟨_, fetched hk (untagged_pool hf h hp), fetchTag_reads s hb⟩
    · obtain ⟨hun, hb⟩ := hh
      refine ⟨_, applied hk hun, ?_, ?_⟩
      · rw [die_wakeIdle, applyToken_refused ht' hf h' (by rw [recordBad_dropMessage, hb]) hr,
          (aside_rejectToken _ _ _).frames, frames_dropMessage]
      · rw [part_wakeIdle, applyToken_refused ht' hf h' (by rw [recordBad_dropMessage, hb]) hr, seq_rejectToken,
          part_dropMessage, nextSeq]
    · obtain ⟨hun, hb⟩ := hh
      have he := applied hk hun
      rw [applyToken_taken ht' hf h' (by rw [recordBad_dropMessage, hb]) hg hx hy] at he
      have hput := get_putFrame (die := die) (idx := idx) (s.dropMessage die n) { f with slots := f.slots.set m.kind.slot y }
      extract_lets slots
      refine ⟨fun hfull => ⟨_, he, ?_⟩, fun hfull => ?_⟩
      · rw [die_wakeIdle, fireIfFull_waits hput hfull]
        exact hput
      · obtain ⟨hno, htask, -⟩ := fireIfFull_fires (near := some m.brick) (deps := []) hput hfull
        rw [(beside_putFrame (die := die) (idx := idx) (s.dropMessage die n) { f with slots := f.slots.set m.kind.slot y }).nextUid]
          at htask
        refine ⟨_, _, he, hgone _ hno.wakeIdle, (task?_wakeIdle _ _ _ _).trans htask, rfl, rfl, rfl, rfl, rfl, ?_, rfl, rfl⟩
        rw [← hf]
        exact Nat.div_add_mod' _ _

end Sys2Proof.Proofs
end

section
/-!
SUPPORT. Host launches (02 R21, R22, 17 R356): the launch window, and the record at the head of the queue.
-/

namespace Sys2Proof.Proofs

open Sys2Proof Sys2Proof.Machine Sys2Proof.Safety Sys2Proof.Laws

/-! The launch window (R417). -/

section
variable {s : State} {q off : Nat} {data : List Byte}

theorem exec_launchWindowWrite_closed (h : s.offStream q = false) : exec (.launchWindowWrite q off data) s = .next s := by
  simp [exec, execLaunchWindowWrite, h]

theorem exec_launchWindowWrite_open (h : s.offStream q = true) :
    exec (.launchWindowWrite q off data) s = s.launchWrite q off data := by
  simp only [exec, execLaunchWindowWrite, h, if_true]

section
variable (hc : (s.part q).configured = true) (hl : data.length = 64) (ho : off % 64 = 0) (hr : off < 0x10000)
include hc hl ho hr

/-- A first half is staged. -/
theorem launchWrite_first (h : off % 128 = 0) : s.launchWrite q off data =
    .next (s.setPart q { s.part q with staged := kset (off / 128) data (s.part q).staged }) := by
  simp [State.launchWrite, hc, hl, ho, h, Nat.not_le.2 hr]

/-- A second half without its first is reported. -/
theorem launchWrite_alone (h : off % 128 ≠ 0) (hs : kget? (off / 128) (s.part q).staged = none) : s.launchWrite q off data =
    .next (s.report q { cause := 2, reason := 1, source := 2 }).1 := by
  simp [State.launchWrite, hc, hl, ho, h, hs, Nat.not_le.2 hr]

/-- A full queue withholds the write. -/
theorem launchWrite_full {x : List Byte} (h : off % 128 ≠ 0) (hs : kget? (off / 128) (s.part q).staged = some x)
    (hq : 64 ≤ (s.part q).queue.length) : s.launchWrite q off data = .next s := by
  simp [State.launchWrite, hc, hl, ho, h, hs, hq, Nat.not_le.2 hr]

/-- A second half puts the record into the queue. -/
theorem launchWrite_second {x : List Byte} (h : off % 128 ≠ 0) (hs : kget? (off / 128) (s.part q).staged = some x)
    (hq : (s.part q).queue.length < 64) : ∃ u : State, s.launchWrite q off data = .next u ∧
      (u.part q).queue = (s.part q).queue ++ [⟨x ++ data, 0⟩] := by
  simp only [State.launchWrite, hc, hl, ho, h, hs, Nat.not_le.2 hr, Nat.not_le.2 hq, Bool.not_true, Bool.false_eq_true,
    bne_self_eq_false, Bool.or_self, decide_false, if_false]
  refine ⟨_, rfl, ?_⟩
  split
  · rw [(interrupt_regs _ _ _).1, State.part_setPart]
  · rw [State.part_setPart]

end

end

/-! The record at the head of the queue (R22, R356). -/

/-- A state whose partition has lost a record of its queue. -/
def unqueued (s : State) (q i : Nat) : State := s.modPart q fun p => { p with queue := p.queue.eraseIdx i }

/-- A report from the state itself. -/
theorem reports_refl (s : State) (q : Nat) (r : FaultRec) : Reports s (s.report q r).1 q r :=
  ⟨rfl, rfl, rfl, rfl, fun _ => rfl⟩

/-- What becomes of a record that has left the queue. The reporting operation is an argument, so that the equations of the
cases never unfold it. -/
def takeRecord (rep : State → Nat → FaultRec → State × Nat) (t : State) (q : Nat) (r : Launch) : Taken → State
  | .accept die cls hs => t.launchFrame q die r cls hs
  | .reject c => (rep t q { cause := c, source := 2, graph := r.graph, addr := r.cls }).1
  | .wait => t

theorem takeRecord_reject (rep : State → Nat → FaultRec → State × Nat) (t : State) (q : Nat) (r : Launch) (c : Nat) :
    takeRecord rep t q r (.reject c) = (rep t q { cause := c, source := 2, graph := r.graph, addr := r.cls }).1 := rfl

theorem execLaunchAccept_fun : @execLaunchAccept = fun q s => match s.launchPick q 0 [] (s.part q).queue with
    | none => .next s
    | some (i, r, x) => .next (takeRecord State.report (unqueued s q i) q r x) := rfl

section
variable {s : State} {q d : Nat} {r : Launch} {rest : List Launch} (hq : (s.part q).queue = r :: rest)
include hq

theorem queue_unqueued : ((unqueued s q 0).part q).queue = rest := by
  rw [unqueued, State.part_modPart, hq, List.eraseIdx_zero, List.tail_cons]

/-- A record that can be taken at once leaves the queue. -/
theorem execLaunchAccept_head {x : Taken} (h : s.launchTry q r = (d, x)) (hx : x ≠ .wait) :
    execLaunchAccept q s = .next (takeRecord State.report (unqueued s q 0) q r x) := by
  have hp : s.launchPick q 0 [] (s.part q).queue = some (0, r, x) := by
    rw [hq, State.launchPick, h]
    cases x <;> simp at hx ⊢
  rw [congrFun (congrFun execLaunchAccept_fun q) s, hp]

end

theorem alike_unqueued (s : State) (q : Nat) : Alike q s (unqueued s q 0) where
  cells sp := by rw [unqueued, State.modPart, cells_setPart]
  writes := rfl
  bad := rfl
  piers := rfl
  part := ⟨_, State.part_modPart _ _ _⟩

/-- An accepted record goes to its own die, where an index and a pool record are free. -/
theorem launchTry_accept {s : State} {q d x : Nat} {r : Launch} {cls : ClassDesc} {hs : List HandleVal}
    (h : s.launchTry q r = (d, .accept x cls hs)) :
    x = d ∧ (s.takeIndex d).1.isSome = true ∧ (s.freePool d).isSome = true := by
  unfold State.launchTry at h
  dsimp only at h
  split at h
  · split at h <;> simp at h
  · rw [Prod.mk.injEq] at h
    obtain ⟨rfl, h⟩ := h
    split at h
    · simp at h
    · split at h
      · simp at h
      · split at h
        · simp at h
        · next hfree =>
          obtain ⟨rfl, -, -⟩ := Taken.accept.inj h
          simpa [Option.isSome_iff_ne_none] using hfree

/-! The frame of an accepted record. -/

/-- The frame that a record of a partition asks for (R22). -/
structure LaunchedFrame (q : Nat) (r : Launch) (x : ClassDesc) (hs : List HandleVal) (f : Frame) : Prop where
  cls : f.cls = x
  graph : f.graph = r.graph
  cont : f.cont = x.cont
  slots : f.slots = fillHandles hs (fillScalars ((r.present 0 16 4).map (BitVec.ofNat 64)) (initSlots x.kinds x.counts))
  launch : f.launch =
    if field r.bytes 64 8 = 0 then none else some (field r.bytes 64 8, BitVec.ofNat 64 (field r.bytes 72 8))
  part : f.part = q

/-- Where an index and a pool record are free, the frame is added, and fires when it is full. -/
theorem launchFrame_eq {s : State} {die : Nat} (q : Nat) (r : Launch) (cls : ClassDesc) (hs : List HandleVal)
    (hi : (s.takeIndex die).1.isSome = true) (hp : (s.freePool die).isSome = true) :
    ∃ (t : State) (idx : Nat) (f : Frame), s.launchFrame q die r cls hs = (t.addFrame die idx f).fireIfFull die idx none [] ∧
      LaunchedFrame q r cls hs f ∧ Beside s t := by
  obtain ⟨idx, hi⟩ := Option.isSome_iff_exists.1 hi
  obtain ⟨rec, hp⟩ := Option.isSome_iff_exists.1 hp
  unfold State.launchFrame
  rw [show s.takeIndex die = (some idx, (s.takeIndex die).2) by rw [← hi], hp]
  refine ⟨_, _, _, rfl, ⟨rfl, rfl, rfl, rfl, rfl, rfl⟩, ?_⟩
  refine Beside.modDie ?_
  exact ⟨rfl, fun _ => rfl, rfl, fun _ => rfl⟩

/-- A record that a frame was made of leaves the rest of the queue; the frame stays or fires. -/
theorem launchFrame_places {s : State} {die q : Nat} {r : Launch} {cls : ClassDesc} {hs : List HandleVal}
    (hi : (s.takeIndex die).1.isSome = true) (hp : (s.freePool die).isSome = true) :
    ((s.launchFrame q die r cls hs).part q).queue = (s.part q).queue ∧ ∃ f, LaunchedFrame q r cls hs f ∧
      (f.slots.all FSlot.full = false → ∃ idx, kget? idx ((s.launchFrame q die r cls hs).die die).frames = some f) ∧
      (f.slots.all FSlot.full = true → ∃ idx now, (s.launchFrame q die r cls hs).task? s.nextUid =
        some { taskOfFrame s.nextUid die idx f none now with deps := [] }) := by
  obtain ⟨t, idx, f, e, hf, hb⟩ := launchFrame_eq q r cls hs hi hp
  have hadd : Beside s (t.addFrame die idx f) := hb.trans (beside_addFrame t f)
  have hget := get_addFrame (die := die) (idx := idx) t f
  rw [e]
  by_cases hfull : f.slots.all FSlot.full = true
  · obtain ⟨-, ht, hq⟩ := fireIfFull_fires (near := none) (deps := []) hget hfull
    rw [hadd.nextUid] at ht
    exact ⟨(hq q).trans (hadd.queue q), f, hf, fun h => absurd hfull (by simp [h]), fun _ => ⟨_, _, ht⟩⟩
  · rw [fireIfFull_waits hget (by simpa using hfull)]
    exact ⟨hadd.queue q, f, hf, fun _ => ⟨_, hget⟩, fun h => absurd h hfull⟩

/-- Settles O41: the window's cases, then the record at the head of the queue, which leaves it before it is judged. -/
theorem launchRecordsAreStagedQueuedAndTaken : Obligations.LaunchRecordsAreStagedQueuedAndTaken := by
  unfold Obligations.LaunchRecordsAreStagedQueuedAndTaken
  intro s q off data p
  refine ⟨exec_launchWindowWrite_closed, fun ho hc hl h64 hr => ?_, fun r rest hq => ⟨fun d c h => ?_, fun d x cls hs h => ?_⟩⟩
  · rw [exec_launchWindowWrite_open ho]
    refine ⟨fun h => ⟨_, launchWrite_first hc hl h64 hr h, ?_, ?_⟩, fun _ h hs hq => launchWrite_second hc hl h64 hr h hs hq,
      fun _ h hs hq => launchWrite_full hc hl h64 hr h hs hq,
      fun h hs => ⟨_, launchWrite_alone hc hl h64 hr h hs, reports_refl s q _⟩⟩
    · rw [State.part_setPart, kget?_kset_same]
    · rw [State.part_setPart]
  · refine ⟨_, execLaunchAccept_head hq h Taken.noConfusion, ?_, ?_⟩
    · rw [takeRecord_reject, (Aside.refl.report).queue, queue_unqueued hq]
    · rw [takeRecord_reject]
      exact (alike_unqueued s q).report _
  · obtain ⟨rfl, hi, hp⟩ := launchTry_accept h
    obtain ⟨hqueue, f, hf, hwait, hfire⟩ := launchFrame_places (s := unqueued s q 0) (q := q) (r := r) (cls := cls)
      (hs := hs) hi hp
    refine ⟨_, execLaunchAccept_head hq h Taken.noConfusion, hqueue.trans (queue_unqueued hq), ?_⟩
    extract_lets slots stamp launch
    refine ⟨fun hfull => ?_, fun hfull => ?_⟩
    · obtain ⟨idx, hget⟩ := hwait (hf.slots ▸ hfull)
      exact ⟨idx, f, hget, hf.cls, hf.graph, hf.cont, hf.slots, hf.launch, hf.part⟩
    · obtain ⟨idx, now, ht⟩ := hfire (hf.slots ▸ hfull)
      exact ⟨_, ht, hf.cls, hf.graph, hf.cont, hf.slots, hf.launch, hf.part, rfl⟩

end Sys2Proof.Proofs
end

section
/-!
SUPPORT. Encoding then decoding (R46 to R48, R139 to R151): slices of appended fields, the fields of each word layout,
and the decoder that each major opcode selects.
-/

namespace Sys2Proof.Proofs

open Sys2Proof Sys2Proof.Machine Sys2Proof.Safety Sys2Proof.Laws

/-! What the decoders' checks answer. -/

@[simp] theorem ok_bind {α β : Type} (a : α) (k : α → Except DecodeError β) :
    ((Except.ok a : Except DecodeError α) >>= k) = k a := rfl

section
variable {α β : Type} {c : Bool} {x : Option α} {b : β}
@[simp] theorem guard12_bind_ok {k : Unit → Except DecodeError β} : guard12 c >>= k = .ok b ↔ c = true ∧ k () = .ok b := by
  cases c <;> simp [guard12, bind, Except.bind]
@[simp] theorem guard13_bind_ok {k : Unit → Except DecodeError β} : guard13 c >>= k = .ok b ↔ c = true ∧ k () = .ok b := by
  cases c <;> simp [guard13, bind, Except.bind]
@[simp] theorem assigned_bind_ok {k : α → Except DecodeError β} :
    assigned x >>= k = .ok b ↔ ∃ a, x = some a ∧ k a = .ok b := by
  cases x <;> simp [assigned, bind, Except.bind]
@[simp] theorem pair_bind_ok {r : Except DecodeError α} {s t : β} {a : α} :
    (r >>= fun i => .ok (i, s)) = .ok (a, t) ↔ r = .ok a ∧ s = t := by
  cases r <;> simp [bind, Except.bind]
end

@[simp] theorem noT_zero (p : Pr) (x : BitVec 5) : GWord.noT ⟨p, x, 0#9, 0#9⟩ = true := rfl

/-! Slices of an append. The width of the append is kept out of the index, because simp adds it up. -/

section
variable {k m lo n : Nat} {x : BitVec k} {y : BitVec m}

theorem slice_low (h : lo + n ≤ m) :
    (HAppend.hAppend (γ := no_index (BitVec (k + m))) x y).extractLsb' lo n = y.extractLsb' lo n :=
  BitVec.extractLsb'_append_eq_of_add_le h

theorem slice_high (h : m ≤ lo) :
    (HAppend.hAppend (γ := no_index (BitVec (k + m))) x y).extractLsb' lo n = x.extractLsb' (lo - m) n :=
  BitVec.extractLsb'_append_eq_of_le h

theorem slice_zero_iff {w : Nat} {z : BitVec w} : z.extractLsb' lo n = 0#n ↔ ∀ i < n, z.getLsbD (lo + i) = false := by
  refine ⟨fun e i hi => ?_, fun e => ?_⟩
  · have := congrArg (fun z => z.getLsbD i) e
    simpa [hi] using this
  · ext i hi
    simpa using e i hi

/-- A slice across the seam is zero where both its parts are. -/
theorem slice_across (h : lo < m) (h' : m < lo + n) :
    (HAppend.hAppend (γ := no_index (BitVec (k + m))) x y).extractLsb' lo n = 0#n ↔
      x.extractLsb' 0 (lo + n - m) = 0#(lo + n - m) ∧ y.extractLsb' lo (m - lo) = 0#(m - lo) := by
  simp only [slice_zero_iff, BitVec.getLsbD_append]
  constructor
  · intro e
    refine ⟨fun i hi => ?_, fun i hi => ?_⟩
    · have := e (m - lo + i) (by omega)
      rw [if_neg (by omega)] at this
      rwa [show lo + (m - lo + i) - m = 0 + i by omega] at this
    · have := e i (by omega)
      rwa [if_pos (by omega)] at this
  · rintro ⟨hx, hy⟩ i hi
    split
    · exact hy i (by omega)
    · have := hx (lo + i - m) (by omega)
      rwa [Nat.zero_add] at this

theorem bit_slice {i : Nat} {h : i < k + m} :
    (HAppend.hAppend (γ := no_index (BitVec (k + m))) x y)[i] = if i < m then y.getLsbD i else x.getLsbD (i - m) := by
  rw [← BitVec.getLsbD_eq_getElem, BitVec.getLsbD_append]
end

@[simp] theorem getElem_bit (b : Bool) : (bit b)[0] = b := by cases b <;> rfl

theorem majorOf_eq_fld (w : Word32) : majorOf w = (fld w 25 7).toNat := by
  have := w.isLt
  rw [toNat_fld, majorOf]; omega

/-! The assigned values of a field (R70, R141 to R150). -/

@[simp] theorem BitsKind.ofBits_toBits (x : BitsKind) : BitsKind.ofBits x.toBits = some x := by cases x <;> rfl
@[simp] theorem ExtW.ofBits_toBits (x : ExtW) : ExtW.ofBits x.toBits = some x := by cases x <;> rfl
@[simp] theorem SgnKind.ofBits_toBits (x : SgnKind) : SgnKind.ofBits x.toBits = some x := by cases x <;> rfl
@[simp] theorem FenceKind.ofBits_toBits (x : FenceKind) : FenceKind.ofBits x.toBits = some x := by cases x <;> rfl
@[simp] theorem MCond.ofBits_toBits (x : MCond) : MCond.ofBits x.toBits = some x := by cases x <;> rfl
@[simp] theorem SelfSel.ofBits_toBits (x : SelfSel) : SelfSel.ofBits x.toBits = some x := by cases x <;> rfl
@[simp] theorem VCond.ofBits_toBits (x : VCond) : VCond.ofBits x.toBits = some x := by cases x <;> rfl
@[simp] theorem RedOp.ofBits_toBits (x : RedOp) : RedOp.ofBits x.toBits = some x := by cases x <;> rfl
@[simp] theorem MsetKind.ofBits_toBits (x : MsetKind) : MsetKind.ofBits x.toBits = some x := by cases x <;> rfl
@[simp] theorem AccMode.ofBits_toBits (x : AccMode) : AccMode.ofBits x.toBits = some x := by cases x <;> rfl
@[simp] theorem HField.ofBits_toBits (x : HField) : HField.ofBits x.toBits = some x := by cases x <;> rfl
@[simp] theorem HGetF.ofBits_toBits (x : HGetF) : HGetF.ofBits x.toBits = some x := by cases x <;> rfl
@[simp] theorem PxSize.ofBits_toBits (x : PxSize) : PxSize.ofBits x.toBits = some x := by cases x <;> rfl
@[simp] theorem InvKind.ofBits_toBits (x : InvKind) : InvKind.ofBits x.toBits = some x := by cases x <;> rfl

@[simp] theorem decRel_xopRel (r : Option Scope) : decRel (xopRel r) = .ok r := by
  rcases r with _ | sc
  · rfl
  · cases sc <;> rfl

/-! The decoder that a major opcode selects (R46, R47). -/

theorem majorOf_lt (w : Word32) : majorOf w < 0x80 := by
  have := w.isLt
  unfold majorOf; omega

theorem oneWord_major : ∀ m < 0x80, (0x0C ≤ m ∧ m < 0x2A) ∨ (0x30 ≤ m ∧ m < 0x34) ∨ (0x38 ≤ m ∧ m < 0x43) ∨
    (0x48 ≤ m ∧ m < 0x55) ∨ m = 0x5F ∨ (0x60 ≤ m ∧ m < 0x67) → isX m = false ∧ isReserved m = false := by
  decide

section
variable {w v : Word32} {ws : List Word32}

theorem decode_one (h : isX (majorOf w) = false) : decode (w :: ws) = decodeAt w 0 >>= fun i => .ok (i, ws) := by
  simp [decode, h]
theorem decode_two (h : isX (majorOf w) = true) : decode (w :: v :: ws) = decodeAt w v >>= fun i => .ok (i, ws) := by
  simp [decode, h]

theorem decodeAt_plumb (hr : isReserved (majorOf w) = false) (h : majorOf w < 0x0C) :
    decodeAt w v = decPlumb (majorOf w) w v := by
  simp [decodeAt, hr, h]
theorem decodeAt_sync (hr : isReserved (majorOf w) = false) (h : 0x58 ≤ majorOf w) (h' : majorOf w < 0x5F) :
    decodeAt w v = decSync (majorOf w) w v := by
  simp [decodeAt, hr, h', h.not_gt, (show 0x0C ≤ majorOf w by omega).not_gt, (show 0x20 ≤ majorOf w by omega).not_gt,
    (show 0x38 ≤ majorOf w by omega).not_gt, (show 0x43 ≤ majorOf w by omega).not_gt, h'.ne]
theorem decodeAt_task (hr : isReserved (majorOf w) = false) (h : 0x67 ≤ majorOf w) (h' : majorOf w < 0x76) :
    decodeAt w v = decTask (majorOf w) w v := by
  simp [decodeAt, hr, h', h.not_gt, (show 0x0C ≤ majorOf w by omega).not_gt, (show 0x20 ≤ majorOf w by omega).not_gt,
    (show 0x38 ≤ majorOf w by omega).not_gt, (show 0x43 ≤ majorOf w by omega).not_gt,
    (show 0x58 ≤ majorOf w by omega).not_gt, (show 0x5F ≤ majorOf w by omega).not_gt, (show majorOf w ≠ 0x5F by omega)]

theorem decode_int (h : 0x0C ≤ majorOf w) (h' : majorOf w < 0x20) :
    decode (w :: ws) = decInt (majorOf w) w >>= fun i => .ok (i, ws) := by
  obtain ⟨hx, hr⟩ := oneWord_major _ (majorOf_lt w) (by omega)
  simp [decode, decodeAt, hx, hr, h', h.not_gt]
theorem decode_imm (h : (0x20 ≤ majorOf w ∧ majorOf w < 0x2A) ∨ (0x30 ≤ majorOf w ∧ majorOf w < 0x34)) :
    decode (w :: ws) = decImm (majorOf w) w >>= fun i => .ok (i, ws) := by
  obtain ⟨hx, hr⟩ := oneWord_major _ (majorOf_lt w) (by omega)
  have h1 : ¬ majorOf w < 0x0C := by omega
  have h2 : ¬ majorOf w < 0x20 := by omega
  have h3 : majorOf w < 0x38 := by omega
  simp [decode, decodeAt, hx, hr, h1, h2, h3]
theorem decode_fp (h : 0x38 ≤ majorOf w) (h' : majorOf w < 0x43) :
    decode (w :: ws) = decFp (majorOf w) w >>= fun i => .ok (i, ws) := by
  obtain ⟨hx, hr⟩ := oneWord_major _ (majorOf_lt w) (by omega)
  have h1 : ¬ majorOf w < 0x0C := by omega
  have h2 : ¬ majorOf w < 0x20 := by omega
  simp [decode, decodeAt, hx, hr, h1, h2, h', h.not_gt]
theorem decode_mem (h : (0x48 ≤ majorOf w ∧ majorOf w < 0x55) ∨ majorOf w = 0x5F) :
    decode (w :: ws) = decMem (majorOf w) w >>= fun i => .ok (i, ws) := by
  obtain ⟨hx, hr⟩ := oneWord_major _ (majorOf_lt w) (by omega)
  have h1 : ¬ majorOf w < 0x0C := by omega
  have h2 : ¬ majorOf w < 0x20 := by omega
  have h3 : ¬ majorOf w < 0x38 := by omega
  have h4 : ¬ majorOf w < 0x43 := by omega
  have h5 : majorOf w < 0x58 ∨ majorOf w = 0x5F := by omega
  simp [decode, decodeAt, hx, hr, h1, h2, h3, h4, h5]
theorem decode_ctl (h : 0x60 ≤ majorOf w) (h' : majorOf w < 0x67) :
    decode (w :: ws) = decCtl (majorOf w) w >>= fun i => .ok (i, ws) := by
  obtain ⟨hx, hr⟩ := oneWord_major _ (majorOf_lt w) (by omega)
  have h1 : ¬ majorOf w < 0x0C := by omega
  have h2 : ¬ majorOf w < 0x20 := by omega
  have h3 : ¬ majorOf w < 0x38 := by omega
  have h4 : ¬ majorOf w < 0x43 := by omega
  have h5 : ¬ (majorOf w < 0x58 ∨ majorOf w = 0x5F) := by omega
  have h6 : ¬ majorOf w < 0x5F := by omega
  simp [decode, decodeAt, hx, hr, h1, h2, h3, h4, h5, h6, h']

theorem decode_vec (h : majorOf w = 0x78) : decode (w :: v :: ws) = decVec w v >>= fun i => .ok (i, ws) := by
  simp [decode, decodeAt, h, isX, isReserved]
theorem decode_tile (h : majorOf w = 0x79) : decode (w :: v :: ws) = decTile w v >>= fun i => .ok (i, ws) := by
  simp [decode, decodeAt, h, isX, isReserved]
theorem decode_eng (h : majorOf w = 0x7A) : decode (w :: v :: ws) = decEng w v >>= fun i => .ok (i, ws) := by
  simp [decode, decodeAt, h, isX, isReserved]
theorem decode_grout (h : majorOf w = 0x7B) : decode (w :: v :: ws) = decGrout w v >>= fun i => .ok (i, ws) := by
  simp [decode, decodeAt, h, isX, isReserved]
theorem decode_sys (h : majorOf w = 0x7C) : decode (w :: v :: ws) = decSys w v >>= fun i => .ok (i, ws) := by
  simp [decode, decodeAt, h, isX, isReserved]
end

/-! The fields of each word layout. -/

@[simp] theorem majorOf_packB (m : BitVec 7) (p : Pr) (e : BitVec 3) (off : BitVec 20) :
    majorOf (packB m p e off) = m.toNat := by
  have := off.isLt; have := e.isLt; have := p.toBits.isLt
  unfold majorOf; rw [toNat_packB]; omega

section
variable (m : BitVec 7) (p : Pr) (e : BitVec 3) (off : BitVec 20)
@[simp] theorem fld_packB_pr : fld (packB m p e off) 23 2 = p.toBits := by simp [packB, fld, slice_low, slice_high]
@[simp] theorem fld_packB_e : fld (packB m p e off) 20 3 = e := by simp [packB, fld, slice_low, slice_high]
@[simp] theorem fld_packB_off : fld (packB m p e off) 0 20 = off := by simp [packB, fld, slice_low]
end

section
variable (sub : BitVec 8) (d a b : BitVec 5) (m : BitVec 3) (x : BitVec 6)
@[simp] theorem fld_packV_sub : fld (packV sub d a b m x) 24 8 = sub := by simp [packV, fld, slice_high]
@[simp] theorem fld_packV_d : fld (packV sub d a b m x) 19 5 = d := by simp [packV, fld, slice_low, slice_high]
@[simp] theorem fld_packV_a : fld (packV sub d a b m x) 14 5 = a := by simp [packV, fld, slice_low, slice_high]
@[simp] theorem fld_packV_b : fld (packV sub d a b m x) 9 5 = b := by simp [packV, fld, slice_low, slice_high]
@[simp] theorem fld_packV_m : fld (packV sub d a b m x) 6 3 = m := by simp [packV, fld, slice_low, slice_high]
@[simp] theorem fld_packV_x : fld (packV sub d a b m x) 0 6 = x := by simp [packV, fld, slice_low]
end

/-! Fields with a rule of their own. -/

theorem toNat_zero_bit {n : Nat} (b : Bool) : (0#n ++ bit b).toNat ≤ 1 := by
  have := (bit b).isLt
  rw [toNat_append_mul]; simp; omega

theorem toNat_low_two {n : Nat} (x : BitVec n) (b : Bool) : ((x ++ 0#1 ++ bit b).extractLsb' 0 2).toNat ≤ 1 := by
  have := (bit b).isLt
  rw [BitVec.extractLsb'_toNat, Nat.shiftRight_zero, toNat_append_mul, toNat_append_mul]; simp; omega

@[simp] theorem xopT_lt (t : ElemTy) : (xopT t).toNat < 8 := by cases t <;> decide
@[simp] theorem ofBits_xopT (t : ElemTy) : ElemTy.ofBits ((xopT t).extractLsb' 0 3) = t := by cases t <;> rfl
theorem toBits_ne_three (k : FenceKind) : k.toBits ≠ 3#2 := by cases k <;> decide

section
variable (sc : Scope) (d : Bool)
@[simp] theorem immA_scope : Scope.ofBits ((immA sc d).extractLsb' 6 3) = some sc := by cases sc <;> cases d <;> rfl
@[simp] theorem immA_size : (immA sc d).toNat >>> 4 % 4 ≤ 1 := by cases sc <;> cases d <;> decide
@[simp] theorem immA_low : (immA sc d).extractLsb' 0 4 = 0#4 := by cases sc <;> cases d <;> rfl
@[simp] theorem immA_double : (immA sc d)[4] = d := by cases sc <;> cases d <;> rfl
end

theorem mmacFmtOk_le {fmt : BitVec 5} {w : BitVec 4} (h : mmacFmtOk fmt w = true) : fmt.toNat ≤ 5 := by
  simp only [mmacFmtOk, Bool.or_eq_true, Bool.and_eq_true, decide_eq_true_eq] at h
  omega

/-! Decoding what was encoded. The words stay variables while the decoder's checks are run down to the case of their major and
subop, so that the decoder's text stands once in each proof. -/

section
variable {w v : Word32}

theorem two_words_inj {a b : Word32} (h : [w, v] = [a, b]) : w = a ∧ v = b := by simpa using h

section
variable {m : BitVec 7} {p : Pr} {x : BitVec 5} {t1 t0 : Target}
theorem majorOf_of (h : w = packG m p x t1 t0) : majorOf w = m.toNat := h ▸ majorOf_packG m p x t1 t0
theorem gword_of (h : w = packG m p x t1 t0) : gword w = .ok ⟨p, x, t1, t0⟩ := h ▸ gword_packG m p x t1 t0
end

section
variable {sub : BitVec 8}
theorem sub_of_packV {d a b : BitVec 5} {m : BitVec 3} {x : BitVec 6} (h : v = packV sub d a b m x) : fld v 24 8 = sub :=
  h ▸ fld_packV_sub sub d a b m x
theorem sub_of_pack4 {a b c : BitVec 4} {lo : BitVec 12} (h : v = pack4 sub a b c lo) : fld v 24 8 = sub := by
  rw [h]; simp [pack4, fld, slice_high]
theorem sub_of_grout {op : BitVec 8} {c : BitVec 4} {lo : BitVec 12} (h : v = sub ++ op ++ c ++ lo) : fld v 24 8 = sub := by
  rw [h]; simp [fld, slice_high]
theorem sub_of_gather {a : BitVec 3} {b : BitVec 5} {c : BitVec 16} (h : v = sub ++ a ++ b ++ c) : fld v 24 8 = sub := by
  rw [h]; simp [fld, slice_high]
theorem sub_of_sys {lo : BitVec 24} (h : v = sub ++ lo) : fld v 24 8 = sub := by
  rw [h]; simp [fld, slice_high]
end
end

/-- Whether the instruction has one word. -/
def oneWord (i : Instr) : Bool := (encode i).length == 1

/-- Whether the instruction has two words and is of the vector stream. -/
def vecWords (i : Instr) : Bool := (encode i).length == 2 && vecMember i

/-- Whether the instruction has two words and is not of the vector stream. -/
def twoWords (i : Instr) : Bool := (encode i).length == 2 && !vecMember i

theorem encodes_split (i : Instr) : i.encodes = (oneWord i || twoWords i || vecWords i) := by cases i <;> rfl

theorem decode_encode_vec (i : Instr) (w v : Word32) (rest : List Word32) (h : vecWords i = true) (hwf : i.wf = true)
    (he : [w, v] = encode i) : decode (w :: v :: rest) = .ok (i, rest) := by
  cases i
  case vld | vlds | vldx | vst | vsts | vstx | vbcst | vmov | vadd | vsub | vmul | vfma | vdiv | vmin | vmax | vabs | vneg | vand
    | vor | vxor | vcmp | vsel | vcvt | vred | vscan | vperm | vrcp | vrsq | vexp2 | vlog2 | vsplt | vgetl
    | vsetl | mset | vplane =>
    dsimp only [encode, encV, Instr.wf] at he hwf
    obtain ⟨hw, hv⟩ := two_words_inj he
    simp only [decode_vec, majorOf_of hw, decVec, gword_of hw, sub_of_packV hv, BitVec.reduceToNat, ok_bind]
    subst hw hv
    simp_all [slice_low, slice_high, bit_slice]
  case vshl | vshr | vsar =>
    dsimp only [encode, encV, Instr.wf] at he hwf
    obtain ⟨hw, hv⟩ := two_words_inj he
    simp only [decode_vec, majorOf_of hw, decVec, gword_of hw, sub_of_packV hv, BitVec.reduceToNat, ok_bind]
    subst hw hv
    simp_all [vshiftOk]
  case vacrd ty _ _ _ _ | vacwr ty _ _ _ _ =>
    dsimp only [encode, encV, Instr.wf] at he hwf
    obtain ⟨hw, hv⟩ := two_words_inj he
    simp only [decode_vec, majorOf_of hw, decVec, gword_of hw, sub_of_packV hv, BitVec.reduceToNat, ok_bind]
    subst hw hv
    cases ty <;> simp_all [chunkOk, slice_low, bit_slice]
  all_goals exact absurd h Bool.false_ne_true

theorem decode_encode_two (i : Instr) (w v : Word32) (rest : List Word32) (h : twoWords i = true) (hwf : i.wf = true)
    (he : [w, v] = encode i) : decode (w :: v :: rest) = .ok (i, rest) := by
  cases i
  case movl | gencl =>
    dsimp only [encode, Instr.wf] at he hwf
    obtain ⟨hw, hv⟩ := two_words_inj he
    simp only [decode_two, decodeAt_plumb, majorOf_of hw, isX, isReserved, List.contains_cons, List.contains_nil,
      Nat.reduceBEq, Nat.reduceLeDiff, Nat.reduceLT, Bool.or_false, Bool.or_true, decide_true, decide_false,
      Bool.false_and, decPlumb, gword_of hw, BitVec.reduceToNat, ok_bind]
    subst hw hv
    simp [fld, slice_low, slice_high]
  case amo | cas | famo =>
    dsimp only [encode, Instr.wf] at he hwf
    obtain ⟨hw, hv⟩ := two_words_inj he
    simp only [decode_two, decodeAt_sync, majorOf_of hw, isX, isReserved, List.contains_cons, List.contains_nil,
      Nat.reduceBEq, Nat.reduceLeDiff, Nat.reduceLT, Bool.or_false, Bool.or_true, decide_true, decide_false,
      Bool.and_false, Bool.false_and, decSync, gword_of hw, BitVec.reduceToNat, ok_bind]
    subst hw hv
    simp [packA, fld, toNat_zero_bit, slice_low, slice_high, bit_slice]
  case fencer | fencerArm | fencerDisarm =>
    dsimp only [encode, Instr.wf] at he hwf
    obtain ⟨hw, hv⟩ := two_words_inj he
    simp only [decode_two, decodeAt_sync, majorOf_of hw, isX, isReserved, List.contains_cons, List.contains_nil,
      Nat.reduceBEq, Nat.reduceLeDiff, Nat.reduceLT, Bool.or_false, Bool.or_true, decide_true, decide_false,
      Bool.and_false, Bool.false_and, decSync, gword_of hw, BitVec.reduceToNat, ok_bind]
    subst hw hv
    simp_all [packR, fld, xb, toBits_ne_three, slice_low, slice_high, bit_slice]
  case tspawn | tsendh | tfork | qfill =>
    dsimp only [encode, Instr.wf] at he hwf
    obtain ⟨hw, hv⟩ := two_words_inj he
    simp only [decode_two, decodeAt_task, majorOf_of hw, isX, isReserved, List.contains_cons, List.contains_nil,
      Nat.reduceBEq, Nat.reduceLeDiff, Nat.reduceLT, Bool.or_false, Bool.or_true, decide_true, decide_false,
      Bool.and_false, Bool.false_and, decTask, gword_of hw, BitVec.reduceToNat, ok_bind]
    subst hw hv
    simp_all [fld, slice_low, slice_high, bit_slice]
  case hdef | hset | hadv | hget | mzero | mma | mcvt | madda | ptrim | pxpose | mstat =>
    dsimp only [encode, encT, Instr.wf] at he hwf
    obtain ⟨hw, hv⟩ := two_words_inj he
    simp only [decode_tile, majorOf_of hw, decTile, gword_of hw, sub_of_pack4 hv, BitVec.reduceToNat, ok_bind]
    subst hw hv
    simp_all [pack4, fld, xb, slice_low, slice_high, slice_across, bit_slice]
  case mmac =>
    dsimp only [encode, encT, Instr.wf] at he hwf
    obtain ⟨hw, hv⟩ := two_words_inj he
    simp only [decode_tile, majorOf_of hw, decTile, gword_of hw, sub_of_pack4 hv, BitVec.reduceToNat, ok_bind]
    subst hw hv
    simp [pack4, fld, xb, mmacFmtOk_le hwf, hwf, slice_low, slice_high, bit_slice]
  case xcopy | xcopyf | xchain | xwptr | waitt | rdtl | xred | xired | xpkl | nput | nget | namo | xdisc =>
    dsimp only [encode, encE, Instr.wf] at he hwf
    obtain ⟨hw, hv⟩ := two_words_inj he
    simp only [decode_eng, majorOf_of hw, decEng, gword_of hw, sub_of_pack4 hv, BitVec.reduceToNat, ok_bind]
    subst hw hv
    simp [pack4, fld, slice_low, slice_high, slice_across, bit_slice]
  case xgath | xscat =>
    dsimp only [encode, encE, Instr.wf] at he hwf
    obtain ⟨hw, hv⟩ := two_words_inj he
    simp only [decode_eng, majorOf_of hw, decEng, gword_of hw, sub_of_gather hv, BitVec.reduceToNat, ok_bind]
    subst hw hv
    simp [fld, slice_low, slice_high]
  case ctlrd | ctlwr | ctlset | ctlclr | eret | ctxsv | ctxld | ttinv | leaseAdd | leaseDrop | ptok | hint | haltd | cycrd | idle =>
    dsimp only [encode, encS, Instr.wf] at he hwf
    obtain ⟨hw, hv⟩ := two_words_inj he
    simp only [decode_sys, majorOf_of hw, decSys, gword_of hw, sub_of_sys hv, BitVec.reduceToNat, ok_bind]
    subst hw hv
    simp_all [fld, slice_low, slice_high]
  case gcfg | garg | gsend | grecv | greconf | gstat | gdrain =>
    dsimp only [encode, encG, Instr.wf] at he hwf
    obtain ⟨hw, hv⟩ := two_words_inj he
    simp only [decode_grout, majorOf_of hw, decGrout, gword_of hw, sub_of_grout hv, BitVec.reduceToNat, ok_bind]
    subst hw hv
    simp_all [fld, slice_low, slice_high, bit_slice]
  all_goals exact absurd h Bool.false_ne_true

theorem decode_encode_one (i : Instr) (w : Word32) (rest : List Word32) (h : oneWord i = true) (hwf : i.wf = true)
    (he : [w] = encode i) : decode (w :: rest) = .ok (i, rest) := by
  cases i
  case gread | xread | gwrite | xwrite | genc | gencn | appc =>
    dsimp only [encode, Instr.wf] at he hwf
    have hw := List.singleton_inj.1 he
    subst hw
    simp_all [decode_one, decodeAt_plumb, isX, isReserved, decPlumb, majorOf_eq_fld, fld, slice_low, slice_high]
  case mov | null =>
    dsimp only [encode, Instr.wf] at he hwf
    have hw := List.singleton_inj.1 he
    simp only [decode_one, decodeAt_plumb, isX, isReserved, List.contains_cons, List.contains_nil, Nat.reduceBEq,
      Nat.reduceLeDiff, Nat.reduceLT, Bool.or_false, decide_true, decide_false, Bool.false_and, majorOf_of hw, decPlumb,
      gword_of hw, BitVec.reduceToNat, ok_bind]
    subst hw
    simp
  case add | sub | mul | mulh | div | rem | and | or | xor | andn | shl | shr | sar | rot | min | max | bits | ext | sel | madd =>
    dsimp only [encode, Instr.wf] at he hwf
    have hw := List.singleton_inj.1 he
    simp only [decode_int, Nat.reduceLeDiff, Nat.reduceLT, majorOf_of hw, decInt, gword_of hw, BitVec.reduceToNat, ok_bind]
    subst hw
    simp [xopW, xopN, xb, slice_low, slice_high, bit_slice]
  case addi | muli | andi | ori | xori | shli | shri | sari | mini | maxi =>
    dsimp only [encode, Instr.wf] at he hwf
    have hw := List.singleton_inj.1 he
    simp only [decode_imm, Nat.reduceLeDiff, Nat.reduceLT, and_self, true_or, and_true, majorOf_of hw, decImm,
      gword_of hw, BitVec.reduceToNat, ok_bind]
    subst hw
    simp_all [xopW, xopN, xb, slice_high, bit_slice]
  case tcmp | tcmpi | fcmp | tbit =>
    dsimp only [encode, Instr.wf] at he hwf
    have hw := List.singleton_inj.1 he
    simp only [decode_imm, Nat.reduceLeDiff, Nat.reduceLT, and_self, or_true, true_and, majorOf_of hw, decImm,
      gword_of hw, BitVec.reduceToNat, ok_bind]
    subst hw
    simp [xopW, xb, toNat_zero_bit, slice_low, bit_slice]
  case fadd | fsub | fmul | fdiv | fsqrt | fma | fmin | fmax | fcvt | fclass | fsgn =>
    dsimp only [encode, Instr.wf] at he hwf
    have hw := List.singleton_inj.1 he
    simp only [decode_fp, Nat.reduceLeDiff, Nat.reduceLT, majorOf_of hw, decFp, gword_of hw, BitVec.reduceToNat, ok_bind]
    subst hw
    simp_all [xopF, xb, slice_low, slice_across, bit_slice]
  case ldb | ldbn | ldh | ldhn | ldw | ldwn | ldd =>
    dsimp only [encode, Instr.wf] at he hwf
    have hw := List.singleton_inj.1 he
    simp only [decode_mem, Nat.reduceLeDiff, Nat.reduceLT, and_self, true_or, majorOf_of hw, decMem, gword_of hw,
      BitVec.reduceToNat, ok_bind]
  case lda | stb | sth | stw | std | stl | pref =>
    dsimp only [encode, Instr.wf] at he hwf
    have hw := List.singleton_inj.1 he
    simp only [decode_mem, Nat.reduceLeDiff, Nat.reduceLT, and_self, or_true, true_or, true_and, majorOf_of hw, decMem,
      gword_of hw, BitVec.reduceToNat, ok_bind]
    subst hw
    simp
  case fence | fwait | mwait =>
    dsimp only [encode, Instr.wf] at he hwf
    have hw := List.singleton_inj.1 he
    simp only [decode_one, decodeAt_sync, isX, isReserved, List.contains_cons, List.contains_nil, Nat.reduceBEq,
      Nat.reduceLeDiff, Nat.reduceLT, Bool.or_false, decide_true, decide_false, Bool.and_false, Bool.false_and,
      majorOf_of hw, decSync, gword_of hw, BitVec.reduceToNat, ok_bind]
    subst hw
    simp [slice_low, slice_high]
  case bri | retb | tend | tendOp0 | trap =>
    dsimp only [encode, Instr.wf] at he hwf
    have hw := List.singleton_inj.1 he
    simp only [decode_ctl, Nat.reduceLeDiff, Nat.reduceLT, majorOf_of hw, decCtl, gword_of hw, BitVec.reduceToNat, ok_bind]
    subst hw
    simp [slice_low, slice_high, bit_slice]
  case br | callb | yield =>
    dsimp only [encode, Instr.wf] at he hwf
    have hw := List.singleton_inj.1 he
    subst hw
    simp [decode_ctl, decCtl, gword]
  case tsend | tself | tkill | bara | barw | qtkt | qpop | qpeek | qocc | qinit =>
    dsimp only [encode, Instr.wf] at he hwf
    have hw := List.singleton_inj.1 he
    simp only [decode_one, decodeAt_task, isX, isReserved, List.contains_cons, List.contains_nil, Nat.reduceBEq,
      Nat.reduceLeDiff, Nat.reduceLT, Bool.or_false, decide_true, decide_false, Bool.and_false, Bool.false_and,
      majorOf_of hw, decTask, gword_of hw, BitVec.reduceToNat, ok_bind]
    subst hw
    simp_all [xb, toNat_low_two, slice_low, slice_high, bit_slice, -BitVec.extractLsb'_toNat]
  all_goals exact absurd h Bool.false_ne_true

/-- Settles O4: by the word count of the instruction; in each case the fields of the packed words read back as the operands. -/
theorem decodeOfEncodeIsTheInstruction : Obligations.DecodeOfEncodeIsTheInstruction := by
  intro i rest he hw
  rw [encodes_split, Bool.or_eq_true, Bool.or_eq_true] at he
  have two (h : (encode i).length = 2) (hd : ∀ w v, [w, v] = encode i → decode (w :: v :: rest) = .ok (i, rest)) :
      decode (encode i ++ rest) = .ok (i, rest) := by
    obtain ⟨w, v, e⟩ := List.length_eq_two.1 h
    rw [e]
    exact hd w v e.symm
  obtain (h | h) | h := he
  · obtain ⟨w, e⟩ := List.length_eq_one_iff.1 (eq_of_beq h)
    rw [e]
    exact decode_encode_one i w rest h hw e.symm
  · exact two (eq_of_beq (Bool.and_elim_left h)) fun w v => decode_encode_two i w v rest h hw
  · exact two (eq_of_beq (Bool.and_elim_left h)) fun w v => decode_encode_vec i w v rest h hw

end Sys2Proof.Proofs
end

section
/-!
SUPPORT. Words that decode are the encoding of what they decode to (R63, R139,
  R151). Each group of majors has one lemma: a check
that passed gives an equation of fields, and the words are equal to the packed ones because their fields are.
-/

namespace Sys2Proof.Proofs

open Sys2Proof Sys2Proof.Machine Sys2Proof.Safety Sys2Proof.Laws

/-! A field that reads as a value holds that value's code. -/

section
theorem Scope.ofBits_eq_some {x : BitVec 3} {k : Scope} : Scope.ofBits x = some k ↔ x = k.toBits :=
  ⟨by revert x; cases k <;> decide, fun e => e ▸ Scope.ofBits_toBits k⟩
theorem XKind.ofBits_eq_some {x : BitVec 2} {k : XKind} : XKind.ofBits x = some k ↔ x = k.toBits :=
  ⟨by revert x; cases k <;> decide, fun e => e ▸ XKind.ofBits_toBits k⟩
theorem Cond.ofBits_eq_some {x : BitVec 4} {k : Cond} : Cond.ofBits x = some k ↔ x = k.toBits :=
  ⟨by revert x; cases k <;> decide, fun e => e ▸ Cond.ofBits_toBits k⟩
theorem FCond.ofBits_eq_some {x : BitVec 4} {k : FCond} : FCond.ofBits x = some k ↔ x = k.toBits :=
  ⟨by revert x; cases k <;> decide, fun e => e ▸ FCond.ofBits_toBits k⟩
theorem Rm.ofBits_eq_some {x : BitVec 3} {k : Rm} : Rm.ofBits x = some k ↔ x = k.toBits :=
  ⟨by revert x; cases k <;> decide, fun e => e ▸ Rm.ofBits_toBits k⟩
theorem BitsKind.ofBits_eq_some {x : BitVec 3} {k : BitsKind} : BitsKind.ofBits x = some k ↔ x = k.toBits :=
  ⟨by revert x; cases k <;> decide, fun e => e ▸ BitsKind.ofBits_toBits k⟩
theorem ExtW.ofBits_eq_some {x : BitVec 2} {k : ExtW} : ExtW.ofBits x = some k ↔ x = k.toBits :=
  ⟨by revert x; cases k <;> decide, fun e => e ▸ ExtW.ofBits_toBits k⟩
theorem SgnKind.ofBits_eq_some {x : BitVec 3} {k : SgnKind} : SgnKind.ofBits x = some k ↔ x = k.toBits :=
  ⟨by revert x; cases k <;> decide, fun e => e ▸ SgnKind.ofBits_toBits k⟩
theorem AmoOp.ofBits_eq_some {x : BitVec 4} {k : AmoOp} : AmoOp.ofBits x = some k ↔ x = k.toBits :=
  ⟨by revert x; cases k <;> decide, fun e => e ▸ AmoOp.ofBits_toBits k⟩
theorem FamoOp.ofBits_eq_some {x : BitVec 4} {k : FamoOp} : FamoOp.ofBits x = some k ↔ x = k.toBits :=
  ⟨by revert x; cases k <;> decide, fun e => e ▸ FamoOp.ofBits_toBits k⟩
theorem FenceKind.ofBits_eq_some {x : BitVec 2} {k : FenceKind} : FenceKind.ofBits x = some k ↔ x = k.toBits :=
  ⟨by revert x; cases k <;> decide, fun e => e ▸ FenceKind.ofBits_toBits k⟩
theorem MCond.ofBits_eq_some {x : BitVec 2} {k : MCond} : MCond.ofBits x = some k ↔ x = k.toBits :=
  ⟨by revert x; cases k <;> decide, fun e => e ▸ MCond.ofBits_toBits k⟩
theorem SelfSel.ofBits_eq_some {x : BitVec 5} {k : SelfSel} : SelfSel.ofBits x = some k ↔ x = k.toBits :=
  ⟨by revert x; cases k <;> decide, fun e => e ▸ SelfSel.ofBits_toBits k⟩
theorem VCond.ofBits_eq_some {x : BitVec 6} {k : VCond} : VCond.ofBits x = some k ↔ x = k.toBits :=
  ⟨by revert x; cases k <;> decide, fun e => e ▸ VCond.ofBits_toBits k⟩
theorem RedOp.ofBits_eq_some {x : BitVec 6} {k : RedOp} : RedOp.ofBits x = some k ↔ x = k.toBits :=
  ⟨by revert x; cases k <;> decide, fun e => e ▸ RedOp.ofBits_toBits k⟩
theorem MsetKind.ofBits_eq_some {x : BitVec 6} {k : MsetKind} : MsetKind.ofBits x = some k ↔ x = k.toBits :=
  ⟨by revert x; cases k <;> decide, fun e => e ▸ MsetKind.ofBits_toBits k⟩
theorem AccMode.ofBits_eq_some {x : BitVec 2} {k : AccMode} : AccMode.ofBits x = some k ↔ x = k.toBits :=
  ⟨by revert x; cases k <;> decide, fun e => e ▸ AccMode.ofBits_toBits k⟩
theorem HField.ofBits_eq_some {x : BitVec 3} {k : HField} : HField.ofBits x = some k ↔ x = k.toBits :=
  ⟨by revert x; cases k <;> decide, fun e => e ▸ HField.ofBits_toBits k⟩
theorem HGetF.ofBits_eq_some {x : BitVec 4} {k : HGetF} : HGetF.ofBits x = some k ↔ x = k.toBits :=
  ⟨by revert x; cases k <;> decide, fun e => e ▸ HGetF.ofBits_toBits k⟩
theorem PxSize.ofBits_eq_some {x : BitVec 2} {k : PxSize} : PxSize.ofBits x = some k ↔ x = k.toBits :=
  ⟨by revert x; cases k <;> decide, fun e => e ▸ PxSize.ofBits_toBits k⟩
theorem InvKind.ofBits_eq_some {x : BitVec 2} {k : InvKind} : InvKind.ofBits x = some k ↔ x = k.toBits :=
  ⟨by revert x; cases k <;> decide, fun e => e ▸ InvKind.ofBits_toBits k⟩
theorem HintKind.ofBits_eq_some {x : BitVec 8} {k : HintKind} : HintKind.ofBits x = some k ↔ x = k.toBits :=
  ⟨by revert x; cases k <;> decide, fun e => e ▸ HintKind.ofBits_toBits k⟩
theorem Pr.ofBits_eq_ok {x : BitVec 2} {p : Pr} : Pr.ofBits x = .ok p ↔ x = p.toBits :=
  ⟨by revert x; cases p <;> decide, fun e => e ▸ Pr.ofBits_toBits p⟩
theorem decRel_eq_ok {x : BitVec 5} {r : Option Scope} : decRel x = .ok r ↔ x = xopRel r := by
  refine ⟨?_, fun e => e ▸ decRel_xopRel r⟩
  rcases r with _ | s
  · revert x; decide
  · revert x; cases s <;> decide
@[simp] theorem ElemTy.toBits_ofBits (x : BitVec 3) : (ElemTy.ofBits x).toBits = x := by revert x; decide
@[simp] theorem Order.toBits_ofBits (x : BitVec 2) : (Order.ofBits x).toBits = x := by revert x; decide
theorem ElemTy.ofBits_eq_f64 {x : BitVec 3} : ElemTy.ofBits x = .f64 ↔ x = 1#3 := by revert x; decide
theorem xopT_ofBits {x : BitVec 5} (h : x.toNat < 8) : xopT (ElemTy.ofBits (x.extractLsb' 0 3)) = x := by
  revert x; decide
theorem toNat_xopT_f64 : (xopT .f64).toNat = 1 := rfl
theorem noT_iff {g : GWord} : g.noT = true ↔ g.t1 = 0 ∧ g.t0 = 0 := by simp [GWord.noT]
end

/-! Checks in a row. -/

section
variable {α β γ : Type} {b : β}
theorem bind_bind (r : Except DecodeError α) (f : α → Except DecodeError β) (k : β → Except DecodeError γ) :
    ((r >>= f) >>= k) = r >>= fun a => f a >>= k := by
  cases r <;> rfl
theorem bind_eq_ok {r : Except DecodeError α} {k : α → Except DecodeError β} :
    r >>= k = .ok b ↔ ∃ a, r = .ok a ∧ k a = .ok b := by
  cases r <;> simp [bind, Except.bind]
theorem decRel_bind_ok {x : BitVec 5} {k : Option Scope → Except DecodeError β} :
    decRel x >>= k = .ok b ↔ ∃ r, x = xopRel r ∧ k r = .ok b := by
  simp only [bind_eq_ok, decRel_eq_ok]
theorem pr_bind_ok {x : BitVec 2} {k : Pr → Except DecodeError β} :
    Pr.ofBits x >>= k = .ok b ↔ ∃ p : Pr, x = p.toBits ∧ k p = .ok b := by
  simp only [bind_eq_ok, Pr.ofBits_eq_ok]
theorem gword_bind_ok {w : Word32} {k : GWord → Except DecodeError β} : gword w >>= k = .ok b ↔
    ∃ p : Pr, fld w 23 2 = p.toBits ∧ k ⟨p, fld w 18 5, fld w 9 9, fld w 0 9⟩ = .ok b := by
  simp only [gword, bind_bind, ok_bind, pr_bind_ok]
end

/-! A word is an append exactly when its fields are the appended ones, and a field of a field is a field. -/

theorem append_eq_iff {k m : Nat} {x : BitVec k} {y : BitVec m} {z : BitVec (k + m)} :
    @Eq (no_index (BitVec (k + m))) (HAppend.hAppend (γ := no_index (BitVec (k + m))) x y) z ↔
      x = z.extractLsb' m k ∧ y = z.extractLsb' 0 m := by
  constructor
  · rintro rfl
    exact ⟨by rw [slice_high (Nat.le_refl m), Nat.sub_self]; simp, by rw [slice_low (by omega)]; simp⟩
  · rintro ⟨rfl, rfl⟩
    ext i hi
    simp

section
variable {w : Word32} {a n b m i : Nat}
theorem slice_word : w.extractLsb' a n = fld w a n := rfl
theorem slice_fld (h : b + m ≤ n) : (fld w a n).extractLsb' b m = fld w (a + b) m := by
  unfold fld
  ext i hi
  simp [Nat.add_assoc]
  omega
theorem xopT_ofBits_fld (h : (fld w 18 5).toNat < 8) : xopT (ElemTy.ofBits (fld w 18 3)) = fld w 18 5 := by
  simpa only [slice_fld (show 0 + 3 ≤ 5 by decide), Nat.add_zero] using xopT_ofBits h
/-- Where a field is zero, so is each field of it. -/
theorem fld_eq_zero_iff : fld w a n = 0#n ↔ ∀ b m, a ≤ b → b + m ≤ a + n → (0#m = fld w b m ↔ True) := by
  refine ⟨fun h b m hb hm => ?_, fun h => ((h a n (Nat.le_refl a) (Nat.le_refl _)).2 trivial).symm⟩
  have hs := slice_fld (w := w) (a := a) (n := n) (b := b - a) (m := m) (by omega)
  rw [h, Nat.add_sub_cancel' hb] at hs
  rw [← hs]
  simp
theorem getLsbD_fld (h : i < n) : (fld w a n).getLsbD i = w.getLsbD (a + i) := by simp [fld, h]
theorem bit_getLsbD : bit (w.getLsbD i) = fld w i 1 := by
  ext j hj
  obtain rfl : j = 0 := by omega
  simp [fld]
theorem toNat_eq_lit {x : BitVec n} (h : m < 2 ^ n) : x.toNat = m ↔ x = BitVec.ofNat n m := by
  rw [← BitVec.toNat_inj, BitVec.toNat_ofNat, Nat.mod_eq_of_lt h]
theorem getLsbD_eq_true : w.getLsbD i = true ↔ (fld w i 1).toNat = 1 := by
  rw [← bit_getLsbD]
  cases w.getLsbD i <;> simp [bit]
theorem getLsbD_eq_false : w.getLsbD i = false ↔ (fld w i 1).toNat = 0 := by
  rw [← bit_getLsbD]
  cases w.getLsbD i <;> simp [bit]
end

theorem eq_of_lt_succ_of_ne {n k : Nat} (h : ∀ j < k, n ≠ j) (hn : n < k + 1) : n = k :=
  (Nat.lt_succ_iff_lt_or_eq.1 hn).resolve_left fun hlt => h n hlt rfl

/-- The words ws are the encoding of the well-formed instruction i. -/
def Stands (ws : List Word32) (i : Instr) : Prop := i.encodes = true ∧ i.wf = true ∧ encode i = ws

theorem stands_gword {w : Word32} {ws : List Word32} {k : GWord → Except DecodeError Instr}
    (h : ∀ p : Pr, fld w 23 2 = p.toBits → ∀ i, k ⟨p, fld w 18 5, fld w 9 9, fld w 0 9⟩ = .ok i → Stands ws i) :
    ∀ i, gword w >>= k = .ok i → Stands ws i := by
  intro i hi
  obtain ⟨p, hp, hk⟩ := gword_bind_ok.1 hi
  exact h p hp i hk

/-- The words that an instruction at w takes, the word after it being v. -/
def slotWords (w v : Word32) : List Word32 := if isX (majorOf w) then [w, v] else [w]

/-! One lemma for each group of majors. Its cases are those of the decoder's match; in each the checks that passed are equations of
fields, the words asked for are appended from fields, and what is left of bounds and single bits is arithmetic. -/

section
variable {w v : Word32}

theorem decPlumb_stands : ∀ i, decPlumb (majorOf w) w v = .ok i → Stands (slotWords w v) i := by
  unfold decPlumb
  intro i
  split
  all_goals simp only [pr_bind_ok, gword_bind_ok, guard12_bind_ok, assigned_bind_ok, XKind.ofBits_eq_some,
    guard13_bind_ok, Except.ok.injEq, reduceCtorEq, Bool.and_eq_true, beq_iff_eq, and_imp, forall_exists_index,
    false_imp_iff]
  all_goals intros; subst_vars
  all_goals simp only [slotWords, isX, List.contains_cons, List.contains_nil, Nat.reduceBEq, Bool.or_false, Bool.or_true,
    ↓reduceIte, Bool.false_eq_true, *]
  all_goals dsimp only [Stands, Instr.encodes, Instr.wf, encode, packG] at *
  all_goals simp only [fld_eq_zero_iff, append_eq_iff, slice_word, slice_fld, majorOf_eq_fld, toNat_eq_lit,
    BitVec.ofNat_eq_ofNat, Nat.reduceLT, Nat.reducePow, Nat.reduceAdd, Nat.reduceLeDiff, List.cons.injEq, and_true,
    true_and] at *
  all_goals simp only [*, Nat.reduceAdd, Nat.reduceLeDiff, and_self]

theorem decInt_stands : ∀ i, decInt (majorOf w) w = .ok i → Stands [w] i := by
  unfold decInt
  refine stands_gword fun p hp i => ?_
  dsimp only
  split
  all_goals simp only [assigned_bind_ok, BitsKind.ofBits_eq_some, ExtW.ofBits_eq_some, guard13_bind_ok, Except.ok.injEq,
    reduceCtorEq, Bool.not_eq_true', beq_iff_eq, and_imp, forall_exists_index, false_imp_iff]
  all_goals intros; subst_vars
  all_goals dsimp only [Stands, Instr.encodes, Instr.wf, encode, packG, xopW, xopN, xb] at *
  all_goals simp only [fld_eq_zero_iff, append_eq_iff, slice_word, slice_fld, getLsbD_fld, bit_getLsbD, majorOf_eq_fld,
    toNat_eq_lit, BitVec.ofNat_eq_ofNat, Nat.reduceLT, Nat.reducePow, Nat.reduceAdd, Nat.reduceLeDiff, List.cons.injEq,
    and_true, true_and] at *
  all_goals simp only [*, Nat.reduceAdd, Nat.reduceLeDiff, and_self, true_and, and_true]
  all_goals simp only [← BitVec.toNat_inj, toNat_fld, getLsbD_eq_false, BitVec.toNat_ofNat] at *
  all_goals omega

theorem decImm_stands : ∀ i, decImm (majorOf w) w = .ok i → Stands [w] i := by
  unfold decImm
  refine stands_gword fun p hp i => ?_
  dsimp only
  split
  all_goals simp only [guard12_bind_ok, assigned_bind_ok, Cond.ofBits_eq_some, FCond.ofBits_eq_some, guard13_bind_ok,
    Except.ok.injEq, reduceCtorEq, Bool.and_eq_true, beq_iff_eq, and_imp, forall_exists_index, false_imp_iff]
  all_goals intros; subst_vars
  all_goals dsimp only [Stands, Instr.encodes, Instr.wf, encode, packG, xopW, xopN, xb] at *
  all_goals simp only [fld_eq_zero_iff, append_eq_iff, slice_word, slice_fld, getLsbD_fld, bit_getLsbD, majorOf_eq_fld,
    toNat_eq_lit, BitVec.ofNat_eq_ofNat, Nat.reduceLT, Nat.reducePow, Nat.reduceAdd, Nat.reduceLeDiff, List.cons.injEq,
    and_true, true_and] at *
  all_goals simp only [*, Nat.reduceAdd, Nat.reduceLeDiff, and_self, true_and]
  all_goals simp only [decide_eq_true_eq, ← BitVec.toNat_inj, toNat_fld, BitVec.toNat_ofNat] at *
  all_goals omega

theorem decFp_stands : ∀ i, decFp (majorOf w) w = .ok i → Stands [w] i := by
  unfold decFp
  refine stands_gword fun p hp i => ?_
  dsimp only
  split
  all_goals simp only [bind_bind, ok_bind, guard12_bind_ok, assigned_bind_ok, Rm.ofBits_eq_some, SgnKind.ofBits_eq_some,
    guard13_bind_ok, Except.ok.injEq, reduceCtorEq, Bool.not_eq_true', beq_iff_eq, and_imp, forall_exists_index,
    false_imp_iff]
  all_goals intros; subst_vars
  all_goals dsimp only [Stands, Instr.encodes, Instr.wf, encode, packG, xopF, xb] at *
  all_goals simp only [fld_eq_zero_iff, append_eq_iff, slice_word, slice_fld, getLsbD_fld, bit_getLsbD, majorOf_eq_fld,
    toNat_eq_lit, BitVec.ofNat_eq_ofNat, Nat.reduceLT, Nat.reducePow, Nat.reduceAdd, Nat.reduceLeDiff, List.cons.injEq,
    and_true, true_and] at *
  all_goals simp only [*, Nat.reduceAdd, Nat.reduceLeDiff, and_self, true_and, and_true]
  all_goals simp only [← BitVec.toNat_inj, toNat_fld, getLsbD_eq_false, BitVec.toNat_ofNat] at *
  all_goals omega

theorem decMem_stands : ∀ i, decMem (majorOf w) w = .ok i → Stands [w] i := by
  unfold decMem
  refine stands_gword fun p hp i => ?_
  dsimp only
  split
  all_goals simp only [bind_bind, ok_bind, guard12_bind_ok, assigned_bind_ok, Scope.ofBits_eq_some, guard13_bind_ok,
    Except.ok.injEq, reduceCtorEq, Bool.and_eq_true, beq_iff_eq, and_imp, forall_exists_index, false_imp_iff]
  all_goals intros; subst_vars
  all_goals dsimp only [Stands, Instr.encodes, Instr.wf, encode, packG, immA] at *
  all_goals simp only [fld_eq_zero_iff, append_eq_iff, slice_word, slice_fld, getLsbD_fld, bit_getLsbD, majorOf_eq_fld,
    toNat_eq_lit, BitVec.ofNat_eq_ofNat, Nat.reduceLT, Nat.reducePow, Nat.reduceAdd, Nat.reduceLeDiff, List.cons.injEq,
    and_true, true_and] at *
  all_goals simp only [*, Nat.reduceAdd, Nat.reduceLeDiff, and_self, true_and, and_true]
  all_goals simp only [decide_eq_true_eq, ← BitVec.toNat_inj, toNat_fld, BitVec.toNat_ofNat] at *
  all_goals omega

theorem decSync_stands : ∀ i, decSync (majorOf w) w v = .ok i → Stands (slotWords w v) i := by
  unfold decSync
  refine stands_gword fun p hp i => ?_
  dsimp only
  split
  case' h_5 => cases h3 : (fld w 18 5).extractLsb' 0 2 == 3
  case' h_5.true => cases h2 : xb (fld w 18 5) 2
  all_goals simp only [Bool.false_eq_true, ↓reduceIte, bind_bind, ok_bind, guard12_bind_ok, assigned_bind_ok,
    Scope.ofBits_eq_some, AmoOp.ofBits_eq_some, FamoOp.ofBits_eq_some, FenceKind.ofBits_eq_some, MCond.ofBits_eq_some,
    guard13_bind_ok, Except.ok.injEq, reduceCtorEq, Bool.and_eq_true, Bool.not_eq_true', beq_iff_eq, and_imp,
    forall_exists_index, false_imp_iff]
  all_goals intros; subst_vars
  all_goals simp only [slotWords, isX, List.contains_cons, List.contains_nil, Nat.reduceBEq, Bool.or_false, Bool.or_true,
    ↓reduceIte, Bool.false_eq_true, *]
  all_goals dsimp only [Stands, Instr.encodes, Instr.wf, encode, packG, packA, packR, xb] at *
  all_goals simp only [fld_eq_zero_iff, append_eq_iff, slice_word, slice_fld, getLsbD_fld, bit_getLsbD, majorOf_eq_fld,
    toNat_eq_lit, BitVec.ofNat_eq_ofNat, Nat.reduceLT, Nat.reducePow, Nat.reduceAdd, Nat.reduceLeDiff, List.cons.injEq,
    and_true, true_and, Order.toBits_ofBits, beq_iff_eq, beq_eq_false_iff_ne, ne_eq] at *
  all_goals simp only [*, Nat.reduceAdd, Nat.reduceLeDiff, and_self, true_and, and_true]
  all_goals simp only [decide_eq_true_eq, ← BitVec.toNat_inj, toNat_fld, getLsbD_eq_false, getLsbD_eq_true,
    BitVec.toNat_ofNat] at *
  all_goals omega

theorem decCtl_stands : ∀ i, decCtl (majorOf w) w = .ok i → Stands [w] i := by
  unfold decCtl
  refine stands_gword fun p hp i => ?_
  dsimp only
  cases h8 : (fld w 0 9).getLsbD 8
  all_goals split
  all_goals simp only [noT_iff, Bool.false_eq_true, ↓reduceIte, Bool.not_false, Bool.not_true, Bool.false_or,
    Bool.true_or, guard13_bind_ok, Except.ok.injEq, reduceCtorEq, Bool.and_eq_true, Bool.not_eq_true', beq_iff_eq,
    and_imp, false_imp_iff]
  all_goals intros; subst_vars
  all_goals dsimp only [Stands, Instr.encodes, Instr.wf, encode, packG, packB] at *
  all_goals simp only [append_eq_iff, slice_word, slice_fld, getLsbD_fld, majorOf_eq_fld, toNat_eq_lit,
    BitVec.ofNat_eq_ofNat, Nat.reduceLT, Nat.reducePow, Nat.reduceAdd, Nat.reduceLeDiff, List.cons.injEq, and_true,
    true_and] at *
  all_goals simp only [*, and_self, true_and, and_true]
  all_goals simp only [← BitVec.toNat_inj, toNat_fld, getLsbD_eq_false, getLsbD_eq_true, BitVec.toNat_ofNat] at *
  all_goals omega

theorem decTask_stands : ∀ i, decTask (majorOf w) w v = .ok i → Stands (slotWords w v) i := by
  unfold decTask
  refine stands_gword fun p hp i => ?_
  dsimp only
  split
  all_goals simp only [noT_iff, bind_bind, ok_bind, guard12_bind_ok, assigned_bind_ok, Scope.ofBits_eq_some,
    SelfSel.ofBits_eq_some, guard13_bind_ok, Except.ok.injEq, reduceCtorEq, Bool.and_eq_true, beq_iff_eq, and_imp,
    forall_exists_index, false_imp_iff]
  all_goals intros; subst_vars
  all_goals simp only [slotWords, isX, List.contains_cons, List.contains_nil, Nat.reduceBEq, Bool.or_false, Bool.or_true,
    ↓reduceIte, Bool.false_eq_true, *]
  all_goals dsimp only [Stands, Instr.encodes, Instr.wf, encode, packG, xb] at *
  all_goals simp only [fld_eq_zero_iff, append_eq_iff, slice_word, slice_fld, getLsbD_fld, bit_getLsbD, majorOf_eq_fld,
    toNat_eq_lit, BitVec.ofNat_eq_ofNat, Nat.reduceLT, Nat.reducePow, Nat.reduceAdd, Nat.reduceLeDiff, List.cons.injEq,
    and_true, true_and] at *
  all_goals simp only [*, Nat.reduceAdd, Nat.reduceLeDiff, and_self, true_and, and_true]
  all_goals simp only [decide_eq_true_eq, ← BitVec.toNat_inj, toNat_fld, BitVec.toNat_ofNat] at *
  all_goals omega

theorem decVec_stands (hm : majorOf w = 0x78) : ∀ i, decVec w v = .ok i → Stands [w, v] i := by
  unfold decVec
  refine stands_gword fun p hp i => ?_
  dsimp only
  split
  case' h_40 =>
    have hlast : (fld v 24 8).toNat < 0x28 → (fld v 24 8).toNat = 0x27 :=
      eq_of_lt_succ_of_ne fun k hk => by interval_cases k <;> assumption
    clear * - hp hm hlast
  all_goals simp only [noT_iff, Bool.or_eq_true, bne_iff_ne, decide_eq_true_eq, guard12_bind_ok, assigned_bind_ok,
    VCond.ofBits_eq_some, RedOp.ofBits_eq_some, MsetKind.ofBits_eq_some, guard13_bind_ok, Except.ok.injEq,
    Bool.and_eq_true, Bool.not_eq_true', beq_iff_eq, and_imp, forall_exists_index]
  all_goals intros; subst_vars
  all_goals dsimp only [Stands, Instr.encodes, Instr.wf, encode, packG, encV, packV, vshiftOk] at *
  all_goals simp only [append_eq_iff, slice_word, slice_fld, getLsbD_fld, bit_getLsbD, majorOf_eq_fld, toNat_eq_lit,
    BitVec.ofNat_eq_ofNat, Nat.reduceLT, Nat.reducePow, Nat.reduceAdd, Nat.reduceLeDiff, List.cons.injEq, and_true,
    true_and, Bool.and_eq_true, Bool.or_eq_true, beq_iff_eq] at *
  all_goals simp only [*, and_self, true_and, and_true, xopT_ofBits_fld, bne_iff_ne, Bool.not_eq_true', decide_eq_true_eq]
  all_goals simp only [toNat_xopT_f64, ElemTy.toBits_ofBits, ElemTy.ofBits_eq_f64, ← BitVec.toNat_inj, toNat_fld,
    getLsbD_eq_false, BitVec.toNat_ofNat] at *
  all_goals omega

theorem decTile_stands (hm : majorOf w = 0x79) : ∀ i, decTile w v = .ok i → Stands [w, v] i := by
  unfold decTile
  refine stands_gword fun p hp i => ?_
  dsimp only
  split
  all_goals simp only [noT_iff, guard12_bind_ok, assigned_bind_ok, HField.ofBits_eq_some, HGetF.ofBits_eq_some,
    AccMode.ofBits_eq_some, PxSize.ofBits_eq_some, guard13_bind_ok, Except.ok.injEq, reduceCtorEq, Bool.and_eq_true,
    Bool.not_eq_true', beq_iff_eq, and_imp, forall_exists_index, false_imp_iff]
  all_goals intros; subst_vars
  all_goals dsimp only [Stands, Instr.encodes, Instr.wf, encode, packG, encT, pack4, xb] at *
  all_goals simp only [fld_eq_zero_iff, append_eq_iff, slice_word, slice_fld, getLsbD_fld, bit_getLsbD, majorOf_eq_fld,
    toNat_eq_lit, BitVec.ofNat_eq_ofNat, Nat.reduceLT, Nat.reducePow, Nat.reduceAdd, Nat.reduceLeDiff, List.cons.injEq,
    and_true, true_and] at *
  all_goals simp only [*, Nat.reduceAdd, Nat.reduceLeDiff, and_self, true_and, and_true]
  all_goals simp only [decide_eq_true_eq, ← BitVec.toNat_inj, toNat_fld, getLsbD_eq_false, BitVec.toNat_ofNat] at *
  all_goals omega

theorem decEng_stands (hm : majorOf w = 0x7A) : ∀ i, decEng w v = .ok i → Stands [w, v] i := by
  unfold decEng
  refine stands_gword fun p hp i => ?_
  dsimp only
  split
  all_goals simp only [decRel_bind_ok, assigned_bind_ok, Scope.ofBits_eq_some, guard13_bind_ok, Except.ok.injEq,
    reduceCtorEq, Bool.and_eq_true, beq_iff_eq, and_imp, forall_exists_index, false_imp_iff]
  all_goals intros; subst_vars
  all_goals dsimp only [Stands, Instr.encodes, Instr.wf, encode, packG, encE, pack4] at *
  all_goals simp only [fld_eq_zero_iff, append_eq_iff, slice_word, slice_fld, bit_getLsbD, majorOf_eq_fld, toNat_eq_lit,
    BitVec.ofNat_eq_ofNat, Nat.reduceLT, Nat.reducePow, Nat.reduceAdd, Nat.reduceLeDiff, List.cons.injEq, and_true,
    true_and] at *
  all_goals simp only [*, Nat.reduceAdd, Nat.reduceLeDiff, and_self]

theorem decGrout_stands (hm : majorOf w = 0x7B) : ∀ i, decGrout w v = .ok i → Stands [w, v] i := by
  unfold decGrout
  refine stands_gword fun p hp i => ?_
  dsimp only
  split
  all_goals simp only [noT_iff, guard12_bind_ok, guard13_bind_ok, Except.ok.injEq, reduceCtorEq, Bool.and_eq_true,
    beq_iff_eq, and_imp, false_imp_iff]
  all_goals intros; subst_vars
  all_goals dsimp only [Stands, Instr.encodes, Instr.wf, encode, packG, encG] at *
  all_goals simp only [fld_eq_zero_iff, append_eq_iff, slice_word, slice_fld, bit_getLsbD, majorOf_eq_fld, toNat_eq_lit,
    BitVec.ofNat_eq_ofNat, Nat.reduceLT, Nat.reducePow, Nat.reduceAdd, Nat.reduceLeDiff, List.cons.injEq, and_true,
    true_and, Bool.and_eq_true, beq_iff_eq] at *
  all_goals simp only [*, Nat.reduceAdd, Nat.reduceLeDiff, and_self]

theorem decSys_stands (hm : majorOf w = 0x7C) : ∀ i, decSys w v = .ok i → Stands [w, v] i := by
  unfold decSys
  refine stands_gword fun p hp i => ?_
  dsimp only
  cases h0 : v.getLsbD 0
  all_goals split
  all_goals simp only [noT_iff, Bool.false_eq_true, ↓reduceIte, guard12_bind_ok, assigned_bind_ok,
    InvKind.ofBits_eq_some, HintKind.ofBits_eq_some, guard13_bind_ok, Except.ok.injEq, reduceCtorEq, Bool.and_eq_true,
    beq_iff_eq, and_imp, forall_exists_index, false_imp_iff]
  all_goals intros; subst_vars
  all_goals dsimp only [Stands, Instr.encodes, Instr.wf, encode, packG, encS] at *
  all_goals simp only [append_eq_iff, slice_word, slice_fld, majorOf_eq_fld, toNat_eq_lit, BitVec.ofNat_eq_ofNat,
    Nat.reduceLT, Nat.reducePow, Nat.reduceAdd, Nat.reduceLeDiff, List.cons.injEq, and_true, true_and] at *
  all_goals simp only [*, and_self, true_and]
  all_goals simp only [← BitVec.toNat_inj, toNat_fld, getLsbD_eq_false, getLsbD_eq_true, BitVec.toNat_ofNat] at *
  all_goals omega

/-! Every word that decodes. -/

theorem slotWords_one (h : isX (majorOf w) = false) : slotWords w v = [w] := by simp [slotWords, h]
theorem slotWords_two (h : isX (majorOf w) = true) : slotWords w v = [w, v] := by simp [slotWords, h]

theorem not_isX_of_range : ∀ m < 0x80, (0x0C ≤ m ∧ m < 0x58) ∨ m = 0x5F ∨ (0x60 ≤ m ∧ m < 0x67) →
    isX m = false := by
  decide
theorem last_major : ∀ m < 0x80,
  isReserved m = false ∧ 0x76 ≤ m ∧ m ≠ 0x78 ∧ m ≠ 0x79 ∧ m ≠ 0x7A ∧ m ≠ 0x7B → m = 0x7C := by
  decide
theorem ne_of_not_beq {m n : Nat} (h : ¬ (m == n) = true) : m ≠ n := fun e => h (beq_iff_eq.2 e)

theorem stands_ite {c : Prop} [Decidable c] {a b : Except DecodeError Instr} {ws : List Word32}
    (ha : c → ∀ i, a = .ok i → Stands ws i) (hb : ¬ c → ∀ i, b = .ok i → Stands ws i) :
    ∀ i, (if c then a else b) = .ok i → Stands ws i := by
  split
  case isTrue h => exact ha h
  case isFalse h => exact hb h

/-- The words of a slot are those of the instruction it decodes to, by the group of its major. -/
theorem decodeAt_stands : ∀ i, decodeAt w v = .ok i → Stands (slotWords w v) i := by
  have hlt := majorOf_lt w
  have one (hm : _) {i : Instr} (h : Stands [w] i) : Stands (slotWords w v) i :=
    slotWords_one (not_isX_of_range _ hlt hm) ▸ h
  have two (hm : isX (majorOf w) = true) {i : Instr} (h : Stands [w,
    v] i) : Stands (slotWords w v) i := slotWords_two hm ▸ h
  unfold decodeAt
  refine stands_ite (fun _ _ h => by cases h) fun hr => ?_
  refine stands_ite (fun _ => decPlumb_stands) fun _ => ?_
  refine stands_ite (fun _ i h => one (by omega) (decInt_stands i h)) fun _ => ?_
  refine stands_ite (fun _ i h => one (by omega) (decImm_stands i h)) fun _ => ?_
  refine stands_ite (fun _ i h => one (by omega) (decFp_stands i h)) fun _ => ?_
  refine stands_ite (fun hm i h => one (by simp at hm; omega) (decMem_stands i h)) fun hm => ?_
  refine stands_ite (fun _ => decSync_stands) fun _ => ?_
  refine stands_ite (fun _ i h => one (by simp at hm; omega) (decCtl_stands i h)) fun _ => ?_
  refine stands_ite (fun _ => decTask_stands) fun _ => ?_
  refine stands_ite (fun hv i h => two (beq_iff_eq.1 hv ▸ rfl) (decVec_stands (beq_iff_eq.1 hv) i h)) fun hv => ?_
  refine stands_ite (fun ht i h => two (beq_iff_eq.1 ht ▸ rfl) (decTile_stands (beq_iff_eq.1 ht) i h)) fun ht => ?_
  refine stands_ite (fun he i h => two (beq_iff_eq.1 he ▸ rfl) (decEng_stands (beq_iff_eq.1 he) i h)) fun he => ?_
  refine stands_ite (fun hg i h => two (beq_iff_eq.1 hg ▸ rfl) (decGrout_stands (beq_iff_eq.1 hg) i h)) fun hg => ?_
  intro i h
  have hm : majorOf w = 0x7C := last_major _ hlt ⟨by simpa using hr, by omega, ne_of_not_beq hv, ne_of_not_beq ht,
    ne_of_not_beq he, ne_of_not_beq hg⟩
  exact two (hm ▸ rfl) (decSys_stands hm i h)
end

theorem stands_of_decode {ws rest : List Word32} {i : Instr} (h : decode ws = .ok (i, rest)) :
    i.encodes = true ∧ i.wf = true ∧ ws = encode i ++ rest := by
  match ws with
  | [] => cases h
  | w :: ws =>
    cases hx : isX (majorOf w) with
    | false =>
      rw [decode_one hx, pair_bind_ok] at h
      obtain ⟨h, rfl⟩ := h
      obtain ⟨he, hw, hs⟩ := decodeAt_stands i h
      exact ⟨he, hw, by rw [hs, slotWords_one hx, List.singleton_append]⟩
    | true =>
      match ws with
      | [] => simp [decode, hx] at h
      | v :: ws =>
        rw [decode_two hx, pair_bind_ok] at h
        obtain ⟨h, rfl⟩ := h
        obtain ⟨he, hw, hs⟩ := decodeAt_stands i h
        exact ⟨he, hw, by rw [hs, slotWords_two hx]; rfl⟩

theorem not_isX_of_isReserved : ∀ m < 0x80, isReserved m = true → isX m = false := by decide

theorem decode_of_isReserved {w : Word32} {ws : List Word32} (h : isReserved (majorOf w) = true) :
    decode (w :: ws) = .error .reservedMajor := by
  rw [decode_one (not_isX_of_isReserved _ (majorOf_lt w) h), decodeAt, if_pos h]
  rfl

/-- Settles O5: a word that passed every check of its decoder is the packing of the fields it was read from. -/
theorem decodedWordsAreTheirOwnEncoding : Obligations.DecodedWordsAreTheirOwnEncoding :=
  fun _ _ _ _ => ⟨stands_of_decode, decode_of_isReserved⟩

end Sys2Proof.Proofs
end

section
/-!
SUPPORT. Readiness (R51, R54, R57): how a slot stands, by its operands and its predicate, and what an instruction then does.
-/

namespace Sys2Proof.Proofs

open Sys2Proof Sys2Proof.Machine Sys2Proof.Safety Sys2Proof.Laws

/-- The operands an instruction takes, as its slot holds them. -/
def operandsOf (x : Slot) (i : Instr) : List (Option Tok) := [x.op0, x.op1, x.op2].take (nOpsOf i)

/-- The slot holds a null, as an operand or as its predicate. -/
def HoldsNull (x : Slot) (i : Instr) : Prop := some Tok.null ∈ operandsOf x i ∨ x.pd = some .null

/-- The slot's predicate has arrived where one is needed, and matches as m says. -/
def Matches (x : Slot) (i : Instr) (m : Bool) : Prop :=
  match prOf i with
  | .always => m = true
  | .onTrue => ∃ p, x.pd = some (.s p) ∧ p.getLsbD 0 = m
  | .onFalse => ∃ p, x.pd = some (.s p) ∧ p.getLsbD 0 = !m

/-- How a slot stands whose predicate lets it fire. -/
def onOperands (x : Slot) (i : Instr) : Ready :=
  if (operandsOf x i).all Option.isSome then .go ((operandsOf x i).filterMap id) else .wait

section
variable {x : Slot} {i : Instr}

theorem ready_null (h : HoldsNull x i) : x.ready i = .null := by
  unfold Slot.ready
  exact if_pos (by simpa [HoldsNull, operandsOf] using h)

theorem ready_nonnull (h : ¬ HoldsNull x i) : x.ready i = match prOf i, x.pd with
    | .always, _ => onOperands x i
    | .onTrue, some (.s p) => if p.getLsbD 0 then onOperands x i else .off
    | .onFalse, some (.s p) => if p.getLsbD 0 then .off else onOperands x i
    | _, _ => .wait := by
  unfold Slot.ready
  exact if_neg (by simpa [HoldsNull, operandsOf] using h)

theorem ready_matches {m : Bool} (h : ¬ HoldsNull x i) (hm : Matches x i m) :
    x.ready i = if m then onOperands x i else .off := by
  rw [ready_nonnull h]
  unfold Matches at hm
  cases hp : prOf i <;> simp only [hp] at hm
  case always => simp [hm]
  case onTrue =>
    obtain ⟨p, hpd, hb⟩ := hm
    simp only [hpd, hb]
  case onFalse =>
    obtain ⟨p, hpd, hb⟩ := hm
    cases m <;> simp only [hpd, hb, Bool.not_true, Bool.not_false, if_true, if_false, Bool.false_eq_true]

theorem ready_unmatched (h : ¬ HoldsNull x i) (ht : ¬ Matches x i true) (hf : ¬ Matches x i false) : x.ready i = .wait := by
  have hm : ∀ m, ¬ Matches x i m := Bool.forall_bool.2 ⟨hf, ht⟩
  rw [ready_nonnull h]
  unfold Matches at hm
  cases hp : prOf i <;> simp only [hp] at hm
  case always => exact absurd rfl (hm true)
  case onTrue =>
    split
    all_goals simp_all
  case onFalse =>
    split
    all_goals simp_all

theorem onOperands_all (h : ∀ o ∈ operandsOf x i, o ≠ none) : onOperands x i = .go ((operandsOf x i).filterMap id) :=
  if_pos (by simpa [Option.isSome_iff_ne_none] using h)

theorem onOperands_missing (h : ∃ o ∈ operandsOf x i, o = none) : onOperands x i = .wait :=
  if_neg (by simpa [Option.isSome_iff_ne_none] using h)
end

section
variable {s : State} {f : Focus} {b : Blk} {i : Instr}

/-- A member of a stream waits until the lower-numbered members have issued (R57). -/
theorem fireG_turn {act : Focus → List Tok → State → Fire} {ops : List Tok} (h : Idle s f b)
    (r : (b.slot f.slot).ready i = .go ops) (t : b.streamReady f.slot i = false) : fireG i act s = .next s := by
  unfold fireG
  rw [h.focus]; dsimp only
  rw [h.blk]; dsimp only
  simp only [h.quiet, h.idle, r, t, Option.isSome_none, bne_self_eq_false, Bool.or_self, Bool.false_eq_true, if_false,
    Bool.not_false, if_true]

theorem resolveOff_vec (h : vecMember i = true) (b : Blk) (n : Nat) :
    b.resolveOff n i = (b.setSt n .off).deliverAll n ((targetsOf i).map fun t => (t, .null)) := by
  rw [Blk.resolveOff, if_pos h]
theorem resolveOff_silent (h : vecMember i = false) (b : Blk) (n : Nat) : b.resolveOff n i = b.setSt n .off := by
  rw [Blk.resolveOff, if_neg (by simp [h])]
  rfl
end

/-- Settles O10: the cases of readiness by the nulls, then by the predicate, then by the operands; each has its outcome in fireG. -/
theorem everyInstructionWaitsOrResolvesBeforeItFires : Obligations.EveryInstructionWaitsOrResolvesBeforeItFires := by
  intro i s f b he h
  obtain ⟨act, hact⟩ := exec_fireG i he
  rw [hact]
  refine ⟨ready_null, fun hn hm => ready_matches hn hm, fun hn hm ha => ?_, fun hn hm ha => ?_, ready_unmatched,
    fireG_wait h, fun r hv => ?_, fun r hv => ?_, fireG_null h, fun ops r t => fireG_turn h r t⟩
  · exact (ready_matches hn hm).trans (onOperands_all ha)
  · exact (ready_matches hn hm).trans (onOperands_missing ha)
  · simp only [fireG_off h r, resolveOff_silent hv]
  · simp only [fireG_off h r, resolveOff_vec hv]

end Sys2Proof.Proofs
end

section
/-!
SUPPORT. Delivery of tokens (R52): the target is split into operand and slot once,
  and each outcome of Blk.deliver has an equation.
-/

namespace Sys2Proof.Proofs

open Sys2Proof Sys2Proof.Machine Sys2Proof.Safety Sys2Proof.Laws

section
variable {b : Blk} {send : Nat} {t : Target} {tok : Tok} {n op : Nat}

theorem deliver_none : b.deliver send 0 tok = b := if_pos rfl

theorem deliver_some (ht : t ≠ 0) (h : t.toNat = 128 * op + n) (hn : n < 128) : b.deliver send t tok =
    if (b.slot n).got op then b.refuse (badTargetInfo 1 n op send) send t tok
    else if !((instrAt b.body n).any fun i => acceptsTok i op tok) then b.refuse (badTargetInfo 2 n op send) send t tok
    else b.setSlot n ((b.slot n).put op tok send) := by
  have hop : t.toNat / 128 = op := by omega
  have hslot : t.toNat % 128 = n := by omega
  unfold Blk.deliver
  simp only [if_neg ht, hop, hslot]

theorem deliver_second (ht : t ≠ 0) (h : t.toNat = 128 * op + n) (hn : n < 128) (hg : (b.slot n).got op = true) :
    b.deliver send t tok = b.refuse (badTargetInfo 1 n op send) send t tok := by
  rw [deliver_some ht h hn, if_pos hg]

theorem deliver_refused (ht : t ≠ 0) (h : t.toNat = 128 * op + n) (hn : n < 128) (hg : (b.slot n).got op = false)
    (ha : ((instrAt b.body n).any fun i => acceptsTok i op tok) = false) :
    b.deliver send t tok = b.refuse (badTargetInfo 2 n op send) send t tok := by
  rw [deliver_some ht h hn, hg, ha]
  rfl

theorem deliver_taken (ht : t ≠ 0) (h : t.toNat = 128 * op + n) (hn : n < 128) (hg : (b.slot n).got op = false)
    (ha : ((instrAt b.body n).any fun i => acceptsTok i op tok) = true) :
    b.deliver send t tok = b.setSlot n ((b.slot n).put op tok send) := by
  rw [deliver_some ht h hn, hg, ha]
  rfl
end

theorem got_put (x : Slot) (op : Nat) (tok : Tok) (send : Nat) : (x.put op tok send).got op = true :=
  match op with
  | 0 | 1 | 2 | _ + 3 => rfl

/-- Settles O11: a target is none, names an operand that holds a token, one that refuses it, or one that takes it. -/
theorem tokensArriveOncePerOperandAndOfAnAcceptedWidth : Obligations.TokensArriveOncePerOperandAndOfAnAcceptedWidth := by
  intro b send t tok n op h hn
  refine ⟨fun ht => ht ▸ deliver_none, fun ht => deliver_second ht h hn, fun ht => deliver_refused ht h hn,
    fun ht hlen hg ha => ?_⟩
  have hslot : ((b.setSlot n ((b.slot n).put op tok send)).slot n) = (b.slot n).put op tok send := Blk.slot_setSlot b n _ hlen
  rw [deliver_taken ht h hn hg ha, hslot]
  exact ⟨rfl, got_put _ op tok send, rfl, fun m hm => Blk.slot_setSlot_ne b n m _ hm⟩

end Sys2Proof.Proofs
end

section
/-!
SUPPORT. Exits and TRAP (R59 to R62, R169 to R174): what an exit makes of its block, and two changes of a block made one.
-/

namespace Sys2Proof.Proofs

open Sys2Proof Sys2Proof.Machine Sys2Proof.Safety Sys2Proof.Laws

/-! Two changes of one block in a row. -/

theorem kset_kset {α : Type} (k : Nat) (a b : α) (m : KMap α) : kset k a (kset k b m) = kset k a m := by
  induction m with
  | nil => simp [kset]
  | cons p r ih =>
    obtain ⟨j, c⟩ := p
    rcases Nat.lt_trichotomy j k with h | h | h
    · simp [kset, h, ih]
    · simp [kset, h]
    · simp [kset, h.not_gt, h.ne']

section
variable {s : State} {c k : Nat} {g h : Blk → Blk}

/-- A change that leaves the slots alone is no sign of progress. -/
theorem modBlk_of_slots (hg : ∀ b, (g b).slots = b.slots) :
    s.modBlk c k g = s.modCtx c fun x => { x with blks := x.blks.modify k g } := by
  have hst : ∀ x : Ctx, ({ x with blks := x.blks.modify k g } : Ctx).statuses = x.statuses := by
    intro x
    refine List.ext_getElem? fun n => ?_
    simp only [Ctx.statuses, List.getElem?_map, List.getElem?_modify]
    cases x.blks[n]? with
    | none => rfl
    | some b => by_cases hn : k = n <;> simp [hn, hg]
  simp only [State.modBlk, hst, if_true]

theorem modBlk_modBlk (hg : ∀ b, (g b).slots = b.slots) (hh : ∀ b, (h b).slots = b.slots) :
    (s.modBlk c k g).modBlk c k h = s.modBlk c k (h ∘ g) := by
  rw [modBlk_of_slots hg, modBlk_of_slots hh, modBlk_of_slots (g := h ∘ g) fun b => (hh _).trans (hg b)]
  unfold State.modCtx
  rw [State.ctx_setCtx]
  dsimp only
  rw [List.modify_modify_eq]
  simp only [State.setCtx, kset_kset]
end

/-! Exits. -/

/-- The offer of the brick that YIELD leaves for the commit of its block (R173). -/
def noteYield (n : Nat) (b : Blk) : Blk := { b with effs := kset n .yield b.effs }

/-- The return address that CALLB resolves g63 with (R170). -/
def linkNext (n : Nat) (b : Blk) : Blk := b.resolveG n 63 (some (BitVec.ofNat 64 (seqAddr b.addr b.len)))

section
variable {s : State} {f : Focus} {b : Blk} {i : Instr} {ops : List Tok}

theorem fireExit_first {n : Nat} {x : ExitRec} (h : b.exit = none) : b.fireExit n x = { b with exit := some x } := by
  simp [Blk.fireExit, h]
theorem fireExit_second {n : Nat} {x : ExitRec} (h : b.exit ≠ none) :
    b.fireExit n x = b.hold 4 (violationInfo 2 n 0 0) (some n) :=
  if_pos (Option.isSome_iff_ne_none.2 h)

@[simp] theorem slots_fireExit {n : Nat} {x : ExitRec} : (b.fireExit n x).slots = b.slots := by
  unfold Blk.fireExit
  split <;> rfl

theorem eff_yield : s.eff f .yield = s.modBlk f.ctx f.blk (noteYield f.slot) := rfl

theorem linkNext_fireExit {n : Nat} {x : ExitRec} : linkNext n (b.fireExit n x) =
    (b.fireExit n x).resolveG n 63 (some (BitVec.ofNat 64 (seqAddr b.addr b.len))) := by
  unfold linkNext Blk.fireExit
  split <;> rfl

/-- A branch goes to the block's address plus its offset in units of 16 bytes (R169). -/
theorem branchTo_eq (addr : Nat) (off : BitVec 20) : branchTo addr off = (BitVec.ofInt 64 (addr + 16 * off.toInt)).toNat := by
  have hoff : sext off <<< 4 = BitVec.ofInt 64 (16 * off.toInt) := by
    rw [BitVec.shiftLeft_eq_mul_twoPow, BitVec.ofInt_mul, mul_comm]
    rfl
  rw [branchTo, hoff, BitVec.ofInt_add, BitVec.ofInt_natCast]

/-- What an exit does that fires: the first of the block sets its exit, a second one is held as a violation. -/
theorem exec_exit {more : Blk → Blk} {x : ExitRec} (h : Fires s f b i ops)
    (e : exec i s = .next ((s.modBlk f.ctx f.blk fun d => more (d.fireExit f.slot x)).finish f i [])) :
    (b.exit = none → exec i s =
      .next ((s.modBlk f.ctx f.blk fun d => more { d with exit := some x }).finish f i [])) ∧
    (b.exit ≠ none → exec i s =
      .next ((s.modBlk f.ctx f.blk fun d => more (d.hold 4 (violationInfo 2 f.slot 0 0) (some f.slot))).finish f i [])) := by
  have by_blk {g : Blk → Blk} (hg : more (b.fireExit f.slot x) = g b) :
      exec i s = .next ((s.modBlk f.ctx f.blk g).finish f i []) := by
    rw [e, modBlk_congr h.blk hg]
  exact ⟨fun hx => by_blk (congrArg more (fireExit_first hx)), fun hx => by_blk (congrArg more (fireExit_second hx))⟩
end

section
variable {s : State} {f : Focus} {b : Blk} {ops : List Tok} {pr : Pr} {e : BitVec 3} {off : BitVec 20}

theorem wbits_low (x : Word) : wbits x 0 32 = x.toNat % 2 ^ 32 := by simp [wbits, nbits]

theorem exec_br_fires (h : Fires s f b (.br pr e off) ops) : exec (.br pr e off) s =
    .next ((s.modBlk f.ctx f.blk fun d => d.fireExit f.slot (.to f.slot (branchTo b.addr off))).finish f (.br pr e off) []) := by
  rw [exec_br, execBr, fireG_fires h]
  dsimp only
  rw [modBlk_congr h.blk]
  rfl

theorem exec_callb_fires (h : Fires s f b (.callb pr e off) ops) : exec (.callb pr e off) s =
    .next ((s.modBlk f.ctx f.blk fun d => linkNext f.slot (d.fireExit f.slot (.to f.slot (branchTo b.addr off)))).finish f
      (.callb pr e off) []) := by
  rw [exec_callb, execCallb, fireG_fires h]
  dsimp only
  rw [modBlk_congr h.blk]
  exact linkNext_fireExit.symm

theorem exec_yield_fires (h : Fires s f b (.yield pr e off) ops) : exec (.yield pr e off) s =
    .next ((s.modBlk f.ctx f.blk fun d => noteYield f.slot (d.fireExit f.slot (.to f.slot (branchTo b.addr off)))).finish f
      (.yield pr e off) []) := by
  rw [exec_yield, execYield, fireG_fires h]
  dsimp only
  rw [eff_yield, modBlk_modBlk (h := noteYield f.slot) (fun _ => slots_fireExit) (fun _ => rfl), modBlk_congr h.blk]
  rfl

theorem exec_tend_fires {code : BitVec 8} (h : Fires s f b (.tend pr e code) ops) : exec (.tend pr e code) s =
    .next ((s.modBlk f.ctx f.blk fun b => b.fireExit f.slot (.tend f.slot code.toNat)).finish f (.tend pr e code) []) := by
  rw [exec_tend, execTend, fireG_fires h]

theorem exec_tendOp0_fires (h : Fires s f b (.tendOp0 pr e) ops) : exec (.tendOp0 pr e) s =
    .next ((s.modBlk f.ctx f.blk fun b => b.fireExit f.slot (.tend f.slot ((opw ops 0).toNat % 2 ^ 32))).finish f
      (.tendOp0 pr e) []) := by
  rw [exec_tendOp0, execTendOp0, fireG_fires h, ← wbits_low]

theorem exec_trap_fires {n : BitVec 8} (h : Fires s f b (.trap pr n) ops) :
    exec (.trap pr n) s = .next (traps s f 0x0B (n.setWidth 64)) := by
  rw [exec_trap, execTrap, fireG_fires h]
  rfl

/-- An indirect exit goes to its operand where that is a multiple of 16, and is misaligned otherwise (R60). -/
theorem fireIndirect_fires {i : Instr} (h : Fires s f b i ops) : fireIndirect i s =
    if (opw ops 0).toNat % 16 = 0 then
      .next ((s.modBlk f.ctx f.blk fun b => b.fireExit f.slot (.to f.slot (opw ops 0).toNat)).finish f i [])
    else .next (traps s f 5 (opw ops 0)) := by
  rw [fireIndirect, fireG_fires h]
  by_cases ha : (opw ops 0).toNat % 16 = 0
  · simp [ha]
  · simp only [bne_iff_ne, ne_eq, ha, not_false_eq_true, if_true, if_false]
    rfl
end

/-- Settles O15: each exit is the block's change by fireExit; an exit of its own notes what it adds to the block. -/
theorem exitsNameTheSuccessorOrTheExitCode : Obligations.ExitsNameTheSuccessorOrTheExitCode := by
  refine ⟨fun pr e off code s f b ops => ?_, fun pr e n s f b ops => ⟨exec_trap_fires, fun ha => ⟨fun h => ?_,
    fun h => ?_⟩⟩⟩
  · rw [← branchTo_eq]
    refine ⟨fun h => exec_exit (more := id) h (exec_br_fires h),
      fun h => exec_exit (more := linkNext f.slot) h (exec_callb_fires h),
      fun h => exec_exit (more := noteYield f.slot) h (exec_yield_fires h),
        fun h => exec_exit (more := id) h (exec_tend_fires h),
      fun h => exec_exit (more := id) h (exec_tendOp0_fires h),
      fun ha => ⟨fun h => exec_exit (more := id) h ?_, fun h => exec_exit (more := id) h ?_⟩⟩
    · exact (fireIndirect_fires h).trans (if_pos ha)
    · exact (fireIndirect_fires h).trans (if_pos ha)
  · exact (fireIndirect_fires h).trans (if_neg ha)
  · exact (fireIndirect_fires h).trans (if_neg ha)

end Sys2Proof.Proofs
end

section
/-!
SUPPORT. The step and its agenda (log entry 6): the instruction of a slot is what its words decode to, and
the passing of time changes the clock and the stall samples only.
-/

namespace Sys2Proof.Proofs

open Sys2Proof Sys2Proof.Machine Sys2Proof.Safety Sys2Proof.Laws

/-! The instruction of a slot. -/

section
variable {w v : Word32}

theorem decPlumb_second {m : Nat} (h : isX m = false) : decPlumb m w v = decPlumb m w 0 := by
  unfold decPlumb
  split
  case h_6 | h_11 => cases h
  all_goals rfl
theorem decSync_second {m : Nat} (h : isX m = false) : decSync m w v = decSync m w 0 := by
  unfold decSync
  dsimp only
  split
  case h_1 | h_2 | h_3 | h_5 => cases h
  all_goals rfl
theorem decTask_second {m : Nat} (h : isX m = false) : decTask m w v = decTask m w 0 := by
  unfold decTask
  dsimp only
  split
  case h_1 | h_3 | h_4 | h_10 => cases h
  all_goals rfl

theorem oneWord_lt : ∀ m < 0x80, isX m = false → isReserved m = false → m < 0x76 := by decide

/-- The word after an instruction of one word does not matter (R47). -/
theorem decodeAt_second (h : isX (majorOf w) = false) : decodeAt w v = decodeAt w 0 := by
  unfold decodeAt
  cases hr : isReserved (majorOf w) with
  | true => simp only [hr, if_true]
  | false =>
    have hlt : majorOf w < 0x76 := oneWord_lt _ (majorOf_lt w) h hr
    simp only [decPlumb_second (v := v) h, decSync_second (v := v) h, decTask_second (v := v) h, if_pos hlt]

theorem instrAt_of_decode {body : List Word32} {n : Nat} {i : Instr} {tail : List Word32}
    (h : decode (body.drop n) = .ok (i, tail)) : instrAt body n = some i := by
  have hget (k : Nat) : lget body (n + k) 0 = lget (body.drop n) k 0 := by simp [lget]
  have hat : decodeAt (lget (body.drop n) 0 0) (lget (body.drop n) 1 0) = .ok i := by
    match body.drop n, h with
    | w :: ws, h =>
      cases hx : isX (majorOf w) with
      | false =>
        rw [decode_one hx, pair_bind_ok] at h
        exact (decodeAt_second hx).trans h.1
      | true =>
        match ws, h with
        | [], h => simp [decode, hx] at h
        | v :: ws, h =>
          rw [decode_two hx, pair_bind_ok] at h
          exact h.1
  rw [← hget, ← hget] at hat
  rw [instrAt, ← Nat.add_zero n, hat]
end

/-- The entry of a key in a list of pairs made from keys. -/
theorem find_filterMap {α : Type} (g : Nat → Option α) (n : Nat) (l : List Nat) :
    (((l.filterMap fun k => (g k).map fun a => (k, a)).find? fun p => p.1 == n).map fun p => p.2) =
      if n ∈ l then g n else none := by
  induction l with
  | nil => rfl
  | cons k l ih =>
    by_cases hk : k = n
    · subst hk
      cases hg : g k with
      | none => simp [-List.find?_filterMap, hg, ih]
      | some a => simp [-List.find?_filterMap, hg]
    · cases hg : g k with
      | none => simp [-List.find?_filterMap, hg, ih, Ne.symm hk]
      | some a => simp [-List.find?_filterMap, hg, ih, hk, Ne.symm hk]

theorem instr_of_decode {b : Blk} {n : Nat} {i : Instr} {tail : List Word32} (hn : n ∈ slotStarts false 0 b.body)
    (h : decode (b.body.drop n) = .ok (i, tail)) : b.instr n = some i := by
  rw [Blk.instr, Blk.members, membersOf, find_filterMap, if_pos hn, instrAt_of_decode h]

section
variable {s : State} {f : Focus}

theorem fireAt_none (h : s.blk? f.ctx f.blk = none) : fireAt f s = .next s := by
  rw [fireAt, h]
  rfl

theorem fireAt_decode {b : Blk} {i : Instr} {tail : List Word32} (hb : s.blk? f.ctx f.blk = some b)
    (hn : f.slot ∈ slotStarts false 0 b.body) (h : decode (b.body.drop f.slot) = .ok (i, tail)) :
    fireAt f s = exec i { s with focus := some f } := by
  rw [fireAt, hb, Option.bind_some, instr_of_decode hn h]
end

/-! Moves of the agenda. -/

section
variable {s : State} {i : Instr}

theorem step_move {m : Move} {rest : List Move} (h : s.agenda = m :: rest) : step s = runMove m { s with agenda := rest } := by
  rw [step, h]

theorem runMove_event (he : i.encodes = false) (ha : s.pkg.boot ≠ .off ∨ actsOff i = true) : runMove (.event i) s = exec i s := by
  refine if_neg ?_
  rw [he]
  obtain ha | ha := ha <;> simp [ha]
theorem runMove_event_idle (h : i.encodes = true ∨ (s.pkg.boot = .off ∧ actsOff i = false)) :
    runMove (.event i) s = .next s := by
  refine if_pos ?_
  obtain h | ⟨hp, ha⟩ := h
  · simp [h]
  · simp [hp, ha]

theorem eq_of_actsOff (h : actsOff i = true) :
    i = .packageReset ∨ ∃ a data, i = .hostMemoryAccess (.hostWrite a data) := by
  cases i
  case packageReset => exact .inl rfl
  case hostMemoryAccess x =>
    cases x
    case hostWrite a data => exact .inr ⟨a, data, rfl⟩
    all_goals exact absurd h Bool.false_ne_true
  all_goals exact absurd h Bool.false_ne_true

theorem actsOff_eq_false (h : i ≠ .packageReset) (h' : ∀ a data, i ≠ .hostMemoryAccess (.hostWrite a data)) :
    actsOff i = false :=
  Bool.eq_false_iff.2 fun ha => (eq_of_actsOff ha).elim h fun ⟨a, data, e⟩ => h' a data e
end

/-! The passing of time. -/

/-- Nothing but the courses and the clock differs. -/
structure OnlyCourses (s t : State) : Prop where
  agenda : t.agenda = s.agenda
  ctxs : t.ctxs = s.ctxs
  cells : t.cells = s.cells

theorem onlyCourses_sampleTo (s : State) (c t : Nat) : OnlyCourses s (s.sampleTo c t) := by
  unfold State.sampleTo
  dsimp only
  split
  · split
    · exact ⟨rfl, rfl, rfl⟩
    · exact ⟨rfl, rfl, rfl⟩
  · exact ⟨rfl, rfl, rfl⟩

theorem onlyCourses_samples (cs : List Nat) (s : State) (t : Nat) :
    OnlyCourses s (cs.foldl (fun s c => s.sampleTo c t) s) := by
  induction cs generalizing s with
  | nil => exact ⟨rfl, rfl, rfl⟩
  | cons c cs ih =>
    obtain ⟨ha, hx, hc⟩ := ih (s.sampleTo c t)
    obtain ⟨ga, gx, gc⟩ := onlyCourses_sampleTo s c t
    exact ⟨ha.trans ga, hx.trans gx, hc.trans gc⟩

theorem onlyCourses_pass (s : State) (n : Nat) : OnlyCourses s (s.pass n) := by
  obtain ⟨ha, hx, hc⟩ := onlyCourses_samples _ s _
  exact ⟨ha, hx, hc⟩

/-- Time passes to the next interval boundary at most. -/
theorem now_pass (s : State) (n : Nat) : (s.pass n).now =
    if s.now + n ≤ s.pkg.boundary + 1000 then s.now + n else max s.now (s.pkg.boundary + 1000) := by
  show s.now + min n (s.pkg.boundary + 1000 - s.now) = _
  split <;> omega

theorem OnlyCourses.memKept {s t : State} (h : OnlyCourses s t) : MemKept s t := fun sp a => by rw [h.cells]
theorem OnlyCourses.regsKept {s t : State} (h : OnlyCourses s t) : RegsKept s t := by
  intro c
  have hctx : t.ctx c = s.ctx c := by rw [State.ctx, h.ctxs]; rfl
  rw [hctx]
  simp

/-! The fetched word. -/

theorem decode_of_decodeTableWord {nbits w : Nat} {i : Instr} (h : decodeTableWord nbits w = some i) :
    ∃ tail, decode (tableWords nbits w) = .ok (i, tail) := by
  unfold decodeTableWord at h
  split at h
  next j tail hd =>
    obtain rfl := Option.some.inj h
    exact ⟨tail, hd⟩
  · cases h

theorem blk?_withFetchWord (s : State) (nbits w : Nat) (rest : List Move) :
    ({ s.withFetchWord nbits w with agenda := rest } : State).blk? 0 0 = some (probeBlk (tableWords nbits w)) := by
  simp [State.blk?, State.ctx, State.withFetchWord]

/-- The word placed by withFetchWord stands in the block that the next move fires. -/
theorem step_withFetchWord (s : State) {nbits w : Nat} {i : Instr} (h : decodeTableWord nbits w = some i) :
    ∃ u : State, u.agenda = s.agenda ∧ u.focus = some ⟨0, 0, 0, false⟩ ∧ u.cells = s.cells ∧
      step (s.withFetchWord nbits w) = exec i u := by
  obtain ⟨tail, hd⟩ := decode_of_decodeTableWord h
  have hslot : 0 ∈ slotStarts false 0 (probeBlk (tableWords nbits w)).body := List.mem_cons_self
  have hfire := fireAt_decode (f := ⟨0, 0, 0, false⟩) (blk?_withFetchWord s nbits w s.agenda) hslot hd
  have hmove := step_move (s := s.withFetchWord nbits w) (m := .fire ⟨0, 0, 0, false⟩) rfl
  refine ⟨_, ?_, ?_, ?_, hmove.trans hfire⟩ <;> rfl

/-- Settles O1: each kind of move has its equation. -/
theorem stepRunsTheDecodedInstruction : Obligations.StepRunsTheDecodedInstruction := by
  intro s rest s'
  refine ⟨fun f b i tail hs hb hn hd => ?_, fun f hs hb => ?_, fun i hs he hp => ?_, fun hs => ?_, fun a data hs => ?_,
    fun i hs h => ?_, fun n hs => ?_, fun hs hp => ?_, fun nbits w i h => ?_⟩
  · exact (step_move hs).trans (fireAt_decode (s := s') hb hn hd)
  · exact (step_move hs).trans (fireAt_none (s := s') hb)
  · exact (step_move hs).trans (runMove_event he (.inl hp))
  · exact (step_move hs).trans (runMove_event rfl (.inr rfl))
  · exact (step_move hs).trans (runMove_event rfl (.inr rfl))
  · exact (step_move hs).trans (runMove_event_idle (h.imp_right fun ⟨hp, h1, h2⟩ => ⟨hp, actsOff_eq_false h1 h2⟩))
  · have h := onlyCourses_pass s' n
    exact ⟨_, step_move hs, h.agenda, now_pass s' n, h.memKept, h.regsKept⟩
  · rw [step, hs]
    exact if_pos hp
  · exact step_withFetchWord s h

end Sys2Proof.Proofs
end

section
/-!
SUPPORT. Words of the encoding tables (R139 to R151) are the encodings of the instructions they stand for.
-/

namespace Sys2Proof.Proofs

open Sys2Proof Sys2Proof.Machine Sys2Proof.Safety Sys2Proof.Laws

/-- Words that encode a well-formed instruction, with none after them, decode to it. -/
theorem decode_of_encode_eq {i : Instr} {ws : List Word32} (he : i.encodes = true) (hw : i.wf = true)
    (h : encode i = ws) : decode ws = .ok (i, []) := by
  rw [← h, ← List.append_nil (encode i)]
  exact decodeOfEncodeIsTheInstruction i [] he hw

/-- Settles O3: the words are the encodings of their instructions; those that are refused fail a check of the decoder. -/
theorem wordsOfTheTablesDecode : Obligations.WordsOfTheTablesDecode := by
  refine ⟨?_, ?_, ?_, ?_, ?_, ?_, ?_, ?_, ?_, ?_, ?_, decode_of_isReserved rfl, ?_, ?_⟩
  iterate 10 exact decode_of_encode_eq rfl rfl rfl
  all_goals rfl

end Sys2Proof.Proofs
end

section
/-!
SUPPORT. The SYS family: control registers (R175 to R179), PTOK, HINT, CYCRD and HALTD (R183 to R185, R434), and the
privileged instructions (R150, R176 to R186).
-/

namespace Sys2Proof.Proofs

open Sys2Proof Sys2Proof.Machine Sys2Proof.Safety Sys2Proof.Laws

/-! What a firing comes to, by what the instruction's meaning answers. -/

section
variable {s s' : State} {f : Focus} {b : Blk} {i : Instr} {ops toks : List Tok} {act : Focus → List Tok → State → Fire}
  {c : Nat} {x : Word}

theorem fireG_done (h : Fires s f b i ops) (e : act f ops s = .done s' toks) : fireG i act s = .next (s'.finish f i toks) := by
  rw [fireG_fires h, e]

theorem fireG_trap (h : Fires s f b i ops) (e : act f ops s = .trap s c x) : fireG i act s = .next (traps s f c x) := by
  rw [fireG_fires h, e]
  rfl

theorem oldest_of_blk (h : f.blk = 0) : f.oldest = true := by rw [Focus.oldest, h]; rfl
end

/-! Control registers (R177 to R179). -/

section
variable {s : State} {f : Focus} {b : Blk} {ops : List Tok} {reg : BitVec 12}

theorem privInfo_eq (op r : Nat) : privInfo op r = BitVec.ofNat 64 (op + 256 * r) := rfl

/-- The context may use the register: it is no privileged one, or the context is privileged. -/
def MayUse (s : State) (c r : Nat) : Prop := r < 0x100 ∨ (s.ctx c).priv = true

theorem privilege_check_iff {c r : Nat} : (ctlPrivileged r && !(s.ctx c).priv) = true ↔ ¬ MayUse s c r := by
  simp [MayUse, ctlPrivileged]

theorem exec_ctlrd_allowed {pr : Pr} {t1 t0 : Target} (h : Fires s f b (.ctlrd pr reg t1 t0) ops)
    (ho : f.blk = 0 ∨ ctlNeedsOldest reg.toNat = false) (hm : MayUse s f.ctx reg.toNat) : exec (.ctlrd pr reg t1 t0) s =
      .next (s.finish f (.ctlrd pr reg t1 t0) (both (s.ctlValue f.ctx f.blk reg.toNat))) := by
  have hturn : ¬ (ctlNeedsOldest reg.toNat && !f.oldest) = true := by
    obtain ho | ho := ho
    · simp [oldest_of_blk ho]
    · simp [ho]
  rw [exec_ctlrd, execCtlrd]
  exact fireG_done h ((if_neg hturn).trans (if_neg fun hx => privilege_check_iff.1 hx hm))

theorem exec_ctlrd_refused {pr : Pr} {t1 t0 : Target} (h : Fires s f b (.ctlrd pr reg t1 t0) ops) (ho : f.blk = 0)
    (hm : ¬ MayUse s f.ctx reg.toNat) :
    exec (.ctlrd pr reg t1 t0) s = .next (traps s f 0x0C (BitVec.ofNat 64 (256 * reg.toNat))) := by
  rw [exec_ctlrd, execCtlrd, ← Nat.zero_add (256 * reg.toNat), ← privInfo_eq]
  exact fireG_trap h ((if_neg (by simp [oldest_of_blk ho])).trans (if_pos (privilege_check_iff.2 hm)))

/-- Each control write fires as the shared one, with its subop. -/
theorem exec_eq_fireCtl {pr : Pr} : ∀ p ∈ [(Instr.ctlwr pr reg, 1), (.ctlset pr reg, 2), (.ctlclr pr reg, 3)],
    exec p.1 s = fireCtl p.1 p.2 reg s := by
  iterate 3 refine List.forall_mem_cons.2 ⟨rfl, ?_⟩
  exact List.forall_mem_nil _

theorem fireCtl_allowed {i : Instr} {op : Nat} (h : Fires s f b i ops) (ho : f.blk = 0) (hm : MayUse s f.ctx reg.toNat) :
    fireCtl i op reg s = .next ((s.eff f (.ctl op reg.toNat (opw ops 0))).finish f i []) :=
  fireG_done h ((if_neg (by simp [oldest_of_blk ho])).trans (if_neg fun hx => privilege_check_iff.1 hx hm))

theorem fireCtl_refused {i : Instr} {op : Nat} (h : Fires s f b i ops) (ho : f.blk = 0) (hm : ¬ MayUse s f.ctx reg.toNat) :
    fireCtl i op reg s = .next (traps s f 0x0C (BitVec.ofNat 64 (op + 256 * reg.toNat))) :=
  fireG_trap h ((if_neg (by simp [oldest_of_blk ho])).trans (if_pos (privilege_check_iff.2 hm)))

theorem ctlValue_tileroot {c k : Nat} (h : s.blk? c k = some b) : s.ctlValue c k 0x111 = b.tileroot := by
  show ((s.blk? c k).map (·.tileroot)).getD 0 = b.tileroot
  rw [h]
  rfl
end

/-! PTOK, HINT, CYCRD and HALTD (R183 to R185, R434). -/

section
variable {s : State} {f : Focus} {b : Blk} {ops : List Tok} {pr : Pr} {t1 t0 : Target}

theorem ptok_check_iff {n bucket held : Nat} : (1 ≤ n && n ≤ 64 && 256 * n ≤ bucket && held + n ≤ 64) = true ↔
    ¬ (n = 0 ∨ 64 < n ∨ bucket < 256 * n ∨ 64 < held + n) := by
  simp only [Bool.and_eq_true, decide_eq_true_eq, not_or, not_lt, Nat.one_le_iff_ne_zero, ne_eq, and_assoc]

/-- PTOK is refused: no tokens or more than 64, more than the bucket holds, or the context would hold more than 64 (R183). -/
def PtokRefused (s : State) (c n : Nat) : Prop :=
  n = 0 ∨ 64 < n ∨ (s.brick (brickOfCtx c)).bucket < 256 * n ∨ 64 < (s.ctx c).held + n

theorem exec_ptok_grants (h : Fires s f b (.ptok pr t1 t0) ops) (hg : ¬ PtokRefused s f.ctx (opw ops 0).toNat) :
    exec (.ptok pr t1 t0) s = .next ((((s.modBrick (brickOfCtx f.ctx) fun x =>
        { x with bucket := x.bucket - 256 * (opw ops 0).toNat }).modCtx f.ctx fun x =>
        { x with held := x.held + (opw ops 0).toNat }).modBlk f.ctx f.blk fun k =>
        { k with grants := kset f.slot (opw ops 0).toNat k.grants }).finish f (.ptok pr t1 t0) (both 1)) := by
  rw [exec_ptok, execPtok]
  exact fireG_done h (if_pos (ptok_check_iff.2 hg))

theorem exec_ptok_refuses (h : Fires s f b (.ptok pr t1 t0) ops) (hg : PtokRefused s f.ctx (opw ops 0).toNat) :
    exec (.ptok pr t1 t0) s = .next (s.finish f (.ptok pr t1 t0) (both 0)) := by
  rw [exec_ptok, execPtok]
  exact fireG_done h (if_neg fun hx => ptok_check_iff.1 hx hg)

theorem sends_hint {k : HintKind} : Sends (.hint pr k) fun _ => [] := by
  intro s f b ops h
  rw [exec_hint, execHint]
  exact fireG_done h rfl

theorem exec_cycrd_fires (h : Fires s f b (.cycrd pr t1 t0) ops) : exec (.cycrd pr t1 t0) s =
    .next (s.finish f (.cycrd pr t1 t0) [.s (BitVec.ofNat 64 (s.cycle (brickOfCtx f.ctx))), .s (BitVec.ofNat 64 s.now)]) := by
  rw [exec_cycrd, execCycrd]
  exact fireG_done h rfl

theorem exec_haltd_debug {code : BitVec 8} {q : Nat} (h : Fires s f b (.haltd pr code) ops)
    (hq : s.partOfBrick (brickOfCtx f.ctx) = some q) (hd : (s.part q).debugOn = true) :
    exec (.haltd pr code) s = .next ((s.eff f (.haltd code.toNat)).finish f (.haltd pr code) []) := by
  rw [exec_haltd, execHaltd]
  exact fireG_done h (if_pos (by rwa [hq]))

theorem exec_haltd_refused {code : BitVec 8} {q : Nat} (h : Fires s f b (.haltd pr code) ops)
    (hq : s.partOfBrick (brickOfCtx f.ctx) = some q) (hd : (s.part q).debugOn = false) :
    exec (.haltd pr code) s = .next (traps s f 0x0C 0x0B) := by
  rw [exec_haltd, execHaltd]
  exact fireG_trap h (if_neg (by simp [hq, hd]))
end

/-- Settles O16: a register by whether the context may use it, PTOK by whether the tokens can be granted, HALTD by the policy. -/
theorem controlRegistersReadWriteAndCheckPrivilege : Obligations.ControlRegistersReadWriteAndCheckPrivilege := by
  refine ⟨fun pr reg t1 t0 s f b ops => ?_, fun pr t1 t0 code s f b ops q => ?_⟩
  · refine ⟨exec_ctlrd_allowed, fun i op hi h ho => ?_, exec_ctlrd_refused, rfl, rfl, rfl, rfl, rfl, rfl, rfl, rfl, rfl,
      ctlValue_tileroot⟩
    rw [exec_eq_fireCtl _ hi]
    exact ⟨fireCtl_allowed h ho, fireCtl_refused h ho⟩
  · refine ⟨fun h h1 h2 h3 h4 => exec_ptok_grants h ?_, exec_ptok_refuses, fun k => sends_hint,
      exec_cycrd_fires, fun h hq => ⟨exec_haltd_debug h hq, exec_haltd_refused h hq⟩⟩
    rintro (hn | hn | hn | hn)
    · exact Nat.ne_of_gt h1 hn
    · exact hn.not_ge h2
    · exact hn.not_ge h3
    · exact hn.not_ge h4

/-! The privileged instructions (R150, R176, R180 to R182, R186). -/

section
variable {s s' : State} {f : Focus} {b : Blk} {i : Instr} {ops toks : List Tok} {act : Focus → List Tok → State → Fire}
  {sub c : Nat} {x : Word}

theorem firePriv_done (h : Fires s f b i ops) (ho : f.blk = 0) (hp : (s.ctx f.ctx).priv = true)
    (e : act f ops s = .done s' toks) : firePriv i sub act s = .next (s'.finish f i toks) :=
  fireG_done h ((if_neg (by simp [oldest_of_blk ho])).trans ((if_neg (by simp [hp])).trans e))

theorem firePriv_trap (h : Fires s f b i ops) (ho : f.blk = 0) (hp : (s.ctx f.ctx).priv = true)
    (e : act f ops s = .trap s c x) : firePriv i sub act s = .next (traps s f c x) :=
  fireG_trap h ((if_neg (by simp [oldest_of_blk ho])).trans ((if_neg (by simp [hp])).trans e))

theorem firePriv_user (h : Fires s f b i ops) (ho : f.blk = 0) (hp : (s.ctx f.ctx).priv = false) :
    firePriv i sub act s = .next (traps s f 0x0C (BitVec.ofNat 64 sub)) :=
  fireG_trap h ((if_neg (by simp [oldest_of_blk ho])).trans (if_pos (by simp [hp])))

/-- Each privileged instruction fires through the check of R150, with its subop. -/
theorem exec_eq_firePriv {pr : Pr} {k : InvKind} {t1 t0 : Target} : ∀ p ∈ [(Instr.eret pr, 0x04), (.ctxsv pr t1 t0, 0x05),
    (.ctxld pr, 0x06), (.ttinv pr k, 0x07), (.leaseAdd pr, 0x08), (.leaseDrop pr, 0x08), (.idle pr, 0x0D)],
    ∃ act, ∀ s, exec p.1 s = firePriv p.1 p.2 act s := by
  iterate 7 refine List.forall_mem_cons.2 ⟨⟨_, fun _ => rfl⟩, ?_⟩
  exact List.forall_mem_nil _
end

section
variable {s : State} {f : Focus} {b : Blk} {ops : List Tok} {pr : Pr}

theorem leaseLenOk_iff {n : Word} : leaseLenOk n = true ↔ n ≠ 0 ∧ n.toNat ≤ 2 ^ 40 := by simp [leaseLenOk]

theorem leaseLenOk_eq_false {n : Word} : leaseLenOk n = false ↔ n = 0 ∨ 2 ^ 40 < n.toNat := by
  rw [← Bool.not_eq_true, leaseLenOk_iff, not_and_or, not_not, not_le]

/-- What LEASE does that a privileged context fires: its length is in range or it raises TRANSLATION (R182). -/
def fireLease (e : Nat → Nat → CEff) (f : Focus) (ops : List Tok) (s : State) : Fire :=
  if leaseLenOk (opw ops 1) then .done (s.eff f (e (opw ops 0).toNat (opw ops 1).toNat)) [] else .trap s 7 (opw ops 0)

theorem exec_leaseAdd_eq : exec (.leaseAdd pr) s = firePriv (.leaseAdd pr) 0x08 (fireLease .leaseAdd) s := rfl
theorem exec_leaseDrop_eq : exec (.leaseDrop pr) s = firePriv (.leaseDrop pr) 0x08 (fireLease .leaseDrop) s := rfl

theorem fireLease_ok {e : Nat → Nat → CEff} (h : opw ops 1 ≠ 0 ∧ (opw ops 1).toNat ≤ 2 ^ 40) :
    fireLease e f ops s = .done (s.eff f (e (opw ops 0).toNat (opw ops 1).toNat)) [] := if_pos (leaseLenOk_iff.2 h)
theorem fireLease_bad {e : Nat → Nat → CEff} (h : opw ops 1 = 0 ∨ 2 ^ 40 < (opw ops 1).toNat) :
    fireLease e f ops s = .trap s 7 (opw ops 0) := if_neg (Bool.eq_false_iff.1 (leaseLenOk_eq_false.2 h))

theorem exec_lease_bad {i : Instr} (hn : opw ops 1 = 0 ∨ 2 ^ 40 < (opw ops 1).toNat)
    (hi : i ∈ [Instr.leaseAdd pr, .leaseDrop pr]) (h : Fires s f b i ops) (ho : f.blk = 0)
    (hp : (s.ctx f.ctx).priv = true) : exec i s = .next (traps s f 7 (opw ops 0)) := by
  have holds {e : Nat → Nat → CEff} : firePriv i 0x08 (fireLease e) s = .next (traps s f 7 (opw ops 0)) :=
    firePriv_trap h ho hp (fireLease_bad hn)
  simp only [List.mem_cons, List.not_mem_nil, or_false] at hi
  obtain rfl | rfl := hi
  · exact exec_leaseAdd_eq.trans holds
  · exact exec_leaseDrop_eq.trans holds

theorem exec_eret_fires (h : Fires s f b (.eret pr) ops) (ho : f.blk = 0) (hp : (s.ctx f.ctx).priv = true) :
    exec (.eret pr) s = .next ((s.eff f .eret).finish f (.eret pr) []) := by
  rw [exec_eret, execEret]
  exact firePriv_done h ho hp rfl

theorem exec_ttinv_fires {k : InvKind} (h : Fires s f b (.ttinv pr k) ops) (ho : f.blk = 0)
    (hp : (s.ctx f.ctx).priv = true) :
    exec (.ttinv pr k) s = .next ((s.eff f (.ttinv k (opw ops 0))).finish f (.ttinv pr k) []) := by
  rw [exec_ttinv, execTtinv]
  exact firePriv_done h ho hp rfl

theorem exec_idle_fires (h : Fires s f b (.idle pr) ops) (ho : f.blk = 0) (hp : (s.ctx f.ctx).priv = true) :
    exec (.idle pr) s = .next ((s.eff f (.idle ((opw ops 0).toNat % 2 ^ 32))).finish f (.idle pr) []) := by
  rw [exec_idle, execIdle, ← wbits_low]
  exact firePriv_done h ho hp rfl

/-- The record that CTXSV holds for commit: the context as it stood at the entry of the block that is oldest (R180). -/
def entryRecord (s : State) (c : Nat) (t : Task) (addr : Nat) : List Byte :=
  let x := s.ctx c
  let fenced := (x.blks.map fun b => (b.members.filter fun m => takesFence m.2).length).sum
  let y := x.atEntry
  s.saveRecord { t.atEntry x.entry with fenceNewest := t.fenceNewest - fenced } y y.regs y.fpmode
    (fullMasks (naccOf x.poolsplit)) true addr

theorem exec_ctxsv_fires {t1 t0 : Target} {t : Task} {blk : Blk} (h : Fires s f b (.ctxsv pr t1 t0) ops) (ho : f.blk = 0)
    (hp : (s.ctx f.ctx).priv = true) (ht : s.taskOf f.ctx = some t) (hb : s.blk? f.ctx 0 = some blk)
    (ha : (opw ops 0).toNat % 64 = 0) (hq : s.pmaBusy (brickOfCtx f.ctx) t.uid = false)
    (hr : s.checkRange t (brickOfCtx f.ctx) (opw ops 0) (fullMasks (naccOf (s.ctx f.ctx).poolsplit)).size 1 .write = none)
    (hacc : s.accBad t.uid (fullMasks (naccOf (s.ctx f.ctx).poolsplit)) = false) :
    exec (.ctxsv pr t1 t0) s =
      .next ((s.eff f (.ctxsv (opw ops 0).toNat (entryRecord s f.ctx t blk.addr))).finish f (.ctxsv pr t1 t0)
        (both (BitVec.ofNat 64 (entryRecord s f.ctx t blk.addr).length))) := by
  rw [← ho] at hb
  rw [exec_ctxsv, execCtxsv]
  refine firePriv_done h ho hp ?_
  simp only [ht, hb, ha, hr, hq, hacc, bne_self_eq_false, Bool.false_eq_true, if_false]
  rfl

theorem exec_ctxld_fires {t : Task} {fixed bytes : List Byte} (h : Fires s f b (.ctxld pr) ops) (ho : f.blk = 0)
    (hp : (s.ctx f.ctx).priv = true) (ht : s.taskOf f.ctx = some t) (ha : (opw ops 0).toNat % 64 = 0)
    (hfixed : s.checkRange t (brickOfCtx f.ctx) (opw ops 0) 512 1 .read = none)
    (hread : s.readFlat t.part (brickOfCtx f.ctx) t.uid (opw ops 0).toNat 512 = some fixed)
    (hn : recordNa fixed ≤ naccOf (s.ctx f.ctx).poolsplit)
    (hall : s.checkRange t (brickOfCtx f.ctx) (opw ops 0) (masksOf fixed).size 1 .read = none)
    (hclean : s.flatPoison t.part (brickOfCtx f.ctx) t.uid (opw ops 0).toNat (masksOf fixed).size = none)
    (hbytes : s.readFlat t.part (brickOfCtx f.ctx) t.uid (opw ops 0).toNat (masksOf fixed).size = some bytes) :
    exec (.ctxld pr) s = .next ((s.eff f (.ctxld bytes)).finish f (.ctxld pr) []) := by
  rw [exec_ctxld, execCtxld]
  refine firePriv_done h ho hp ?_
  simp only [ht, ha, hfixed, hread, not_lt.2 hn, hall, hclean, hbytes, bne_self_eq_false, Bool.false_eq_true, if_false]
end

/-- Settles O17: the check of R150 once for all of them, then each instruction's effect in a privileged context. -/
theorem privilegedInstructionsLeaveTheirEffectForCommit : Obligations.PrivilegedInstructionsLeaveTheirEffectForCommit := by
  refine ⟨fun pr s f b ops => ?_, fun pr k t1 t0 s f b ops i sub hi h ho hp => ?_⟩
  · exact ⟨exec_eret_fires, fun k => exec_ttinv_fires,
      fun hn hle => ⟨fun h ho hp => exec_leaseAdd_eq.trans (firePriv_done h ho hp (fireLease_ok ⟨hn, hle⟩)),
        fun h ho hp => exec_leaseDrop_eq.trans (firePriv_done h ho hp (fireLease_ok ⟨hn, hle⟩))⟩,
      fun hn i hi => exec_lease_bad hn hi, exec_idle_fires,
      fun t1 t0 t blk h ho hp ht hb ha hq hr hacc => exec_ctxsv_fires h ho hp ht hb ha hq hr hacc,
      fun t fixed bytes => exec_ctxld_fires⟩
  · obtain ⟨act, hact⟩ := exec_eq_firePriv _ hi
    exact (hact s).trans (firePriv_user h ho hp)

end Sys2Proof.Proofs
end
